-- ==== Sys2Proof/Word.lean ====
section
/-! DEFINITION. The words and the names of places: bytes and doublewords (R5), the coordinates of clusters, cores and
context slots (R7), and the small closed types that operands of the machine's steps are made of. -/

namespace Sys2Proof

/-- A byte (R5). -/
abbrev Byte := BitVec 8
/-- A doubleword (R5), the width of an a-register and of an address. -/
abbrev DWord := BitVec 64
/-- The bits of a vector register at VLEN 256 (R6). -/
abbrev VBits := BitVec 256
/-- The bits of a predicate, one for each byte of a vector (R82). -/
abbrev PBits := BitVec 32

/-- A cluster: its module, column x and row y (R7). -/
structure ClusterId where
  m : Nat
  x : Nat
  y : Nat
  deriving DecidableEq, Repr

/-- A core: its cluster and its ring index 0 to 7 (R7). -/
structure CoreId where
  cl : ClusterId
  n  : Nat
  deriving DecidableEq, Repr

/-- A context of a core: `who` 0 to 3 are the four context slots (R7, R241), 4 is the handler context (R348). -/
structure CtxId where
  core : CoreId
  who  : Fin 5
  deriving DecidableEq, Repr

/-- The kind of an access, as EINFO.ACC reports it (R347). -/
inductive Access where
  | read | write | readWrite | fetch
  deriving DecidableEq, Repr

/-- A dispatcher of the launch tree (R256): the pod root of a module, a module's, a quadrant's, or a band's. -/
inductive DispNode where
  | root (m : Nat)
  | module (m : Nat)
  | quadrant (m : Nat) (q : Nat)
  | band (m : Nat) (q : Nat) (b : Nat)
  deriving DecidableEq, Repr

/-- The four operating modes of a module (R367). -/
inductive OpMode where
  | normal | startup | test | recovery
  deriving DecidableEq, Repr

/-- A request that reaches an owning core or a station from any agent, with the identity every request carries
(R329): its PID, LAUNCHID, SLOTGEN and privilege; `mask` selects the bits a sub-byte message changes (R175). -/
structure RemoteReq where
  pid  : BitVec 8
  lid  : BitVec 32
  gen  : DWord
  sys  : Bool
  addr : DWord
  acc  : Access
  size : Nat
  data : Nat
  mask : Nat
  deriving DecidableEq, Repr

/-- A stop, a checkpoint or a resume of a gang, with the HBM location that system software names for its save image (R358, R359, R365, R366). -/
structure ImageReq where
  gang  : Nat
  image : Nat
  deriving DecidableEq, Repr

/-- The unit of a hardware event (R346, R373); memory is named by a location, and a slice by the HBM location that its station's walk read. -/
inductive HwUnit where
  | coreSram (loc : Nat)
  | coreState (c : CtxId)
  | clusterSram (loc : Nat)
  | router (cl : ClusterId)
  | levanter (m : Nat) (port : Nat)
  | hbm (loc : Nat)
  | slice (m : Nat) (loc : Nat)
  | monitor (cl : ClusterId)
  deriving DecidableEq, Repr

/-- A management request (R340): its counter, the operator key it names, its signature and its bytes. -/
structure MgmtReq where
  counter : BitVec 64
  key     : BitVec 512
  sig     : BitVec 512
  bytes   : List Byte
  deriving DecidableEq, Repr

/-- A firmware image as its bytes, a header of 128 bytes and the body, and the key under which its signature is to verify (R341). -/
structure FwImage where
  bytes : List Byte
  key   : BitVec 512
  deriving DecidableEq, Repr

/-- A weight-set command (R363): doubleword 0 split into its fields, then P0, P1 and the size. -/
structure WsetCmd where
  pid  : BitVec 8
  set  : BitVec 6
  op   : BitVec 2
  low  : BitVec 48
  p0   : DWord
  p1   : DWord
  size : DWord
  deriving DecidableEq, Repr

/-- A register that a service core or the host writes with no behaviour of its own (R330, R338, R362, R377). -/
inductive SysReg where
  | hwdog (k : CoreId)
  | qdefault (k : CoreId)
  | wdefault (k : CoreId)
  | slotImage (c : CtxId) (n : Nat)
  | pidEntry (m : Nat) (pid : BitVec 8)
  | lattol (m : Nat)
  | pwrbud (m : Nat) (q : BitVec 2)
  | windowBase (m : Nat)
  | windowPid (m : Nat)
  /-- A mailbox word of BAR 0. -/
  | mailbox (m : Nat) (n : Nat)
  /-- Word `w` of an entry of the MSI-X table of BAR 0. -/
  | msix (m : Nat) (vec : BitVec 6) (w : BitVec 2)
  deriving DecidableEq, Repr

end Sys2Proof
end

