-- ==== Sys2Proof/Config.lean ====
section
/-! DEFINITION. What an implementation fixes, and the free values: values that the manual leaves to something outside
what it describes. A free value is an opaque constant, so no proof can see what it is (assumptions 6 to 8). -/

namespace Sys2Proof.Config

/-- VLEN on this part (R6, R19, R85). -/
def vlen : Nat := 256
/-- The reset value of WDEFAULT and HWDOG (R362): 2^26 cycles. -/
def watchdogReset : Nat := 2 ^ 26
/-- The lowest virtual address of the user range (R151). -/
def userBase : Nat := 0x100000000
/-- The first address after the user range (R151). -/
def userEnd : Nat := 2 ^ 52
/-- The NBV set of this part is {1} (R15). -/
def nbvSet : List Nat := [1]

/-- FREE VALUE (assumption 6). The signature the module makes with its identity key over a hash (R342, R343). -/
opaque identitySign : (hash : BitVec 256) → BitVec 512
/-- FREE VALUE (assumption 6). The public half of the identity key (R342). -/
opaque identityKey : BitVec 512
/-- FREE VALUE (assumption 6). The Amikin firmware key whose hash is fused into the module (R341). -/
opaque fusedKeyHash : BitVec 256
/-- FREE VALUE (assumption 6). The operator key enrolled in a module at its manufacture (R340). -/
opaque operatorKey : BitVec 512
/-- FREE VALUE (assumption 6). The letter and the digit of the part's stepping (R15, R342): a capital or a small letter by its number. -/
opaque steppingLetter : Fin 52
opaque steppingDigit : Fin 10
/-- FREE VALUE (assumption 6). Whether the module's fuses select the management network as the source of its firmware, and not fabric
storage (R341). -/
opaque firmwareFromNetwork : Bool
/-- FREE VALUE (assumption 6). The hash of the image that runs in a module that has not been reset since (R342). -/
opaque bootFirmware : BitVec 256
/-- FREE VALUE (assumption 8). The bytes of a save image (R359): their layout is the part's own. -/
opaque imageBytes : Nat → List Byte
/-- FREE VALUE (assumption 8). The 64-byte units of the row of a stack that holds an HBM location (R374): the manual gives no
row size. -/
opaque rowUnits : (m loc : Nat) → List Nat
/-- FREE VALUE (assumption 8). The bytes of an entry of the overflow area beside its data (R360): its layout is the part's own. -/
opaque overflowHead : Nat
/-- FREE VALUE (assumption 7). Element `e` (row-major) that the AV1 bitstream whose bytes are given decodes to for the
32 by 32 tile at column `tx` and row `ty` of plane `plane` of frame `frame` (R181): the manual cites the AV1 standard and does
not restate it. -/
opaque av1Sample : (bits : List Byte) → (frame plane tx ty e : Nat) → Nat
/-- FREE VALUE (assumption 7). The width in luma samples of that bitstream's frame (R181). -/
opaque av1Width : (bits : List Byte) → (frame : Nat) → Nat
/-- FREE VALUE (assumption 7). The height in luma samples of that bitstream's frame (R181). -/
opaque av1Height : (bits : List Byte) → (frame : Nat) → Nat
/-- FREE VALUE (assumption 7). Whether that bitstream's frame can be decoded (R183). -/
opaque av1FrameOk : (bits : List Byte) → (frame : Nat) → Bool
/-- FREE VALUE (assumption 7). Whether that bitstream's frame is a key frame (R183). -/
opaque av1KeyFrame : (bits : List Byte) → (frame : Nat) → Bool
/-- FREE VALUE (assumption 7). Whether that bitstream has 10-bit samples (R181). -/
opaque av1TenBit : (bits : List Byte) → Bool
/-- FREE VALUE (assumption 8). The value with which the `n`-th of the machine's unconstrained choices is filled,
as the bits of a doubleword. -/
opaque freeValue : Nat → BitVec 64

end Sys2Proof.Config
end

