-- ==== Sys2Proof/Syntax.lean ====
section
/-! DEFINITION. The instruction set as data: one constructor per row of the opcode table. The first 225 rows are the
instructions of the two opcode maps (R34, R55 to R59); their fields stand in ascending bit order, the switch-marker
bit first. The remaining rows are the part's other indivisible steps (the steps of engines, walkers, dispatchers,
stations and of the outside world), whose operands say which agent takes the step and, where the outside world
decides something, what it decides. -/

namespace Sys2Proof

/-- One row of the opcode table. -/
inductive Instr where
  /-- R140. Sets rd to the 64-bit wrapping sum of rs1 and rs2. -/
  | add (s : Bool) (rd : BitVec 5) (rs1 : BitVec 5) (rs2 : BitVec 5)
  /-- R140. Sets rd to rs1 minus rs2, wrapping modulo 2^64. -/
  | sub (s : Bool) (rd : BitVec 5) (rs1 : BitVec 5) (rs2 : BitVec 5)
  /-- R140. Sets rd to the bitwise AND of rs1 and rs2. -/
  | and (s : Bool) (rd : BitVec 5) (rs1 : BitVec 5) (rs2 : BitVec 5)
  /-- R140. Sets rd to the bitwise OR of rs1 and rs2. -/
  | or (s : Bool) (rd : BitVec 5) (rs1 : BitVec 5) (rs2 : BitVec 5)
  /-- R140. Sets rd to the bitwise XOR of rs1 and rs2. -/
  | xor (s : Bool) (rd : BitVec 5) (rs1 : BitVec 5) (rs2 : BitVec 5)
  /-- R140. Sets rd to rs1 AND NOT rs2. -/
  | andn (s : Bool) (rd : BitVec 5) (rs1 : BitVec 5) (rs2 : BitVec 5)
  /-- R140. Shifts rs1 left by rs2[5:0]. -/
  | sll (s : Bool) (rd : BitVec 5) (rs1 : BitVec 5) (rs2 : BitVec 5)
  /-- R140. Shifts rs1 right logically by rs2[5:0]. -/
  | srl (s : Bool) (rd : BitVec 5) (rs1 : BitVec 5) (rs2 : BitVec 5)
  /-- R140. Shifts rs1 right arithmetically by rs2[5:0]. -/
  | sra (s : Bool) (rd : BitVec 5) (rs1 : BitVec 5) (rs2 : BitVec 5)
  /-- R140. Sets rd to 1 if rs1 is less than rs2 signed, else 0. -/
  | slt (s : Bool) (rd : BitVec 5) (rs1 : BitVec 5) (rs2 : BitVec 5)
  /-- R140. Sets rd to 1 if rs1 is less than rs2 unsigned, else 0. -/
  | sltu (s : Bool) (rd : BitVec 5) (rs1 : BitVec 5) (rs2 : BitVec 5)
  /-- R140. Sets rd to the signed minimum of rs1 and rs2. -/
  | min (s : Bool) (rd : BitVec 5) (rs1 : BitVec 5) (rs2 : BitVec 5)
  /-- R140. Sets rd to the signed maximum of rs1 and rs2. -/
  | max (s : Bool) (rd : BitVec 5) (rs1 : BitVec 5) (rs2 : BitVec 5)
  /-- R140. Sets rd to the unsigned minimum of rs1 and rs2. -/
  | minu (s : Bool) (rd : BitVec 5) (rs1 : BitVec 5) (rs2 : BitVec 5)
  /-- R140. Sets rd to the unsigned maximum of rs1 and rs2. -/
  | maxu (s : Bool) (rd : BitVec 5) (rs1 : BitVec 5) (rs2 : BitVec 5)
  /-- R140. Sets rd to bits [63:0] of rs1 times rs2. -/
  | mul (s : Bool) (rd : BitVec 5) (rs1 : BitVec 5) (rs2 : BitVec 5)
  /-- R140. Sets rd to bits [127:64] of the signed product. -/
  | mulh (s : Bool) (rd : BitVec 5) (rs1 : BitVec 5) (rs2 : BitVec 5)
  /-- R140. Sets rd to bits [127:64] of the unsigned product. -/
  | mulhu (s : Bool) (rd : BitVec 5) (rs1 : BitVec 5) (rs2 : BitVec 5)
  /-- R141. Long-class signed division truncated towards zero, with fixed results for zero divisors. -/
  | div (s : Bool) (rd : BitVec 5) (rs1 : BitVec 5) (rs2 : BitVec 5)
  /-- R141. Long-class unsigned division, giving all ones for a zero divisor. -/
  | divu (s : Bool) (rd : BitVec 5) (rs1 : BitVec 5) (rs2 : BitVec 5)
  /-- R141. Long-class signed remainder with the sign of the dividend. -/
  | rem (s : Bool) (rd : BitVec 5) (rs1 : BitVec 5) (rs2 : BitVec 5)
  /-- R141. Long-class unsigned remainder. -/
  | remu (s : Bool) (rd : BitVec 5) (rs1 : BitVec 5) (rs2 : BitVec 5)
  /-- R140. Counts leading zeros of rs1, giving 64 for zero. -/
  | clz (s : Bool) (rd : BitVec 5) (rs1 : BitVec 5)
  /-- R140. Counts trailing zeros of rs1, giving 64 for zero. -/
  | ctz (s : Bool) (rd : BitVec 5) (rs1 : BitVec 5)
  /-- R140. Counts the one bits of rs1. -/
  | popc (s : Bool) (rd : BitVec 5) (rs1 : BitVec 5)
  /-- R140. Sets rd to the sign-extended low 32 bits of rs1 plus rs2. -/
  | addw (s : Bool) (rd : BitVec 5) (rs1 : BitVec 5) (rs2 : BitVec 5)
  /-- R140. Sets rd to the sign-extended low 32 bits of rs1 minus rs2. -/
  | subw (s : Bool) (rd : BitVec 5) (rs1 : BitVec 5) (rs2 : BitVec 5)
  /-- R140. Sets rd to the sign-extended low 32 bits of rs1 times rs2. -/
  | mulw (s : Bool) (rd : BitVec 5) (rs1 : BitVec 5) (rs2 : BitVec 5)
  /-- R140. Shifts rs1[31:0] left by rs2[4:0], sign-extending the 32-bit result. -/
  | sllw (s : Bool) (rd : BitVec 5) (rs1 : BitVec 5) (rs2 : BitVec 5)
  /-- R140. Shifts rs1[31:0] right logically by rs2[4:0], sign-extending the result. -/
  | srlw (s : Bool) (rd : BitVec 5) (rs1 : BitVec 5) (rs2 : BitVec 5)
  /-- R140. Shifts rs1[31:0] right arithmetically by rs2[4:0], sign-extending the result. -/
  | sraw (s : Bool) (rd : BitVec 5) (rs1 : BitVec 5) (rs2 : BitVec 5)
  /-- R142. Adds the sign-extended imm12 to rs1. -/
  | addi (s : Bool) (rd : BitVec 5) (rs1 : BitVec 5) (imm : BitVec 12)
  /-- R142. ANDs rs1 with the sign-extended imm12. -/
  | andi (s : Bool) (rd : BitVec 5) (rs1 : BitVec 5) (imm : BitVec 12)
  /-- R142. ORs rs1 with the sign-extended imm12. -/
  | ori (s : Bool) (rd : BitVec 5) (rs1 : BitVec 5) (imm : BitVec 12)
  /-- R142. XORs rs1 with the sign-extended imm12. -/
  | xori (s : Bool) (rd : BitVec 5) (rs1 : BitVec 5) (imm : BitVec 12)
  /-- R142. Sets rd to 1 if rs1 is below the immediate, signed. -/
  | slti (s : Bool) (rd : BitVec 5) (rs1 : BitVec 5) (imm : BitVec 12)
  /-- R142. Sets rd to 1 if rs1 is below the sign-extended immediate, unsigned. -/
  | sltiu (s : Bool) (rd : BitVec 5) (rs1 : BitVec 5) (imm : BitVec 12)
  /-- R142. Shifts rs1 left by imm12[5:0]. -/
  | slli (s : Bool) (rd : BitVec 5) (rs1 : BitVec 5) (imm : BitVec 6)
  /-- R142. Shifts rs1 right logically by imm12[5:0]. -/
  | srli (s : Bool) (rd : BitVec 5) (rs1 : BitVec 5) (imm : BitVec 6)
  /-- R142. Shifts rs1 right arithmetically by imm12[5:0]. -/
  | srai (s : Bool) (rd : BitVec 5) (rs1 : BitVec 5) (imm : BitVec 6)
  /-- R142. Sets rd to the sign-extended low 32 bits of rs1 plus the immediate. -/
  | addiw (s : Bool) (rd : BitVec 5) (rs1 : BitVec 5) (imm : BitVec 12)
  /-- R143. Places imm17 in bits [63:47] of rd and zeroes the rest. -/
  | mkhi (s : Bool) (rd : BitVec 5) (imm : BitVec 17)
  /-- R144. Builds a global local-store address from a core locator, an offset and a region, trapping on a bad locator. -/
  | mkga (s : Bool) (rd : BitVec 5) (rs1 : BitVec 5) (rs2 : BitVec 5) (region : BitVec 7)
  /-- R145. Turns a private-alias address into the global address of the same byte on a ring peer. -/
  | peera (s : Bool) (rd : BitVec 5) (rs1 : BitVec 5) (imm : BitVec 12)
  /-- R146. Branches after its delay slot if rs1 equals rs2. -/
  | beq (s : Bool) (rs1 : BitVec 5) (rs2 : BitVec 5) (off : BitVec 12)
  /-- R146. Branches after its delay slot if rs1 differs from rs2. -/
  | bne (s : Bool) (rs1 : BitVec 5) (rs2 : BitVec 5) (off : BitVec 12)
  /-- R146. Branches after its delay slot if rs1 is less than rs2, signed. -/
  | blt (s : Bool) (rs1 : BitVec 5) (rs2 : BitVec 5) (off : BitVec 12)
  /-- R146. Branches after its delay slot if rs1 is greater than or equal to rs2, signed. -/
  | bge (s : Bool) (rs1 : BitVec 5) (rs2 : BitVec 5) (off : BitVec 12)
  /-- R146. Branches after its delay slot if rs1 is less than rs2, unsigned. -/
  | bltu (s : Bool) (rs1 : BitVec 5) (rs2 : BitVec 5) (off : BitVec 12)
  /-- R146. Branches after its delay slot if rs1 is greater than or equal to rs2, unsigned. -/
  | bgeu (s : Bool) (rs1 : BitVec 5) (rs2 : BitVec 5) (off : BitVec 12)
  /-- R147. Decrements rs1 and branches after its delay slot if the result is nonzero. -/
  | loop (s : Bool) (rs1 : BitVec 5) (off : BitVec 12)
  /-- R148. Jumps PC-relative after its delay slot and writes the link address to rd. -/
  | jal (s : Bool) (rd : BitVec 5) (off : BitVec 17)
  /-- R148. Jumps to rs1 plus the immediate after its delay slot, writing the link address and trapping on an odd target. -/
  | jr (s : Bool) (rd : BitVec 5) (rs1 : BitVec 5) (imm : BitVec 12)
  /-- R284. Does nothing; with S set it acts as a switch marker. -/
  | nop (s : Bool)
  /-- R284. Makes a switch point and resets the slot's watchdog count. -/
  | yield (s : Bool)
  /-- R285. Commits results, drains stores, halts patterns, waits for accepted engine work, fences at module scope and frees the slot. -/
  | retire (s : Bool)
  /-- R85. Sets rd to VLEN in bits. -/
  | vlq (s : Bool) (rd : BitVec 5)
  /-- R149. Long-class load of a byte, sign-extended. -/
  | ldb (s : Bool) (rd : BitVec 5) (rs1 : BitVec 5) (imm : BitVec 12)
  /-- R149. Long-class load of a byte, zero-extended. -/
  | ldbz (s : Bool) (rd : BitVec 5) (rs1 : BitVec 5) (imm : BitVec 12)
  /-- R149. Long-class load of a halfword, sign-extended. -/
  | ldh (s : Bool) (rd : BitVec 5) (rs1 : BitVec 5) (imm : BitVec 12)
  /-- R149. Long-class load of a halfword, zero-extended. -/
  | ldhz (s : Bool) (rd : BitVec 5) (rs1 : BitVec 5) (imm : BitVec 12)
  /-- R149. Long-class load of a word, sign-extended. -/
  | ldw (s : Bool) (rd : BitVec 5) (rs1 : BitVec 5) (imm : BitVec 12)
  /-- R149. Long-class load of a word, zero-extended. -/
  | ldwz (s : Bool) (rd : BitVec 5) (rs1 : BitVec 5) (imm : BitVec 12)
  /-- R149. Long-class load of a doubleword. -/
  | ldd (s : Bool) (rd : BitVec 5) (rs1 : BitVec 5) (imm : BitVec 12)
  /-- R150. Stores the low byte of rs2, completing on confirmation for virtual addresses. -/
  | stb (s : Bool) (rs2 : BitVec 5) (rs1 : BitVec 5) (imm : BitVec 12)
  /-- R150. Stores the low halfword of rs2. -/
  | sth (s : Bool) (rs2 : BitVec 5) (rs1 : BitVec 5) (imm : BitVec 12)
  /-- R150. Stores the low word of rs2. -/
  | stw (s : Bool) (rs2 : BitVec 5) (rs1 : BitVec 5) (imm : BitVec 12)
  /-- R150. Stores the doubleword rs2. -/
  | std (s : Bool) (rs2 : BitVec 5) (rs1 : BitVec 5) (imm : BitVec 12)
  /-- R153. Long-class load through any address form, with refusals deferred. -/
  | rld (s : Bool) (rd : BitVec 5) (rs1 : BitVec 5) (cls : BitVec 3) (zx : Bool) (size : BitVec 2)
  /-- R154. Stores through any address form and waits for the first agent able to refuse it to confirm. -/
  | rst (s : Bool) (rs1 : BitVec 5) (rs2 : BitVec 5) (cls : BitVec 3) (size : BitVec 2)
  /-- R161. Copies a pattern record into pattern register n, applies REL, checks it and sets DEFINED. -/
  | sdef (s : Bool) (n : BitVec 5) (rs1 : BitVec 5) (imm : BitVec 12)
  /-- R163. Binds a queue to a pattern and starts it running. -/
  | sgo (s : Bool) (p : BitVec 2) (q : BitVec 2) (isW : Bool)
  /-- R163. Waits for a pattern's elements in flight, then sets it DEFINED and unbinds its queue. -/
  | shalt (s : Bool) (p : BitVec 2)
  /-- R163. Long-class read of the elements that a pattern still owes. -/
  | sq (s : Bool) (rd : BitVec 5) (p : BitVec 2)
  /-- R165. Pushes a broadcast of rs1 with tag fmt to a q queue. -/
  | qpush (s : Bool) (n : BitVec 5) (rs1 : BitVec 5) (fmt : BitVec 7)
  /-- R166. Pops a w queue entry and sets rd to its lane 0, extended. -/
  | qpop (s : Bool) (rd : BitVec 5) (n : BitVec 5)
  /-- R207. Writes a binding entry that ties an aligned region to a sync word or barrier. -/
  | bind (s : Bool) (n : BitVec 5) (rs1 : BitVec 5) (rs2 : BitVec 5) (lg : BitVec 6) (bar : Bool)
  /-- R207. Clears a binding entry. -/
  | unbind (s : Bool) (n : BitVec 5)
  /-- R208. Reads a sync word at its home until it reaches the target, then acquires its releases' carries. -/
  | acq (s : Bool) (rd : BitVec 5) (rs1 : BitVec 5) (scope : BitVec 3)
  /-- R208. Releases the bound writes within the scope and increments the sync word at its home. -/
  | rel (s : Bool) (rs1 : BitVec 5) (scope : BitVec 3)
  /-- R197. Waits until the task's earlier writes are visible within the scope and its earlier reads are performed. -/
  | fence (s : Bool) (scope : BitVec 3)
  /-- R208. Orders accesses to the task's own scratchpad across the private and global aliases. -/
  | lbfence (s : Bool)
  /-- R209. Atomic add at the home, returning the old value. -/
  | aadd (s : Bool) (rd : BitVec 5) (rs1 : BitVec 5) (rs2 : BitVec 5) (size : BitVec 2) (uns : Bool)
  /-- R209. Atomic minimum at the home, signed or unsigned. -/
  | amin (s : Bool) (rd : BitVec 5) (rs1 : BitVec 5) (rs2 : BitVec 5) (size : BitVec 2) (uns : Bool)
  /-- R209. Atomic maximum at the home, signed or unsigned. -/
  | amax (s : Bool) (rd : BitVec 5) (rs1 : BitVec 5) (rs2 : BitVec 5) (size : BitVec 2) (uns : Bool)
  /-- R209. Atomic AND at the home. -/
  | aand (s : Bool) (rd : BitVec 5) (rs1 : BitVec 5) (rs2 : BitVec 5) (size : BitVec 2) (uns : Bool)
  /-- R209. Atomic OR at the home. -/
  | aor (s : Bool) (rd : BitVec 5) (rs1 : BitVec 5) (rs2 : BitVec 5) (size : BitVec 2) (uns : Bool)
  /-- R209. Atomic XOR at the home. -/
  | axor (s : Bool) (rd : BitVec 5) (rs1 : BitVec 5) (rs2 : BitVec 5) (size : BitVec 2) (uns : Bool)
  /-- R209. Atomic exchange at the home. -/
  | axchg (s : Bool) (rd : BitVec 5) (rs1 : BitVec 5) (rs2 : BitVec 5) (size : BitVec 2) (uns : Bool)
  /-- R209. Atomic compare-and-swap at the home against the value of rd. -/
  | acas (s : Bool) (rd : BitVec 5) (rs1 : BitVec 5) (rs2 : BitVec 5) (size : BitVec 2) (uns : Bool)
  /-- R210. Reads a counter until it meets the target, or once with NOWAIT, and acquires on success. -/
  | cwait (s : Bool) (rd : BitVec 5) (rs1 : BitVec 5) (rs2 : BitVec 5) (nowait : Bool)
  /-- R210. Releases at the given scope by adding an increment to a counter. -/
  | cadd (s : Bool) (rs1 : BitVec 5) (rs2 : BitVec 5) (scope : BitVec 3)
  /-- R212. Sets a barrier's expect count, completing the episode if the count already meets it. -/
  | bari (s : Bool) (rs1 : BitVec 5) (n : BitVec 6)
  /-- R212. Arrives at a barrier as a release, optionally poisoned, and returns the episode. -/
  | bara (s : Bool) (rd : BitVec 5) (n : BitVec 6) (pz : Bool)
  /-- R212. Waits until the slot's barrier record is done, then returns the status and acquires. -/
  | barw (s : Bool) (rd : BitVec 5) (n : BitVec 6)
  /-- R212. Arrives at a barrier and waits for its episode to complete. -/
  | baraw (s : Bool) (rd : BitVec 5) (n : BitVec 6) (pz : Bool)
  /-- R212. Returns a barrier's episode count and arrival count without acquiring. -/
  | barq (s : Bool) (rd : BitVec 5) (n : BitVec 6)
  /-- R213. Binds a tile handle to 32-byte-aligned storage in the gang's slot regions as EMPTY with tag NONE. -/
  | talloc (s : Bool) (n : BitVec 5) (rs1 : BitVec 5) (imm : BitVec 12)
  /-- R214. Waits until no accepted job names the tile, then frees the handle. -/
  | tfree (s : Bool) (h : BitVec 5)
  /-- R214. Long-class sample of a tile-table entry. -/
  | tstat (s : Bool) (rd : BitVec 5) (h : BitVec 5)
  /-- R214. Waits until a tile is READY, acquiring its contents. -/
  | twait (s : Bool) (h : BitVec 5)
  /-- R214. Waits for the tile's jobs, then sets its tag and its state to EMPTY or READY and clears CORRUPT. -/
  | tset (s : Bool) (h : BitVec 5) (ready : Bool) (tag : BitVec 4)
  /-- R215. Advances the core's copy-stage counter, which may let schedule entries fire. -/
  | cpstage (s : Bool) (n : BitVec 8)
  /-- R215. Long-class read of a copy entry's status from this cluster's walker. -/
  | cpq (s : Bool) (rd : BitVec 5) (rs1 : BitVec 5)
  /-- R215. Withdraws this cluster's unpassed copy entries from an index onward, each ending CANCELLED. -/
  | cpcancel (s : Bool) (rs1 : BitVec 5)
  /-- R134. Checks and accepts a matrix job card, records its footprint and returns the job id. -/
  | mxsub (s : Bool) (rd : BitVec 5) (rs1 : BitVec 5) (imm : BitVec 12)
  /-- R135. Long-class sample of a job's status word, freeing a DONE or FAULT entry. -/
  | mxpoll (s : Bool) (rd : BitVec 5) (rs1 : BitVec 5)
  /-- R136. Waits until a job is DONE, trapping with MX_JOB_FAULT if it faulted. -/
  | mxwait (s : Bool) (rs1 : BitVec 5)
  /-- R219. Accepts a put descriptor whose transfer the tile walker then carries out. -/
  | puts (s : Bool) (rs1 : BitVec 5) (cls : BitVec 3)
  /-- R219. Accepts a get descriptor whose transfer the tile walker then carries out. -/
  | get (s : Bool) (rs1 : BitVec 5) (cls : BitVec 3)
  /-- R219. Accepts a remote-add descriptor whose messages the tile walker then sends. -/
  | radd (s : Bool) (rs1 : BitVec 5) (cls : BitVec 3)
  /-- R220. Waits until an event-record counter reaches the target, then acquires. -/
  | evwait (s : Bool) (rd : BitVec 5) (rs1 : BitVec 5) (n : BitVec 2)
  /-- R223. Checks a Kettle command card, assigns a command id and sends its parts. -/
  | kcmd (s : Bool) (rd : BitVec 5) (rs1 : BitVec 5) (imm : BitVec 12)
  /-- R201. Waits until every earlier Kettle command of the issuer has completed and its writes are visible. -/
  | kfence (s : Bool)
  /-- R224. Long-class sample of a Kettle command's status, freeing its entry. -/
  | kpoll (s : Bool) (rd : BitVec 5) (rs1 : BitVec 5)
  /-- R226. Fences at module scope and exchanges a weight set's sealed and shadow copies if the expected count matches. -/
  | wseal (s : Bool) (rd : BitVec 5) (rs1 : BitVec 5) (n : BitVec 6)
  /-- R226. Long-class read of a weight set's seal count, acquiring the sealed copy. -/
  | wq (s : Bool) (rd : BitVec 5) (n : BitVec 6)
  /-- R287. Fences at cluster scope and enqueues a certain segment with captured a2 to a5. -/
  | spawn (s : Bool) (rd : BitVec 5) (off : BitVec 17)
  /-- R288. Enqueues a segment that is speculative on one side of a condition word. -/
  | spawnc (s : Bool) (rs1 : BitVec 5) (side : Bool) (p8 : BitVec 8) (off : BitVec 8)
  /-- R289. Claims and resolves a condition, writes its word and sends the outcome to the gang's clusters, or frees the entry with OPEN. -/
  | cres (s : Bool) (rs1 : BitVec 5) (rs2 : BitVec 5) (opn : Bool)
  /-- R293. Offers the gang's predicate to a pod-wide collective branch and runs ahead on the predicted side. -/
  | cbr (s : Bool) (rs1 : BitVec 5) (op : BitVec 2) (pred : Bool) (off : BitVec 12)
  /-- R292. Offers a value to a gang vote and receives the reduction once every live entry task has offered. -/
  | cvote (s : Bool) (rd : BitVec 5) (rs1 : BitVec 5) (op : BitVec 2)
  /-- R252. Commits results, drains stores, enters the gang barrier and sends marker tokens. -/
  | ssend (s : Bool)
  /-- R296. Waits until the task's sends and receives have completed or found no partner, and returns the exchange status. -/
  | xend (s : Bool) (rd : BitVec 5)
  /-- R295. Sends a span through a time-division slot to a neighbour in the exchange phase. -/
  | xmit (s : Bool) (len : BitVec 2) (dir : BitVec 3) (rs1 : BitVec 5) (off : BitVec 6) (slot : BitVec 6)
  /-- R295. Selects an input slot whose data is written into a span in the exchange phase. -/
  | xsel (s : Bool) (len : BitVec 2) (dir : BitVec 3) (rs1 : BitVec 5) (off : BitVec 6) (slot : BitVec 6)
  /-- R298. Copies and checks a launch record, fences at pod scope and passes the record to the root dispatcher or returns a refusal status. -/
  | launch (s : Bool) (rd : BitVec 5) (rs1 : BitVec 5) (imm : BitVec 12)
  /-- R299. Sends a FINISH or KILL cancel to the launch's origin. -/
  | lcancel (s : Bool) (rs1 : BitVec 5) (kill : Bool)
  /-- R299. Waits for a launch's completion and returns summary doubleword 0. -/
  | lwait (s : Bool) (rd : BitVec 5) (rs1 : BitVec 5)
  /-- R301. Opens or joins the gang's cycle sequence with a tolerance, a cycle limit and a weight set. -/
  | cycb (s : Bool) (rs1 : BitVec 5) (set : BitVec 6) (rel : Bool)
  /-- R301. Raises the gang's pending residual to at least the given value. -/
  | cycres (s : Bool) (rs1 : BitVec 5)
  /-- R301. Ends the task's part of the cycle sequence, closing it when every live entry task has ended. -/
  | cyce (s : Bool)
  /-- R302. Collective cycle test that offers the residual and branches when converged or out of cycles. -/
  | cyct (s : Bool) (pred : Bool) (off : BitVec 12)
  /-- R355. Reads a system register as a switch marker. -/
  | sysrd (s : Bool) (rd : BitVec 5) (sel : BitVec 12)
  /-- R355. Writes a system register as a switch marker, subject to the privilege rules. -/
  | syswr (s : Bool) (rs1 : BitVec 5) (sel : BitVec 12)
  /-- R356. Raises the given cause precisely, with SW set. -/
  | trap (s : Bool) (rs1 : BitVec 5) (code : BitVec 12)
  /-- R352. Ends the handler run for HSLOT with RESUME, END or FORWARD. -/
  | eret (s : Bool) (mode : BitVec 2)
  /-- R357. Traps with BREAKPOINT, with the operand in EADDR. -/
  | brk (s : Bool) (n : BitVec 8)
  /-- R357. Returns the watchdog time remaining and may tighten the limit. -/
  | wdog (s : Bool) (rd : BitVec 5) (rs1 : BitVec 5)
  /-- R357. Sets the energy class that the task's later spawns take. -/
  | pwrhint (s : Bool) (c : BitVec 8)
  /-- R92. Moves a vector between the v-, o- and l-files, the queues and broadcast registers, under a predicate. -/
  | vmov (s : Bool) (d : BitVec 6) (a : BitVec 6) (k : BitVec 3) (z : Bool)
  /-- R86. Lane-wise add under the operands' type. -/
  | vadd (s : Bool) (d : BitVec 6) (a : BitVec 6) (b : BitVec 6) (k : BitVec 3) (z : Bool)
  /-- R86. Lane-wise subtract. -/
  | vsub (s : Bool) (d : BitVec 6) (a : BitVec 6) (b : BitVec 6) (k : BitVec 3) (z : Bool)
  /-- R86. Lane-wise multiply. -/
  | vmul (s : Bool) (d : BitVec 6) (a : BitVec 6) (b : BitVec 6) (k : BitVec 3) (z : Bool)
  /-- R86. Fused lane-wise d plus a times b with one rounding. -/
  | vfma (s : Bool) (d : BitVec 6) (a : BitVec 6) (b : BitVec 6) (k : BitVec 3) (z : Bool)
  /-- R86. Fused lane-wise d minus a times b with one rounding. -/
  | vfms (s : Bool) (d : BitVec 6) (a : BitVec 6) (b : BitVec 6) (k : BitVec 3) (z : Bool)
  /-- R86. Lane-wise maximum. -/
  | vmax (s : Bool) (d : BitVec 6) (a : BitVec 6) (b : BitVec 6) (k : BitVec 3) (z : Bool)
  /-- R86. Lane-wise minimum. -/
  | vmin (s : Bool) (d : BitVec 6) (a : BitVec 6) (b : BitVec 6) (k : BitVec 3) (z : Bool)
  /-- R86. Lane-wise bitwise AND. -/
  | vand (s : Bool) (d : BitVec 6) (a : BitVec 6) (b : BitVec 6) (k : BitVec 3) (z : Bool)
  /-- R86. Lane-wise bitwise OR. -/
  | vor (s : Bool) (d : BitVec 6) (a : BitVec 6) (b : BitVec 6) (k : BitVec 3) (z : Bool)
  /-- R86. Lane-wise bitwise XOR. -/
  | vxor (s : Bool) (d : BitVec 6) (a : BitVec 6) (b : BitVec 6) (k : BitVec 3) (z : Bool)
  /-- R86. Lane-wise a AND NOT b. -/
  | vandn (s : Bool) (d : BitVec 6) (a : BitVec 6) (b : BitVec 6) (k : BitVec 3) (z : Bool)
  /-- R89. Shifts each integer lane left by lane 0 of b. -/
  | vsll (s : Bool) (d : BitVec 6) (a : BitVec 6) (b : BitVec 6) (k : BitVec 3) (z : Bool)
  /-- R89. Shifts each integer lane right logically by lane 0 of b. -/
  | vsrl (s : Bool) (d : BitVec 6) (a : BitVec 6) (b : BitVec 6) (k : BitVec 3) (z : Bool)
  /-- R89. Shifts each integer lane right arithmetically by lane 0 of b. -/
  | vsra (s : Bool) (d : BitVec 6) (a : BitVec 6) (b : BitVec 6) (k : BitVec 3) (z : Bool)
  /-- R86. Lane-wise absolute value. -/
  | vabs (s : Bool) (d : BitVec 6) (a : BitVec 6) (k : BitVec 3) (z : Bool)
  /-- R86. Lane-wise negation. -/
  | vneg (s : Bool) (d : BitVec 6) (a : BitVec 6) (k : BitVec 3) (z : Bool)
  /-- R88. Lane-wise high half of the integer product. -/
  | vmulh (s : Bool) (d : BitVec 6) (a : BitVec 6) (b : BitVec 6) (k : BitVec 3) (z : Bool)
  /-- R93. Writes a predicate of lane-wise equality. -/
  | vcmpeq (s : Bool) (d : BitVec 6) (a : BitVec 6) (b : BitVec 6) (k : BitVec 3) (z : Bool)
  /-- R93. Writes a predicate of lane-wise inequality. -/
  | vcmpne (s : Bool) (d : BitVec 6) (a : BitVec 6) (b : BitVec 6) (k : BitVec 3) (z : Bool)
  /-- R93. Writes a predicate of lane-wise less-than. -/
  | vcmplt (s : Bool) (d : BitVec 6) (a : BitVec 6) (b : BitVec 6) (k : BitVec 3) (z : Bool)
  /-- R93. Writes a predicate of lane-wise less-or-equal. -/
  | vcmple (s : Bool) (d : BitVec 6) (a : BitVec 6) (b : BitVec 6) (k : BitVec 3) (z : Bool)
  /-- R94. Bitwise AND of two predicates. -/
  | kand (s : Bool) (d : BitVec 6) (a : BitVec 6) (b : BitVec 6) (k : BitVec 3) (z : Bool)
  /-- R94. Bitwise OR of two predicates. -/
  | kor (s : Bool) (d : BitVec 6) (a : BitVec 6) (b : BitVec 6) (k : BitVec 3) (z : Bool)
  /-- R94. Bitwise XOR of two predicates. -/
  | kxor (s : Bool) (d : BitVec 6) (a : BitVec 6) (b : BitVec 6) (k : BitVec 3) (z : Bool)
  /-- R94. Bitwise AND NOT of two predicates. -/
  | kandn (s : Bool) (d : BitVec 6) (a : BitVec 6) (b : BitVec 6) (k : BitVec 3) (z : Bool)
  /-- R95. Sets a predicate lane active while I plus the lane index is below N. -/
  | vwhile (s : Bool) (d : BitVec 6) (a : BitVec 6) (b : BitVec 6) (esize : BitVec 3)
  /-- R90. Adds a signed 8-bit immediate to each integer lane. -/
  | vaddi (s : Bool) (d : BitVec 6) (a : BitVec 6) (imm : BitVec 8) (k : BitVec 2)
  /-- R90. Writes an immediate converted to the destination's type into each lane. -/
  | vmovi (s : Bool) (d : BitVec 6) (imm : BitVec 8) (k : BitVec 2)
  /-- R90. Shifts each integer lane left by an immediate. -/
  | vslli (s : Bool) (d : BitVec 6) (a : BitVec 6) (imm : BitVec 8) (k : BitVec 2)
  /-- R90. Shifts each integer lane right logically by an immediate. -/
  | vsrli (s : Bool) (d : BitVec 6) (a : BitVec 6) (imm : BitVec 8) (k : BitVec 2)
  /-- R90. Shifts each integer lane right arithmetically by an immediate. -/
  | vsrai (s : Bool) (d : BitVec 6) (a : BitVec 6) (imm : BitVec 8) (k : BitVec 2)
  /-- R112. Long-class reciprocal estimate. -/
  | vrcpe (s : Bool) (d : BitVec 6) (a : BitVec 6) (k : BitVec 3) (z : Bool)
  /-- R113. Long-class reciprocal square-root estimate. -/
  | vrsqe (s : Bool) (d : BitVec 6) (a : BitVec 6) (k : BitVec 3) (z : Bool)
  /-- R110. Long-class correctly rounded sine. -/
  | vsin (s : Bool) (d : BitVec 6) (a : BitVec 6) (k : BitVec 3) (z : Bool)
  /-- R110. Long-class correctly rounded cosine. -/
  | vcos (s : Bool) (d : BitVec 6) (a : BitVec 6) (k : BitVec 3) (z : Bool)
  /-- R110. Long-class correctly rounded power of two. -/
  | vexp2 (s : Bool) (d : BitVec 6) (a : BitVec 6) (k : BitVec 3) (z : Bool)
  /-- R110. Long-class correctly rounded base-two logarithm. -/
  | vlog2 (s : Bool) (d : BitVec 6) (a : BitVec 6) (k : BitVec 3) (z : Bool)
  /-- R110. Long-class correctly rounded square root. -/
  | vsqrt (s : Bool) (d : BitVec 6) (a : BitVec 6) (k : BitVec 3) (z : Bool)
  /-- R115. Long-class reciprocal refinement step, 2 minus a times b. -/
  | vrcps (s : Bool) (d : BitVec 6) (a : BitVec 6) (b : BitVec 6) (k : BitVec 3) (z : Bool)
  /-- R115. Long-class reciprocal square-root refinement step, (3 minus a times b) over 2. -/
  | vrsqs (s : Bool) (d : BitVec 6) (a : BitVec 6) (b : BitVec 6) (k : BitVec 3) (z : Bool)
  /-- R115. Long-class IEEE division. -/
  | vdiv (s : Bool) (d : BitVec 6) (a : BitVec 6) (b : BitVec 6) (k : BitVec 3) (z : Bool)
  /-- R116. Converts each lane to the target format with one rounding and saturation. -/
  | vcvt (s : Bool) (d : BitVec 6) (a : BitVec 6) (fmt : BitVec 6) (k : BitVec 3) (z : Bool)
  /-- R117. Copies a register's bits unchanged under a new tag. -/
  | vtag (s : Bool) (d : BitVec 6) (a : BitVec 6) (fmt : BitVec 6)
  /-- R118. Requantises INT32 lanes to INT8 or INT4 with a multiplier, a shift and a zero point. -/
  | vrq (s : Bool) (d : BitVec 6) (a : BitVec 6) (tgt : BitVec 3) (m : BitVec 3) (k : BitVec 3) (z : Bool)
  /-- R96. Permutes the lanes of a by the indices in b. -/
  | vperm (s : Bool) (d : BitVec 6) (a : BitVec 6) (b : BitVec 6) (k : BitVec 3) (z : Bool)
  /-- R97. Broadcasts one lane of a to every lane. -/
  | vbcast (s : Bool) (d : BitVec 6) (a : BitVec 6) (lane : BitVec 6) (k : BitVec 3) (z : Bool)
  /-- R98. Slides lanes by a signed count, filling with zero. -/
  | vslide (s : Bool) (d : BitVec 6) (a : BitVec 6) (imm : BitVec 8) (k : BitVec 2)
  /-- R97. Extracts one lane of a into lane 0 and zeroes the others. -/
  | vext (s : Bool) (d : BitVec 6) (a : BitVec 6) (lane : BitVec 6) (k : BitVec 3) (z : Bool)
  /-- R97. Inserts lane 0 of a into one lane of d. -/
  | vins (s : Bool) (d : BitVec 6) (a : BitVec 6) (lane : BitVec 6) (k : BitVec 3) (z : Bool)
  /-- R99. Produces one part of the interleave of two registers. -/
  | vzip2 (s : Bool) (d : BitVec 6) (a : BitVec 6) (lane : BitVec 6) (k : BitVec 3) (z : Bool)
  /-- R99. Produces one part of the interleave of three registers. -/
  | vzip3 (s : Bool) (d : BitVec 6) (a : BitVec 6) (lane : BitVec 6) (k : BitVec 3) (z : Bool)
  /-- R99. Produces one part of the interleave of four registers. -/
  | vzip4 (s : Bool) (d : BitVec 6) (a : BitVec 6) (lane : BitVec 6) (k : BitVec 3) (z : Bool)
  /-- R99. Produces one part of the de-interleave of two registers. -/
  | vunzip2 (s : Bool) (d : BitVec 6) (a : BitVec 6) (lane : BitVec 6) (k : BitVec 3) (z : Bool)
  /-- R99. Produces one part of the de-interleave of three registers. -/
  | vunzip3 (s : Bool) (d : BitVec 6) (a : BitVec 6) (lane : BitVec 6) (k : BitVec 3) (z : Bool)
  /-- R99. Produces one part of the de-interleave of four registers. -/
  | vunzip4 (s : Bool) (d : BitVec 6) (a : BitVec 6) (lane : BitVec 6) (k : BitVec 3) (z : Bool)
  /-- R100. Ordered sum of the active lanes into lane 0. -/
  | vrsum (s : Bool) (d : BitVec 6) (a : BitVec 6) (k : BitVec 3)
  /-- R100. Ordered maximum of the active lanes into lane 0. -/
  | vrmax (s : Bool) (d : BitVec 6) (a : BitVec 6) (k : BitVec 3)
  /-- R100. Ordered minimum of the active lanes into lane 0. -/
  | vrmin (s : Bool) (d : BitVec 6) (a : BitVec 6) (k : BitVec 3)
  /-- R100. AND reduction of the active lanes into lane 0. -/
  | vrand (s : Bool) (d : BitVec 6) (a : BitVec 6) (k : BitVec 3)
  /-- R100. OR reduction of the active lanes into lane 0. -/
  | vror (s : Bool) (d : BitVec 6) (a : BitVec 6) (k : BitVec 3)
  /-- R100. XOR reduction of the active lanes into lane 0. -/
  | vrxor (s : Bool) (d : BitVec 6) (a : BitVec 6) (k : BitVec 3)
  /-- R102. Long-class vector load of active lanes with tag fmt. -/
  | vld (s : Bool) (d : BitVec 6) (b : BitVec 5) (fmt : BitVec 4) (off : BitVec 5) (k : BitVec 2)
  /-- R102. Vector store of active lanes, completing on confirmation outside the private alias. -/
  | vst (s : Bool) (d : BitVec 6) (b : BitVec 5) (fmt : BitVec 4) (off : BitVec 5) (k : BitVec 2)
  /-- R104. Long-class indexed vector load. -/
  | vgather (s : Bool) (d : BitVec 6) (b : BitVec 5) (fmt : BitVec 4) (vx : BitVec 5) (k : BitVec 2)
  /-- R104. Indexed vector store in ascending lane order. -/
  | vscatter (s : Bool) (d : BitVec 6) (b : BitVec 5) (fmt : BitVec 4) (vx : BitVec 5) (k : BitVec 2)
  /-- R108. Reads the committed FLAGS into lane 0 as INT64. -/
  | vflrd (s : Bool) (d : BitVec 6)
  /-- R108. Clears the committed FLAGS bits named by a broadcast register. -/
  | vflclr (s : Bool) (a : BitVec 6)
  /-- R91. 16-bit form: vd := vs on all lanes. -/
  | vmov16 (s : Bool) (d : BitVec 5) (vs : BitVec 5)
  /-- R91. 16-bit form: vd := vd + vs. -/
  | vadd16 (s : Bool) (d : BitVec 5) (vs : BitVec 5)
  /-- R91. 16-bit form: vd := vd − vs. -/
  | vsub16 (s : Bool) (d : BitVec 5) (vs : BitVec 5)
  /-- R91. 16-bit form: vd := vd · vs. -/
  | vmul16 (s : Bool) (d : BitVec 5) (vs : BitVec 5)
  /-- R91. 16-bit fused vd := vd + vs · l0 with one rounding. -/
  | vfmal (s : Bool) (d : BitVec 5) (vs : BitVec 5)
  /-- R91. 16-bit form: vd := max(vd, vs). -/
  | vmax16 (s : Bool) (d : BitVec 5) (vs : BitVec 5)
  /-- R91. 16-bit form: vd := min(vd, vs). -/
  | vmin16 (s : Bool) (d : BitVec 5) (vs : BitVec 5)
  /-- R91. 16-bit form: vd := vd AND vs. -/
  | vand16 (s : Bool) (d : BitVec 5) (vs : BitVec 5)
  /-- R91. 16-bit form: vd := vd OR vs. -/
  | vor16 (s : Bool) (d : BitVec 5) (vs : BitVec 5)
  /-- R91. 16-bit form: vd := vd XOR vs. -/
  | vxor16 (s : Bool) (d : BitVec 5) (vs : BitVec 5)
  /-- R91. 16-bit form: vd := −vs. -/
  | vneg16 (s : Bool) (d : BitVec 5) (vs : BitVec 5)
  /-- R91. 16-bit form: vd := |vs|. -/
  | vabs16 (s : Bool) (d : BitVec 5) (vs : BitVec 5)
  /-- R91. 16-bit form: vd shifted left by lane 0 of vs. -/
  | vsll16 (s : Bool) (d : BitVec 5) (vs : BitVec 5)
  /-- R91. 16-bit form: vd shifted right logically by lane 0 of vs. -/
  | vsrl16 (s : Bool) (d : BitVec 5) (vs : BitVec 5)
  /-- R91. Long-class pop of a q queue entry into vd. -/
  | vqpop (s : Bool) (d : BitVec 5) (n : BitVec 5)
  /-- R91. Pushes vd with its tag to a w queue. -/
  | vqpush (s : Bool) (d : BitVec 5) (n : BitVec 5)
  /-- R35. Acts only as a switch marker, committing every outstanding long-class result. -/
  | waitall
  /-- R47. A long-class result, with its tag, flags or fault, arrives in its return-buffer entry to await commit. -/
  | longResultReturn (c : CtxId) (n : Nat)
  /-- R106. The first agent able to refuse a store confirms or refuses it, completing it or trapping precisely. -/
  | storeConfirmation (c : CtxId)
  /-- R243. A waiting slot's wait is met, its watchdog count is reset and it becomes ready. -/
  | waitSatisfied (c : CtxId)
  /-- R348. An idle handler context takes the head of the trap queue as HSLOT and starts at TVEC. -/
  | handlerDispatch (k : CoreId)
  /-- R351. The handler context's watchdog reaches HWDOG and makes a double trap. -/
  | handlerWatchdogExpiry (k : CoreId)
  /-- R245. A slot's watchdog count reaches its limit and the slot traps at its next instruction. -/
  | watchdog (c : CtxId)
  /-- R246. QUANTUM reaches 0 and the slot traps at the next boundary that keeps a branch with its delay slot. -/
  | quantumEnd (c : CtxId)
  /-- R346. An uncorrectable error in slot state traps the slot at its next boundary. -/
  | contextLost (c : CtxId)
  /-- R358. System software asks for a gang or a RESIDENT launch to be stopped, drained and saved, and names the HBM for the image (R359). -/
  | gangStop (r : ImageReq)
  /-- R365. A gang-stop requested AT_CUT begins at the gang's next cut, before the exchange phase. -/
  | checkpoint (r : ImageReq)
  /-- R358. Once engines and messages have drained, the state is saved, EXCH entries are freed and the stop completes. -/
  | gangStopComplete (g : Nat)
  /-- R359. When its cores and slots are free, a gang resumes from an image with every member, overflowed messages first. -/
  | gangResume (r : ImageReq)
  /-- R361. A core reissues an access that a switched-out gang refused with RETRY. -/
  | remoteReissue (c : CtxId)
  /-- R131. The engine scheduler starts a matrix job once every job it has an edge to has ended. -/
  | mxJobStart (cl : ClusterId) (j : Nat)
  /-- R132. A job writes C, makes it READY, increments its counter, becomes DONE and arrives at its barrier, or ends in FAULT. -/
  | mxJobComplete (cl : ClusterId) (j : Nat)
  /-- R180. The walker passes a schedule entry to the engine scheduler once the cluster stage reaches its stage. -/
  | copyEntryPass (cl : ClusterId) (g : Nat) (n : Nat)
  /-- R179. A COPY entry with OUT clear reads an array window into a tile. -/
  | copyIn (cl : ClusterId) (j : Nat)
  /-- R179. A COPY entry with OUT set writes a draining tile to an array window. -/
  | copyOut (cl : ClusterId) (j : Nat)
  /-- R180. An entry reads memory once and writes the tile into every cluster of its rectangle. -/
  | multicast (cl : ClusterId) (j : Nat)
  /-- R181. An entry hands an AV1 job card to the first free decoder of the quadrant. -/
  | decode (cl : ClusterId) (j : Nat)
  /-- R179. An entry loads a record into the cluster's weight buffer. -/
  | wbload (cl : ClusterId) (j : Nat)
  /-- R180. An entry ends with its destination READY, its counter incremented and its barrier arrival, or in FAULT with poison. -/
  | copyEntryComplete (cl : ClusterId) (j : Nat)
  /-- R182. Once every destination tile is EMPTY, a decoder writes a frame's tiles to READY and arrives at the barrier. -/
  | decoderFrame (m : Nat) (dec : Nat)
  /-- R222. A Kettle part opens a receive area that completes after s1 contributions. -/
  | rradd (m kt : Nat) (cmd : Nat)
  /-- R222. A Kettle part computes dst := s1·src + dst with one rounding. -/
  | axpy (m kt : Nat) (cmd : Nat)
  /-- R222. A Kettle part applies the weight-fade update dst := dst·(1 − s1·s2) − s1·src. -/
  | fade (m kt : Nat) (cmd : Nat)
  /-- R222. A Kettle part copies src to dst, clearing poison marks on whole units. -/
  | kettleCopy (m kt : Nat) (cmd : Nat)
  /-- R222. A Kettle part fills dst with a scalar. -/
  | kettleFill (m kt : Nat) (cmd : Nat)
  /-- R222. A Kettle part computes dst := s1·dst. -/
  | scale (m kt : Nat) (cmd : Nat)
  /-- R224. A Kettle part ends, and when it is the last the command's state and status counter are set. -/
  | kettlePartEnd (m kt : Nat) (cmd : Nat)
  /-- R222. An AREA RADD arrives at a Kettle and is added, or waits in the arrival area for its area or rank. -/
  | receiveAreaContribution (m kt : Nat) (msg : Nat)
  /-- R203. An owner applies a RADD, atomic or Kettle message exactly once by its source and sequence, then acknowledges. -/
  | remoteAddMessage (msg : Nat)
  /-- R219. The walker reads the local span and sends PUTS data messages. -/
  | putsTransfer (cl : ClusterId) (j : Nat)
  /-- R219. The walker fetches the remote span into the local destination. -/
  | getTransfer (cl : ClusterId) (j : Nat)
  /-- R219. The walker reads the local elements and sends RADD messages. -/
  | raddTransfer (cl : ClusterId) (j : Nat)
  /-- R202. PUTS data is performed at the target, and the signal counter is incremented once every byte is in. -/
  | putsMessage (msg : Nat)
  /-- R219. The walker resends a message refused with RETRY, giving up after 1,024 refusals. -/
  | oneSidedRetry (msg : Nat)
  /-- R218. A one-sided operation ORs its status into the event record and increments counter 2. -/
  | oneSidedComplete (cl : ClusterId) (j : Nat)
  /-- R153. An owning core checks and performs, or refuses, a global local-store access. -/
  | remoteAccessArrival (r : RemoteReq)
  /-- R175. An owner applies a masked sub-byte store as one read-modify-write. -/
  | subByteMessage (r : RemoteReq)
  /-- R333. A station translates a request by cache or page walk and checks its rights. -/
  | stationTranslation (m : Nat) (pid : BitVec 8) (va : DWord) (acc : Access)
  /-- R335. The stations drop overlapping translations and drain earlier walks and requests. -/
  | invalidation (m : Nat) (req : DWord)
  /-- R160. An input pattern places its next queue entry of elements when the queue has room. -/
  | streamInputFill (c : CtxId) (p : BitVec 2)
  /-- R160. An output pattern pops a w entry and writes its elements. -/
  | streamOutputDrain (c : CtxId) (p : BitVec 2)
  /-- R257. Once its dependences are met, a launch enters the dispatchers' queues, or completes FAULTED if a counter is refused. -/
  | launchDependenceMet (l : Nat)
  /-- R256. A child dispatcher asks for blocks and its parent deals the next sub-range. -/
  | blockRangeRequest (node : DispNode) (l : Nat)
  /-- R326. A dispatcher places a gang once its rectangle is free, or all members of a RESIDENT launch at once. -/
  | gangStart (node : DispNode) (l : Nat) (x y : Nat)
  /-- R249. An idle slot takes the best-ranked segment from its cluster's ready pool. -/
  | segmentTake (c : CtxId)
  /-- R248. A conditional node reads its word once with an acquire and makes one side eligible. -/
  | conditionalNode (g : Nat) (n : Nat)
  /-- R248. A while node reads its word, running its body again or making its exit eligible. -/
  | whileNode (g : Nat) (n : Nat)
  /-- R260. The origin writes the summary and increments the completion counter as a pod-scope CADD. -/
  | launchComplete (l : Nat)
  /-- R263. A dispatcher handles a cancel, withdrawing unstarted blocks and finishing or killing running ones. -/
  | cancelAtDispatcher (node : DispNode) (l : Nat)
  /-- R289. A resolved outcome reaches a cluster, which prunes losers, recomputes likelihoods and updates predictor entries. -/
  | conditionOutcomeArrival (cl : ClusterId) (g : Nat) (word : Nat)
  /-- R278. Once every live member has offered, the fabric reduces the predicates and gives every member one outcome. -/
  | collectiveResolve (l : Nat)
  /-- R252. A marker token arrives on a core's input channel. -/
  | markerToken (k : CoreId)
  /-- R296. The last flit of a pair arrives and the issued XSEL writes its span. -/
  | exchangeDelivery (g : Nat) (n : Nat)
  /-- R254. At the end of a 65,536-cycle window the quadrant sets PWRBUD.STATE from its measured energy. -/
  | energyWindowEnd (m : Nat) (q : BitVec 2) (e : Nat)
  /-- R375. A temperature or current limit is passed and firmware lowers PWRBUD. -/
  | thermalLimit (m : Nat) (q : BitVec 2) (budget : BitVec 32)
  /-- R375. A limit still holds after 16 budget windows, so the quadrant's gangs are killed. -/
  | powerKill (m : Nat) (q : BitVec 2)
  /-- R375. Firmware re-plans a quadrant's supply margins and sends a MARGIN record. -/
  | marginReplan (m : Nat) (q : BitVec 2)
  /-- R373. An operation fails a hardware check and is retried once, giving a TRANSIENT or LASTING result. -/
  | hardwareCheckFailure (u : HwUnit) (retryOk : Bool)
  /-- R374. A spare cluster takes a fenced cluster's coordinates and intact gangs resume there. -/
  | spareReplacement (cl : ClusterId)
  /-- R312. A Levanter flit that fails its check is resent from the replay buffer. -/
  | levanterReplay (m : Nat) (port : BitVec 4)
  /-- R312. A Levanter port fails, and its traffic moves to its twin or reroutes after draining. -/
  | levanterPortFailure (m : Nat) (port : BitVec 4)
  /-- R378. After 10 µs idle the module enters the lowest power state within TOL. -/
  | powerStateEntry (m : Nat)
  /-- R378. A host write, Levanter message or management request begins the exit and is held. -/
  | wakeEvent (m : Nat) (req : Nat)
  /-- R26. The exit time elapses, the module is in Run and the held request proceeds. -/
  | powerExitComplete (m : Nat)
  /-- R338. A BAR 2 access is translated under the window PID and performed in posted order. -/
  | hostWindowAccess (m : Nat) (off : Nat) (size : Nat) (wdata : Option Nat)
  /-- R338. A BAR 0 doorbell write is performed after every earlier posted BAR 2 write. -/
  | hostDoorbell (m : Nat) (n : Nat)
  /-- R339. FLR kills the module's launches and gangs and clears slots, keeping HBM and the tables. -/
  | functionLevelReset (m : Nat)
  /-- R340. A management request for the module's identity, answered and signed. -/
  | identityRequest (m : Nat) (r : MgmtReq)
  /-- R342. A nonce request is answered with a record signed by the identity key. -/
  | attestation (m : Nat) (r : MgmtReq) (nonce : BitVec 256)
  /-- R340. A signed management request delivers a firmware image. -/
  | firmwareDelivery (m : Nat) (r : MgmtReq) (img : FwImage)
  /-- R376. A signed management request returns the error-record counts. -/
  | telemetry (m : Nat) (r : MgmtReq)
  /-- R340. A signed management request resets the module. -/
  | managementReset (m : Nat) (r : MgmtReq)
  /-- R340. An enrolled operator key enrols a further operator key. -/
  | keyEnrolment (m : Nat) (r : MgmtReq) (key : BitVec 512)
  /-- R367. A management request sets the TEST operating mode. -/
  | testMode (m : Nat) (r : MgmtReq) (on : Bool)
  /-- R341. At reset the ROM fetches and verifies the firmware image, raising the rollback count or staying in ROM. -/
  | moduleReset (m : Nat) (img : FwImage)
  /-- R362. A service core resumes a FORWARDED slot as ERET RESUME does. -/
  | slotctlResume (c : CtxId)
  /-- R362. A service core ends a FORWARDED slot's task as ERET END does. -/
  | slotctlEnd (c : CtxId)
  /-- R351. A service core writes TVEC, which also releases a halted handler context. -/
  | tvecWrite (k : CoreId) (va : DWord)
  /-- R310. The slot allocator grants or refuses a STREAM reservation along a route. -/
  | streamReserve (k : CoreId) (req : DWord)
  /-- R310. The slot allocator frees the entries of a reserved path. -/
  | streamRelease (k : CoreId) (req : DWord)
  /-- R363. A weight-set command enters a set with seal count 0. -/
  | wsetCreate (k : CoreId) (w : WsetCmd)
  /-- R363. A weight-set command deletes a set unless a cycle sequence names it. -/
  | wsetDelete (k : CoreId) (w : WsetCmd)
  /-- R362. A write to a register with no behaviour of its own, such as HWDOG, QDEFAULT, WDEFAULT, LATTOL or a PID table entry. -/
  | systemWindowWrite (r : SysReg) (v : DWord)
  /-- R367. The service cores set the module's operating mode, entering or leaving RECOVERY while system software restores checkpoints, which decides whether all-or-nothing tile writes are legal. -/
  | operatingMode (m : Nat) (mode : OpMode)
deriving DecidableEq, Repr

end Sys2Proof
end

