-- ==== Sys2Proof/Machine/State.lean ====
section
/-! DEFINITION. The state of a pod of AMK-FX91 modules as plain data: context slots and handler contexts (R40, R241,
R348), clusters with their engines, walkers and pools (R18), gangs and launches (R238 to R263), Kettles (R21), module
tables (R225, R330, R367) and one memory of bytes by home location (R185). Beside the spec's own state it holds the
agenda, plain data that says which agent moves next (assumption 1). -/

namespace Sys2Proof.Machine

/-- What stops the machine with a fault: nothing does. Every trap, refusal and error of the manual is a next state (R344 to
R352), and an access to an address that does not exist takes the trap ADDRESS_RANGE or REFUSED (R169, R153). -/
inductive Fault where
deriving DecidableEq, Repr

/-- Why the model has no meaning for a step. -/
inductive Refusal where
  /-- Raised by a dispatch arm whose meaning has not been written; safe, since it proves nothing about the step. -/
  | notModelled (mnemonic : String)
  deriving DecidableEq, Repr

/-- The result of every meaning. -/
abbrev Out (σ : Type) := Host.Outcome σ Fault Refusal

/-- Format tags (R61). -/
inductive Tag where
  | none | fp64 | fp32 | fp16 | bf16 | tap8 | tap6 | int8 | uint8 | int4 | int16 | int32 | uint32 | int64
  deriving DecidableEq, Repr

/-- A trap's content before it is taken (R347). -/
structure TrapInfo where
  code  : BitVec 9
  eaddr : DWord
  opc   : DWord
  dfr   : Bool
  sw    : Bool
  walk  : BitVec 3
  acc   : BitVec 2
  deriving DecidableEq, Repr

/-- A deferred-fault mark (R156): cause, EADDR, the originating instruction and its place in program order. -/
structure Mark where
  info  : TrapInfo
  order : Nat
  deriving DecidableEq, Repr

/-- A vector register with its tag (R62) and its deferred-fault mark (R105, R157). -/
structure VReg where
  bits : VBits
  tag  : Tag
  mark : Option Mark
  deriving DecidableEq, Repr

/-- An entry of a q or w queue (R40, R62), or a fault entry (R164). -/
structure QEntry where
  bits : VBits
  tag  : Tag
  mark : Option Mark
  deriving DecidableEq, Repr

/-- The destination of a long-class result (R47). -/
inductive RbDest where
  | areg (r : BitVec 5)
  | vec (d : BitVec 6)
  | pred (k : BitVec 6)
  deriving DecidableEq, Repr

/-- A long-class result: a value, or a deferred fault (R47, R156). -/
inductive RbResult where
  | scalar (v : DWord)
  | vector (bits : VBits) (tag : Tag)
  | pred (bits : PBits)
  | fault (m : Mark)
  deriving DecidableEq, Repr

/-- An entry of the return buffer (R47). `superseded`: a later short-class writer has written the destination (R49).
`writesL`: the instruction writes the last-result file at commit (R84). `behind`: no long-class result, but the entry of a short-class
push that stands behind a long-class push to its queue (R43). -/
structure RbEntry where
  dest       : RbDest
  result     : RbResult
  flags      : BitVec 7
  writesL    : Bool
  returned   : Bool
  superseded : Bool
  behind     : Bool
  opc        : DWord
  order      : Nat
  deriving DecidableEq, Repr

/-- States of a pattern register (R163). -/
inductive PatState where
  | undef | defined | running | done | fault
  deriving DecidableEq, Repr

/-- A pattern register: the record of R159, its state, position and bound queue (R163, R168). -/
structure Pattern where
  state : PatState
  base  : DWord
  ibase : DWord
  fmt   : Tag
  ind   : Bool
  itag  : Tag
  dims  : Nat
  n     : List Nat
  str   : List Int
  pos   : Nat
  isW   : Bool
  queue : Nat
  goPc  : DWord
  goOrd : Nat
  flt   : Option Mark
  deriving DecidableEq, Repr

/-- States of a tile (R176). -/
inductive TileState where
  | empty | filling | ready | draining
  deriving DecidableEq, Repr

/-- A tile-table entry (R176). -/
structure Tile where
  alloc   : Bool
  storage : BitVec 15
  tag     : Tag
  state   : TileState
  corrupt : Bool
  version : BitVec 32
  deriving DecidableEq, Repr

/-- States of a matrix job or a Kettle command (R136, R224). -/
inductive JobState where
  | queued | running | done | fault
  deriving DecidableEq, Repr

/-- An entry of the matrix job table (R121, R136); `card` is the address of the job card and `uid` the job's own number. -/
structure JobEntry where
  id    : DWord
  uid   : Nat
  kind  : BitVec 8
  state : JobState
  flags : BitVec 6
  card  : DWord
  deriving DecidableEq, Repr

/-- An entry of the Kettle command table (R223, R224): `uid` is the command's own number, `parts` are the parts not yet ended
and `first` the lowest part that has faulted. -/
structure KcEntry where
  id       : DWord
  uid      : Nat
  kind     : BitVec 8
  state    : JobState
  flags    : BitVec 6
  poisoned : Nat
  ctrLost  : Bool
  parts    : List Nat
  first    : Option Nat
  deriving DecidableEq, Repr

/-- A slot's record for one barrier (R211, R212). -/
structure BarRec where
  episode : BitVec 32
  done    : Bool
  poison  : Bool
  taken   : Bool
  deriving DecidableEq, Repr

/-- A sync object (R191). -/
inductive SyncObj where
  | word (a : DWord)
  | barrier (n : BitVec 6)
  deriving DecidableEq, Repr

/-- A binding entry (R192, R207). -/
structure Binding where
  base : DWord
  lg   : Nat
  obj  : SyncObj
  deriving DecidableEq, Repr

/-- One element of a store: the address as the program formed it, its size in bytes, its data, and the bits it
changes (all of them but for a packed element, R72, R175). -/
structure StoreElem where
  addr : DWord
  size : Nat
  val  : Nat
  mask : Nat
  deriving DecidableEq, Repr

/-- A collective branch: its number, operator (3 for CYCT), predicate, two sides and prediction (R278, R280, R302). -/
structure CollRef where
  k      : Nat
  op     : BitVec 2
  val    : Bool
  taken  : DWord
  fall   : DWord
  pred   : Bool
  deriving DecidableEq, Repr

/-- A branch whose delay slot is next (R51). -/
structure Delay where
  branch : DWord
  target : Option DWord
  coll   : Option CollRef
  deriving DecidableEq, Repr

/-- What one front end has done on a queue ahead of the other (R42, R43, R391): an entry of the queue has been given to a pop that stands
before its push in program order, or the queue's first entry has been taken for a pop that stands after a push. `w` names a w queue. -/
inductive Early where
  | gave (w : Bool) (n : Nat)
  | took (w : Bool) (n : Nat) (e : QEntry)
  deriving DecidableEq, Repr

/-- The part of a context that a trap's undoing and a run-ahead's checkpoint restore (R40, R280). -/
structure Ctxt where
  pc    : DWord
  delay : Option Delay
  order : Nat
  a     : Vector DWord 32
  am    : Vector (Option Mark) 32
  v     : Vector VReg 32
  o     : Vector VReg 8
  l     : Vector VReg 4
  k     : Vector PBits 8
  q     : Vector (List QEntry) 4
  w     : Vector (List QEntry) 2
  ahead : List Early
  rb    : List RbEntry
  flags : DWord
  pats  : Vector Pattern 4
  tiles : Vector Tile 16
  binds : Vector (Option Binding) 8
  jobs  : List JobEntry
  seq   : DWord
  kcmds : List KcEntry
  cid   : DWord
  bars  : Vector BarRec 64
  spawn : Nat
  deriving DecidableEq, Repr

/-- Why a slot waits (R206, R243, R271). -/
inductive WaitReason where
  /-- A switch marker parks until the long-class results have returned (R48). -/
  | marker
  /-- A store waits for its confirmation (R106, R150, R154). -/
  | confirm (elems : List StoreElem)
  | qPop (n : Nat)
  | qPush (n : Nat)
  | wPop (n : Nat)
  | wPush (n : Nat)
  /-- A doubleword counter at an address must reach a target (R208, R210, R220). -/
  | counter (a : DWord) (t : DWord)
  | barrier (n : BitVec 6)
  | tileIdle (h : Nat)
  | tileReady (h : Nat)
  | mxRoom
  | mxEntry
  | mxJob (id : DWord)
  | ketEntry
  | ketAll
  /-- A speculative context parks until it is certain (R271). -/
  | certain
  | poolRoom
  | condRoom (loc : Nat)
  | chainRoom
  | condTables (loc : Nat)
  | condTaken (loc : Nat)
  | vote (k : Nat)
  | collective (k : Nat)
  | ssend
  | xend
  | cycSeq (k : Nat)
  | launchEnd (lid : BitVec 32)
  | work
  | wsealParts (set : BitVec 6)
  /-- A segment that became certain has drafts that a switched-out gang refused with RETRY (R273, R361). -/
  | drafts
  /-- An access to some addresses that a switched-out gang refused with RETRY, or a module in a power state holds, is reissued (R361, R378). -/
  | reissue (as : List DWord)
  deriving DecidableEq, Repr

/-- What a slot is doing (R243, R348). -/
inductive Phase where
  | idle | live | trapped | forwarded
  deriving DecidableEq, Repr

/-- The kind of work a task is (R240, R286). -/
inductive Role where
  | entry
  | node (n : Nat) (iter : Nat)
  | segment
  deriving DecidableEq, Repr

/-- An entry of a chain (R266): the condition's word location, the side, and the side likelihood. -/
structure ChainEntry where
  word : Nat
  side : Bool
  q    : Nat
  deriving DecidableEq, Repr

/-- The checkpoint of a run-ahead (R280): the context after the delay slot, or at a CYCRES that stands in the delay slot of its own CYCT (R322), the
collective, and what the run-ahead's instructions count or set beside the context. -/
structure Checkpoint where
  cx      : Ctxt
  coll    : CollRef
  branch  : DWord
  quantum : DWord
  qend    : Bool
  wlimit  : Nat
  eclass  : BitVec 2
  einfo   : DWord
  deriving DecidableEq, Repr

/-- What the debugger Driet does with a task (R328, R389): it runs freely, is stopped before its next instruction, or passes the instruction at
its place in program order and then, where `again` is set, stops again. -/
inductive Dbg where
  | free | held
  | pass (order : Nat) (pc : DWord) (again : Bool)
  deriving DecidableEq, Repr

/-- A context slot (R40, R241), or the handler context of a core (R348). -/
structure Slot where
  phase   : Phase
  wait    : Option WaitReason
  cx      : Ctxt
  taskId  : DWord
  slotgen : DWord
  /-- The tasks the slot has received since reset; `slotgen` is the value the slot's task holds (R240, R359). -/
  gens    : DWord
  lid     : BitVec 32
  pid     : BitVec 8
  seed    : DWord
  nbv     : BitVec 8
  role    : Role
  /-- The entry and the captured registers with which the task was dispatched, for a segment that is withdrawn (R275). -/
  entry   : DWord
  capture : Option (List DWord)
  gang    : Option Nat
  lastPid : Option (BitVec 8)
  cause   : DWord
  epc     : DWord
  einfo   : DWord
  eaddr   : DWord
  quantum : DWord
  qend    : Bool
  wlimit  : Nat
  wcount  : Nat
  /-- The instruction is executed again after a refusal with RETRY; the wait is met when it is not refused again (R245, R361). -/
  reissued : Bool
  chain   : List ChainEntry
  /-- The segment's own number and its speculative ancestors with the number of drafts each had made (R270). -/
  uid     : Nat
  parents : List (Nat × Nat)
  made    : Nat
  ck      : Option Checkpoint
  held    : Option TrapInfo
  digest  : DWord
  eclass  : BitVec 2
  votes   : Nat
  cbrstat : DWord
  cycOwn  : Bool
  cycs    : Nat
  barawAt : Option (BitVec 6)
  ssended : Bool
  inXchg  : Bool
  xended  : Bool
  lost    : Bool
  stopped : Bool
  digestSeen : Bool
  voted   : Bool
  dbg     : Dbg
  /-- The C tiles of the task's matrix jobs in acceptance order, folded into the digest in that order (R138, R369). -/
  folds   : List (Nat × Option (List StoreElem))
  /-- What a speculative segment has done that folds once it is certain, each with the number of drafts made before it (R273, R369). -/
  late    : List (Nat × List StoreElem)
  deriving DecidableEq, Repr

/-- A core (R19, R348, R362). Index 4 of `slots` is the handler context. -/
structure Core where
  slots    : Vector Slot 5
  issuing  : Fin 5
  /-- The slot that issued before the handler context did (R244). -/
  from_    : Fin 5
  trapq    : List (Fin 5)
  tvec     : DWord
  hslot    : Fin 4
  /-- The number of the task for which the handler runs (R352). -/
  huid     : Nat
  tscr0    : DWord
  tscr1    : DWord
  hwdog    : DWord
  qdefault : DWord
  wdefault : DWord
  halted   : Bool
  /-- The copy-stage counter of each gang that holds slots of the core (R180). -/
  stages   : List (Nat × Nat)
  /-- The gangs whose marker tokens have come in on every input (R252). -/
  markers  : List Nat
  allocReq : DWord
  allocSt  : BitVec 3
  wsetCmd  : Vector DWord 4
  wsetSt   : DWord
  deriving DecidableEq, Repr

/-- A region of a footprint (R125, R131): first location, length in bytes, and whether the job writes it. -/
structure Region where
  lo    : Nat
  len   : Nat
  write : Bool
  deriving DecidableEq, Repr

/-- A matrix job card (R124). -/
structure MxCard where
  hc : Nat
  hb : Nat
  ha : Nat
  bar : BitVec 6
  arrive : Bool
  spa : Bool
  tb : Bool
  ta : Bool
  bsrc : Bool
  acc : Bool
  wlen : Nat
  wbo : Nat
  ctr : DWord
  deriving DecidableEq, Repr

/-- A copy-schedule entry (R179). -/
structure CopyEntry where
  stage : Nat
  cluster : Nat
  core : Nat
  slot : Nat
  handle : Nat
  kind : Nat
  out : Bool
  aon : Bool
  arrive : Bool
  bar : BitVec 6
  circ : BitVec 4
  tag : BitVec 4
  low : BitVec 4
  base : DWord
  ext : List Nat
  str : List Nat
  str3hi : Nat
  org : List Int
  ctr : DWord
  extra : DWord
  /-- The job card of a DECODE entry, once it is read (R181). -/
  card : List Nat
  deriving DecidableEq, Repr

/-- A one-sided operation's descriptor (R217). -/
structure OsDesc where
  op     : Nat
  loc    : DWord
  remote : DWord
  signal : DWord
  event  : DWord
  fmt    : Tag
  length : Nat
  gen    : Bool
  genVal : BitVec 32
  area   : Bool
  rank   : Nat
  deriving DecidableEq, Repr

/-- What a matrix job keeps of its tiles from its acceptance on: the offsets of A, B and C and the tag of A (R125, R133, R138); `bitmap` is the mode
of its record, from its start on (R126). -/
structure MxPlace where
  ta : Tag
  oa : Nat
  ob : Nat
  oc : Nat
  bitmap : Bool
  deriving DecidableEq, Repr

/-- The work of an engine job (R131): a matrix job, a copy entry, a decoder job, a one-sided operation. -/
inductive EKind where
  | matrix (id : DWord) (card : MxCard) (accTag : Tag) (at_ : MxPlace)
  | copy (idx : Nat) (e : CopyEntry)
  | oneSided (d : OsDesc)
  deriving DecidableEq, Repr

/-- A job accepted by a cluster's engine scheduler and not yet ended (R131). `priors` are the tags and states of the
tiles it writes before its acceptance (R177), `task` the number of the task that submitted it, and `after` the segments whose drafts, each up to a
number, are to be performed before it starts (R199, R204). -/
structure EJob where
  uid    : Nat
  owner  : CtxId
  task   : Nat
  gang   : Nat
  pid    : BitVec 8
  lid    : BitVec 32
  gen    : DWord
  kind   : EKind
  after  : List (Nat × Nat)
  foot   : List Region
  tiles  : List (CtxId × Nat × Bool)
  priors : List ((CtxId × Nat) × Tag × TileState)
  running : Bool
  /-- The work has been carried out; `bad` is the fault kind met (0 none) and `cause` its cause code. -/
  worked : Bool
  bad    : Nat
  cause  : BitVec 9
  flags  : BitVec 6
  status : BitVec 4
  left   : Nat
  tries  : Nat
  frame  : Nat
  badFrames : Nat
  discarded : Nat
  deriving DecidableEq, Repr

/-- A condition-table entry (R264, R289). -/
structure Cond where
  gang    : Nat
  word    : Nat
  outcome : Option Bool
  preds   : List Nat
  deriving DecidableEq, Repr

/-- A predictor entry (R268). -/
structure PredEntry where
  p     : Nat
  tag   : BitVec 16
  count : Nat
  deriving DecidableEq, Repr

/-- A segment in a ready pool (R249, R286): its entry, index, chain, energy class and captured registers (R287). -/
structure Segment where
  uid     : Nat
  gang    : Nat
  entry   : DWord
  taskId  : DWord
  role    : Role
  chain   : List ChainEntry
  parents : List (Nat × Nat)
  eclass  : BitVec 2
  capture : Option (List DWord)
  deriving DecidableEq, Repr

/-- A draft entry (R270). -/
structure Draft where
  owner : Nat
  gang  : Nat
  n     : Nat
  opc   : DWord
  elems : List StoreElem
  deriving DecidableEq, Repr

/-- Status of a copy entry in one cluster's walker (R216); `tries` counts the reads of its job card refused with RETRY (R219). -/
structure CopyStatus where
  state   : JobState
  kind    : BitVec 8
  cause   : BitVec 9
  corrupt : Nat
  other   : Bool
  passed  : Bool
  tries   : Nat
  deriving DecidableEq, Repr

/-- A cluster (R18); `fenceSrc` is the source of the fault that fenced it (R346, R374). -/
structure Cluster where
  jobs      : List EJob
  conds     : List Cond
  predictor : List (Nat × PredEntry)
  pool      : List Segment
  drafts    : List Draft
  walk      : List (Nat × List CopyStatus)
  lastPid   : Option (BitVec 8)
  fenced    : Bool
  fenceSrc  : Nat
  deriving DecidableEq, Repr

/-- A barrier's state (R211). -/
structure BarState where
  expect : BitVec 32
  count  : BitVec 32
  ep     : BitVec 32
  poison : Bool
  deriving DecidableEq, Repr

/-- The cycle state of a gang (R300, R301): `pend` is the pending residual, `opened` and `closed` count sequences. -/
structure CycState where
  cnt    : BitVec 32
  resid  : BitVec 32
  resid0 : BitVec 32
  tol    : BitVec 32
  max    : BitVec 32
  rel    : Bool
  isOpen : Bool
  set    : BitVec 6
  exhausted : Bool
  converged : Bool
  pend   : BitVec 32
  opened : Nat
  closed : Nat
  enders : List CtxId
  deriving DecidableEq, Repr

/-- What a predecessor that was not pruned gave a node: the chain it makes it eligible under, the while node that has only guessed its
exit, and the word of a conditional node that is not resolved, of one of whose sides the node is a successor (R248, R291). -/
structure InEdge where
  chain : List ChainEntry
  guess : Option Nat
  direct : Option Nat
  deriving DecidableEq, Repr

/-- A node of a resident task graph (R290) with its walker's state (R248): the predecessors not yet completed, what those not pruned gave,
the chain it is eligible under, its place in the order of ready nodes, whether it has entered the ready
pool or read its word, and whether it has completed. A while node counts its iterations and the body nodes not yet
completed, waits while its word's last outcome has not been freed (R291), and `guess` is set while it has run ahead of its word. -/
structure Node where
  kind   : Nat
  eclass : BitVec 2
  cluster : Nat
  entry  : DWord
  word   : DWord
  succT  : List Nat
  succF  : List Nat
  parent : Option Nat
  left   : Nat
  ins    : List InEdge
  chain  : List ChainEntry
  ready  : Option Nat
  entered : Bool
  fin    : Bool
  pruned : Bool
  iter   : Nat
  bodyLeft : Nat
  stale  : Bool
  guess  : Bool
  deriving DecidableEq, Repr

/-- Where a gang stands (R358, R359). -/
inductive GangStatus where
  | running | stopping | stopped | killed | retired
  deriving DecidableEq, Repr
/-- Whether a gang is placed. -/
def GangStatus.onChip : GangStatus → Bool | .running => true | .stopping => true | _ => false

/-- Vote `k` of a gang: the offers made, and the outcome, or `none` inside on a mismatch (R292). -/
structure Vote where
  k      : Nat
  offers : List (CtxId × BitVec 2 × Bool)
  result : Option (Option Bool)
  deriving DecidableEq, Repr

/-- The parameters and residual a gang offers at CYCT (R302). -/
structure CycOffer where
  resid : BitVec 32
  tol   : BitVec 32
  max   : BitVec 32
  rel   : Bool
  set   : BitVec 6
  deriving DecidableEq, Repr

/-- A CRES that has claimed its condition: by whom, the outcome once the word is written, and whether a CRES with OPEN has freed the entry
since (R289). -/
structure Claim where
  word    : Nat
  by_     : CtxId
  outcome : Option Bool
  freed   : Bool
  deriving DecidableEq, Repr

/-- An XMIT or XSEL of the exchange phase (R295, R296); an XMIT holds the bytes it took. -/
structure XOp where
  owner  : CtxId
  isRecv : Bool
  dir    : Nat
  slot   : Nat
  off    : Nat
  len    : Nat
  bytes  : List Byte
  /-- 0 not settled, 1 paired and delivered, 2 without a partner, 3 delivered with unequal lengths. -/
  result : Nat
  deriving DecidableEq, Repr

/-- A message of the overflow area (R360): the write, or the add of a format's elements, its target core and slot, and its source with the
sequence, where it has one (R203). -/
structure Overflow where
  req  : RemoteReq
  add  : Option Tag
  slot : CtxId
  src  : CtxId
  seq  : Option (BitVec 32)
  deriving DecidableEq, Repr

/-- A recorded task fault (R261). -/
structure FaultRec where
  block : Nat
  taskId : DWord
  epc : DWord
  eaddr : DWord
  einfo : DWord
  ctx : CtxId
  cause : BitVec 9
  deriving DecidableEq, Repr

/-- A save image (R359): whether it was saved at a cut (R365), the slots, local stores with their marks, pools, condition tables, walkers and stages of
the gang, its shared state, and of a RESIDENT launch the collectives closed. -/
structure Image where
  cut     : Bool
  held    : List CtxId
  slots   : List (CtxId × Slot)
  mem     : List Host.Cell
  marks   : List (Nat × Nat)
  pools   : List (ClusterId × List Segment)
  conds   : List (ClusterId × List Cond)
  walks   : List (ClusterId × List CopyStatus)
  stages  : List (CoreId × Nat)
  bars    : Vector BarState 64
  votes   : List Vote
  claims  : List Claim
  xops    : List XOp
  cyc     : CycState
  offer   : Option CycOffer
  nodes   : List Node
  digests : List (DWord × DWord)
  last    : Option FaultRec
  digested : Bool
  overflow : List Overflow
  closed  : Nat
  lost    : Bool
  deriving DecidableEq, Repr

/-- A gang (R239, R258): its block, rectangle, contexts and shared state; `last` is the task that retired last, as a fault of its block would
name it, and `digested` is set once the block's digest is formed (R370). `imageAt` is the HBM location named for the image of the stop, `cutAt` the
one named for a checkpoint still to be taken (R365), and `images` are the images by location, the newest first. -/
structure Gang where
  launch  : Nat
  block   : Nat
  by_     : DispNode
  m : Nat
  x : Nat
  y : Nat
  wd : Nat
  ht : Nat
  held    : List CtxId
  entries : List CtxId
  status  : GangStatus
  imageAt : Nat
  cutAt   : Option Nat
  bars    : Vector BarState 64
  votes   : List Vote
  claims  : List Claim
  xops    : List XOp
  cyc     : CycState
  /-- The gang's offer to the open collective where it is a CYCT (R302, R322). -/
  offer   : Option CycOffer
  nodes   : List Node
  digests : List (DWord × DWord)
  last    : Option FaultRec
  digested : Bool
  overflow : List Overflow
  images  : List (Nat × Image)
  deriving DecidableEq, Repr

/-- A launch record (R297). -/
structure LaunchRec where
  entry : DWord
  grid : Nat
  nbv : BitVec 8
  det : Bool
  resident : Bool
  noguard : Bool
  digest : Bool
  policy : Bool
  wd : Nat
  ht : Nat
  c : Nat
  s : Nat
  n : Nat
  needs : List Nat
  seed : DWord
  sched : DWord
  schedLen : Nat
  graph : DWord
  nodes : Nat
  counter : DWord
  summary : DWord
  m0 : Nat
  mods : Nat
  deps : List (DWord × DWord)
  deriving DecidableEq, Repr

/-- Whether a checkpoint of a gang is still to be taken (R365). -/
def Gang.atCut (g : Gang) : Bool := g.cutAt.isSome

/-- A launch (R256 to R263). `ranges` are the block ranges each dispatcher holds, `cancel` the policy of a cancel
(`true` is KILL) and `handled` the dispatchers that have taken it. -/
structure Launch where
  lid : BitVec 32
  pid : BitVec 8
  origin : Nat
  rc : LaunchRec
  /-- Its place in the dispatchers' queues, once its dependences are met (R257). -/
  queued : Option Nat
  ranges : List (DispNode × List (Nat × Nat))
  retired : Nat
  withdrawn : Nat
  killed : Nat
  faults : List FaultRec
  nfaults : Nat
  depFault : Option (BitVec 9 × DWord)
  endCause : List (BitVec 9)
  cancel : Option Bool
  handled : List DispNode
  cmgen : BitVec 32
  /-- The collectives closed, and whether a member has been killed while the next one was open (R277, R281). -/
  closed : Nat
  lost : Bool
  serial : Bool
  /-- The task of a serialised launch that issued last on each module (R372). -/
  turn : List (Nat × CtxId)
  nodes : List Node
  /-- The loaded object it runs, where Driet's `run` began it or a task of such a launch (R389). -/
  img : Option Nat
  fin : Bool
  deriving DecidableEq, Repr

/-- A station's cached leaf translation (R334), tagged with its PID. -/
structure TlbEntry where
  m : Nat
  station : Nat
  pid : BitVec 8
  va : Nat
  size : Nat
  pa : Nat
  r : Bool
  w : Bool
  x : Bool
  deriving DecidableEq, Repr

/-- A weight set (R225). -/
structure Wset where
  pid : BitVec 8
  set : BitVec 6
  p0 : DWord
  p1 : DWord
  size : Nat
  c : DWord
  deriving DecidableEq, Repr

/-- Power states (R26), and the exit from one (R378). -/
inductive Power where
  | run | doze | lull | calm
  deriving DecidableEq, Repr

/-- A request that a management port serves beside identity and attestation (R340, R367). -/
inductive MgmtKind where
  | firmware (img : FwImage)
  | telemetry
  | reset
  | enrol (key : BitVec 512)
  | test (on : Bool)
  deriving DecidableEq, Repr

/-- A request that a module in a power state holds until its exit is complete (R378). -/
inductive HeldReq where
  | window (off size : Nat) (wdata : Option Nat)
  | doorbell (n : Nat)
  | bar0 (r : SysReg) (v : DWord)
  | mgmt (k : MgmtKind) (r : MgmtReq)
  | remote (r : RemoteReq)
  | bits (r : RemoteReq)
  | other (n : Nat)
  deriving DecidableEq, Repr

/-- A module: whether a launch has been accepted since boot, a management request has set TEST, and checkpoints are being restored (R367); `firmware`
is the hash of the image loaded since State.reset, `delivered` the image that the management network has brought (R341), `overWin` counts the budget windows since a limit was passed,
and `slotTab` holds the STREAM entries by router, output and slot, with the path each was written for (R225, R254, R309, R311, R330, R338 to R343, R367, R374 to R378). -/
structure Module where
  pids : List (BitVec 8 × DWord)
  wsets : List Wset
  started : Bool
  test : Bool
  recovery : Bool
  power : Power
  waking : Bool
  heldReqs : List HeldReq
  lattol : DWord
  pwrbud : Vector DWord 4
  overWin : Vector Nat 4
  kept : List (BitVec 8 × BitVec 32 × DWord)
  errors : List (BitVec 9 × Nat)
  wbase : DWord
  wpid : BitVec 8
  doorbells : List Nat
  mailboxes : List (Nat × DWord)
  msix : List ((BitVec 6 × BitVec 2) × BitVec 32)
  mgmtCounter : DWord
  keys : List (BitVec 512)
  firmware : Option (BitVec 256)
  rollback : BitVec 32
  clustersOn : Bool
  replies : List (List Byte × BitVec 512)
  delivered : Option FwImage
  slotTab : List ((ClusterId × Nat × Nat) × BitVec 16 × DWord)
  ports : Vector Bool 16
  spares : Vector Nat 4
  deriving DecidableEq, Repr

/-- The operating mode (R367); where both hold, RECOVERY stands before TEST (assumption 57). -/
def Module.mode (x : Module) : OpMode :=
  if x.recovery then .recovery else if x.test then .test else if x.started then .normal else .startup

/-- A part of a Kettle command on one Kettle (R221, R222, R224): `cuid` is the command's own number, `idx` the part's,
`elems` its destination elements, `out` whether its message has been sent, `seq` and `low` what that carries (R203), and `bad` the marked units it
has met. -/
structure KPart where
  uid : Nat
  cuid : Nat
  owner : CtxId
  gang : Nat
  pid : BitVec 8
  lid : BitVec 32
  gen : DWord
  m : Nat
  op : Nat
  fmt : Tag
  ctr : Bool
  ord : Bool
  dst : DWord
  src : DWord
  s1 : BitVec 32
  s2 : BitVec 32
  count : Nat
  ctrOff : Nat
  idx : Nat
  elems : List Nat
  started : Bool
  worked : Bool
  kind : BitVec 8
  flags : BitVec 6
  out : Bool
  seq : BitVec 32
  low : BitVec 32
  bad : List Nat
  deriving DecidableEq, Repr

/-- What applies a message at its target: a Kettle, an owning core, or a station that forwards it (R203, R219). -/
inductive Owner where
  | kettle (m k : Nat)
  | core (k : CoreId)
  | station (m : Nat)
  deriving DecidableEq, Repr

/-- A message of a one-sided operation: one packet of a PUTS or of a RADD (R305), which carries its
source with SLOTGEN, a sequence and the low mark (R203, R219). -/
structure Msg where
  uid : Nat
  src : CtxId
  slotgen : DWord
  owner : Owner
  job : Nat
  jobCl : ClusterId
  isAdd : Bool
  seq : BitVec 32
  low : BitVec 32
  addr : DWord
  bytes : List Byte
  acked : Bool
  retry : Bool
  tries : Nat
  deriving DecidableEq, Repr

/-- A source's window at an owner (R203): its next sequence, whether the owner keeps a window for it yet, and the sequences applied at or above
the low mark. -/
structure Window where
  next : BitVec 32
  kept : Bool
  applied : List (BitVec 32)
  deriving DecidableEq, Repr

/-- An open receive area (R222): its part, the whole area, the bytes this Kettle holds, the contributions it needs and has,
and the bytes that have arrived of each contribution not yet whole. -/
structure Area where
  part : Nat
  pid : BitVec 8
  dst : DWord
  bytes : Nat
  here : Nat
  fmt : Tag
  need : Nat
  ord : Bool
  got : Nat
  partials : List (Nat × Nat)
  deriving DecidableEq, Repr

/-- A Kettle (R21): its command queue, its open areas and its arrival area (R222). -/
structure Kettle where
  parts : List KPart
  areas : List Area
  waiting : List Nat
  deriving DecidableEq, Repr

/-- A decoder (R24, R181): the job it runs, if any. -/
structure Decoder where
  job : Option (ClusterId × Nat)
  deriving DecidableEq, Repr

/-- A Driet breakpoint: an address, the task it is for, and whether it goes after its first stop (R328, R389). -/
structure Breakpoint where
  pc   : DWord
  task : Option DWord
  temp : Bool
  deriving DecidableEq, Repr

/-- An `.hbm` section or the text of an object on a module, as Driet fills it (R382). -/
structure Section where
  m     : Nat
  va    : DWord
  bytes : List Byte
  text  : Bool
  deriving DecidableEq, Repr
/-- An object that Driet loads for a process from a module (R29, R327, R382, R389): the PID entries and the words of the page tables that map it, with
their modules and their locations and sizes, its sections, its `.data`, the addresses of its launch records in order, and its weight sets by number,
two copies and size. -/
structure Object where
  m        : Nat
  pid      : BitVec 8
  roots    : List (Nat × DWord)
  tables   : List (Nat × Nat × Nat)
  sections : List Section
  data     : List Byte
  records  : List DWord
  wsets    : List (BitVec 6 × DWord × DWord × Nat)
  deriving DecidableEq, Repr
/-- What stays of a loaded object: where and for whom it was loaded, its `.data` and the addresses of its launch records. -/
structure Loaded where
  m       : Nat
  pid     : BitVec 8
  data    : List Byte
  records : List DWord
  deriving DecidableEq, Repr

/-- The agents that share a core's position down to a level of R186: 0 its core, 1 its cluster, 2 its quadrant, 3 its module, 4 the pod. -/
structure Zone where
  level : Nat
  core  : CoreId
  deriving DecidableEq, Repr
/-- Who has written a watched location (R232): a task, a job of an engine or a one-sided operation, a Kettle command of a task, each by its own
number, a copy entry, Driet, or another. -/
inductive Writer where
  | task (uid : Nat)
  | engine (uid : Nat)
  | kettle (uid task : Nat)
  | copy (g : Nat) (cl : ClusterId) (n : Nat)
  | driet
  | other
  deriving DecidableEq, Repr
/-- A write of a watched doubleword: the doubleword after it, the bytes it covers as a mask, its writer with the writer's gang, the tasks to which it
is visible with the limits it has there (R193), and the launches whose tasks have all acquired it (R257). -/
structure WatchWrite where
  val   : Nat
  mask  : Nat
  by_   : Writer
  gang  : Option Nat
  seen  : List (Nat × List Zone)
  known : List Nat
  deriving DecidableEq, Repr
/-- What is released and acquired: a sync word by its location, a barrier of a gang (R191), or a weight set of a module (R226). -/
inductive WatchObj where
  | word (loc : Nat)
  | barrier (g : Nat) (n : BitVec 6)
  | sealed (m : Nat) (pid : BitVec 8) (set : BitVec 6)
  deriving DecidableEq, Repr
/-- What releases: a task, the increment or arrival of an engine or a Kettle (R195, R198), the completion of a launch (R260). -/
inductive WatchBy where
  | task | engine | launch
  deriving DecidableEq, Repr
/-- A release of an object: its domain, the core it comes from, the barrier's episode or the set's seal count, and its carry of writes by number with
their limits. -/
structure WatchRelease where
  obj   : WatchObj
  kind  : WatchBy
  from_ : CoreId
  dom   : Zone
  ep    : BitVec 32
  carry : List (Nat × List Zone)
  deriving DecidableEq, Repr
/-- A status read that showed DONE and is not yet committed: the task, the read's place in its order, and the writes it makes visible (R198). -/
structure WatchPoll where
  task  : Nat
  order : Nat
  shows : List Nat
  deriving DecidableEq, Repr
/-- A watch of R232: the address as given, for a process on a module, the doubleword's location, its value before every write recorded, its writes
in their order, and the releases and status reads recorded. -/
structure Watch where
  m      : Nat
  pid    : BitVec 8
  addr   : DWord
  loc    : Nat
  first  : Nat
  writes : List WatchWrite
  rels   : List WatchRelease
  polls  : List WatchPoll
  deriving DecidableEq, Repr

/-- What Driet does to the machine (R29, R232, R237, R328, R389, R390): memory is named by its location, a label of `.data` by its offset, a launch
record by its number, and a print's register by the destination and the result it writes. -/
inductive Driet where
  | load (o : Object)
  | run (record : Option Nat)
  | break_ (b : Breakpoint)
  | step (c : CtxId)
  | continue_
  | printReg (c : CtxId) (d : RbDest) (v : RbResult)
  | printSys (c : CtxId) (sel : Nat) (v : DWord)
  | printMem (loc n v : Nat)
  | printData (off n v : Nat) (c : Option CtxId)
  | injectUe (loc : Nat)
  | injectStale (m : Nat) (pid : BitVec 8) (a : DWord)
  | injectClear
  deriving DecidableEq, Repr

/-- What the agenda says happens next (assumption 1): a step of an agent or of the outside world, an issue by a named
core, the passing of cycles, what a write in a core's system window does, by the handler context of a core or by a service core, whether an
owner has room for a new source's window from now on (R203), a hardware event of kind 0 CORRECTED or 1 UNCORRECTABLE (R346), a limit of R375 that
stops holding, or what Driet does (R389). -/
inductive Turn where
  | event (i : Instr)
  | issue (k : CoreId)
  | elapse (n : Nat)
  | window (by_ : Option CoreId) (k : CoreId) (off : Nat) (v : DWord)
  | windowRoom (o : Owner) (room : Bool)
  | hardware (u : HwUnit) (lost : Bool)
  | limitEnds (m : Nat) (q : BitVec 2)
  | driet (d : Driet)
  deriving DecidableEq, Repr

/-- The pod. Keyed lists hold an entry only for what has left its reset value. -/
structure State where
  agenda : List Turn
  cur : CoreId
  fresh : Nat
  now : Nat
  dims : Nat × Nat × Nat
  mem : List Host.Cell
  /-- Units of 64 bytes with an uncorrectable error (R236, R346): the base location of each and, for a unit of SRAM, the mask
  of the bytes stored since. -/
  poison : List (Nat × Nat)
  cores : List (CoreId × Core)
  clusters : List (ClusterId × Cluster)
  gangs : List (Nat × Gang)
  launches : List (Nat × Launch)
  modules : List (Nat × Module)
  kettles : List ((Nat × Nat) × Kettle)
  decoders : List ((Nat × Nat) × Decoder)
  tlb : List TlbEntry
  msgs : List Msg
  windows : List ((Owner × CtxId × DWord) × Window)
  /-- The parts of Kettle commands on their way to their Kettles, in the order sent (R203, R223). -/
  sent : List KPart
  /-- The owners that have no room for a new source's window (R203). -/
  noRoom : List Owner
  replies : List (RemoteReq × Option Nat × BitVec 9)
  /-- Driet's loaded objects, the last first, its breakpoints, the 64-byte units at which it has armed an error, and its watches (R29, R232,
  R237, R389). -/
  loaded : List (Nat × Loaded)
  breaks : List Breakpoint
  armed : List Nat
  watches : List Watch
  deriving DecidableEq, Repr

/-- A vector register at reset and at task entry: zero, tag NONE (R62). -/
def VReg.reset : VReg := ⟨0, .none, none⟩
/-- A pattern register at task entry: UNDEFINED (R163). -/
def Pattern.reset : Pattern :=
  { state := .undef, base := 0, ibase := 0, fmt := .none, ind := false, itag := .none, dims := 1, n := [0, 0, 0, 0],
    str := [0, 0, 0, 0], pos := 0, isW := false, queue := 0, goPc := 0, goOrd := 0, flt := none }
/-- An unallocated tile-table entry (R214). -/
def Tile.reset : Tile := ⟨false, 0, .none, .empty, false, 0⟩
/-- A barrier record at task entry (R212). -/
def BarRec.reset : BarRec := ⟨0, true, false, true⟩
/-- k0 reads as all true, k1 to k7 are zero at task entry (R40, R247). -/
def kReset : Vector PBits 8 := (Vector.replicate 8 0).set 0 (BitVec.allOnes 32)

/-- A context as R247 sets it at dispatch, with every a-register zero. -/
def Ctxt.reset : Ctxt :=
  { pc := 0, delay := none, order := 0, a := Vector.replicate 32 0, am := Vector.replicate 32 none,
    v := Vector.replicate 32 VReg.reset, o := Vector.replicate 8 VReg.reset, l := Vector.replicate 4 VReg.reset,
    k := kReset, q := Vector.replicate 4 [], w := Vector.replicate 2 [], ahead := [], rb := [], flags := 0,
    pats := Vector.replicate 4 Pattern.reset, tiles := Vector.replicate 16 Tile.reset,
    binds := Vector.replicate 8 none, jobs := [], seq := 1, kcmds := [], cid := 1,
    bars := Vector.replicate 64 BarRec.reset, spawn := 0 }

/-- A slot that has received no task since reset. -/
def Slot.reset : Slot :=
  { phase := .idle, wait := none, cx := Ctxt.reset, taskId := 0, slotgen := 0, gens := 0, lid := 0, pid := 0, seed := 0, nbv := 0,
    role := .entry, entry := 0, capture := none, gang := none, lastPid := none, cause := 0, epc := 0, einfo := 0, eaddr := 0, quantum := 0,
    qend := false, wlimit := Config.watchdogReset, wcount := 0, reissued := false, chain := [], uid := 0, parents := [], made := 0,
    ck := none, held := none, digest := 0, eclass := 0, votes := 0, cbrstat := 0, cycOwn := false,
    cycs := 0, barawAt := none, ssended := false, inXchg := false, xended := false, lost := false, stopped := false,
    digestSeen := false, voted := false, dbg := .free, folds := [], late := [] }

/-- A core at reset: no handler, watchdog limits 2^26, no quantum (R353, R362). -/
def Core.reset : Core :=
  { slots := Vector.replicate 5 Slot.reset, issuing := 0, from_ := 0, trapq := [], tvec := 0, hslot := 0, huid := 0, tscr0 := 0, tscr1 := 0,
    hwdog := BitVec.ofNat 64 Config.watchdogReset, qdefault := 0, wdefault := BitVec.ofNat 64 Config.watchdogReset,
    halted := false, stages := [], markers := [], allocReq := 0, allocSt := 0,
    wsetCmd := Vector.replicate 4 0, wsetSt := 0 }

/-- A cluster at reset. -/
def Cluster.reset : Cluster := ⟨[], [], [], [], [], [], none, false, 0⟩
/-- A barrier at gang start: expect 0 (R211). -/
def BarState.reset : BarState := ⟨0, 0, 0, false⟩
/-- Cycle state before any sequence (R300). -/
def CycState.reset : CycState :=
  { cnt := 0, resid := 0, resid0 := 0, tol := 0, max := 0, rel := false, isOpen := false, set := 0, exhausted := false,
    converged := false, pend := 0, opened := 0, closed := 0, enders := [] }
/-- A launch record of zeros, for a launch that is not in the table. -/
def LaunchRec.reset : LaunchRec :=
  { entry := 0, grid := 0, nbv := 0, det := false, resident := false, noguard := false, digest := false, policy := false,
    wd := 1, ht := 1, c := 1, s := 1, n := 1, needs := [], seed := 0, sched := 0, schedLen := 0, graph := 0, nodes := 0,
    counter := 0, summary := 0, m0 := 0, mods := 0, deps := [] }
/-- The launch that a key outside the table reads as. -/
def Launch.reset : Launch :=
  { lid := 0, pid := 0, origin := 0, rc := LaunchRec.reset, queued := none, ranges := [], retired := 0,
    withdrawn := 0, killed := 0, faults := [], nfaults := 0, depFault := none, endCause := [], cancel := none,
    handled := [], cmgen := 0, closed := 0, lost := false, serial := false, turn := [], nodes := [], img := none, fin := true }
/-- The gang that a key outside the table reads as. -/
def Gang.reset : Gang :=
  { launch := 0, block := 0, by_ := .root 0, m := 0, x := 0, y := 0, wd := 1, ht := 1, held := [], entries := [],
    status := .retired, imageAt := 0, cutAt := none, bars := Vector.replicate 64 BarState.reset, votes := [], claims := [], xops := [],
    cyc := CycState.reset, offer := none, nodes := [], digests := [], last := none, digested := false, overflow := [], images := [] }

/-- A module after reset and boot (R341, R367, R377): LATTOL 0, no budget, STARTUP mode, clusters on. -/
def Module.reset : Module :=
  { pids := [], wsets := [], started := false, test := false, recovery := false, power := .run, waking := false, heldReqs := [], lattol := 0,
    pwrbud := Vector.replicate 4 0, overWin := Vector.replicate 4 0, kept := [], errors := [], wbase := 0, wpid := 0,
    doorbells := [], mailboxes := [], msix := [], mgmtCounter := 0, keys := [], firmware := none, rollback := 0, clustersOn := true, replies := [],
    delivered := none, slotTab := [], ports := Vector.replicate 16 true, spares := Vector.replicate 4 192 }
/-- An idle Kettle. -/
def Kettle.reset : Kettle := ⟨[], [], []⟩

/-- The machine right after reset: a pod of one module, nothing placed, memory with nothing listed (assumptions 2 to 4). -/
def State.reset : State :=
  { agenda := [], cur := ⟨⟨0, 0, 0⟩, 0⟩, fresh := 1, now := 0, dims := (1, 1, 1), mem := [], poison := [], cores := [],
    clusters := [], gangs := [], launches := [], modules := [], kettles := [], decoders := [], tlb := [], msgs := [],
    windows := [], sent := [], noRoom := [], replies := [], loaded := [], breaks := [], armed := [], watches := [] }

end Sys2Proof.Machine
end

