-- ==== Sys2Proof/Machine/Ops.lean ====
section
/-! DEFINITION. The named operations over contexts, registers, the return buffer, memory bytes and traps that every
meaning is written with: keyed lists, the accessors of the pod's parts, register reads and writes (R40, R157), switch
points (R243), the commit of long-class results (R47 to R49), taking a trap (R347 to R351) and what surrounds every
instruction (`issue`, `finish`). -/

namespace Sys2Proof.Machine

/-! ## Keyed lists -/

/-- The value a keyed list holds for `k`, or `d` where it holds none. -/
def kget {κ α : Type} [DecidableEq κ] : List (κ × α) → κ → α → α
  | [], _, d => d
  | (k', v) :: r, k, d => if k' = k then v else kget r k d

/-- The keyed list with `v` at `k`. -/
def kset {κ α : Type} [DecidableEq κ] : List (κ × α) → κ → α → List (κ × α)
  | [], k, v => [(k, v)]
  | (k', v') :: r, k, v => if k' = k then (k, v) :: r else (k', v') :: kset r k v

/-- The keyed list without `k`. -/
def kdel {κ α : Type} [DecidableEq κ] (l : List (κ × α)) (k : κ) : List (κ × α) := l.filter (fun p => p.1 ≠ k)

/-- Whether the keyed list holds `k`. -/
def khas {κ α : Type} [DecidableEq κ] (l : List (κ × α)) (k : κ) : Bool := l.any (fun p => p.1 = k)

/-! ## Parts of the pod -/

def State.core (s : State) (k : CoreId) : Core := kget s.cores k Core.reset
def State.setCore (s : State) (k : CoreId) (c : Core) : State := { s with cores := kset s.cores k c }
def State.modCore (s : State) (k : CoreId) (f : Core → Core) : State := s.setCore k (f (s.core k))
/-- The slot of a context. -/
def State.slot (s : State) (c : CtxId) : Slot := (s.core c.core).slots[c.who.val]
def State.setSlot (s : State) (c : CtxId) (v : Slot) : State :=
  s.modCore c.core (fun k => { k with slots := k.slots.set c.who.val v })
def State.modSlot (s : State) (c : CtxId) (f : Slot → Slot) : State := s.setSlot c (f (s.slot c))
/-- The context that issues (R243). -/
def State.me (s : State) : CtxId := ⟨s.cur, (s.core s.cur).issuing⟩
/-- The slot of the context that issues. -/
def State.self (s : State) : Slot := s.slot s.me
def State.setSelf (s : State) (v : Slot) : State := s.setSlot s.me v
/-- The registers of the context that issues. -/
def State.cx (s : State) : Ctxt := s.self.cx
def State.setCx (s : State) (c : Ctxt) : State := s.setSelf { s.self with cx := c }
def State.modCx (s : State) (c : CtxId) (f : Ctxt → Ctxt) : State := s.modSlot c (fun sl => { sl with cx := f sl.cx })
def State.cluster (s : State) (k : ClusterId) : Cluster := kget s.clusters k Cluster.reset
def State.setCluster (s : State) (k : ClusterId) (c : Cluster) : State := { s with clusters := kset s.clusters k c }
def State.modCluster (s : State) (k : ClusterId) (f : Cluster → Cluster) : State := s.setCluster k (f (s.cluster k))
def State.gang (s : State) (g : Nat) : Gang := kget s.gangs g Gang.reset
def State.setGang (s : State) (g : Nat) (v : Gang) : State := { s with gangs := kset s.gangs g v }
def State.modGang (s : State) (g : Nat) (f : Gang → Gang) : State := s.setGang g (f (s.gang g))
def State.launch (s : State) (l : Nat) : Launch := kget s.launches l Launch.reset
def State.setLaunch (s : State) (l : Nat) (v : Launch) : State := { s with launches := kset s.launches l v }
def State.modLaunch (s : State) (l : Nat) (f : Launch → Launch) : State := s.setLaunch l (f (s.launch l))
def State.module (s : State) (m : Nat) : Module := kget s.modules m Module.reset
def State.setModule (s : State) (m : Nat) (v : Module) : State := { s with modules := kset s.modules m v }
def State.modModule (s : State) (m : Nat) (f : Module → Module) : State := s.setModule m (f (s.module m))
def State.kettle (s : State) (m k : Nat) : Kettle := kget s.kettles (m, k) Kettle.reset
def State.setKettle (s : State) (m k : Nat) (v : Kettle) : State := { s with kettles := kset s.kettles (m, k) v }
def State.decoder (s : State) (m d : Nat) : Decoder := kget s.decoders (m, d) ⟨none⟩
/-- The number of modules of the pod (R23). -/
def State.modCount (s : State) : Nat := s.dims.1 * s.dims.2.1 * s.dims.2.2
/-- The gang of a context, where it has one. -/
def State.gangOf (s : State) (c : CtxId) : Gang := match (s.slot c).gang with | some g => s.gang g | none => Gang.reset
/-- The launch of a context's gang. -/
def State.launchOf (s : State) (c : CtxId) : Launch :=
  match (s.slot c).gang with | some g => s.launch (s.gang g).launch | none => Launch.reset
/-- The four slots of a core. -/
def slotIds (k : CoreId) : List CtxId := [⟨k, 0⟩, ⟨k, 1⟩, ⟨k, 2⟩, ⟨k, 3⟩]
/-- The eight cores of a cluster in ring order. -/
def coreIds (cl : ClusterId) : List CoreId := (List.range 8).map (fun n => ⟨cl, n⟩)
/-- A fresh number, for the identity of a job, a message or a segment. -/
def State.tick (s : State) : State := { s with fresh := s.fresh + 1 }
/-- The service cores count an error record or a refusal by its code (R346, R376). -/
def State.countError (s : State) (m : Nat) (code : BitVec 9) : State :=
  s.modModule m (fun x => { x with errors := kset x.errors code (kget x.errors code 0 + 1) })

/-! ## Bits and integers -/

/-- The two's complement reading of the low `w` bits of `v`. -/
def sgn (w v : Nat) : Int :=
  let u := v % 2 ^ w
  if w = 0 then 0 else if u < 2 ^ (w - 1) then (u : Int) else (u : Int) - (2 ^ w : Nat)
/-- `Trunc(w, v)` of R10. -/
def trunc (w : Nat) (v : Int) : Nat := (v % (2 ^ w : Nat)).toNat
/-- Bits [hi:lo] of a natural number (R4). -/
def bits (v hi lo : Nat) : Nat := (v >>> lo) % 2 ^ (hi + 1 - lo)
/-- The offset of a branch in bytes: twice the signed halfword count (R37). -/
def halfwords {w : Nat} (off : BitVec w) : DWord := (off.signExtend 64) <<< 1

/-- Tables that engines and barriers change: in the context and in the checkpoint of its run-ahead, which keeps them too
(R280). -/
def State.modTables (s : State) (c : CtxId) (f : Ctxt → Ctxt) : State :=
  s.modSlot c (fun sl => { sl with cx := f sl.cx, ck := sl.ck.map (fun k => { k with cx := f k.cx }) })

/-! ## Memory bytes at their homes -/

/-- What a location nothing has written reads as (assumption 3). -/
def Memory.unlisted : Byte := 0
/-- The canonical form of memory: locations strictly rising and no entry equal to what an unlisted location reads as. -/
def Memory.wf : List Host.Cell → Bool
  | [] => true
  | [c] => c.2 != Memory.unlisted
  | c :: d :: r => c.2 != Memory.unlisted && decide (c.1 < d.1) && Memory.wf (d :: r)
/-- The byte at a location. -/
def Memory.get : List Host.Cell → Nat → Byte
  | [], _ => Memory.unlisted
  | c :: r, a => if c.1 = a then c.2 else if a < c.1 then Memory.unlisted else Memory.get r a
/-- A byte written. -/
def Memory.set : List Host.Cell → Nat → Byte → List Host.Cell
  | [], a, b => if b = Memory.unlisted then [] else [(a, b)]
  | c :: r, a, b =>
    if c.1 = a then (if b = Memory.unlisted then r else (a, b) :: r)
    else if a < c.1 then (if b = Memory.unlisted then c :: r else (a, b) :: c :: r)
    else c :: Memory.set r a b
/-- `n` bytes from a location, little-endian (R5). -/
def Memory.getN (m : List Host.Cell) (a : Nat) : Nat → Nat
  | 0 => 0
  | n + 1 => (Memory.get m a).toNat + 256 * Memory.getN m (a + 1) n
/-- The low `n` bytes of `v` written from a location. -/
def Memory.setN (m : List Host.Cell) (a : Nat) : Nat → Nat → List Host.Cell
  | 0, _ => m
  | n + 1, v => Memory.setN (Memory.set m a (BitVec.ofNat 8 v)) (a + 1) n (v / 256)
/-- The `n` bytes from a location. -/
def Memory.bytes (m : List Host.Cell) (a n : Nat) : List Byte := (List.range n).map (fun i => Memory.get m (a + i))
/-- Every location of a range set to the unlisted value (R337). -/
def Memory.clear (m : List Host.Cell) (a n : Nat) : List Host.Cell := m.filter (fun c => c.1 < a || a + n ≤ c.1)
/-- The 64-byte unit of a location (R236). -/
def unitOf (a : Nat) : Nat := a / 64 * 64
/-- Whether a byte of the span stands in a poisoned unit (R236, R346). -/
def State.poisoned (s : State) (a n : Nat) : Bool := s.poison.any (fun u => u.1 < a + n && a < u.1 + 64)

/-! ## Locations (R169, R185): the location of a byte of a local store is its global local-store address; that of a byte
of HBM is `0b11` in [63:62], the module in [61:52] and the physical address below. -/

def globLoc (m x y core region off : Nat) : Nat :=
  2 ^ 63 + m * 2 ^ 52 + y * 2 ^ 44 + x * 2 ^ 36 + core * 2 ^ 33 + region * 2 ^ 15 + off
/-- The location of a byte of a core's scratchpad. -/
def privLoc (k : CoreId) (off : Nat) : Nat := globLoc k.cl.m k.cl.x k.cl.y k.n 0 off
/-- The location of a byte of a core's inboxes. -/
def inboxLoc (k : CoreId) (off : Nat) : Nat := globLoc k.cl.m k.cl.x k.cl.y k.n 3 off
/-- The location of a byte of a cluster's weight buffer: its 64 KiB, whose addresses stand under two core fields (R144, R171), are one
run of locations, at the region value 8, which no address has. -/
def wbufLoc (cl : ClusterId) (off : Nat) : Nat := globLoc cl.m cl.x cl.y 0 8 off
def hbmLoc (m pa : Nat) : Nat := 3 * 2 ^ 62 + m * 2 ^ 52 + pa
/-- Whether a location is in HBM. -/
def isHbm (loc : Nat) : Bool := loc / 2 ^ 62 = 3
def locModule (loc : Nat) : Nat := bits loc 61 52
/-- The physical address of an HBM location. -/
def locPa (loc : Nat) : Nat := loc % 2 ^ 52
/-- The cluster of a local-store location. -/
def locCluster (loc : Nat) : ClusterId := ⟨bits loc 61 52, bits loc 43 36, bits loc 51 44⟩
/-- The core of a local-store location. -/
def locCore (loc : Nat) : CoreId := ⟨locCluster loc, bits loc 35 33⟩
def locRegion (loc : Nat) : Nat := bits loc 32 15

/-- Bytes written at their home, the marks left as they are. -/
def State.poke (s : State) (loc n v : Nat) : State := { s with mem := Memory.setN s.mem loc n v }
/-- Bytes written at their home. A store of every byte of a marked unit of SRAM clears its mark (R346); a mark in HBM
stays (R236). -/
def State.write (s : State) (loc n v : Nat) : State :=
  let touch := fun (u : Nat × Nat) =>
    if isHbm u.1 then some u
    else
      let lo := Nat.max loc u.1
      let hi := Nat.min (loc + n) (u.1 + 64)
      if lo < hi then
        let m := u.2 ||| ((2 ^ (hi - lo) - 1) <<< (lo - u.1))
        if m = 2 ^ 64 - 1 then none else some (u.1, m)
      else some u
  { s with mem := Memory.setN s.mem loc n v, poison := s.poison.filterMap touch }

/-! ## Traps (R344 to R351) -/

/-- A cause with its EADDR, raised outside any walk: WALK = 7 (assumption 10). -/
def trapInfo (code : BitVec 9) (eaddr : DWord := 0) (acc : BitVec 2 := 0) (walk : BitVec 3 := 7) : TrapInfo :=
  { code := code, eaddr := eaddr, opc := 0, dfr := false, sw := false, walk := walk, acc := acc }

/-- EINFO of a trap (R347); RSVW, which is sticky, is kept. -/
def einfoWord (old : DWord) (t : TrapInfo) (ds held : Bool) : DWord :=
  (t.opc <<< 12) ||| ((BitVec.ofBool t.dfr).setWidth 64 <<< 11) ||| ((BitVec.ofBool ds).setWidth 64 <<< 10) |||
  ((BitVec.ofBool t.sw).setWidth 64 <<< 9) ||| (old &&& 0x100) ||| ((BitVec.ofBool held).setWidth 64 <<< 7) |||
  (t.walk.setWidth 64 <<< 4) ||| (t.acc.setWidth 64 <<< 2)

/-- EPC and DS: a delay-slot instruction's trap names its branch (R52, R347). -/
def trapPc (c : Ctxt) : DWord × Bool := match c.delay with | some d => (d.branch, true) | none => (c.pc, false)

/-- The order in which the traps due at a boundary are taken: CONTEXT_LOST, WATCHDOG, QUANTUM_END, an instruction's own (R349). -/
def trapRank (code : BitVec 9) : Nat := if code = 0x109 then 0 else if code = 0x140 then 1 else if code = 0x141 then 2 else 3
/-- Whether a slot holds a trap of a code. -/
def Slot.holdsTrap (sl : Slot) (code : BitVec 9) : Bool := match sl.held with | some t => t.code = code | none => false
/-- What another trap leaves due of a held one: CONTEXT_LOST and QUANTUM_END stay due, WATCHDOG does by its count, and an instruction raises its own
again (R349). -/
def Slot.leaveHeld (sl : Slot) (t : TrapInfo) : Slot :=
  { sl with lost := sl.lost || (sl.holdsTrap 0x109 && decide (t.code ≠ 0x109)), qend := sl.qend || (sl.holdsTrap 0x141 && decide (t.code ≠ 0x141)) }
/-- The trapped slot: the four trap registers written, nothing waited for, nothing issued (R347, R348). -/
def Slot.trapped (sl : Slot) (t : TrapInfo) (held : Bool) (ph : Phase) : Slot :=
  { sl.leaveHeld t with phase := ph, wait := none, held := none, reissued := false, ssended := false, xended := false,
                          cause := t.code.setWidth 64, epc := (trapPc sl.cx).1, eaddr := t.eaddr, einfo := einfoWord sl.einfo t (trapPc sl.cx).2 held }

/-- TakeTrap of R348. -/
def takeTrap (s : State) (c : CtxId) (t : TrapInfo) (held : Bool) : State :=
  let k := s.core c.core
  if k.tvec = 0 || k.halted then s.modSlot c (fun sl => sl.trapped t held .forwarded)
  else (s.modSlot c (fun sl => sl.trapped t held .trapped)).modCore c.core
    (fun k => { k with trapq := k.trapq ++ [c.who] })

/-- A double trap (R351): the handler context halts, HSLOT and every queued slot become FORWARDED, and the service cores
receive DOUBLE_TRAP with the handler's cause and PC, which the handler context's own trap registers hold. -/
def doubleTrap (s : State) (k : CoreId) (t : TrapInfo) : State :=
  let forward := fun (sl : Slot) => if sl.phase = .trapped then { sl with phase := .forwarded } else sl
  let s := s.modSlot ⟨k, 4⟩ (fun sl => { sl with phase := .idle, wait := none, cause := t.code.setWidth 64, epc := sl.cx.pc,
                                                   eaddr := t.eaddr })
  let s := (slotIds k).foldl (fun s c => s.modSlot c forward) s
  let s := s.modCore k (fun c => { c with halted := true, trapq := [] })
  s.countError k.cl.m 0x01A

/-- Whether a context is speculative: a segment whose chain is unresolved, or a run-ahead (R266, R280). -/
def Slot.speculative (sl : Slot) : Bool := !sl.chain.isEmpty || sl.ck.isSome

/-! ## Switch points (R243) -/

/-- Whether a gang's slots may issue. -/
def State.gangRuns (s : State) (sl : Slot) : Bool :=
  match sl.gang with
  | none => true
  | some g => match (s.gang g).status with
    | .running => true
    | .stopping => true
    | _ => false
/-- A slot holds a task whose next instruction can issue, whoever's turn it is; no clock runs in a power state (R26). -/
def State.canIssue (s : State) (c : CtxId) : Bool :=
  let sl := s.slot c
  decide (sl.phase = .live) && sl.wait.isNone && !sl.stopped && decide (sl.dbg ≠ .held) && s.gangRuns sl &&
    decide ((s.module c.core.cl.m).power = .run)
/-- The serialised launch of a slot's task, if it is of one (R372). -/
def State.serialOf (s : State) (sl : Slot) : Option Nat :=
  match sl.gang with
  | none => none
  | some g => if (s.launch (s.gang g).launch).serial then some (s.gang g).launch else none
/-- The tasks of a launch on a module that can issue. -/
def State.peers (s : State) (l m : Nat) : List CtxId :=
  (s.gangs.map (fun g => if g.2.launch = l && g.2.m = m then
    g.2.held.filter (fun c => decide ((s.slot c).gang = some g.1) && s.canIssue c) else [])).flatten
/-- The task after index `t` in ascending cyclic TASKID order. -/
def State.nextTask (s : State) (t : Nat) (l : List CtxId) : Option CtxId :=
  let key := fun (c : CtxId) => let n := (s.slot c).taskId.toNat; if t < n then n else n + 2 ^ 64
  l.foldl (fun (b : Option CtxId) c => match b with | none => some c | some d => if key c < key d then some c else some d) none
/-- The task of a serialised launch whose turn it is to issue on a module (R372). -/
def State.turnOf (s : State) (l m : Nat) : Option CtxId :=
  match (s.launch l).turn.find? (fun p => p.1 = m) with
  | none => s.nextTask (2 ^ 64 - 1) (s.peers l m)
  | some p => if (s.peers l m).contains p.2 then some p.2 else s.nextTask (s.slot p.2).taskId.toNat (s.peers l m)
/-- A slot is ready when it holds a task whose next instruction can issue (R243), in a serialised launch the one task whose
turn it is (R372). -/
def State.ready (s : State) (c : CtxId) : Bool :=
  s.canIssue c && match s.serialOf (s.slot c) with
    | none => true
    | some l => s.turnOf l c.core.cl.m = some c
/-- The turn of a serialised launch passes on at a switch point (R372). -/
def State.passTurn (s : State) (c : CtxId) : State :=
  match s.serialOf (s.slot c) with
  | none => s
  | some l => match s.nextTask (s.slot c).taskId.toNat (s.peers l c.core.cl.m) with
    | none => s
    | some d => s.modLaunch l (fun x => { x with turn := kset x.turn c.core.cl.m d })
/-- The task that issues holds the turn of its serialised launch until a switch point passes it on (R372). -/
def State.takeTurn (s : State) (c : CtxId) : State :=
  match s.serialOf (s.slot c) with
  | none => s
  | some l => s.modLaunch l (fun x => { x with turn := kset x.turn c.core.cl.m c })
/-- The contexts of a core in the order a switch point considers them: the handler context first (R348), then the slots in
ascending cyclic order from the current one, the current one last (R243); after the handler context, from the slot that issued before it, so that
every other ready slot issues before that one does again (R244). -/
def switchOrder (k : CoreId) (cur before : Fin 5) : List CtxId :=
  let b := if cur = 4 then before.val else cur.val
  ⟨k, 4⟩ :: [1, 2, 3, 4].map (fun d => ⟨k, Fin.ofNat 5 ((b + d) % 4)⟩)
/-- A switch point: the next ready context of the core issues; with none ready the same one goes on. -/
def switchPoint (s : State) (k : CoreId) : State :=
  let s := s.passTurn ⟨k, (s.core k).issuing⟩
  match (switchOrder k (s.core k).issuing (s.core k).from_).find? (fun c => s.ready c) with
  | some c => s.modCore k (fun x => { x with issuing := c.who, from_ := if x.issuing = 4 then x.from_ else x.issuing })
  | none => s
/-- An instruction executed again after a refusal with RETRY has not been refused again: that wait is met, and the watchdog count is 0 (R245, R361). -/
def Slot.metReissue (sl : Slot) : Slot := if sl.reissued then { sl with wcount := 0, reissued := false } else sl
/-- The issuing instruction must wait: it has had no effect and executes again when the wait is met (R43, R206). -/
def State.park (s : State) (r : WaitReason) : State :=
  switchPoint (s.setSelf { (match r with | .reissue _ => s.self | _ => s.self.metReissue) with wait := some r, reissued := false }) s.cur

/-- Whether a trap between instructions may be taken, or held: before one already held where R349 takes it before (R272). -/
def Slot.mayTrap (sl : Slot) (code : BitVec 9) : Bool :=
  !sl.speculative || match sl.held with | none => true | some t => decide (trapRank code < trapRank t.code)
/-- A trap at a context: a double trap in the handler context (R351), held under speculation (R272), and taken otherwise. -/
def State.raiseAt (s : State) (c : CtxId) (t : TrapInfo) : State :=
  if c.who = 4 then doubleTrap s c.core t
  else if (s.slot c).speculative then s.modSlot c (fun sl => { sl.leaveHeld t with held := some t, wait := some .certain, reissued := false })
  else takeTrap s c t false
/-- A trap at the issuing context, which is a switch point. -/
def State.raise (s : State) (t : TrapInfo) : State := switchPoint (s.raiseAt s.me t) s.cur

/-! ## Registers -/

/-- An a-register; a0 reads as zero (R40). -/
def Ctxt.ra (c : Ctxt) (r : BitVec 5) : DWord := if r = 0 then 0 else c.a[r.toNat]
/-- A write marks the pending results to the register as superseded (R49). -/
def supersede (d : RbDest) (rb : List RbEntry) : List RbEntry :=
  rb.map (fun e => if e.dest = d then { e with superseded := true } else e)
/-- An a-register written without regard to the return buffer; a0 discards (R40), and any write clears the mark (R157). -/
def Ctxt.putA (c : Ctxt) (r : BitVec 5) (v : DWord) (m : Option Mark) : Ctxt :=
  if r = 0 then c else { c with a := c.a.set r.toNat v, am := c.am.set r.toNat m }
/-- A short-class write of an a-register; a write of a0, which is discarded, supersedes nothing (R49, R157). -/
def Ctxt.wa (c : Ctxt) (r : BitVec 5) (v : DWord) : Ctxt :=
  if r = 0 then c else { c.putA r v none with rb := supersede (.areg r) c.rb }
/-- A vector register named by a specifier: v0 to v31, o0 to o7, l0 to l3 (R41). -/
def Ctxt.vreg (c : Ctxt) (d : BitVec 6) : VReg :=
  if h : d.toNat < 32 then c.v[d.toNat]
  else if h : d.toNat - 32 < 8 then c.o[d.toNat - 32]
  else if h : d.toNat - 40 < 4 then c.l[d.toNat - 40]
  else VReg.reset
/-- A v- or o-register written; other destinations hold no register. -/
def Ctxt.putV (c : Ctxt) (d : BitVec 6) (r : VReg) : Ctxt :=
  if h : d.toNat < 32 then { c with v := c.v.set d.toNat r }
  else if h : d.toNat - 32 < 8 then { c with o := c.o.set (d.toNat - 32) r }
  else c
/-- A short-class write of a v- or o-register; a write of vz, which is discarded, supersedes nothing (R49, R105). -/
def Ctxt.wv (c : Ctxt) (d : BitVec 6) (bits : VBits) (tag : Tag) : Ctxt :=
  if d = 63 then c else { c.putV d ⟨bits, tag, none⟩ with rb := supersede (.vec d) c.rb }
/-- The last-result file takes a result: l0 to l1 to l2 to l3 shift (R84). -/
def Ctxt.pushL (c : Ctxt) (r : VReg) : Ctxt := { c with l := #v[r, c.l[0], c.l[1], c.l[2]] }
/-- A predicate; k0 reads as all true (R40). -/
def Ctxt.rk (c : Ctxt) (k : Nat) : PBits := if h : k < 8 then (if k = 0 then BitVec.allOnes 32 else c.k[k]) else 0
def Ctxt.putK (c : Ctxt) (k : Nat) (v : PBits) : Ctxt := if h : k < 8 then (if k = 0 then c else { c with k := c.k.set k v }) else c
/-- A short-class write of a predicate; k0 discards (R40), and such a write supersedes nothing (R49). -/
def Ctxt.wk (c : Ctxt) (k : BitVec 6) (v : PBits) : Ctxt :=
  if k = 0 then c else { c.putK k.toNat v with rb := supersede (.pred k) c.rb }
/-- FLAGS bits ORed in (R77). -/
def Ctxt.orFlags (c : Ctxt) (f : BitVec 7) : Ctxt := { c with flags := c.flags ||| f.setWidth 64 }
def Ctxt.qOf (c : Ctxt) (n : Nat) : List QEntry := if h : n < 4 then c.q[n] else []
def Ctxt.setQ (c : Ctxt) (n : Nat) (l : List QEntry) : Ctxt := if h : n < 4 then { c with q := c.q.set n l } else c
def Ctxt.wOf (c : Ctxt) (n : Nat) : List QEntry := if h : n < 2 then c.w[n] else []
def Ctxt.setW (c : Ctxt) (n : Nat) (l : List QEntry) : Ctxt := if h : n < 2 then { c with w := c.w.set n l } else c
def Ctxt.pat (c : Ctxt) (p : Nat) : Pattern := if h : p < 4 then c.pats[p] else Pattern.reset
def Ctxt.setPat (c : Ctxt) (p : Nat) (v : Pattern) : Ctxt := if h : p < 4 then { c with pats := c.pats.set p v } else c
def Ctxt.tile (c : Ctxt) (t : Nat) : Tile := if h : t < 16 then c.tiles[t] else Tile.reset
def Ctxt.setTile (c : Ctxt) (t : Nat) (v : Tile) : Ctxt := if h : t < 16 then { c with tiles := c.tiles.set t v } else c
/-- The specifiers of w0 and w1 (R41). -/
def specIsW (d : BitVec 6) : Bool := d = 48 || d = 49
/-- The number of entries of a queue (R40). -/
def queueRoom : Nat := 16

/-! ## Deferred-fault marks (R157) -/

/-- The marks of the a-registers and vector operands an instruction reads. -/
def Ctxt.marks (c : Ctxt) (ra : List (BitVec 5)) (vs : List (BitVec 6)) : List Mark :=
  ra.filterMap (fun r => c.am[r.toNat]) ++
  vs.filterMap (fun d =>
    if d.toNat < 44 then (c.vreg d).mark
    else if 50 ≤ d.toNat && d.toNat < 58 then c.am[(BitVec.ofNat 5 (d.toNat - 26)).toNat] else none)
/-- The mark whose originating instruction is earlier in program order (R157). -/
def firstMark : List Mark → Option Mark
  | [] => none
  | m :: r => match firstMark r with
    | none => some m
    | some n => if n.order < m.order then some n else some m
/-- The trap a consumer takes (R157). -/
def Mark.trap (m : Mark) : TrapInfo := { m.info with dfr := true }

/-! ## Long-class results and the switch marker (R47 to R49) -/

/-- A long-class instruction takes an entry of the return buffer. -/
def Ctxt.pushRb (c : Ctxt) (dest : RbDest) (res : RbResult) (flags : BitVec 7 := 0) (l : Bool := false) : Ctxt :=
  { c with rb := c.rb ++ [{ dest := dest, result := res, flags := flags, writesL := l, returned := false, superseded := false,
                            behind := false, opc := c.pc, order := c.order }] }
/-- The long-class results outstanding (R47). -/
def Ctxt.outstanding (c : Ctxt) : Nat := (c.rb.filter (fun e => !e.behind)).length
/-- Whether a push to a w queue is still to be committed (R92, R111). -/
def Ctxt.pushPending (c : Ctxt) (d : BitVec 6) : Bool := c.rb.any (fun e => decide (e.dest = .vec d))
/-- A short-class push: at once, or behind the pushes to its queue that a marker is still to commit, since each queue keeps program order
(R43; assumption 56). -/
def Ctxt.pushW (c : Ctxt) (d : BitVec 6) (b : VBits) (t : Tag) : Ctxt :=
  if c.pushPending d then
    { c with rb := c.rb ++ [{ dest := .vec d, result := .vector b t, flags := 0, writesL := false, returned := true, superseded := false,
                              behind := true, opc := c.pc, order := c.order }] }
  else c.setW (d.toNat - 48) (c.wOf (d.toNat - 48) ++ [⟨b, t, none⟩])

/-- What the commit of one entry does. -/
inductive Commit where
  | ok (c : Ctxt)
  | trap (c : Ctxt) (t : TrapInfo)
  | wait (c : Ctxt) (r : WaitReason)
  deriving DecidableEq, Repr

/-- One pending result written (R49, R84, R105, R156, R164). -/
def commitResult (c : Ctxt) (e : RbEntry) : Commit :=
  match e.dest, e.result with
  | .areg r, .scalar v => .ok (if e.superseded then c else c.putA r v none)
  | .areg r, .fault m =>
    if e.superseded then .ok c else if r = 0 then .trap c m.trap else .ok (c.putA r 0 (some m))
  | .areg _, _ => .ok c
  | .pred k, .pred b => .ok (if e.superseded then c else c.putK k.toNat b)
  | .pred _, .fault m => if e.superseded then .ok c else .trap c m.trap
  | .pred _, _ => .ok c
  | .vec d, .vector b t =>
    let c1 := if e.writesL then c.pushL ⟨b, t, none⟩ else c
    if specIsW d then .ok (c1.setW (d.toNat - 48) (c.wOf (d.toNat - 48) ++ [⟨b, t, none⟩]))
    else .ok (if e.superseded then c1 else c1.putV d ⟨b, t, none⟩)
  | .vec d, .fault m =>
    let c1 := if e.writesL then c.pushL ⟨0, .none, some m⟩ else c
    if specIsW d then .ok (c1.setW (d.toNat - 48) (c.wOf (d.toNat - 48) ++ [⟨0, .none, some m⟩]))
    else if e.superseded then .ok c1
    else if d.toNat = 63 then .trap c1 m.trap
    else .ok (c1.putV d { c1.vreg d with mark := some m })
  | .vec _, _ => .ok c
/-- The w queue whose room a pending push must wait for (R43). -/
def pushBlocked (c : Ctxt) (e : RbEntry) : Option Nat :=
  match e.dest with
  | .vec d => if specIsW d && decide (queueRoom ≤ (c.wOf (d.toNat - 48)).length) then some (d.toNat - 48) else none
  | _ => none
/-- The commit of one entry: it waits for room, or its result is written and its bits are ORed into FLAGS (R77, R111). -/
def commitEntry (c : Ctxt) (e : RbEntry) : Commit :=
  match pushBlocked c e with
  | some n => .wait c (.wPush n)
  | none => commitResult (c.orFlags e.flags) e

/-- The pending results committed in program order, up to the first that traps or must wait. -/
def commitList : List RbEntry → Ctxt → Commit
  | [], c => .ok { c with rb := [] }
  | e :: r, c => match commitEntry c e with
    | .ok c' => commitList r c'
    | .trap c' t => .trap { c' with rb := r } t
    | .wait c' w => .wait { c' with rb := e :: r } w

/-- A switch marker: it parks until every long-class result has returned, and commits them (R48, R49). -/
def marker (s : State) (body : State → State) : State :=
  let c := s.cx
  if c.rb.all (fun e => e.returned) then
    match commitList c.rb c with
    | .ok c' => body (s.setCx c')
    | .trap c' t => (s.setCx c').raise t
    | .wait c' w => (s.setCx c').park w
  else s.park .marker

/-! ## Retirement (R246) -/

/-- One retirement: a QUANTUM that reaches 0 ends at the next boundary; 0 disables the count. -/
def Slot.retireOne (sl : Slot) : Slot :=
  if sl.quantum = 0 then sl else { sl with quantum := sl.quantum - 1, qend := decide (sl.quantum = 1) }

/-- The slot after an instruction of `len` bytes: the pc advances, or takes the pending branch's way after the delay slot
(R51); after the delay slot of a collective branch the context is kept and the run-ahead begins (R280). -/
def Slot.finish (sl : Slot) (len : Nat) : Slot :=
  let sl := sl.metReissue
  let next := sl.cx.pc + BitVec.ofNat 64 len
  match sl.cx.delay with
  | none => { sl with cx := { sl.cx with pc := next, order := sl.cx.order + 1 } }.retireOne
  | some d =>
    let c := { sl.cx with delay := none, order := sl.cx.order + 1 }
    match d.coll with
    | none => { sl with cx := { c with pc := d.target.getD next } }.retireOne
    | some r =>
      let r := { r with fall := next }
      let sl := { sl with cx := { c with pc := if r.pred then r.taken else next } }.retireOne
      { sl with ck := some ⟨{ c with pc := next }, r, d.branch, sl.quantum, sl.qend, sl.wlimit, sl.eclass, sl.einfo⟩ }

/-- The live entry tasks of a gang. -/
def liveEntries (s : State) (g : Nat) : List CtxId :=
  (s.gang g).entries.filter (fun c =>
    let sl := s.slot c
    decide (sl.phase ≠ .idle) && decide (sl.gang = some g) && decide (sl.role = .entry))
/-- Whether every live entry task of a gang has executed collective `k` of the launch (R278). -/
def gangOffers (s : State) (g k : Nat) : Bool :=
  let es := liveEntries s g
  !es.isEmpty && es.all (fun c => match (s.slot c).ck with | some x => x.coll.k = k | none => false)
/-- The collective branch a slot has executed, its delay slot or a run-ahead being next (R51, R280). -/
def Slot.atColl (sl : Slot) : Option CollRef := match sl.ck with | some k => some k.coll | none => sl.cx.delay.bind (fun d => d.coll)
/-- A gang whose last live entry task has executed a CYCT offers its pending residual, which is reset (R301, R322). -/
def offerGang (s : State) (g : Nat) : State :=
  let es := liveEntries s g
  let x := s.gang g
  let k := (s.launch x.launch).closed
  if x.offer.isNone && !es.isEmpty && es.all (fun c => match (s.slot c).atColl with | some r => r.op = 3 && r.k = k | none => false)
  then s.setGang g { x with offer := some ⟨x.cyc.pend, x.cyc.tol, x.cyc.max, x.cyc.rel, x.cyc.set⟩,
                            cyc := { x.cyc with pend := 0 } }
  else s
/-- A context has executed a collective branch and its delay slot; in a serialised launch it does not run ahead (R372). -/
def State.offered (s : State) (c : CtxId) (k : Nat) : State :=
  match (s.slot c).gang with
  | none => s
  | some g =>
    let s := offerGang s g
    if (s.launch (s.gang g).launch).serial then s.modSlot c (fun sl => { sl with wait := some (.collective k) }) else s
/-- The instruction of a context, `len` bytes long, has taken its effect. -/
def State.finishAt (s : State) (c : CtxId) (len : Nat) : State :=
  let t := s.modSlot c (fun sl => sl.finish len)
  match (s.slot c).cx.delay with
  | none => t
  | some d => match d.coll with | none => t | some r => t.offered c r.k
/-- The issuing instruction has taken its effect. -/
def State.finish (s : State) (len : Nat := 4) : State := s.finishAt s.me len
/-- It has taken its effect `c` on the context. -/
def State.done (s : State) (c : Ctxt) (len : Nat := 4) : State := (s.setCx c).finish len
/-- A branch has executed: its delay slot is next (R51). It retires with its delay slot (R246). -/
def State.branch (s : State) (c : Ctxt) (target : Option DWord) (coll : Option CollRef := none) : State :=
  s.setCx { c with delay := some ⟨c.pc, target, coll⟩, pc := c.pc + 4, order := c.order + 1 }

/-! ## What surrounds every instruction -/

/-- What `issue` must know of an instruction: its marker bit (for SYSRD and SYSWR always set, R48), its length and class,
whether it is in the control set of R52, whether the handler context (R351) and an exchange phase (R253) allow it,
whether a speculative context parks at it (R228, R271), and the registers it reads. -/
structure Iss where
  s       : Bool
  len     : Nat := 4
  long    : Bool := false
  control : Bool := false
  hOk     : Bool := false
  xOk     : Bool := false
  parks   : Bool := false
  a       : List (BitVec 5) := []
  v       : List (BitVec 6) := []
  deriving DecidableEq, Repr

/-- The checks that stand before an instruction's own, in order: the control set in a delay slot (R52, R53), what the
handler context may execute (R351), the switch marker and the ninth long-class result (R47, R48), the exchange phase
(R253), the parking of a speculative context (R271), and the marks of the registers it reads (R157). -/
def issue (q : Iss) (s : State) (body : State → State) : State :=
  if q.control && s.cx.delay.isSome then s.raise (trapInfo 0x007)
  else if s.me.who = 4 && !q.hOk then doubleTrap s s.cur (trapInfo 0x01A)
  else
    let rest := fun (s : State) =>
      if s.self.inXchg && !q.xOk then s.raise (trapInfo 0x0D0)
      else if q.parks && s.self.speculative then s.park .certain
      else match firstMark (s.cx.marks q.a q.v) with
        | some m => s.raise m.trap
        | none => body s
    if q.s || (q.long && s.cx.outstanding ≥ 8) then marker s rest else rest s

/-! ## What the front ends have done on the queues ahead of each other (R42, R391) -/

/-- A queue, q or w. -/
def Ctxt.que (c : Ctxt) (w : Bool) (n : Nat) : List QEntry := if w then c.wOf n else c.qOf n
def Ctxt.setQue (c : Ctxt) (w : Bool) (n : Nat) (l : List QEntry) : Ctxt := if w then c.setW n l else c.setQ n l
/-- The number of entries of a queue given ahead of their push. -/
def Ctxt.gaveN (c : Ctxt) (w : Bool) (n : Nat) : Nat := (c.ahead.filter (fun x => decide (x = .gave w n))).length
/-- The queues of a context. -/
def allQueues : List (Bool × Nat) := [(false, 0), (false, 1), (false, 2), (false, 3), (true, 0), (true, 1)]
/-- A trap or a stop undoes the pushes of later instructions (R391). -/
def Ctxt.undone (b : Ctxt) : Ctxt :=
  let c := allQueues.foldl (fun c p => c.setQue p.1 p.2 ((c.que p.1 p.2).take ((c.que p.1 p.2).length - b.gaveN p.1 p.2))) b
  { c with ahead := b.ahead.filter (fun x => match x with | .gave .. => false | _ => true) }
/-- The context of a checkpoint on a side of its branch: after the delay slot, or at a delay slot that leads there (R51, R280, R322); what the
run-ahead has pushed early is undone with it (R280, R391). -/
def Checkpoint.at_ (k : Checkpoint) (pc : DWord) : Ctxt :=
  let x := k.cx.undone
  match x.delay with
  | none => { x with pc := pc }
  | some d => { x with delay := some { d with target := some pc } }

end Sys2Proof.Machine
end

