-- ==== Sys2Proof/Machine/Regs.lean ====
section
/-! DEFINITION. The system registers as they are read and written (R8, R353, R354), the registers a context holds for its gang and
launch (R267, R276, R300), and the core system window (R362). -/

namespace Sys2Proof.Machine

/-- The cumulative likelihood of a chain, which holds unresolved entries only (R266). -/
def like (ch : List ChainEntry) : Nat := ch.foldl (fun l e => l * e.q / 0x10000) 0x10000
/-- The members of a RESIDENT launch: its gangs neither killed nor retired (R276). -/
def members (s : State) (l : Nat) : List Nat :=
  (s.gangs.filter (fun g => g.2.launch = l && (match g.2.status with | .killed => false | .retired => false | _ => true))).map (·.1)
/-- The set a process names on a module. -/
def State.wset (s : State) (m : Nat) (pid : BitVec 8) (n : BitVec 6) : Option Wset :=
  (s.module m).wsets.find? (fun w => w.pid = pid && w.set = n)
/-- The seal count of a set; 0 where there is none. -/
def State.sealCount (s : State) (m : Nat) (pid : BitVec 8) (n : BitVec 6) : DWord :=
  match s.wset m pid n with | some w => w.c | none => 0
/-- The quadrant of a cluster (R19, R24): the halves of the columns and of the rows. -/
def quadrantOf (cl : ClusterId) : Nat := (if 96 ≤ cl.x then 1 else 0) + (if 84 ≤ cl.y then 2 else 0)
/-- CYCSTATE (R300). -/
def cycWord (c : CycState) : DWord :=
  let b := fun (p : Bool) (v : Nat) => if p then v else 0
  BitVec.ofNat 64 (b c.rel 0x8000 + b c.isOpen 0x4000 + c.set.toNat * 256 + b c.exhausted 2 + b c.converged 1)
/-- PWRBUD of a quadrant of a module. -/
def State.pwrbud (s : State) (cl : ClusterId) : DWord := (s.module cl.m).pwrbud.toList.getD (quadrantOf cl) 0

/-- A register 0x00 to 0x1F of a context (R353). -/
def sysRead (s : State) (c : CtxId) (sel : Nat) : DWord :=
  let sl := s.slot c
  let n := BitVec.ofNat 64
  let l := s.launchOf c
  let cyc := (s.gangOf c).cyc
  match sel with
  | 0x00 => sl.taskId
  | 0x01 => sl.slotgen
  | 0x02 => sl.lid.setWidth 64
  | 0x03 => sl.pid.setWidth 64
  | 0x04 => n c.core.n
  | 0x05 => n c.core.cl.x
  | 0x06 => n c.core.cl.y
  | 0x07 => n c.core.cl.m
  | 0x08 => sl.seed
  | 0x09 => sl.nbv.setWidth 64
  | 0x0A => sl.cause
  | 0x0B => sl.epc
  | 0x0C => sl.einfo
  | 0x0D => sl.eaddr
  | 0x0E => sl.cx.flags
  | 0x0F => sl.quantum
  | 0x10 => n sl.wlimit
  | 0x11 => cyc.cnt.setWidth 64
  | 0x12 => cyc.resid.setWidth 64
  | 0x13 => cyc.resid0.setWidth 64
  | 0x14 => cyc.tol.setWidth 64
  | 0x15 => cyc.max.setWidth 64
  | 0x16 => cycWord cyc
  | 0x17 => n (like sl.chain)
  | 0x18 => if l.rc.resident then n ((members s (s.gangOf c).launch).length % 2 ^ 32) else 0
  | 0x19 => n ((s.gangOf c).block % 2 ^ 40)
  | 0x1A => if l.rc.resident then l.cmgen.setWidth 64 else 0
  | 0x1B => sl.cbrstat
  | 0x1C => s.sealCount c.core.cl.m sl.pid cyc.set
  | 0x1D => sl.digest
  | 0x1E => s.pwrbud c.core.cl
  | 0x1F => (s.module c.core.cl.m).lattol
  | _ => 0
/-- The bits of a register that a write gives it; the others are reserved (R8), or read only in PWRBUD (R254). -/
def sysMask (sel : Nat) : DWord :=
  match sel with
  | 0x0A => 0x1FF
  | 0x0C => 0xFFFFFFFFFFFFFFFC
  | 0x0E => 0x7F
  | 0x1E | 0x1F => 0xFFFFFFFF
  | 0x21 => 3
  | _ => BitVec.allOnes 64
/-- The reserved bits of a register: a nonzero write to one sets EINFO.RSVW (R8). -/
def sysReserved (sel : Nat) : DWord :=
  match sel with
  | 0x0C => 3
  | 0x0E => 0xFFFFFFFFFFFFFF80
  | 0x1E => 0xFFFFFFFC00000000
  | 0x1F => 0xFFFFFFFF00000000
  | _ => 0
/-- The registers 0x00 to 0x1F that the handler context may write (R354). -/
def sysWritable (sel : Nat) : Bool := (0x0A ≤ sel && sel ≤ 0x10) || (0x1D ≤ sel && sel ≤ 0x1F)
/-- The time a power state takes to leave, in ns (R26). -/
def Power.exitTime : Power → Nat | .run => 0 | .doze => 2000 | .lull => 60000 | .calm => 2000000
/-- LATTOL written: a module in a deeper state than it allows begins its exit (R377, R378). -/
def setLattol (s : State) (m : Nat) (v : DWord) : State :=
  let tol := (v &&& 0xFFFFFFFF).toNat
  s.modModule m (fun x => { x with lattol := BitVec.ofNat 64 tol,
                                   waking := x.waking || (tol ≠ 0xFFFFFFFF && decide (tol < x.power.exitTime)) })
/-- BUDGET of a quadrant's PWRBUD written; with 0 STATE is NORMAL (R254). -/
def setBudget (s : State) (m q : Nat) (v : DWord) : State :=
  s.modModule m (fun x => { x with pwrbud := x.pwrbud.mapIdx (fun i w =>
    if i = q then (if v &&& 0xFFFFFFFF = 0 then 0 else (w &&& 0x300000000) ||| (v &&& 0xFFFFFFFF)) else w) })
/-- A register 0x00 to 0x1F of a context written (R246, R354, R355). -/
def sysWrite (s : State) (c : CtxId) (sel : Nat) (v : DWord) : State :=
  let x := v &&& sysMask sel
  match sel with
  | 0x0A => s.modSlot c (fun sl => { sl with cause := x })
  | 0x0B => s.modSlot c (fun sl => { sl with epc := x })
  | 0x0C => s.modSlot c (fun sl => { sl with einfo := x })
  | 0x0D => s.modSlot c (fun sl => { sl with eaddr := x })
  | 0x0E => s.modCx c (fun cx => { cx with flags := x })
  | 0x0F => s.modSlot c (fun sl => { sl with quantum := x, qend := false })
  | 0x10 => s.modSlot c (fun sl => { sl with wlimit := x.toNat })
  | 0x1D => s.modSlot c (fun sl => { sl with digest := x })
  | 0x1E => setBudget s c.core.cl.m (quadrantOf c.core.cl) v
  | 0x1F => setLattol s c.core.cl.m v
  | _ => s
/-- Whether an offset of the window is reserved (R362). -/
def windowReserved (off : Nat) : Bool :=
  !([0x000, 0x008, 0x010, 0x018, 0x020, 0x028, 0x900, 0x908, 0x940, 0x948, 0x950, 0x958, 0x960].contains off) &&
  !(decide (0x100 ≤ off) && decide (off < 0x900))
/-- A write to reserved bits is remembered in the EINFO of the context that makes it, or, where a service core makes it, of the slot whose image
it is in (R8, assumption 57). -/
def noteReserved (s : State) (c : CtxId) (sel : Nat) (v : DWord) : State :=
  if v &&& sysReserved sel = 0 then s else s.modSlot c (fun sl => { sl with einfo := sl.einfo ||| 0x100 })

/-! ## The core system window (R362) -/

/-- The slot and the doubleword of an offset in a slot image. -/
def imageAt (off : Nat) : Option (Fin 5 × Nat) :=
  if 0x100 ≤ off && off < 0x900 then some (Fin.ofNat 5 ((off - 0x100) / 0x200), (off - 0x100) % 0x200 / 8) else none
/-- A doubleword of a core's window. -/
def windowWord (s : State) (k : CoreId) (off : Nat) : DWord :=
  let c := s.core k
  match imageAt off with
  | some (w, i) =>
    if i < 32 then sysRead s ⟨k, w⟩ i else (s.slot ⟨k, w⟩).cx.ra (BitVec.ofNat 5 (i - 32))
  | none => match off with
    | 0x000 => c.tvec
    | 0x008 => c.hwdog
    | 0x010 => BitVec.ofNat 64 ((if c.halted then 16 else 0) + (slotIds k).foldl (fun a d =>
        a + (if (s.slot d).phase = .forwarded then 2 ^ d.who.val else 0)) 0)
    | 0x020 => c.qdefault
    | 0x028 => c.wdefault
    | 0x908 => c.allocSt.setWidth 64
    | 0x960 => c.wsetSt
    | _ => 0
/-- The bytes of a core's window as one number. -/
def windowBytes (s : State) (k : CoreId) (off n : Nat) : Nat :=
  ((windowWord s k (off / 8 * 8)).toNat >>> (8 * (off % 8))) % 2 ^ (8 * n)
/-- Whether a write keeps the rules of the window; a reserved offset takes it and ignores it (R8). -/
def windowAllows (s : State) (k : CoreId) (off n : Nat) : Bool :=
  n = 8 && off % 8 = 0 && off ≠ 0x010 && off ≠ 0x908 && off ≠ 0x960 &&
  match imageAt off with
  | some (w, i) => decide ((s.slot ⟨k, w⟩).phase = .forwarded) && (32 ≤ i || sysWritable i)
  | none => true
/-- Whether a location is SLOTCTL's and a value for it none of its two commands, which the table does not give (R362). -/
def slotctlRefuses (l v : Nat) : Bool := !isHbm l && locRegion l = 4 && bits l 14 0 = 0x018 && decide (2 ≤ v % 4)
/-- The turns of an agenda that window writes have taken before anything else. -/
def Turn.isWindow : Turn → Bool | .window .. => true | _ => false
/-- A write that reaches the window, from the handler context of a core or from a service core: it is carried out next, after those that came
before it (R310, R362). -/
def windowWrite (s : State) (by_ : Option CoreId) (k : CoreId) (off : Nat) (v : DWord) : State :=
  { s with agenda := s.agenda.takeWhile Turn.isWindow ++ .window by_ k off v :: s.agenda.dropWhile Turn.isWindow }

end Sys2Proof.Machine
end

