-- ==== Sys2Proof/Machine/Access.lean ====
section
/-! DEFINITION. Memory as a context reaches it: the four address forms (R169), the checks a core makes at issue (R103,
R151, R170, R178), translation at a station (R331 to R334), the checks of an owning core (R153, R171, R336), drafts
(R270), loads, stores with their confirmation (R106, R150, R154), determinism digests (R369), and instruction fetch
(R148). -/

namespace Sys2Proof.Machine

/-- The address forms of R169. -/
inductive Form where
  | priv (off : Nat)
  | virt (va : Nat)
  | glob (m x y core region off : Nat)
  | remote (m va : Nat)
  | none
  deriving DecidableEq, Repr

/-- The form of an address (R169). -/
def form (a : DWord) : Form :=
  let v := a.toNat
  if v < 0x8000 then .priv v
  else if Config.userBase ≤ v && v < Config.userEnd then .virt v
  else if v / 2 ^ 62 = 2 && bits v 32 18 = 0 && bits v 17 15 < 5 then
    .glob (bits v 61 52) (bits v 43 36) (bits v 51 44) (bits v 35 33) (bits v 17 15) (bits v 14 0)
  else if v / 2 ^ 62 = 3 && Config.userBase ≤ v % 2 ^ 52 then .remote (bits v 61 52) (v % 2 ^ 52)
  else .none
def Form.isPriv : Form → Bool | .priv _ => true | _ => false
def Form.isVirt : Form → Bool | .virt _ => true | _ => false
def Form.isGlob : Form → Bool | .glob .. => true | _ => false
def Form.isRemote : Form → Bool | .remote .. => true | _ => false
def Form.isNone : Form → Bool | .none => true | _ => false
/-- Two addresses of one form. -/
def Form.same (f g : Form) : Bool :=
  (f.isPriv && g.isPriv) || (f.isVirt && g.isVirt) || (f.isGlob && g.isGlob) || (f.isRemote && g.isRemote)

def accCode : Access → BitVec 2
  | .read => 0 | .write => 1 | .readWrite => 2 | .fetch => 3
def accReads : Access → Bool | .write => false | _ => true
def accWrites : Access → Bool | .write => true | .readWrite => true | _ => false

/-- The identity every request carries, PID, LAUNCHID and SLOTGEN (R329), and the context it comes from. -/
structure Who where
  pid  : BitVec 8
  lid  : BitVec 32
  gen  : DWord
  sys  : Bool
  ctx  : CtxId
  deriving DecidableEq, Repr
def Who.core (w : Who) : CoreId := w.ctx.core

/-- The identity of a context; the handler context runs with system privilege under PID 0 (R348). -/
def State.whoIs (s : State) (c : CtxId) : Who :=
  if c.who = 4 then ⟨0, 0, 0, true, c⟩ else ⟨(s.slot c).pid, (s.slot c).lid, (s.slot c).slotgen, false, c⟩

/-! ## Tiles over the bytes of a scratchpad (R122, R178) -/

/-- The bytes of a tile of a tag (R122). -/
def tileBytes : Tag → Nat
  | .none => 0
  | .fp64 | .int64 => 8192
  | .fp32 | .int32 | .uint32 => 4096
  | .fp16 | .bf16 | .int16 => 2048
  | .tap8 | .int8 | .uint8 => 1024
  | .tap6 => 768
  | .int4 => 512
/-- Whether a byte of the span lies in the tile. -/
def Tile.covers (t : Tile) (off n : Nat) : Bool :=
  t.alloc && decide (off < t.storage.toNat + tileBytes t.tag) && decide (t.storage.toNat < off + n) && decide (0 < tileBytes t.tag)
/-- Whether the tile guard refuses a span of a core's scratchpad: a byte of it lies in a tile that is not READY, of a slot
whose launch keeps the guard on (R178). -/
def State.guarded (s : State) (k : CoreId) (off n : Nat) : Bool :=
  (slotIds k).any (fun c =>
    let sl := s.slot c
    sl.cx.tiles.toList.any (fun t => t.covers off n && decide (t.state ≠ .ready)) && !(s.launchOf c).rc.noguard)
/-- Whether every byte of a span of the private alias lies in slot regions held by the context's gang (R170). -/
def State.ownsPriv (s : State) (c : CtxId) (off n : Nat) : Bool :=
  decide (off + n ≤ 0x8000) &&
  match (s.slot c).gang with
  | none => false
  | some g => [off / 0x2000, (off + n - 1) / 0x2000].all (fun t =>
      (s.gang g).held.contains ⟨c.core, Fin.ofNat 5 t⟩)

/-! ## Translation (R330 to R334) -/

/-- HBM of one module: 576 GiB (R16). -/
def hbmSize : Nat := 576 * 2 ^ 30
/-- The low bit and the width of the index of each level (R331), and the size of a page a leaf there maps. -/
def levelIndex (level va : Nat) : Nat :=
  match level with | 0 => bits va 51 39 | 1 => bits va 38 30 | 2 => bits va 29 21 | _ => bits va 20 16
def pageSize (level : Nat) : Nat := match level with | 0 => 2 ^ 39 | 1 => 2 ^ 30 | 2 => 2 ^ 21 | _ => 2 ^ 16
/-- The station of a virtual address (R172). -/
def stationOf (va : Nat) : Nat := va / 4096 % 192

/-- What a walk ends in: a leaf, or a fault with the level at which it stopped (R333, R347). -/
inductive Walk where
  | leaf (e : TlbEntry)
  | fault (code : BitVec 9) (level : BitVec 3)
  deriving DecidableEq, Repr

/-- The walk of R333 from table `t` at the levels given. -/
def walkFrom (s : State) (m : Nat) (pid : BitVec 8) (va : Nat) : List Nat → Nat → Walk
  | [], _ => .fault 0x048 3
  | level :: rest, t =>
    let loc := hbmLoc m (t + 8 * levelIndex level va)
    if s.poisoned loc 8 then .fault 0x050 (BitVec.ofNat 3 level)
    else
      let d := Memory.getN s.mem loc 8
      let leaf := d.testBit 1
      let pa := bits d 39 12 * 4096
      let bad := !d.testBit 0 || bits d 63 40 ≠ 0 || bits d 11 5 ≠ 0 || (level = 0 && leaf) || (level = 3 && !leaf) ||
        (leaf && pa % pageSize level ≠ 0)
      if bad then .fault 0x048 (BitVec.ofNat 3 level)
      else if leaf then
        .leaf { m := m, station := stationOf va, pid := pid, va := va / pageSize level * pageSize level, size := pageSize level,
                pa := pa, r := d.testBit 2, w := d.testBit 3, x := d.testBit 4 }
      else walkFrom s m pid va rest pa
/-- A translation a station keeps (R334). -/
def cached (s : State) (m : Nat) (pid : BitVec 8) (va : Nat) : Option TlbEntry :=
  s.tlb.find? (fun e => e.m = m && e.station = stationOf va && e.pid = pid && decide (e.va ≤ va) && decide (va < e.va + e.size))
/-- The walk of a virtual address under a PID on a module: EN is asked first, whatever the station keeps (R330, R333, R334). -/
def pageWalk (s : State) (m : Nat) (pid : BitVec 8) (va : Nat) : Walk :=
  let e := (kget (s.module m).pids pid 0).toNat
  if !e.testBit 0 then .fault 0x048 4
  else match cached s m pid va with
    | some t => .leaf t
    | none => walkFrom s m pid va [0, 1, 2, 3] (bits e 39 16 * 65536)
/-- The level of a leaf, from its page size. -/
def leafLevel (e : TlbEntry) : BitVec 3 := if e.size = 2 ^ 30 then 1 else if e.size = 2 ^ 21 then 2 else 3
/-- The rights an access needs (R333). -/
def TlbEntry.allows (e : TlbEntry) : Access → Bool
  | .read => e.r | .write => e.w | .readWrite => e.r && e.w | .fetch => e.x
/-- Whether a span of virtual addresses meets the sealed copy of a weight set of the process (R225). -/
def State.sealed (s : State) (m : Nat) (pid : BitVec 8) (va n : Nat) : Bool :=
  (s.module m).wsets.any (fun w =>
    let p := if w.c.toNat % 2 = 0 then w.p0.toNat else w.p1.toNat
    w.pid = pid && decide (va < p + w.size) && decide (p < va + n))

/-- How a checked access ends: at a location, refused with RETRY (R361), or with a cause. -/
inductive Acc where
  | loc (l : Nat)
  | retry
  | fault (t : TrapInfo)
  deriving DecidableEq, Repr

/-- The station's part of an access to HBM: the translation, its rights, and the sealed-set rule for writes (R225,
R333); `wr` tells whether the access writes, where its rights alone do not. -/
def stationAccess (s : State) (m : Nat) (pid : BitVec 8) (va n : Nat) (acc : Access) (ea : DWord)
    (wr : Bool := accWrites acc) : Acc :=
  match pageWalk s m pid va with
  | .fault c l => .fault (trapInfo c ea (accCode acc) l)
  | .leaf e =>
    if !e.allows acc then .fault (trapInfo 0x049 ea (accCode acc) (leafLevel e))
    else if wr && s.sealed m pid va n then .fault (trapInfo 0x162 ea (accCode acc))
    else
      let pa := e.pa + (va - e.va)
      if hbmSize < pa + n then .fault (trapInfo 0x051 ea (accCode acc)) else .loc (hbmLoc m pa)

/-! ## The pod (R311, R312) -/

/-- The extent of a dimension of the torus, a module's coordinate in it, and the step of its number. -/
def State.extent (s : State) : Nat → Nat | 0 => s.dims.1 | 1 => s.dims.2.1 | _ => s.dims.2.2
def State.stride (s : State) : Nat → Nat | 0 => 1 | 1 => s.dims.1 | _ => s.dims.1 * s.dims.2.1
def State.coord (s : State) (m d : Nat) : Nat := m / s.stride d % s.extent d
/-- The module with coordinate `q` in a dimension. -/
def State.withCoord (s : State) (m d q : Nat) : Nat := m - s.coord m d * s.stride d + q * s.stride d
/-- Whether a port works. -/
def State.portUp (s : State) (m p : Nat) : Bool := (s.module m).ports.toList.getD p true
/-- The next module in a dimension, the + way or the - way. -/
def State.nextMod (s : State) (m d : Nat) (up : Bool) : Nat :=
  let n := s.extent d
  s.withCoord m d ((s.coord m d + (if up then 1 else n - 1)) % n)
/-- Whether one of the two ports of a direction carries traffic to the next module (R312): port `i` of a direction joins port `i` of the
opposite one. -/
def State.linkUp (s : State) (m d : Nat) (up : Bool) : Bool :=
  let out := 4 * d + (if up then 0 else 2)
  let inn := 4 * d + (if up then 2 else 0)
  [0, 1].any (fun i => s.portUp m (out + i) && s.portUp (s.nextMod m d up) (inn + i))
/-- Whether every link of a way of `n` hops works. -/
def State.wayUp (s : State) (d : Nat) (up : Bool) : Nat → Nat → Bool
  | 0, _ => true
  | n + 1, m => s.linkUp m d up && s.wayUp d up n (s.nextMod m d up)
/-- Whether a message gets from one coordinate of a dimension to another, one way round or the other. -/
def State.ringUp (s : State) (m d q : Nat) : Bool :=
  let n := s.extent d
  let up := (q + n - s.coord m d) % n
  s.wayUp d true up m || s.wayUp d false ((n - up) % n) m
/-- Whether module `a` reaches module `b`, in the order X, Y, Z (R311, R312). -/
def State.reaches (s : State) (a b : Nat) : Bool :=
  a = b || (s.ringUp a 0 (s.coord b 0) &&
    (let a1 := s.withCoord a 0 (s.coord b 0)
     s.ringUp a1 1 (s.coord b 1) && s.ringUp (s.withCoord a1 1 (s.coord b 1)) 2 (s.coord b 2)))
/-- Whether a request of one module to another must be held until the other has left a power state (R378). -/
def State.asleep (s : State) (own m : Nat) : Bool := decide (own ≠ m) && decide ((s.module m).power ≠ .run)
/-- The module that an address names to a context of module `own`. -/
def moduleOf (own : Nat) (a : DWord) : Nat := match form a with | .glob m .. => m | .remote m _ => m | _ => own
/-- Whether a message to an address is held. -/
def State.holds (s : State) (own : Nat) (a : DWord) : Bool := s.asleep own (moduleOf own a)

/-! ## The owning core (R153, R171, R336) -/

def regionSize : Nat → Nat
  | 0 => 0x8000 | 1 => 0x8000 | 2 => 0x400 | 3 => 0x400 | _ => 0x1000
/-- Whether a gang of the requester's launch and process, in one of the states given, holds a context that `p` accepts. -/
def State.launchHolds (s : State) (w : Who) (live : GangStatus → Bool) (p : CtxId → Bool) : Bool :=
  s.gangs.any (fun g => live g.2.status && (s.launch g.2.launch).lid = w.lid && (s.launch g.2.launch).pid = w.pid &&
    g.2.held.any p)
def GangStatus.out : GangStatus → Bool | .stopped => true | _ => false
/-- Whether a context slot holds a live task of the requester's launch and process (R153, R233). -/
def State.holdsLive (s : State) (w : Who) (c : CtxId) : Bool :=
  let sl := s.slot c
  decide (sl.phase ≠ .idle) && sl.lid = w.lid && sl.pid = w.pid && s.gangRuns sl

/-- What of the addressed place holds no live task of the requester's launch and process, each as the contexts it names: the slots of the
regions or inboxes that a byte of the access reaches, or else the core or cluster (R153, R233). -/
def staleIn (s : State) (w : Who) (cl : ClusterId) (core region off n : Nat) : List (CtxId → Bool) :=
  let slots := fun (size : Nat) =>
    (([0, 1, 2, 3] : List Nat).filter (fun i => decide (size * i < off + n) && decide (off < size * (i + 1)) &&
      !s.holdsLive w ⟨⟨cl, core⟩, Fin.ofNat 5 i⟩)).map (fun i (c : CtxId) => decide (c = ⟨⟨cl, core⟩, Fin.ofNat 5 i⟩))
  let place := fun (p : CtxId → Bool) => if s.launchHolds w GangStatus.onChip p then [] else [p]
  match region with
  | 0 => slots 0x2000
  | 3 => slots 0x100
  | 4 => []
  | 1 => place (fun c => decide (c.core.cl = cl))
  | _ => place (fun c => decide (c.core = ⟨cl, core⟩))
/-- The checks of an owning core, in the order REFUSED, PERMISSION, STALE_SLOT, TILE_GUARD (R153). An access of a
switched-out gang's own launch is refused with RETRY (R361). -/
def ownerAccess (s : State) (w : Who) (m x y core region off n : Nat) (acc : Access) (ea : DWord) : Acc :=
  let cl : ClusterId := ⟨m, x, y⟩
  let k : CoreId := ⟨cl, core⟩
  let f := fun code => Acc.fault (trapInfo code ea (accCode acc))
  if m < s.modCount && s.reaches w.core.cl.m m && s.asleep w.core.cl.m m then .retry
  else if s.modCount ≤ m || !s.reaches w.core.cl.m m || 191 < x || 167 < y || regionSize region < off + n || (s.cluster cl).fenced || !(s.module m).clustersOn
  then f 0x051
  else if (region = 2 && accWrites acc) || (region = 3 && accReads acc) || (region = 4 && !w.sys) || (acc = .readWrite && 2 ≤ region)
  then f 0x049
  else
    let stale := staleIn s w cl core region off n
    if region = 4 && accWrites acc && !windowAllows s k off n then f 0x051
    else if !stale.isEmpty then (if stale.all (s.launchHolds w GangStatus.out) then .retry else f 0x052)
    else if region = 0 && s.guarded k off n then f 0x088
    else if region = 1 then .loc (wbufLoc cl (core % 2 * 2 ^ 15 + off))
    else .loc (globLoc m x y core region off)

/-- The checks found after issue of an access by an agent with an identity: at a station or at the owning core. The private
alias, whose checks are made at issue, goes straight to the scratchpad. -/
def access (s : State) (w : Who) (a : DWord) (n : Nat) (acc : Access) (wr : Bool := accWrites acc) : Acc :=
  match form a with
  | .priv off => .loc (privLoc w.core off)
  | .virt va => stationAccess s w.core.cl.m w.pid va n acc a wr
  | .remote m va =>
    if s.modCount ≤ m || !s.reaches w.core.cl.m m then .fault (trapInfo 0x051 a (accCode acc))
    else if s.asleep w.core.cl.m m then .retry
    else stationAccess s m w.pid va n acc a wr
  | .glob m x y core region off => ownerAccess s w m x y core region off n acc a
  | .none => .fault (trapInfo 0x041 a (accCode acc))

/-! ## Tile metadata (R176) -/

def Tag.code : Tag → Nat
  | .none => 0 | .fp64 => 1 | .fp32 => 2 | .fp16 => 3 | .bf16 => 4 | .tap8 => 5 | .tap6 => 6 | .int8 => 7 | .uint8 => 8
  | .int4 => 9 | .int16 => 10 | .int32 => 11 | .uint32 => 12 | .int64 => 13
/-- The tag of a code; 0, 14 and 15 give NONE, which no field that reaches here holds but as NONE (R61). -/
def tagOf : Nat → Tag
  | 1 => .fp64 | 2 => .fp32 | 3 => .fp16 | 4 => .bf16 | 5 => .tap8 | 6 => .tap6 | 7 => .int8 | 8 => .uint8 | 9 => .int4
  | 10 => .int16 | 11 => .int32 | 12 => .uint32 | 13 => .int64 | _ => .none
/-- Bits of an element in a register and bytes of an element in memory (R61); TAP6 and INT4 are packed in memory. -/
def Tag.ebits : Tag → Nat
  | .none => 8 | .fp64 => 64 | .fp32 => 32 | .fp16 => 16 | .bf16 => 16 | .tap8 => 8 | .tap6 => 8 | .int8 => 8 | .uint8 => 8
  | .int4 => 8 | .int16 => 16 | .int32 => 32 | .uint32 => 32 | .int64 => 64
def Tag.lanes (t : Tag) : Nat := Config.vlen / t.ebits
def Tag.packed : Tag → Bool | .tap6 => true | .int4 => true | _ => false
def TileState.code : TileState → Nat | .empty => 0 | .filling => 1 | .ready => 2 | .draining => 3
/-- Doubleword 0 of an entry's metadata (R176). -/
def Tile.word (t : Tile) : DWord :=
  if !t.alloc then 0 else
  BitVec.ofNat 64 (t.version.toNat * 2 ^ 32 + t.tag.code * 2 ^ 20 + 2 ^ 19 + (if t.corrupt then 2 ^ 18 else 0) +
    t.state.code * 2 ^ 16 + t.storage.toNat)
/-- The bytes of a core's metadata region as one number. -/
def metaBytes (s : State) (k : CoreId) (off n : Nat) : Nat :=
  let t := (s.slot ⟨k, Fin.ofNat 5 (off / 256)⟩).cx.tile (off / 16 % 16)
  let w := if off % 16 < 8 then t.word.toNat else 0
  (w >>> (8 * (off % 8))) % 2 ^ (8 * n)

/-- A read at the home; none where a unit is poisoned (R236, R346). -/
def State.homeRead (s : State) (loc n : Nat) : Option Nat :=
  if s.poisoned loc n then none
  else if !isHbm loc && locRegion loc = 2 then some (metaBytes s (locCore loc) (bits loc 14 0) n)
  else if !isHbm loc && locRegion loc = 4 then some (windowBytes s (locCore loc) (bits loc 14 0) n)
  else some (Memory.getN s.mem loc n)

/-- The context whose inbox a location lies in. -/
def inboxAt (l : Nat) : Option CtxId :=
  if !isHbm l && locRegion l = 3 then some ⟨locCore l, Fin.ofNat 5 (bits l 14 0 / 256)⟩ else none
/-- What a checked write finds at its home (R358, R360). -/
inductive InboxRoom where
  | free | area (c : CtxId) (g : Nat) | full
  deriving DecidableEq, Repr
/-- The bytes of a gang's overflow that target a cluster. -/
def Gang.overflowed (g : Gang) (cl : ClusterId) : Nat :=
  (g.overflow.map (fun r => if r.slot.core.cl = cl then r.req.size + Config.overflowHead else 0)).sum
/-- Where a write of `n` bytes goes: to its location, or, where the inbox of a stopping gang is full, to the 64 KiB overflow area of the
gang's cluster, unless that is full too. The manual does not say when an inbox is full: a free value (R360, assumption 8). -/
def State.room (s : State) (l n : Nat) : InboxRoom :=
  match inboxAt l with
  | none => .free
  | some c =>
    let g := (s.slot c).gang.getD 0
    if (s.gang g).status ≠ .stopping || (Config.freeValue s.fresh).getLsbD 0 then .free
    else if 65536 < (s.gang g).overflowed c.core.cl + n + Config.overflowHead then .full
    else .area c g
/-- A message written to a stopping gang's overflow area (R360). -/
def State.overflow (s : State) (g : Nat) (o : Overflow) : State := s.tick.modGang g (fun x => { x with overflow := x.overflow ++ [o] })
/-- A write at its home by an identity, its checks made: in a core's system window it acts there (R362), it may go to a stopping gang's
overflow area or, that being full, is refused (R360), and one of a packed element changes the bits of its mask (R175), a mark on its unit staying (R236). -/
def State.homeWrite (s : State) (w : Who) (a : DWord) (loc n v mask : Nat) : State :=
  if !isHbm loc && locRegion loc = 4 then
    windowWrite s (if w.sys then some w.core else none) (locCore loc) (bits loc 14 0) (BitVec.ofNat 64 v)
  else match s.room loc n with
    | .area c g => s.overflow g ⟨⟨w.pid, w.lid, w.gen, w.sys, a, .write, n, v, mask⟩, none, c, w.ctx, none⟩
    | .full => s
    | .free => if mask = 2 ^ (8 * n) - 1 then s.write loc n v
      else s.poke loc n ((Memory.getN s.mem loc n &&& (2 ^ (8 * n) - 1 - mask)) ||| (v &&& mask))

/-! ## Drafts (R270) -/

/-- The drafts a speculative context reads, youngest first: its own, then those of its speculative ancestors made before
the spawn that began its line of descent. -/
def draftView (s : State) (c : CtxId) : List Draft :=
  let sl := s.slot c
  if !sl.speculative then []
  else
    let all := (s.cluster c.core.cl).drafts.reverse
    all.filter (fun d => d.owner = sl.uid) ++
    (sl.parents.map (fun p => all.filter (fun d => decide (d.owner = p.1) && decide (d.n < p.2)))).flatten
/-- Whether an element of a store holds a byte of an address. -/
def StoreElem.has (e : StoreElem) (a : Nat) : Bool := decide (e.addr.toNat ≤ a) && decide (a < e.addr.toNat + e.size)
/-- The bits of one byte that drafts supply: those of the youngest draft that holds the byte, which for a sub-byte store are the elements of its
mask alone (R270): which bits are known, and their values. -/
def draftByte (ds : List Draft) (a : Nat) : Nat × Nat :=
  match ds.find? (fun d => d.elems.any (fun e => e.has a)) with
  | none => (0, 0)
  | some d => (d.elems.reverse.filter (fun e => e.has a)).foldl
    (fun (kv : Nat × Nat) e =>
      let i := 8 * (a - e.addr.toNat)
      let m := (e.mask >>> i) % 256
      (kv.1 ||| m, kv.2 ||| ((e.val >>> i) % 256 &&& (m &&& (255 - kv.1))))) (0, 0)
/-- The bits of `n` bytes that drafts supply. -/
def draftBytes (ds : List Draft) (a : Nat) : Nat → Nat × Nat
  | 0 => (0, 0)
  | n + 1 =>
    let b := draftByte ds a
    let r := draftBytes ds (a + 1) n
    (b.1 + 256 * r.1, b.2 + 256 * r.2)

/-! ## Loads -/

/-- How a read of memory ends. -/
inductive Load where
  | val (v : Nat)
  | retry
  | fault (t : TrapInfo)
  deriving DecidableEq, Repr

/-- A read of memory by an identity, with no drafts. -/
def readMem (s : State) (w : Who) (a : DWord) (n : Nat) : Load :=
  match access s w a n .read with
  | .fault t => .fault t
  | .retry => .retry
  | .loc l => match s.homeRead l n with
    | some v => .val v
    | none => .fault (trapInfo 0x050 a 0)
/-- One element read by a context (R270): drafts byte by byte, then memory for what they leave. -/
def loadOne (s : State) (c : CtxId) (a : DWord) (n : Nat) : Load :=
  let d := draftBytes (draftView s c) a.toNat n
  if d.1 = 2 ^ (8 * n) - 1 then .val d.2
  else match readMem s (s.whoIs c) a n with
    | .val v => .val ((v &&& (2 ^ (8 * n) - 1 - d.1)) ||| d.2)
    | r => r
/-- A packed group of three bytes is read byte by byte, since it may cross a page (R103). -/
def loadElem (s : State) (c : CtxId) (a : DWord) (n : Nat) : Load :=
  if n = 3 then
    match loadOne s c a 1, loadOne s c (a + 1) 1, loadOne s c (a + 2) 1 with
    | .val x, .val y, .val z => .val (x + 256 * y + 65536 * z)
    | .val _, .val _, r => r
    | .val _, r, _ => r
    | r, _, _ => r
  else loadOne s c a n

/-! ## Stores -/

/-- The generator of R251. -/
def gen (seed i : DWord) : DWord :=
  let z := seed + (i + 1) * 0x9E3779B97F4A7C15#64
  let z := (z ^^^ (z >>> 30)) * 0xBF58476D1CE4E5B9#64
  let z := (z ^^^ (z >>> 27)) * 0x94D049BB133111EB#64
  z ^^^ (z >>> 31)
/-- Key(a) of R369: the coordinates of a local store are dropped. -/
def digestKey (a : DWord) : Nat :=
  match form a with
  | .glob _ _ _ _ region off => region * 2 ^ 15 + off
  | _ => a.toNat
/-- An element whose mask is not whole is one packed element (R175). -/
def StoreElem.whole (e : StoreElem) : Bool := e.mask = 2 ^ (8 * e.size) - 1
/-- The index and width of a packed element within its byte or group (R72). -/
def StoreElem.index (e : StoreElem) : Nat × Nat :=
  if e.size = 1 then (if e.mask = 0xF then (0, 4) else (1, 4))
  else if e.mask = 0x3F then (0, 6) else if e.mask = 0xFC0 then (1, 6) else if e.mask = 0x3F000 then (2, 6) else (3, 6)
/-- One element folded into a digest (R369). -/
def foldElem (d : DWord) (e : StoreElem) : DWord :=
  if e.whole then gen (d ^^^ BitVec.ofNat 64 e.val) (BitVec.ofNat 64 (16 * digestKey e.addr + e.size))
  else
    let (j, w) := e.index
    gen (d ^^^ BitVec.ofNat 64 ((e.val >>> (j * w)) % 2 ^ w)) (BitVec.ofNat 64 (16 * digestKey e.addr + 9 + j))
/-- The stores of a task of a DET launch fold into its digest as they become committed; those of a speculative segment do so once it is certain, in
program order with its drafts (R273, R369; assumption 57). -/
def State.foldDigest (s : State) (c : CtxId) (es : List StoreElem) : State :=
  if (s.launchOf c).rc.digest then s.modSlot c (fun sl =>
    if sl.speculative then { sl with late := sl.late ++ [(sl.made, es)] } else { sl with digest := es.foldl foldElem sl.digest })
  else s

/-- The pieces of an element that are checked and written one by one: the bytes of a three-byte group (R103). -/
def StoreElem.pieces (e : StoreElem) : List (Nat × Nat) := if e.size = 3 then [(0, 1), (1, 1), (2, 1)] else [(0, e.size)]
/-- Whether any piece of a store is refused: the first refusal in the order of the elements (R106, R150, R154). -/
def storeChecks (s : State) (w : Who) : List StoreElem → Acc
  | [] => .loc 0
  | e :: r =>
    match e.pieces.foldl (fun (acc : Acc) p => match acc with
        | .loc _ => access s w (e.addr + BitVec.ofNat 64 p.1) p.2 .write
        | x => x) (.loc 0) with
    | .loc l => if slotctlRefuses l e.val then .fault (trapInfo 0x051 e.addr (accCode .write)) else storeChecks s w r
    | .retry => .retry
    | .fault t => .fault { t with eaddr := e.addr }
/-- One piece written at its home under the element's mask. -/
def writePiece (w : Who) (e : StoreElem) (s : State) (p : Nat × Nat) : State :=
  match access s w (e.addr + BitVec.ofNat 64 p.1) p.2 .write with
  | .loc l =>
    let m := (e.mask >>> (8 * p.1)) % 2 ^ (8 * p.2)
    let v := (e.val >>> (8 * p.1)) % 2 ^ (8 * p.2)
    s.homeWrite w (e.addr + BitVec.ofNat 64 p.1) l p.2 v m
  | _ => s
/-- One element of a store performed at its home. -/
def writeElem (w : Who) (s : State) (e : StoreElem) : State := e.pieces.foldl (writePiece w e) s
/-- One piece that finds room at its home or not, those before it having been written (R360). -/
def pieceRoom (w : Who) (e : StoreElem) (a : State × Bool) (p : Nat × Nat) : State × Bool :=
  match access a.1 w (e.addr + BitVec.ofNat 64 p.1) p.2 .write with
  | .loc l => (writePiece w e a.1 p, a.2 && decide (a.1.room l p.2 ≠ .full))
  | _ => a
/-- Whether every piece of a store finds room, which only one to an inbox may not (R360). -/
def storeRoom (s : State) (w : Who) (es : List StoreElem) : Bool :=
  let inbox := fun (e : StoreElem) => match form e.addr with | .glob _ _ _ _ region _ => decide (region = 3) | _ => false
  !es.any inbox || (es.foldl (fun a e => e.pieces.foldl (pieceRoom w e) a) (s, true)).2
/-- How the checks of a store end: refused by a cause, by RETRY for want of room, or not (R106, R360). -/
def storeFault (s : State) (w : Who) (es : List StoreElem) : Acc :=
  match storeChecks s w es with
  | .loc l => if storeRoom s w es then .loc l else .retry
  | x => x
/-- A store performed: every element at its home, and folded into the digest. -/
def performStore (s : State) (c : CtxId) (es : List StoreElem) : State :=
  (es.foldl (writeElem (s.whoIs c)) s).foldDigest c es

/-- Whether an element lies in the slot region of the context's own slot, through the private alias (R270). -/
def inOwnRegion (c : CtxId) (e : StoreElem) : Bool :=
  match form e.addr with | .priv off => decide (off / 0x2000 = c.who.val) && decide ((off + e.size - 1) / 0x2000 = c.who.val) | _ => false
/-- The draft buffer's size in stores (R270). -/
def draftRoom : Nat := 1024
/-- A draft entered in the cluster's buffer (R270). -/
def addDraft (s : State) (c : CtxId) (es : List StoreElem) : State :=
  let sl := s.slot c
  let s := s.modCluster c.core.cl (fun cl => { cl with drafts := cl.drafts ++
    [{ owner := sl.uid, gang := sl.gang.getD 0, n := sl.made, opc := sl.cx.pc, elems := es }] })
  s.modSlot c (fun sl => { sl with made := sl.made + 1 })
/-- The elements of a store that are drafted: under speculation those outside the slot region, and in a run-ahead all of them (R270). -/
def drafted (c : CtxId) (sl : Slot) (es : List StoreElem) : List StoreElem :=
  if !sl.speculative then [] else if sl.ck.isSome then es else es.filter (fun e => !inOwnRegion c e)
/-- A store by the issuing context, its issue checks made: a draft under speculation, but for the elements in its slot region, which are
performed (R109, R167, R270); performed at once in the private alias (R150); and otherwise waiting for its confirmation (R106, R150, R154). -/
def doStore (s : State) (es : List StoreElem) : State :=
  let c := s.me
  let later := drafted c s.self es
  if !later.isEmpty then
    if draftRoom ≤ (s.cluster c.core.cl).drafts.length then s.park .certain
    else (addDraft (performStore s c (es.filter (fun e => !later.contains e))) c later).finish
  else if es.all (fun e => (form e.addr).isPriv) then (performStore s c es).finish
  else s.park (.confirm es)

/-- The confirmation of a context's waiting store: every element is checked, and either all are performed and the store
completes, or the trap is precise at it and nothing is written (R106, R150, R154, R225). -/
def confirmStore (s : State) (c : CtxId) : State :=
  match (s.slot c).wait with
  | some (.confirm es) =>
    match storeFault s (s.whoIs c) es with
    | .retry => s
    | .fault t => s.raiseAt c t
    | .loc _ => ((performStore s c es).modSlot c (fun sl => { sl with wait := none, wcount := 0 })).finishAt c 4
  | _ => s

/-! ## Fetch (R148) -/

/-- A halfword of the instruction at `pc`, or the trap of R148, precise at that instruction. -/
def fetchHalf (s : State) (c : CtxId) (pc a : DWord) : Except TrapInfo Nat :=
  match form a with
  | .virt va =>
    match stationAccess s c.core.cl.m (s.whoIs c).pid va 2 .fetch pc with
    | .loc l => match s.homeRead l 2 with
      | some v => .ok v
      | none => .error (trapInfo 0x050 pc 3)
    | .fault t => .error t
    | .retry => .error (trapInfo 0x051 pc 3)
  | _ => .error (trapInfo 0x041 pc 3)

end Sys2Proof.Machine
end

