-- ==== Sys2Proof/Machine/Flags.lean ====
section
/-! DEFINITION. The FLAGS bits (R76), how results round and which bits each rounding raises (R74 to R77), and how a lane
operation's bits are gathered over the active lanes. -/

namespace Sys2Proof.Machine

/-- The seven bits of FLAGS (R76). -/
abbrev FlagBits := BitVec 7
def fInvalid : FlagBits := 1
def fDivzero : FlagBits := 2
def fOverflow : FlagBits := 4
def fUnderflow : FlagBits := 8
def fInexact : FlagBits := 16
def fSat : FlagBits := 32
def fRange : FlagBits := 64

/-- An IEEE layout: exponent bits and fraction bits (R67). -/
structure Ieee where
  eb : Nat
  fb : Nat
  deriving DecidableEq, Repr
def Ieee.bias (f : Ieee) : Nat := 2 ^ (f.eb - 1) - 1
def Ieee.width (f : Ieee) : Nat := f.eb + f.fb + 1
/-- The layout of a tag, for the four IEEE formats (R67). -/
def Tag.ieee : Tag → Option Ieee
  | .fp64 => some ⟨11, 52⟩ | .fp32 => some ⟨8, 23⟩ | .fp16 => some ⟨5, 10⟩ | .bf16 => some ⟨8, 7⟩ | _ => Option.none
def Tag.isFp (t : Tag) : Bool := t.ieee.isSome
def Tag.isTap : Tag → Bool | .tap8 => true | .tap6 => true | _ => false
def Tag.isInt : Tag → Bool
  | .int8 | .uint8 | .int4 | .int16 | .int32 | .uint32 | .int64 => true | _ => false
def Tag.signed : Tag → Bool | .uint8 => false | .uint32 => false | _ => true
/-- The width in which integer arithmetic of a tag wraps (R73, R88). -/
def Tag.iw (t : Tag) : Nat := if t = .int4 then 4 else t.ebits
/-- Formats under 16 bits round ties away from zero (R74). -/
def Tag.tiesAway (t : Tag) : Bool := decide (t.ebits < 16)

/-- A magnitude that is exact, or known to lie strictly between `m` and `m + 1` units of 2^`e` (`more`). -/
structure Mag where
  m    : Nat
  e    : Int
  more : Bool
  deriving DecidableEq, Repr

/-- The number of bits of a number. -/
def bitLen (n : Nat) : Nat := if n = 0 then 0 else Nat.log2 n + 1
/-- A magnitude rounded to a whole number of units of 2^`q`, and whether that was inexact: to nearest, a tie to even, or
away from zero where `away` (R74). Where units are finer than the magnitude is known to, `more` cannot decide. -/
def roundUnits (x : Mag) (q : Int) (away : Bool) : Nat × Bool :=
  let sh := q - x.e
  if sh ≤ 0 then (x.m <<< sh.natAbs, x.more)
  else
    let n := sh.natAbs
    let hi := x.m >>> n
    let lo := x.m % 2 ^ n
    let half := 2 ^ (n - 1)
    let up := decide (half < lo) || (lo = half && (x.more || away || hi % 2 = 1))
    (if up then hi + 1 else hi, lo ≠ 0 || x.more)

/-- The bits of an infinity, and of the default NaN (R69). -/
def Ieee.inf (f : Ieee) (neg : Bool) : Nat := (if neg then 2 ^ (f.eb + f.fb) else 0) + (2 ^ f.eb - 1) * 2 ^ f.fb
def Ieee.dnan (f : Ieee) : Nat := f.inf false + 2 ^ (f.fb - 1)
def Ieee.zero (f : Ieee) (neg : Bool) : Nat := if neg then 2 ^ (f.eb + f.fb) else 0
def Ieee.one (f : Ieee) : Nat := f.bias * 2 ^ f.fb

/-- A signed magnitude rounded into an IEEE format, with its flags (R74, R76): OVERFLOW to infinity, UNDERFLOW where the
result is tiny after rounding, judged with an unbounded exponent, and inexact. -/
def roundIeee (f : Ieee) (neg : Bool) (x : Mag) : Nat × FlagBits :=
  if x.m = 0 && !x.more then (f.zero neg, 0)
  else
    let emin : Int := 1 - f.bias
    let e : Int := x.e + bitLen x.m - 1
    let q : Int := max e emin - f.fb
    let (n, inx) := roundUnits x q false
    let field : Int := q + f.fb + f.bias - 1
    let b : Int := field * 2 ^ f.fb + n
    if b ≥ (2 ^ f.eb - 1) * 2 ^ f.fb then (f.inf neg, fOverflow ||| fInexact)
    else
      let (n2, _) := roundUnits x (e - f.fb) false
      let tiny := decide (e < emin) && !(e = emin - 1 && decide (2 ^ (f.fb + 1) ≤ n2))
      (f.zero neg + b.toNat, (if inx then fInexact else 0) ||| (if inx && tiny then fUnderflow else 0))

/-- The order of two dyadic magnitudes. -/
def dyLe (m : Nat) (e : Int) (m' : Nat) (e' : Int) : Bool :=
  if e ≥ e' then decide (m <<< (e - e').natAbs ≤ m') else decide (m ≤ m' <<< (e' - e).natAbs)

/-- Total bits and exponent bits of a tapered format (R70). -/
def Tag.tap : Tag → Nat × Nat | .tap8 => (8, 1) | _ => (6, 0)
/-- The number of leading bits equal to `b` in the low `w` bits of `m`. -/
def runLen (m : Nat) (b : Bool) : Nat → Nat
  | 0 => 0
  | w + 1 => if m.testBit w = b then 1 + runLen m b w else 0
/-- The magnitude of a nonzero magnitude field `m` of a tapered format, as `mant * 2^exp` (R70). -/
def tapMag (t : Tag) (m : Nat) : Nat × Int :=
  let (n, es) := t.tap
  let b := m.testBit (n - 2)
  let r := runLen m b (n - 1)
  let k : Int := if b then (r : Int) - 1 else -(r : Int)
  let left := n - 1 - r - (if r < n - 1 then 1 else 0)
  let rest := m % 2 ^ left
  let e := if es ≤ left then rest >>> (left - es) else rest <<< (es - left)
  let fb := left - es
  let f := if es ≤ left then rest % 2 ^ fb else 0
  (2 ^ fb + f, k * 2 ^ es + e - fb)
/-- The largest magnitude field at or below `p` whose value is at most the magnitude; 0 where none is. -/
def tapFloor (t : Tag) (m : Nat) (e : Int) : Nat → Nat
  | 0 => 0
  | p + 1 => let v := tapMag t (p + 1); if dyLe v.1 v.2 m e then p + 1 else tapFloor t m e p
/-- An exact magnitude rounded into a tapered format: to the nearer of two adjacent magnitudes in value, ties away from
zero; above maxval it saturates and below minval it rises (R74, R75). -/
def roundTap (t : Tag) (neg : Bool) (m : Nat) (e : Int) : Nat × FlagBits :=
  let n := t.tap.1
  let s := if neg then 2 ^ (n - 1) else 0
  let top := 2 ^ (n - 1) - 1
  if m = 0 then (0, 0)
  else
    let vmax := tapMag t top
    let vmin := tapMag t 1
    if !dyLe m e vmax.1 vmax.2 then (s + top, fSat ||| fInexact)
    else if !dyLe vmin.1 vmin.2 m e then (s + 1, fUnderflow ||| fInexact)
    else
      let p := tapFloor t m e top
      let v := tapMag t p
      if dyLe m e v.1 v.2 then (s + p, 0)
      else
        let u := tapMag t (p + 1)
        let lo := min v.2 u.2
        let mid := v.1 * 2 ^ (v.2 - lo).natAbs + u.1 * 2 ^ (u.2 - lo).natAbs
        (s + (if dyLe mid (lo - 1) m e then p + 1 else p), fInexact)

/-- The range of an integer format (R73). -/
def intMin (t : Tag) : Int := if t.signed then -(2 ^ (t.iw - 1) : Nat) else 0
def intMax (t : Tag) : Int := if t.signed then (2 ^ (t.iw - 1) : Nat) - 1 else (2 ^ t.iw : Nat) - 1
/-- An integer wrapped into a register element of an integer format; INT4 is sign-extended into its container (R73, R88). -/
def wrapInt (t : Tag) (v : Int) : Nat := if t = .int4 then trunc 8 (sgn 4 (trunc 4 v)) else trunc t.ebits v
/-- The value of a register element of an integer format (R72, R73, R117). -/
def intVal (t : Tag) (b : Nat) : Int := if t.signed then sgn t.iw b else (b % 2 ^ t.iw : Nat)
/-- `Sat` of R10 into an integer format. -/
def satInt (t : Tag) (v : Int) : Nat × Bool :=
  if v > intMax t then (wrapInt t (intMax t), true)
  else if v < intMin t then (wrapInt t (intMin t), true) else (wrapInt t v, false)
/-- A signed magnitude rounded into an integer format; out of range it saturates (R74, R75). -/
def roundInt (t : Tag) (neg : Bool) (x : Mag) : Nat × FlagBits :=
  let (n, inx) := roundUnits x 0 t.tiesAway
  let v : Int := if neg then -(n : Int) else n
  match satInt t v with
  | (b, true) => (b, fSat ||| fInexact)
  | (b, false) => (b, if inx then fInexact else 0)
/-- `Round(format, value)` of R10 and R74 for an exact value. -/
def roundTo (t : Tag) (neg : Bool) (m : Nat) (e : Int) : Nat × FlagBits :=
  match t.ieee with
  | some f => roundIeee f neg ⟨m, e, false⟩
  | none => if t.isTap then roundTap t neg m e else roundInt t neg ⟨m, e, false⟩

/-- The bits of the active lanes' results together (R77). -/
def orAll (l : List FlagBits) : FlagBits := l.foldl (· ||| ·) 0

end Sys2Proof.Machine
end

