-- ==== Sys2Proof/Machine/Operands.lean ====
section
/-! DEFINITION. The operand forms: what each specifier reads and writes (R41, R44), the type of a C-class instruction and
its tag checks (R64), lanes and predicates (R6, R81, R82), the common effect of a lane operation (R83), and the issue of
a C-class instruction with its queue pops and pushes, short- and long-class (R43, R46, R111). -/

namespace Sys2Proof.Machine

/-- What a source field supplies. -/
inductive Opnd where
  | reg (r : VReg)
  | ent (e : QEntry)
  | bcast (v : DWord)
  | zero
  deriving DecidableEq, Repr

def specIsQ (d : BitVec 6) : Bool := decide (44 ≤ d.toNat) && decide (d.toNat < 48)
def specIsB (d : BitVec 6) : Bool := decide (50 ≤ d.toNat) && decide (d.toNat < 58)
/-- The a-register of a broadcast specifier: a24 to a31 (R41). -/
def specA (d : BitVec 6) : BitVec 5 := BitVec.ofNat 5 (d.toNat - 26)
/-- The 6-bit specifier of a 5-bit v-register field (R33). -/
def spec5 (r : BitVec 5) : BitVec 6 := r.setWidth 6

/-- A source operand (R41), `skip` entries of its queue already taken by an earlier field; none where the queue is too
short. -/
def operand (c : Ctxt) (d : BitVec 6) (skip : Nat) : Option Opnd :=
  if specIsQ d then ((c.qOf (d.toNat - 44))[skip]?).map .ent
  else if specIsB d then some (.bcast (c.ra (specA d)))
  else if d.toNat < 44 then some (.reg (c.vreg d))
  else some .zero
/-- The operands of the source fields in order; an earlier field of one queue takes the earlier entry (R41). -/
def operands (c : Ctxt) : List (BitVec 6) → List (BitVec 6) → Option (List Opnd)
  | _, [] => some []
  | seen, d :: r => do
    let o ← operand c d (seen.filter (fun x => x = d)).length
    let os ← operands c (d :: seen) r
    return o :: os
/-- The queue number of the first source field whose queue is too short, for the wait. -/
def shortQueue (c : Ctxt) (ds : List (BitVec 6)) : Nat :=
  match ds.find? (fun d => specIsQ d && decide ((c.qOf (d.toNat - 44)).length < (ds.filter (fun x => x = d)).length)) with
  | some d => d.toNat - 44
  | none => 0
/-- The queues with the entries of the source fields popped. -/
def popAll (c : Ctxt) (ds : List (BitVec 6)) : Ctxt :=
  ds.foldl (fun c d => if specIsQ d then c.setQ (d.toNat - 44) (c.qOf (d.toNat - 44)).tail else c) c

/-- The tag an operand is checked with; broadcast and vz are skipped (R64). -/
def Opnd.tag? : Opnd → Option Tag
  | .reg r => some r.tag
  | .ent e => some e.tag
  | _ => Option.none
/-- The mark of a fault entry (R164). -/
def Opnd.mark? : Opnd → Option Mark
  | .ent e => e.mark
  | _ => none
/-- The output pattern that runs on a w queue (R64, R163). -/
def outPattern (c : Ctxt) (n : Nat) : Option Pattern :=
  c.pats.toList.find? (fun p => decide (p.state = .running) && p.isW && p.queue = n)
/-- Tag(destination) of R64; vz and a compare's predicate, which the manual gives no tag, count as NONE, so that an instruction with no
tagged source traps with TAG_NONE there (assumption 56). -/
def destTag (c : Ctxt) (d : BitVec 6) : Tag :=
  if specIsW d then (match outPattern c (d.toNat - 48) with | some p => p.fmt | none => .none)
  else if d.toNat < 40 then (c.vreg d).tag else .none
/-- The first part of the check of R64, over the tagged sources in order: the common tag, or NONE where there is none. -/
def sourceType : List Opnd → Tag → Except (BitVec 9) Tag
  | [], t => .ok t
  | o :: r, t => match o.tag? with
    | none => sourceType r t
    | some u =>
      if u = .none then .error 0x009
      else if t = .none then sourceType r u
      else if u ≠ t then .error 0x008
      else sourceType r t
/-- The type of an instruction and its tag checks (R64, R66). -/
def typeOf (c : Ctxt) (os : List Opnd) (d : BitVec 6) (ok : Tag → Bool) : Except (BitVec 9) Tag :=
  match sourceType os .none with
  | .error e => .error e
  | .ok t =>
    let t := if t = .none then destTag c d else t
    if t = .none then .error 0x009 else if ok t then .ok t else .error 0x00A

/-- The type sets of R66. -/
def tyAny (t : Tag) : Bool := decide (t ≠ .none)
def tyFpInt (t : Tag) : Bool := t.isFp || t.isInt
def tyFp (t : Tag) : Bool := t.isFp
def tyFp3 (t : Tag) : Bool := t.isFp && decide (t ≠ .fp64)
def tyInt (t : Tag) : Bool := t.isInt

/-! ## Lanes -/

/-- Lane `i` of elements of `e` bits (R6). -/
def laneOf (e : Nat) (v : VBits) (i : Nat) : Nat := (v.toNat >>> (i * e)) % 2 ^ e
/-- An element of a type as its container is read and written: an INT4 container stands for the sign extension of its bits [3:0], and bits
[7:6] of a TAP6 container are ignored on read and written as zero (R72, R117). -/
def fixElem (t : Tag) (x : Nat) : Nat := if t = .int4 then wrapInt t x else if t = .tap6 then x % 64 else x % 2 ^ t.ebits
/-- Lane `i` as an operation of a type reads it. -/
def readLane (t : Tag) (v : VBits) (i : Nat) : Nat := fixElem t (laneOf t.ebits v i)
/-- A vector from its lanes, lane 0 first. -/
def packLanes (e : Nat) : List Nat → Nat
  | [] => 0
  | x :: r => x % 2 ^ e + 2 ^ e * packLanes e r
def ofLanes (e : Nat) (l : List Nat) : VBits := BitVec.ofNat 256 (packLanes e l)
/-- Whether lane `i` is active under a predicate read under a type (R82). -/
def active (t : Tag) (k : PBits) (i : Nat) : Bool := k.getLsbD (i * (t.ebits / 8))
/-- A predicate written for a type: every bit of a lane's group alike (R82). -/
def ofActive (eb : Nat) (p : Nat → Bool) : PBits :=
  BitVec.ofNat 32 (packLanes 1 ((List.range 32).map (fun j => if p (j / eb) then 1 else 0)))
/-- The element a broadcast operand supplies under a type (R64). -/
def bcastElem (t : Tag) (v : DWord) : Nat :=
  if t = .int4 then trunc 8 (sgn 4 v.toNat) else if t = .tap6 then v.toNat % 64 else v.toNat % 2 ^ t.ebits
def splat (t : Tag) (x : Nat) : VBits := ofLanes t.ebits (List.replicate t.lanes x)
/-- The bits an operand supplies under a type. -/
def Opnd.bits (o : Opnd) (t : Tag) : VBits :=
  match o with
  | .reg r => r.bits
  | .ent e => e.bits
  | .bcast v => splat t (bcastElem t v)
  | .zero => 0
/-- Old(d) of R83: zero for vz and for w0 and w1. -/
def oldOf (c : Ctxt) (d : BitVec 6) : VBits := if d.toNat < 40 then (c.vreg d).bits else 0
/-- The common effect of R83 on the lanes: the result and the FLAGS bits of the active lanes (R77). -/
def applyLanes (t : Tag) (k : PBits) (z : Bool) (old : VBits) (op : Nat → Nat × FlagBits) : VBits × FlagBits :=
  let rs := (List.range t.lanes).map (fun i =>
    if active t k i then op i else (if z then 0 else laneOf t.ebits old i, (0 : FlagBits)))
  (ofLanes t.ebits (rs.map (·.1)), orAll (rs.map (·.2)))

/-! ## Results -/

/-- A short-class result written to its destination, to the last-result file where the instruction writes it, and to FLAGS
(R77, R83, R84). -/
def writeVec (c : Ctxt) (d : BitVec 6) (b : VBits) (t : Tag) (f : FlagBits) (l : Bool) : Ctxt :=
  let c := if specIsW d then c.pushW d b t else c.wv d b t
  (if l then c.pushL ⟨b, t, none⟩ else c).orFlags f
/-- Whether a short-class push to `d` must wait for room (R43); one behind a pending push waits at its commit. -/
def pushWaits (c : Ctxt) (d : BitVec 6) : Bool :=
  specIsW d && !c.pushPending d && decide (queueRoom ≤ (c.wOf (d.toNat - 48)).length)

/-- What the issue of a C-class instruction with vector operands needs: the marker bit and length, the destination, the
source fields in the order R64 checks them, whether it is long-class of itself (R46), and whether it writes the
last-result file (R84). -/
structure VIss where
  s    : Bool
  len  : Nat := 4
  d    : BitVec 6
  srcs : List (BitVec 6)
  long : Bool := false
  l    : Bool := true

def VIss.isLong (q : VIss) : Bool := q.long || q.srcs.any specIsQ
def VIss.iss (q : VIss) : Iss := { s := q.s, len := q.len, long := q.isLong, v := q.srcs }

/-- The issue of a C-class instruction: it waits for its queue entries (R43); a fault entry among them becomes the
deferred fault of its result (R164); `check` fixes its type or traps; a short-class push waits for room; and `run` gives
the result and its FLAGS bits, written at once or held in the return buffer (R46, R47, R111). The wait before the tag checks, and the
deferred fault in place of them, are the model's order (assumption 56). -/
def vecIssue (q : VIss) (s : State) (check : Ctxt → List Opnd → Except (BitVec 9) Tag)
    (run : Ctxt → Tag → List Opnd → VBits × FlagBits) : State :=
  issue q.iss s fun s =>
    let c := s.cx
    match operands c [] q.srcs with
    | none => s.park (.qPop (shortQueue c q.srcs))
    | some os =>
      match firstMark (os.filterMap Opnd.mark?) with
      | some m => s.done ((popAll c q.srcs).pushRb (.vec q.d) (.fault m) 0 q.l) q.len
      | none => match check c os with
        | .error e => s.raise (trapInfo e)
        | .ok t =>
          if !q.isLong && pushWaits c q.d then s.park (.wPush (q.d.toNat - 48))
          else
            let r := run c t os
            let c := popAll c q.srcs
            if q.isLong then s.done (c.pushRb (.vec q.d) (.vector r.1 t) r.2 q.l) q.len
            else s.done (writeVec c q.d r.1 t r.2 q.l) q.len

/-- A lane operation: the type of R64 within the set `ok`, and `op` on the lanes of the operands under R83. -/
def laneIssue (q : VIss) (k : BitVec 3) (z : Bool) (ok : Tag → Bool) (op : Tag → List VBits → Nat → Nat × FlagBits)
    (s : State) : State :=
  vecIssue q s (fun c os => typeOf c os q.d ok) fun c t os =>
    applyLanes t (c.rk k.toNat) z (oldOf c q.d) (op t (os.map (fun o => o.bits t)))
/-- The k-th operand's lane under a type, as an operation reads it. -/
def arg (t : Tag) (vs : List VBits) (j i : Nat) : Nat := readLane t (vs.getD j 0) i

end Sys2Proof.Machine
end

