-- ==== Sys2Proof/Machine/MemIns.lean ====
section
/-! DEFINITION. Scalar loads and stores, remote access, and vector memory access (R102 to R106, R149 to R154). -/

namespace Sys2Proof.Machine

/-- The checks a core makes at issue on an access of its own, in order: alignment, the address form, and for the private
alias the slot regions of the gang and the tile guard (R103, R151, R153, R170, R178). -/
def issueCheck (s : State) (c : CtxId) (ea : DWord) (n : Nat) (acc : Access) (forms : Form → Bool) : Option TrapInfo :=
  if ea.toNat % n ≠ 0 then some (trapInfo 0x040 ea (accCode acc))
  else if (form ea).isNone || !forms (form ea) then some (trapInfo 0x041 ea (accCode acc))
  else match form ea with
    | .priv off =>
      if !s.ownsPriv c off n then some (trapInfo 0x041 ea (accCode acc))
      else if s.guarded c.core off n then some (trapInfo 0x088 ea (accCode acc))
      else none
    | _ => none
/-- LDx and STx reach the private alias and the virtual form only (R151). -/
def formsOwn (f : Form) : Bool := f.isPriv || f.isVirt
def formsAll (_ : Form) : Bool := true

/-- A fault found after issue, as it travels with a long-class result (R156). -/
def markOf (c : Ctxt) (t : TrapInfo) : Mark := ⟨{ t with opc := c.pc }, c.order⟩
/-- A long-class read of `n` bytes into an a-register, its issue checks made (R149, R153, R156). -/
def loadInto (rd : BitVec 5) (ea : DWord) (n : Nat) (ext : Nat → DWord) (st : State) : State :=
  match loadElem st st.me ea n with
  | .val v => st.done (st.cx.pushRb (.areg rd) (.scalar (ext v)))
  | .fault t => st.done (st.cx.pushRb (.areg rd) (.fault (markOf st.cx t)))
  | .retry => st.park (.reissue [ea])
/-- Sign- or zero-extension of an `n`-byte value to 64 bits. -/
def extend (zx : Bool) (n v : Nat) : DWord := if zx then BitVec.ofNat 64 v else BitVec.ofInt 64 (sgn (8 * n) v)
/-- The scalar loads (R149). -/
def ldx (s : Bool) (rd rs1 : BitVec 5) (imm : BitVec 12) (n : Nat) (zx : Bool) (st : State) : State :=
  issue { s := s, long := true, hOk := true, a := [rs1] } st fun st =>
    let ea := st.cx.ra rs1 + imm.signExtend 64
    match issueCheck st st.me ea n .read formsOwn with
    | some t => st.raise t
    | none => loadInto rd ea n (extend zx n) st
/-- R149. -/
def execLdb (s : Bool) (rd rs1 : BitVec 5) (imm : BitVec 12) (st : State) : Out State := .next (ldx s rd rs1 imm 1 false st)
/-- R149. -/
def execLdbz (s : Bool) (rd rs1 : BitVec 5) (imm : BitVec 12) (st : State) : Out State := .next (ldx s rd rs1 imm 1 true st)
/-- R149. -/
def execLdh (s : Bool) (rd rs1 : BitVec 5) (imm : BitVec 12) (st : State) : Out State := .next (ldx s rd rs1 imm 2 false st)
/-- R149. -/
def execLdhz (s : Bool) (rd rs1 : BitVec 5) (imm : BitVec 12) (st : State) : Out State := .next (ldx s rd rs1 imm 2 true st)
/-- R149. -/
def execLdw (s : Bool) (rd rs1 : BitVec 5) (imm : BitVec 12) (st : State) : Out State := .next (ldx s rd rs1 imm 4 false st)
/-- R149. -/
def execLdwz (s : Bool) (rd rs1 : BitVec 5) (imm : BitVec 12) (st : State) : Out State := .next (ldx s rd rs1 imm 4 true st)
/-- R149. -/
def execLdd (s : Bool) (rd rs1 : BitVec 5) (imm : BitVec 12) (st : State) : Out State := .next (ldx s rd rs1 imm 8 true st)

/-- A whole element of a store. -/
def wholeElem (a : DWord) (n v : Nat) : StoreElem := ⟨a, n, v % 2 ^ (8 * n), 2 ^ (8 * n) - 1⟩
/-- The scalar stores (R150). -/
def stx (s : Bool) (rs2 rs1 : BitVec 5) (imm : BitVec 12) (n : Nat) (st : State) : State :=
  issue { s := s, hOk := true, a := [rs1, rs2] } st fun st =>
    let ea := st.cx.ra rs1 + imm.signExtend 64
    match issueCheck st st.me ea n .write formsOwn with
    | some t => st.raise t
    | none => doStore st [wholeElem ea n (st.cx.ra rs2).toNat]
/-- R150. -/
def execStb (s : Bool) (rs2 rs1 : BitVec 5) (imm : BitVec 12) (st : State) : Out State := .next (stx s rs2 rs1 imm 1 st)
/-- R150. -/
def execSth (s : Bool) (rs2 rs1 : BitVec 5) (imm : BitVec 12) (st : State) : Out State := .next (stx s rs2 rs1 imm 2 st)
/-- R150. -/
def execStw (s : Bool) (rs2 rs1 : BitVec 5) (imm : BitVec 12) (st : State) : Out State := .next (stx s rs2 rs1 imm 4 st)
/-- R150. -/
def execStd (s : Bool) (rs2 rs1 : BitVec 5) (imm : BitVec 12) (st : State) : Out State := .next (stx s rs2 rs1 imm 8 st)

/-- RLD: all four forms; the class hint changes nothing but timing (R153, R155). -/
def execRld (s : Bool) (rd rs1 : BitVec 5) (_cls : BitVec 3) (zx : Bool) (size : BitVec 2) (st : State) : Out State :=
  .next (issue { s := s, long := true, hOk := true, a := [rs1] } st fun st =>
    let ea := st.cx.ra rs1
    let n := 2 ^ size.toNat
    match issueCheck st st.me ea n .read formsAll with
    | some t => st.raise t
    | none => loadInto rd ea n (extend (zx || n = 8) n) st)
/-- RST (R154). -/
def execRst (s : Bool) (rs1 rs2 : BitVec 5) (_cls : BitVec 3) (size : BitVec 2) (st : State) : Out State :=
  .next (issue { s := s, hOk := true, a := [rs1, rs2] } st fun st =>
    let ea := st.cx.ra rs1
    let n := 2 ^ size.toNat
    match issueCheck st st.me ea n .write formsAll with
    | some t => st.raise t
    | none => doStore st [wholeElem ea n (st.cx.ra rs2).toNat])

/-! ## Vector memory access (R102 to R106) -/

/-- Bytes of an element's memory access: its own size, the byte of an INT4 pair, or the group of four TAP6 (R61, R72). -/
def Tag.mbytes (t : Tag) : Nat := match t with | .tap6 => 3 | .int4 => 1 | t => t.ebits / 8
/-- The address at which the element at position `x` from `base` is accessed, and its place within its byte or group
(R72, R102, R104). -/
def elemAt (t : Tag) (base : DWord) (x : Int) : DWord × Nat :=
  match t with
  | .tap6 => (base + BitVec.ofInt 64 (3 * (x / 4)), (x % 4).toNat)
  | .int4 => (base + BitVec.ofInt 64 (x / 2), (x % 2).toNat)
  | t => (base + BitVec.ofInt 64 (x * t.mbytes), 0)
/-- The register element of a loaded byte, group or element (R72). -/
def fromMem (t : Tag) (j v : Nat) : Nat :=
  match t with
  | .tap6 => (v >>> (6 * j)) % 64
  | .int4 => trunc 8 (sgn 4 (v >>> (4 * j)))
  | _ => v
/-- The store of a register element (R72, R106). -/
def toMem (t : Tag) (a : DWord) (j x : Nat) : StoreElem :=
  match t with
  | .tap6 => ⟨a, 3, (x % 64) <<< (6 * j), 63 <<< (6 * j)⟩
  | .int4 => ⟨a, 1, (x % 16) <<< (4 * j), 15 <<< (4 * j)⟩
  | t => wholeElem a t.mbytes x
/-- The alignment an address of a vector access must have (R103). -/
def Tag.align (t : Tag) : Nat := if t.packed then 1 else t.mbytes
/-- Whether the bytes from the first to the last touched address lie in one form, in slot regions of the gang where it is
the private alias (R103, R170). -/
def spanOk (s : State) (c : CtxId) (lo hi : DWord) : Bool :=
  (form lo).same (form hi) && decide (lo.toNat ≤ hi.toNat) &&
  match form lo, form hi with
  | .priv a, .priv b => s.ownsPriv c a (b + 1 - a)
  | .glob .., _ => decide (lo.toNat / 2 ^ 15 = hi.toNat / 2 ^ 15)
  | _, _ => decide (lo.toNat / 2 ^ 52 = hi.toNat / 2 ^ 52)
/-- The checks of R103 and R104 after alignment on the active lanes' addresses: `whole` for a contiguous access, whose span
is checked as one. EADDR is the first active lane's element of a bad span, and the first element in a guarded tile; an access to the core's
own scratchpad through its global address is checked by the owner, after issue (assumption 56). -/
def vecCheck (s : State) (c : CtxId) (n : Nat) (acc : Access) (whole : Bool) (as : List DWord) : Option TrapInfo :=
  let last := fun (a : DWord) => a + BitVec.ofNat 64 (n - 1)
  let bad : Option DWord :=
    match whole, as with
    | true, a :: r => if spanOk s c a (last ((a :: r).getLast (by simp))) then none else some a
    | true, [] => none
    | false, as => as.find? (fun a => !spanOk s c a (last a))
  match bad with
  | some a => some (trapInfo 0x041 a (accCode acc))
  | none =>
    match as.find? (fun a => match form a with | .priv off => s.guarded c.core off n | _ => false) with
    | some a => some (trapInfo 0x088 a (accCode acc))
    | none => none
/-- The element reads of the active lanes in ascending order: the lanes, or the first that is refused. -/
def readLanes (s : State) (c : CtxId) (t : Tag) : List (Nat × DWord × Nat) → Except Load (List (Nat × Nat))
  | [] => .ok []
  | (i, a, j) :: r => match loadElem s c a t.mbytes with
    | .val v => match readLanes s c t r with
      | .ok l => .ok ((i, fromMem t j v) :: l)
      | .error e => .error e
    | .fault x => .error (.fault { x with eaddr := a })
    | .retry => .error .retry
/-- A vector load of the active lanes at the addresses given: long-class, merging, never to the last-result file (R102,
R105). -/
def vload (d : BitVec 6) (t : Tag) (whole : Bool) (ls : List (Nat × DWord × Nat)) (st : State) : State :=
  let c := st.cx
  match vecCheck st st.me t.mbytes .read whole (ls.map (fun l => l.2.1)) with
  | some x => st.raise x
  | none => match readLanes st st.me t ls with
    | .error .retry => st.park (.reissue (ls.map (fun l => l.2.1)))
    | .error (.fault x) => st.done (c.pushRb (.vec d) (.fault (markOf c x)))
    | .error (.val _) => st
    | .ok vs =>
      let old := oldOf c d
      let r := ofLanes t.ebits ((List.range t.lanes).map (fun i =>
        match vs.find? (fun x => x.1 = i) with | some x => x.2 | none => laneOf t.ebits old i))
      st.done (c.pushRb (.vec d) (.vector r t))
/-- A vector store of the active lanes (R102, R106). -/
def vstore (t : Tag) (whole : Bool) (v : VBits) (ls : List (Nat × DWord × Nat)) (st : State) : State :=
  match vecCheck st st.me t.mbytes .write whole (ls.map (fun l => l.2.1)) with
  | some x => st.raise x
  | none => doStore st (ls.map (fun l => toMem t l.2.1 l.2.2 (laneOf t.ebits v l.1)))
/-- The active lanes with the addresses of their elements at the positions `x` gives. -/
def laneAddrs (c : Ctxt) (t : Tag) (k : BitVec 2) (base : DWord) (x : Nat → Int) : List (Nat × DWord × Nat) :=
  ((List.range t.lanes).filter (fun i => active t (c.rk k.toNat) i)).map (fun i => (i, elemAt t base (x i)))
/-- EA of VLD and VST (R102). -/
def vmEa (c : Ctxt) (b off : BitVec 5) : DWord := c.ra b + BitVec.ofNat 64 (32 * off.toNat)
/-- VLD (R102, R103, R105). -/
def execVld (s : Bool) (d : BitVec 6) (b : BitVec 5) (fmt : BitVec 4) (off : BitVec 5) (k : BitVec 2) (st : State) : Out State :=
  .next (issue { s := s, long := true, a := [b] } st fun st =>
    let t := tagOf fmt.toNat
    let ea := vmEa st.cx b off
    if ea.toNat % t.align ≠ 0 then st.raise (trapInfo 0x040 ea 0)
    else vload d t true (laneAddrs st.cx t k ea (fun i => i)) st)
/-- The tag check of a stored register against fmt; broadcast and vz take fmt as their type (R64, R102). -/
def storeTag (o : Opnd) (t : Tag) : Option (BitVec 9) :=
  match o.tag? with
  | none => none
  | some u => if u = .none then some 0x009 else if u = t then none else some 0x008
/-- The register a vector store stores. -/
def storeSource (c : Ctxt) (d : BitVec 6) : Opnd := (operand c d 0).getD .zero
/-- VST (R102, R103, R106). -/
def execVst (s : Bool) (d : BitVec 6) (b : BitVec 5) (fmt : BitVec 4) (off : BitVec 5) (k : BitVec 2) (st : State) : Out State :=
  .next (issue { s := s, a := [b], v := [d] } st fun st =>
    let t := tagOf fmt.toNat
    let o := storeSource st.cx d
    let ea := vmEa st.cx b off
    match storeTag o t with
    | some e => st.raise (trapInfo e)
    | none =>
      if ea.toNat % t.align ≠ 0 then st.raise (trapInfo 0x040 ea 1)
      else vstore t true (o.bits t) (laneAddrs st.cx t k ea (fun i => i)) st)
/-- The index register's tag check (R104). -/
def indexTag (x : VReg) (t : Tag) : Option (BitVec 9) :=
  if x.tag = .none then some 0x009 else if x.tag.isInt && decide (x.tag.ebits = t.ebits) then none else some 0x008
/-- Lane i's index (R104). -/
def indexLane (x : VReg) (i : Nat) : Int := intVal x.tag (laneOf x.tag.ebits x.bits i)
/-- VGATHER (R104, R105). -/
def execVgather (s : Bool) (d : BitVec 6) (b : BitVec 5) (fmt : BitVec 4) (vx : BitVec 5) (k : BitVec 2) (st : State) : Out State :=
  .next (issue { s := s, long := true, a := [b], v := [spec5 vx] } st fun st =>
    let t := tagOf fmt.toNat
    let x := st.cx.vreg (spec5 vx)
    let base := st.cx.ra b
    match indexTag x t with
    | some e => st.raise (trapInfo e)
    | none =>
      if base.toNat % t.align ≠ 0 then st.raise (trapInfo 0x040 base 0)
      else vload d t false (laneAddrs st.cx t k base (indexLane x)) st)
/-- VSCATTER: its lanes are performed in ascending order (R104, R106); the stored register's tag is checked before the index register's
(assumption 60). -/
def execVscatter (s : Bool) (d : BitVec 6) (b : BitVec 5) (fmt : BitVec 4) (vx : BitVec 5) (k : BitVec 2) (st : State) : Out State :=
  .next (issue { s := s, a := [b], v := [d, spec5 vx] } st fun st =>
    let t := tagOf fmt.toNat
    let o := storeSource st.cx d
    let x := st.cx.vreg (spec5 vx)
    let base := st.cx.ra b
    match storeTag o t with
    | some e => st.raise (trapInfo e)
    | none => match indexTag x t with
      | some e => st.raise (trapInfo e)
      | none =>
        if base.toNat % t.align ≠ 0 then st.raise (trapInfo 0x040 base 1)
        else vstore t false (o.bits t) (laneAddrs st.cx t k base (indexLane x)) st)

end Sys2Proof.Machine
end

