-- ==== Sys2Proof/Machine/Stream.lean ====
section
/-! DEFINITION. Stream patterns and scalar queue moves: pattern records (R159), the elements a pattern yields (R160), SDEF,
SGO, SHALT and SQ (R161 to R163), the two stream engines with their faults (R160, R164), QPUSH and QPOP (R165, R166). -/

namespace Sys2Proof.Machine

/-! ## Records in memory -/

/-- The `k` doublewords of a record from `ea`, or what stops the read. -/
def readDwords (s : State) (c : CtxId) (ea : DWord) : Nat → Except Load (List Nat)
  | 0 => .ok []
  | k + 1 => match loadElem s c ea 8 with
    | .val v => match readDwords s c (ea + 8) k with
      | .ok l => .ok (v :: l)
      | e => e
    | .fault t => .error (.fault { t with eaddr := ea })
    | .retry => .error .retry
/-- The issue checks on a record of `n` bytes that must lie in the private alias: alignment, the address, the tile guard
(R134, R161, R217, R223). -/
def recordCheck (s : State) (c : CtxId) (ea : DWord) (align n : Nat) : Option TrapInfo :=
  if ea.toNat % align ≠ 0 then some (trapInfo 0x040 ea)
  else match form ea with
    | .priv off =>
      if !s.ownsPriv c off n then some (trapInfo 0x041 ea)
      else if s.guarded c.core off n then some (trapInfo 0x088 ea) else none
    | _ => some (trapInfo 0x041 ea)

/-! ## Pattern records (R159) -/

/-- The record of eight doublewords, REL applied with `base`; none where it breaks R159. -/
def patternOf (base : DWord) : List Nat → Option Pattern
  | [d0, d1, d2, d3, d4, d5, d6, d7] =>
    let fmt := bits d1 3 0
    let dims := bits d1 5 4 + 1
    let rel := d1.testBit 7
    let ind := d1.testBit 8
    let itag := bits d1 15 12
    let n := (List.range 4).map (fun i => bits d2 (16 * i + 15) (16 * i))
    let str := [sgn 32 d3, sgn 32 (d3 / 2 ^ 32), sgn 32 d4, sgn 32 (d4 / 2 ^ 32)]
    let add : DWord := if rel then base else 0
    let b := BitVec.ofNat 64 d0 + add
    let ib := BitVec.ofNat 64 d5 + add
    let used := fun (i : Nat) => decide (i < dims)
    let ok := 1 ≤ fmt && fmt ≤ 13 && !d1.testBit 6 && bits d1 11 9 = 0 && bits d1 63 16 = 0 &&
      (if ind then 11 ≤ itag && itag ≤ 13 else itag = 0 && d5 = 0) &&
      (List.range 4).all (fun i => if used i then n.getD i 0 ≠ 0 else n.getD i 0 = 0) &&
      (List.range 4).all (fun i => used i || i < 2 || str.getD i 0 = 0) &&
      d6 = 0 && d7 = 0 && b.toNat % (tagOf fmt).align = 0 && (!ind || ib.toNat % (tagOf itag).mbytes = 0)
    if ok then some { Pattern.reset with state := .defined, base := b, ibase := ib, fmt := tagOf fmt, ind := ind,
                                         itag := tagOf itag, dims := dims, n := n, str := str }
    else none
  | _ => none

/-- The number of elements (R160). -/
def Pattern.total (p : Pattern) : Nat := (p.n.take p.dims).foldl (· * ·) 1
/-- The index vector of element `e`, i0 fastest, applied to the strides (R160). -/
def Pattern.position (p : Pattern) (e : Nat) : Int :=
  ((p.n.take p.dims).zip p.str).foldl (fun (acc : Int × Nat) d => (acc.1 + (acc.2 % d.1 : Nat) * d.2, acc.2 / d.1)) (0, e) |>.1
/-- The elements that fill one queue entry. -/
def Pattern.lanes (p : Pattern) : Nat := p.fmt.lanes
/-- The address of the index of element `e` (R160). -/
def Pattern.indexAddr (p : Pattern) (e : Nat) : DWord := p.ibase + BitVec.ofInt 64 (p.position e * p.itag.mbytes)
/-- The check of one element access of a stream (R160). -/
def streamCheck (s : State) (c : CtxId) (a : DWord) (n : Nat) (acc : Access) : Option TrapInfo :=
  vecCheck s c n acc false [a]
/-- Where element `e` is and its place in its byte or group; for an indirect pattern its index is read first. -/
def Pattern.locate (p : Pattern) (s : State) (c : CtxId) (e : Nat) : Except Load (DWord × Nat) :=
  if !p.ind then .ok (elemAt p.fmt p.base (p.position e))
  else
    let a := p.indexAddr e
    match streamCheck s c a p.itag.mbytes .read with
    | some t => .error (.fault t)
    | none => match loadElem s c a p.itag.mbytes with
      | .val v => .ok (elemAt p.fmt p.base (intVal p.itag v))
      | .fault t => .error (.fault { t with eaddr := a })
      | .retry => .error .retry
/-- The mark of a stream fault: the SGO is the originating instruction (R164). -/
def Pattern.mark (p : Pattern) (t : TrapInfo) : Mark := ⟨{ t with opc := p.goPc }, p.goOrd⟩

/-! ## Instructions -/

/-- SDEF (R161). -/
def execSdef (s : Bool) (n rs1 : BitVec 5) (imm : BitVec 12) (st : State) : Out State :=
  .next (issue { s := s, a := [rs1] } st fun st =>
    let base := st.cx.ra rs1
    let ea := base + imm.signExtend 64
    match recordCheck st st.me ea 8 64 with
    | some t => st.raise t
    | none =>
      if (st.cx.pat n.toNat).state = .running then st.raise (trapInfo 0x059)
      else match readDwords st st.me ea 8 with
        | .error (.fault t) => st.raise t
        | .error _ => st.park (.reissue [ea])
        | .ok ds => match patternOf base ds with
          | none => st.raise (trapInfo 0x058)
          | some p => st.done (st.cx.setPat n.toNat p))
/-- Whether a queue is bound to a running pattern (R163, R165, R166). -/
def Ctxt.bound (c : Ctxt) (isW : Bool) (q : Nat) : Bool :=
  c.pats.toList.any (fun p => decide (p.state = .running) && p.isW == isW && p.queue = q)
/-- SGO: binds the queue and starts the pattern from its first element; an output pattern parks a speculative context (R163,
R167). -/
def execSgo (s : Bool) (p q : BitVec 2) (isW : Bool) (st : State) : Out State :=
  .next (issue { s := s, parks := isW } st fun st =>
    let c := st.cx
    let r := c.pat p.toNat
    let legal := match r.state with | .defined => true | .done => true | .fault => true | _ => false
    if !legal || c.bound isW q.toNat then st.raise (trapInfo 0x059)
    else st.done (c.setPat p.toNat { r with state := .running, pos := 0, isW := isW, queue := q.toNat, goPc := c.pc,
                                            goOrd := c.order, flt := none }))
/-- SHALT: no element is in flight between steps, so the pattern becomes DEFINED at once (R163). -/
def execShalt (s : Bool) (p : BitVec 2) (st : State) : Out State :=
  .next (issue { s := s } st fun st =>
    let r := st.cx.pat p.toNat
    if r.state = .undef then st.raise (trapInfo 0x059)
    else st.done (st.cx.setPat p.toNat { r with state := .defined, pos := 0, flt := none }))
/-- What SQ reads: the elements not yet complete, or the stream's fault (R163, R164). -/
def Pattern.left (p : Pattern) : RbResult :=
  match p.state, p.flt with
  | .defined, _ => .scalar (BitVec.ofNat 64 p.total)
  | .running, _ => .scalar (BitVec.ofNat 64 (p.total - p.pos))
  | .fault, some m => .fault m
  | _, _ => .scalar 0
/-- SQ (R163). -/
def execSq (s : Bool) (rd : BitVec 5) (p : BitVec 2) (st : State) : Out State :=
  .next (issue { s := s, long := true } st fun st =>
    let r := st.cx.pat p.toNat
    if r.state = .undef then st.raise (trapInfo 0x059) else st.done (st.cx.pushRb (.areg rd) r.left))
/-- QPUSH (R165). -/
def execQpush (s : Bool) (n rs1 : BitVec 5) (fmt : BitVec 7) (st : State) : Out State :=
  .next (issue { s := s, a := [rs1] } st fun st =>
    let c := st.cx
    let t := tagOf fmt.toNat
    if c.bound false n.toNat then st.raise (trapInfo 0x059)
    else if queueRoom ≤ (c.qOf n.toNat).length then st.park (.qPush n.toNat)
    else st.done (c.setQ n.toNat (c.qOf n.toNat ++ [⟨splat t (bcastElem t (c.ra rs1)), t, none⟩])))
/-- Lane 0 of a popped entry, extended to 64 bits: signed for the signed integer tags (R166). -/
def popValue (e : QEntry) : DWord :=
  let x := readLane e.tag e.bits 0
  if e.tag.isInt && e.tag.signed then BitVec.ofInt 64 (sgn e.tag.ebits x) else BitVec.ofNat 64 x
/-- QPOP: a fault entry gives 0 with its mark (R166); where rd is a0, which holds none, the fault is dropped (assumption 60). -/
def execQpop (s : Bool) (rd n : BitVec 5) (st : State) : Out State :=
  .next (issue { s := s } st fun st =>
    let c := st.cx
    if c.bound true n.toNat then st.raise (trapInfo 0x059)
    else match c.wOf n.toNat with
      | [] => st.park (.wPop n.toNat)
      | e :: r =>
        let c := (c.setW n.toNat r).wa rd (if e.mark.isSome then 0 else popValue e)
        st.done (match e.mark with | some m => c.putA rd 0 (some m) | none => c))

/-! ## The stream engines (R160, R164, R168) -/

/-- Whether the streams of a context move: they stop with its gang (R168). -/
def State.streams (s : State) (c : CtxId) : Bool :=
  let sl := s.slot c
  decide (sl.phase ≠ .idle) && !sl.stopped && !sl.lost && s.gangRuns sl
/-- The elements of the next entry of an input pattern in order, up to the first that faults. -/
def gatherEntry (s : State) (c : CtxId) (p : Pattern) : Nat → Nat → Except Load (List Nat)
  | _, 0 => .ok []
  | e, n + 1 =>
    match p.locate s c e with
    | .error x => .error x
    | .ok (a, j) => match streamCheck s c a p.fmt.mbytes .read with
      | some t => .error (.fault t)
      | none => match loadElem s c a p.fmt.mbytes with
        | .val v => match gatherEntry s c p (e + 1) n with
          | .ok l => .ok (fromMem p.fmt j v :: l)
          | x => x
        | .fault t => .error (.fault { t with eaddr := a })
        | .retry => .error .retry
/-- An input pattern places its next entry, or the one fault entry that ends it (R160, R164). -/
def execStreamInputFill (c : CtxId) (n : BitVec 2) (st : State) : Out State :=
  let cx := (st.slot c).cx
  let p := cx.pat n.toNat
  let q := cx.qOf p.queue
  .next (
    if !st.streams c || p.state ≠ .running || p.isW || queueRoom ≤ q.length then st
    else
      let k := Nat.min p.lanes (p.total - p.pos)
      match gatherEntry st c p p.pos k with
      | .error .retry => st
      | .error (.fault t) =>
        st.modCx c (fun cx => (cx.setQ p.queue (q ++ [⟨0, .none, some (p.mark t)⟩])).setPat n.toNat
          { p with state := .fault, flt := some (p.mark t) })
      | .error (.val _) => st
      | .ok l =>
        let pos := p.pos + k
        st.modCx c (fun cx => (cx.setQ p.queue (q ++ [⟨ofLanes p.fmt.ebits l, p.fmt, none⟩])).setPat n.toNat
          { p with pos := pos, state := if p.total ≤ pos then .done else .running }))
/-- How the elements of one popped entry end: all written, or the first that is refused. -/
inductive Drain where
  | ok (s : State)
  | retry
  | fault (s : State) (e : Nat) (t : TrapInfo)
  deriving DecidableEq, Repr
/-- The elements of a popped entry written one by one, each when it is confirmed (R160, R164). -/
def scatterEntry (c : CtxId) (p : Pattern) (v : VBits) : State → Nat → Nat → Nat → Drain
  | s, _, _, 0 => .ok s
  | s, e, lane, n + 1 =>
    match p.locate s c e with
    | .error .retry => .retry
    | .error (.fault t) => .fault s e t
    | .error (.val _) => .retry
    | .ok (a, j) => match streamCheck s c a p.fmt.mbytes .write with
      | some t => .fault s e t
      | none =>
        let x := toMem p.fmt a j (laneOf p.fmt.ebits v lane)
        match storeFault s (s.whoIs c) [x] with
        | .retry => .retry
        | .fault t => .fault s e t
        | .loc _ => scatterEntry c p v (performStore s c [x]) (e + 1) (lane + 1) n
/-- The position past the entry that supplies element `e`. -/
def Pattern.nextEntry (p : Pattern) (e : Nat) : Nat := (e / p.lanes + 1) * p.lanes
/-- An output pattern pops an entry and writes its elements; after a fault it pops and discards the rest of its entries
(R160, R164). The writes of a run-ahead's entries wait for it to be certain (R280, R391). -/
def execStreamOutputDrain (c : CtxId) (n : BitVec 2) (st : State) : Out State :=
  let cx := (st.slot c).cx
  let p := cx.pat n.toNat
  .next (
    if !st.streams c || !p.isW || (st.slot c).speculative then st
    else match p.state, cx.wOf p.queue with
    | .fault, _ :: r =>
      if p.total ≤ p.pos then st
      else st.modCx c (fun cx => (cx.setW p.queue r).setPat n.toNat { p with pos := p.pos + p.lanes })
    | .running, e :: r =>
      let stop := fun (s : State) (x : Nat) (m : Mark) =>
        s.modCx c (fun cx => (cx.setW p.queue r).setPat n.toNat { p with state := .fault, flt := some m, pos := p.nextEntry x })
      match e.mark with
      | some m => stop st p.pos m
      | none =>
        if e.tag ≠ p.fmt then
          let a := if p.ind then p.indexAddr p.pos else (elemAt p.fmt p.base (p.position p.pos)).1
          stop st p.pos (p.mark (trapInfo 0x008 a))
        else
          let k := Nat.min p.lanes (p.total - p.pos)
          match scatterEntry c p e.bits st p.pos 0 k with
          | .retry => st
          | .fault s x t => stop s x (p.mark t)
          | .ok s =>
            let pos := p.pos + k
            s.modCx c (fun cx => (cx.setW p.queue r).setPat n.toNat
              { p with pos := pos, state := if p.total ≤ pos then .done else .running })
    | _, _ => st)

end Sys2Proof.Machine
end

