-- ==== Sys2Proof/Machine/Sync.lean ====
section
/-! DEFINITION. Bindings, acquire and release, fences, atomics, counters, event records and named barriers (R206 to R212,
R220). Every write of this part is performed at its home before the next step, so a release or an acquire moves a count
and needs no set of carried writes (R231, assumption 12). -/

namespace Sys2Proof.Machine

/-! ## Binding (R207) -/

/-- Whether two addresses and every one between them are of one form (R169, R207): in the global form, of one core. -/
def oneForm (lo hi : DWord) : Bool :=
  (form lo).same (form hi) && (match form lo with
    | .glob .. => decide (lo.toNat / 2 ^ 18 = hi.toNat / 2 ^ 18)
    | _ => decide (lo.toNat / 2 ^ 52 = hi.toNat / 2 ^ 52))
def setBind (c : Ctxt) (n : Nat) (b : Option Binding) : Ctxt := if h : n < 8 then { c with binds := c.binds.set n b } else c
/-- BIND: the checks in the order written, then the entry (R207). -/
def execBind (s : Bool) (n rs1 rs2 : BitVec 5) (lg : BitVec 6) (bar : Bool) (st : State) : Out State :=
  .next (issue { s := s, a := [rs1, rs2] } st fun st =>
    let base := st.cx.ra rs1
    let o := st.cx.ra rs2
    let len := 2 ^ lg.toNat
    if base.toNat % len ≠ 0 || !oneForm base (base + BitVec.ofNat 64 (len - 1)) then st.raise (trapInfo 0x060)
    else if bar then
      if o.toNat / 64 ≠ 0 then st.raise (trapInfo 0x061)
      else st.done (setBind st.cx n.toNat (some ⟨base, lg.toNat, .barrier (o.setWidth 6)⟩))
    else if o.toNat % 8 ≠ 0 || !((form o).isVirt || (form o).isGlob || (form o).isRemote) then st.raise (trapInfo 0x061)
    else st.done (setBind st.cx n.toNat (some ⟨base, lg.toNat, .word o⟩)))
/-- UNBIND (R207). -/
def execUnbind (s : Bool) (n : BitVec 5) (st : State) : Out State :=
  .next (issue { s := s } st fun st => st.done (setBind st.cx n.toNat none))

/-! ## Accesses that complete when their home has replied (R206) -/

/-- How a blocking access to a doubleword ends: its location and value, or what stops it. -/
inductive Reply where
  | got (loc v : Nat)
  | retry
  | fault (t : TrapInfo)
  deriving DecidableEq, Repr
/-- A blocking access with rights R and W, by the issuing context (R206, R333); `wr` where it writes. -/
def reach (s : State) (c : CtxId) (ea : DWord) (n : Nat) (wr : Bool) : Reply :=
  match access s (s.whoIs c) ea n .readWrite wr with
  | .fault t => .fault t
  | .retry => .retry
  | .loc l => match s.homeRead l n with
    | some v => .got l v
    | none => .fault (trapInfo 0x050 ea 2)
/-- Sync words stand in the virtual, global local-store and remote-HBM forms (R191). -/
def formsSync (f : Form) : Bool := f.isVirt || f.isGlob || f.isRemote
/-- A counter waited on: it is read at its home until it is at least the target; the read that meets it runs `met` (R208,
R210, R220). -/
def waitCounter (ea t : DWord) (forms : Form → Bool) (met : DWord → State → State) (st : State) : State :=
  match issueCheck st st.me ea 8 .readWrite forms with
  | some e => st.raise e
  | none => match reach st st.me ea 8 false with
    | .fault e => st.raise e
    | .retry => st.park (.reissue [ea])
    | .got _ v => if t.toNat ≤ v then met (BitVec.ofNat 64 v) st else st.park (.counter ea t)
/-- ACQ: the word is read until its value is at least a[rd]; no register is written (R208). -/
def execAcq (s : Bool) (rd rs1 : BitVec 5) (_scope : BitVec 3) (st : State) : Out State :=
  .next (issue { s := s, a := [rd, rs1] } st fun st =>
    waitCounter (st.cx.ra rs1) (st.cx.ra rd) formsSync (fun _ st => st.finish) st)
/-- A release of a word or counter: its value rises by `inc`, modulo 2^64 (R193, R208, R210). -/
def release (ea inc : DWord) (forms : Form → Bool) (st : State) : State :=
  match issueCheck st st.me ea 8 .readWrite forms with
  | some e => st.raise e
  | none => match reach st st.me ea 8 true with
    | .fault e => st.raise e
    | .retry => st.park (.reissue [ea])
    | .got l v => (st.write l 8 ((v + inc.toNat) % 2 ^ 64)).finish
/-- REL (R208). -/
def execRel (s : Bool) (rs1 : BitVec 5) (_scope : BitVec 3) (st : State) : Out State :=
  .next (issue { s := s, parks := true, a := [rs1] } st fun st => release (st.cx.ra rs1) 1 formsSync st)
/-- FENCE: every earlier access has been performed once every long-class result has returned (R197, R208). -/
def execFence (s : Bool) (_scope : BitVec 3) (st : State) : Out State :=
  .next (issue { s := s } st fun st => if st.cx.rb.all (fun e => e.returned) then st.finish else st.park .marker)
/-- LBFENCE (R173, R208). -/
def execLbfence (s : Bool) (st : State) : Out State :=
  .next (issue { s := s } st fun st => if st.cx.rb.all (fun e => e.returned) then st.finish else st.park .marker)

/-! ## Atomics (R209) -/

/-- An atomic: read and write at the home as one step, the old value long-class into rd, a fault deferred on it with memory
unchanged (R188, R209). `old` and the operand are read as `w`-bit numbers. -/
def atomic (s : Bool) (rd rs1 rs2 : BitVec 5) (size : BitVec 2) (uns cmp : Bool)
    (op : (w : Nat) → (old x : Nat) → (rdv : Nat) → Nat) (st : State) : State :=
  issue { s := s, long := true, parks := true, a := if cmp then [rs1, rs2, rd] else [rs1, rs2] } st fun st =>
    let n := if size = 3 then 8 else 4
    let ea := st.cx.ra rs1
    match issueCheck st st.me ea n .readWrite formsAll with
    | some e => st.raise e
    | none => match reach st st.me ea n true with
      | .retry => st.park (.reissue [ea])
      | .fault t => st.done (st.cx.pushRb (.areg rd) (.fault (markOf st.cx t)))
      | .got l old =>
        let w := 8 * n
        let new := op w old ((st.cx.ra rs2).toNat % 2 ^ w) ((st.cx.ra rd).toNat % 2 ^ w)
        let st := (st.write l n new).foldDigest st.me [wholeElem ea n new]
        st.done (st.cx.pushRb (.areg rd) (.scalar (extend (uns || n = 8) n old)))
/-- min or max of R209: signed unless U = 1. -/
def atomicLess (uns : Bool) (w a b : Nat) : Bool := if uns then decide (a < b) else decide (sgn w a < sgn w b)
/-- R209. -/
def execAadd (s : Bool) (rd rs1 rs2 : BitVec 5) (size : BitVec 2) (uns : Bool) (st : State) : Out State :=
  .next (atomic s rd rs1 rs2 size uns false (fun w old x _ => (old + x) % 2 ^ w) st)
/-- R209. -/
def execAmin (s : Bool) (rd rs1 rs2 : BitVec 5) (size : BitVec 2) (uns : Bool) (st : State) : Out State :=
  .next (atomic s rd rs1 rs2 size uns false (fun w old x _ => if atomicLess uns w x old then x else old) st)
/-- R209. -/
def execAmax (s : Bool) (rd rs1 rs2 : BitVec 5) (size : BitVec 2) (uns : Bool) (st : State) : Out State :=
  .next (atomic s rd rs1 rs2 size uns false (fun w old x _ => if atomicLess uns w old x then x else old) st)
/-- R209. -/
def execAand (s : Bool) (rd rs1 rs2 : BitVec 5) (size : BitVec 2) (uns : Bool) (st : State) : Out State :=
  .next (atomic s rd rs1 rs2 size uns false (fun _ old x _ => old &&& x) st)
/-- R209. -/
def execAor (s : Bool) (rd rs1 rs2 : BitVec 5) (size : BitVec 2) (uns : Bool) (st : State) : Out State :=
  .next (atomic s rd rs1 rs2 size uns false (fun _ old x _ => old ||| x) st)
/-- R209. -/
def execAxor (s : Bool) (rd rs1 rs2 : BitVec 5) (size : BitVec 2) (uns : Bool) (st : State) : Out State :=
  .next (atomic s rd rs1 rs2 size uns false (fun _ old x _ => old ^^^ x) st)
/-- R209. -/
def execAxchg (s : Bool) (rd rs1 rs2 : BitVec 5) (size : BitVec 2) (uns : Bool) (st : State) : Out State :=
  .next (atomic s rd rs1 rs2 size uns false (fun _ _ x _ => x) st)
/-- R209: the compare value is rd as read at issue. -/
def execAcas (s : Bool) (rd rs1 rs2 : BitVec 5) (size : BitVec 2) (uns : Bool) (st : State) : Out State :=
  .next (atomic s rd rs1 rs2 size uns true (fun _ old x r => if old = r then x else old) st)

/-! ## Counters and event records (R210, R220) -/

/-- CWAIT: with NOWAIT the counter is read once (R210). -/
def execCwait (s : Bool) (rd rs1 rs2 : BitVec 5) (nowait : Bool) (st : State) : Out State :=
  .next (issue { s := s, a := [rs1, rs2] } st fun st =>
    waitCounter (st.cx.ra rs1) (if nowait then 0 else st.cx.ra rs2) formsAll (fun v st => st.done (st.cx.wa rd v)) st)
/-- CADD (R210). -/
def execCadd (s : Bool) (rs1 rs2 : BitVec 5) (_scope : BitVec 3) (st : State) : Out State :=
  .next (issue { s := s, parks := true, a := [rs1, rs2] } st fun st => release (st.cx.ra rs1) (st.cx.ra rs2) formsAll st)
/-- EVWAIT: counter n of an event record, in the private alias or virtual form (R217, R220). -/
def execEvwait (s : Bool) (rd rs1 : BitVec 5) (n : BitVec 2) (st : State) : Out State :=
  .next (issue { s := s, a := [rd, rs1] } st fun st =>
    waitCounter (st.cx.ra rs1 + BitVec.ofNat 64 (8 * n.toNat)) (st.cx.ra rd) formsOwn (fun _ st => st.finish) st)

/-! ## Named barriers (R211, R212) -/

def Ctxt.bar (c : Ctxt) (n : BitVec 6) : BarRec := c.bars[n.toNat]
def Ctxt.setBar (c : Ctxt) (n : BitVec 6) (r : BarRec) : Ctxt := { c with bars := c.bars.set n.toNat r }
/-- The state of a barrier of a gang. -/
def Gang.bar (g : Gang) (n : BitVec 6) : BarState := g.bars[n.toNat]
def Gang.setBar (g : Gang) (n : BitVec 6) (b : BarState) : Gang := { g with bars := g.bars.set n.toNat b }
/-- An episode completes when the count meets a nonzero expect: its poison goes to every slot that arrived in it, the
episode count advances and the count starts again (R211). -/
def barComplete (s : State) (g : Nat) (n : BitVec 6) : State :=
  let b := (s.gang g).bar n
  if b.expect = 0 || b.count.ult b.expect then s
  else
    let deliver := fun (c : Ctxt) =>
      let r := c.bar n
      if !r.done && r.episode = b.ep then c.setBar n { r with done := true, poison := b.poison } else c
    let s := (s.gang g).held.foldl (fun s c => s.modTables c deliver) s
    s.modGang g (fun x => x.setBar n { b with ep := b.ep + 1, count := 0, poison := false })
/-- An arrival, poisoned or not (R195, R211). -/
def barArrive (s : State) (g : Nat) (n : BitVec 6) (poison : Bool) : State :=
  let s := s.modGang g (fun x => let b := x.bar n; x.setBar n { b with count := b.count + 1, poison := b.poison || poison })
  barComplete s g n
/-- The gang number of the issuing context. -/
def State.myGang (s : State) : Nat := s.self.gang.getD 0
/-- BARI (R212). -/
def execBari (s : Bool) (rs1 : BitVec 5) (n : BitVec 6) (st : State) : Out State :=
  .next (issue { s := s, parks := true, a := [rs1] } st fun st =>
    let v := st.cx.ra rs1
    if v.toNat / 2 ^ 32 ≠ 0 then st.raise (trapInfo 0x0A8)
    else
      let g := st.myGang
      let st := st.modGang g (fun x => x.setBar n { x.bar n with expect := v.setWidth 32 })
      (barComplete st g n).finish)
/-- The arrival of a task: its record, and the count (R212). The episode joined is the value read. -/
def taskArrive (st : State) (n : BitVec 6) (pz : Bool) : State :=
  let g := st.myGang
  let b := (st.gang g).bar n
  barArrive (st.setCx (st.cx.setBar n ⟨b.ep, false, false, false⟩)) g n pz
/-- BARA (R212). -/
def execBara (s : Bool) (rd : BitVec 5) (n : BitVec 6) (pz : Bool) (st : State) : Out State :=
  .next (issue { s := s, parks := true } st fun st =>
    if !(st.cx.bar n).done then st.raise (trapInfo 0x0A9)
    else
      let e := ((st.gang st.myGang).bar n).ep
      let st := taskArrive st n pz
      st.done (st.cx.wa rd (e.setWidth 64)))
/-- The status word of a completed episode: poison in bit 32 above the episode (R212). -/
def barStatus (r : BarRec) : DWord := (BitVec.ofBool r.poison).setWidth 64 <<< 32 ||| r.episode.setWidth 64
/-- The second half of a barrier: wait until the record is done, then take it (R212). -/
def barTake (rd : BitVec 5) (n : BitVec 6) (st : State) : State :=
  let r := st.cx.bar n
  if r.done then
    let st := st.setSelf { st.self with barawAt := none }
    st.done ((st.cx.setBar n { r with taken := true }).wa rd (barStatus r))
  else st.park (.barrier n)
/-- BARW (R212). -/
def execBarw (s : Bool) (rd : BitVec 5) (n : BitVec 6) (st : State) : Out State :=
  .next (issue { s := s } st fun st =>
    if (st.cx.bar n).taken then st.raise (trapInfo 0x0AA) else barTake rd n st)
/-- BARAW: the arrival is made once; what then waits is the second half (R212). -/
def execBaraw (s : Bool) (rd : BitVec 5) (n : BitVec 6) (pz : Bool) (st : State) : Out State :=
  .next (issue { s := s, parks := true } st fun st =>
    if st.self.barawAt = some n then barTake rd n st
    else if !(st.cx.bar n).done then st.raise (trapInfo 0x0A9)
    else
      let st := taskArrive st n pz
      barTake rd n (st.setSelf { st.self with barawAt := some n }))
/-- BARQ (R212). -/
def execBarq (s : Bool) (rd : BitVec 5) (n : BitVec 6) (st : State) : Out State :=
  .next (issue { s := s } st fun st =>
    let b := (st.gang st.myGang).bar n
    st.done (st.cx.wa rd (b.ep.setWidth 64 <<< 32 ||| b.count.setWidth 64)))

end Sys2Proof.Machine
end

