-- ==== Sys2Proof/Machine/Engine.lean ====
section
/-! DEFINITION. What the engines of a cluster share: footprints and the edges of the engine scheduler (R125, R131), the tiles a
job names and how they change state (R133, R177), counter increments and arrivals at the end of a job (R132, R180), the
accesses an engine makes for the task that submitted the job, and the tile instructions (R213, R214). -/

namespace Sys2Proof.Machine

/-- The codes of the states of jobs, entries and commands (R136, R216, R224), and whether one has ended. -/
def JobState.code : JobState → Nat | .queued => 0 | .running => 1 | .done => 2 | .fault => 3
def JobState.ended : JobState → Bool | .done => true | .fault => true | _ => false

/-! ## Footprints and edges (R131) -/

/-- Two regions share a byte and one of them is written. -/
def Region.meets (r t : Region) : Bool :=
  decide (r.lo < t.lo + t.len) && decide (t.lo < r.lo + r.len) && (r.write || t.write)
/-- Two footprints conflict. -/
def EJob.meets (a b : EJob) : Bool := a.foot.any (fun r => b.foot.any r.meets)
/-- Whether a job writes tiles of other clusters too: MULTICAST and DECODE (R180, R181). -/
def EJob.spans (j : EJob) : Bool := match j.kind with | .copy _ e => e.kind = 1 || e.kind = 2 | _ => false
/-- Every accepted, unfinished job with the cluster that accepted it. -/
def State.jobs (s : State) : List (ClusterId × EJob) :=
  (s.clusters.map (fun p => p.2.jobs.map (fun j => (p.1, j)))).flatten
/-- Whether a job has an edge to an unfinished one: an earlier job of its cluster, or one whose tiles span clusters (R131). -/
def State.blocked (s : State) (cl : ClusterId) (j : EJob) : Bool :=
  s.jobs.any (fun p => decide (p.2.uid < j.uid) && (p.1 = cl || j.spans || p.2.spans) && p.2.meets j)
/-- Every part of a Kettle command that has not ended, on its way or in its Kettle's queue. -/
def State.allParts (s : State) : List KPart := s.sent ++ (s.kettles.map (fun k => k.2.parts)).flatten
/-- A job of a cluster by its number. -/
def Cluster.job (c : Cluster) (uid : Nat) : Option EJob := c.jobs.find? (fun j => j.uid = uid)
/-- A job replaced. -/
def State.setJob (s : State) (cl : ClusterId) (j : EJob) : State :=
  s.modCluster cl (fun c => { c with jobs := c.jobs.map (fun x => if x.uid = j.uid then j else x) })
/-- A job that has ended leaves the scheduler. -/
def State.dropJob (s : State) (cl : ClusterId) (uid : Nat) : State :=
  s.modCluster cl (fun c => { c with jobs := c.jobs.filter (fun j => j.uid ≠ uid) })
/-- A job that the engine scheduler of a cluster accepts (R131). -/
def State.acceptJob (s : State) (cl : ClusterId) (j : EJob) : State :=
  s.modCluster cl (fun c => { c with jobs := c.jobs ++ [j] })
/-- A job of a context, with nothing done. -/
def newJob (s : State) (c : CtxId) (kind : EKind) : EJob :=
  let sl := s.slot c
  { uid := s.fresh, owner := c, task := sl.uid, gang := sl.gang.getD 0, pid := sl.pid, lid := sl.lid, gen := sl.slotgen, kind := kind, after := [], foot := [], tiles := [],
    priors := [], running := false, worked := false, bad := 0, cause := 0, flags := 0, status := 0, left := 0, tries := 0,
    frame := 0, badFrames := 0, discarded := 0 }

/-! ## The accesses of an engine (R329) -/

/-- The identity of a job: that of the task that submitted it. -/
def EJob.who (j : EJob) : Who := ⟨j.pid, j.lid, j.gen, false, j.owner⟩
/-- An engine's access at an address as the submitting task wrote it; a private-alias address is one of its core. -/
def engineAccess (s : State) (j : EJob) (a : DWord) (n : Nat) (acc : Access) : Acc :=
  match form a with
  | .priv off =>
    if decide (off + n ≤ 0x8000) && [off / 0x2000, (off + n - 1) / 0x2000].all (fun t =>
        (s.gang j.gang).held.contains ⟨j.owner.core, Fin.ofNat 5 t⟩)
    then .loc (privLoc j.owner.core off) else .fault (trapInfo 0x041 a (accCode acc))
  | _ => access s j.who a n acc
/-- An engine's read. -/
def engineRead (s : State) (j : EJob) (a : DWord) (n : Nat) : Load :=
  match engineAccess s j a n .read with
  | .fault t => .fault t
  | .retry => .retry
  | .loc l => match s.homeRead l n with
    | some v => .val v
    | none => .fault (trapInfo 0x050 a 0)
/-- How a counter increment at its home ends (R132, R188). -/
inductive Incr where
  | ok (s : State)
  | retry
  | held
  | refused (code : BitVec 9)
  deriving DecidableEq, Repr
/-- A counter doubleword incremented by 1 as one indivisible step; address 0 names none. -/
def engineIncr (s : State) (j : EJob) (a : DWord) : Incr :=
  if a = 0 then .ok s
  else match engineAccess s j a 8 .readWrite with
    | .fault t => .refused t.code
    | .retry => .retry
    | .loc l => match s.homeRead l 8 with
      | none => .refused 0x050
      | some v => .ok (s.write l 8 ((v + 1) % 2 ^ 64))
/-- The refusals with RETRY after which an engine gives up (R219, R361). -/
def retryLimit : Nat := 1024
/-- The counter of a job incremented: an increment that RETRY refuses is made again, and the last refusal counts as REFUSED (R361; assumption 57);
one to a module in a power state is held (R378). -/
def engineCount (s : State) (j : EJob) (a : DWord) : Incr :=
  match engineIncr s j a with
  | .retry => if s.holds j.owner.core.cl.m a then .held else if retryLimit ≤ j.tries + 1 then .refused 0x051 else .retry
  | r => r
/-- The locations that a span of virtual addresses of a module reaches, page by page; a page that does not translate reaches
none. -/
def spanPages (s : State) (m : Nat) (pid : BitVec 8) (w : Bool) : Nat → Nat → Nat → List Region
  | 0, _, _ => []
  | f + 1, va, n =>
    if n = 0 then []
    else
      let len := Nat.min n (65536 - va % 65536)
      let here : List Region := match pageWalk s m pid va with
        | .leaf e => [⟨hbmLoc m (e.pa + (va - e.va)), len, w⟩]
        | .fault .. => []
      here ++ spanPages s m pid w f (va + len) (n - len)
/-- The locations that a span reaches, whatever form names it (R131, R185, R219). -/
def spanRegions (s : State) (c : CtxId) (a : DWord) (n : Nat) (w : Bool) : List Region :=
  let pages := fun (m va : Nat) => spanPages s m (s.slot c).pid w (n / 65536 + 2) va n
  match form a with
  | .priv off => [⟨privLoc c.core off, n, w⟩]
  | .virt va => pages c.core.cl.m va
  | .remote m va => pages m va
  | .glob m x y core 1 off => [⟨wbufLoc ⟨m, x, y⟩ (core % 2 * 2 ^ 15 + off), n, w⟩]
  | .glob .. => [⟨a.toNat, n, w⟩]
  | .none => []
/-- The region of a counter, where there is one (R125). -/
def counterRegion (s : State) (c : CtxId) (a : DWord) : List Region := if a = 0 then [] else spanRegions s c a 8 true
/-- The region of a tile's bytes at the size of a tag (R122). -/
def tileRegion (k : CoreId) (t : Tile) (tag : Tag) (w : Bool) : Region := ⟨privLoc k t.storage.toNat, tileBytes tag, w⟩

/-! ## Tiles under jobs (R133, R177) -/

/-- A tile of a slot's tile table. -/
def State.tileOf (s : State) (c : CtxId) (h : Nat) : Tile := (s.slot c).cx.tile h
/-- An allocated tile changed. -/
def State.modTile (s : State) (c : CtxId) (h : Nat) (f : Tile → Tile) : State :=
  s.modTables c (fun x => x.setTile h (let t := x.tile h; if t.alloc then f t else t))
/-- Whether an accepted, unfinished job names a tile (R133). -/
def State.tileBusy (s : State) (c : CtxId) (h : Nat) : Bool :=
  s.jobs.any (fun p => p.2.tiles.any (fun t => decide (t.1 = c ∧ t.2.1 = h)))
/-- The accepted, unfinished jobs that name a tile, with whether each writes it. -/
def State.tileJobs (s : State) (c : CtxId) (h : Nat) : List (ClusterId × EJob × Bool) :=
  s.jobs.filterMap (fun p => (p.2.tiles.find? (fun t => decide (t.1 = c ∧ t.2.1 = h))).map (fun t => (p.1, p.2, t.2.2)))
/-- A writer accepted on a tile: it takes FILLING and the writer's tag, unless it is DRAINING (R133, R177). -/
def acceptWriter (s : State) (c : CtxId) (h : Nat) (tag : Tag) : State :=
  s.modTile c h (fun t => if t.state = .draining then t else { t with tag := tag, state := .filling })
/-- The tag and state a tile had before a writer's acceptance, for a writer's record. -/
def State.prior (s : State) (c : CtxId) (h : Nat) : (CtxId × Nat) × Tag × TileState :=
  ((c, h), (s.tileOf c h).tag, (s.tileOf c h).state)
/-- The next unfinished writer of a tile takes over what the tile returns to if it faults. -/
def passPrior (s : State) (c : CtxId) (h : Nat) (p : Tag × TileState) : State :=
  match (s.tileJobs c h).filter (fun x => x.2.2) with
  | [] => s
  | (cl, j, _) :: _ => s.setJob cl { j with priors := kset j.priors (c, h) p }
/-- The tag a writer gives a tile. -/
def EJob.writeTag (j : EJob) : Tag :=
  match j.kind with
  | .matrix _ _ t _ => t
  | .copy _ e => tagOf e.tag.toNat
  | .oneSided _ => .none
/-- The end of a writer, already out of the scheduler, for one of its tiles: READY or FILLING and its tag where it was written, and where
it was not the state before its acceptance, or FILLING if another writer is unfinished (R132, R177). -/
def endWriter (j : EJob) (wrote : Bool) (s : State) (c : CtxId) (h : Nat) : State :=
  let t := s.tileOf c h
  let more := (s.tileJobs c h).any (fun x => x.2.2)
  let p := kget j.priors (c, h) (t.tag, t.state)
  if wrote then
    passPrior (s.modTile c h (fun t => { t with tag := j.writeTag, state := if more then .filling else .ready })) c h (j.writeTag, .ready)
  else if t.state = .draining || more then passPrior s c h p
  else s.modTile c h (fun t => { t with tag := p.1, state := p.2 })
/-- The end of a copy-out, already out of the scheduler: the tile drains on, fills for the writers accepted meanwhile, the last of which gives it
its tag, or is READY (R133, R177). -/
def endCopyOut (s : State) (c : CtxId) (h : Nat) : State :=
  if (s.tileOf c h).state ≠ .draining then s
  else match (s.tileJobs c h).filter (fun x => x.2.2 || match x.2.1.kind with | .copy .. => true | _ => false) with
    | [] => s.modTile c h (fun t => { t with state := .ready })
    | (_, _, false) :: _ => s
    | l =>
      let tag := ((l.takeWhile (fun x => x.2.2)).getLast?.map (fun x => x.2.1.writeTag)).getD .none
      (passPrior s c h ((s.tileOf c h).tag, .ready)).modTile c h (fun t => { t with tag := tag, state := .filling })
/-- The end of every tile a writer names. -/
def endTiles (j : EJob) (wrote : Bool) (s : State) : State :=
  (j.tiles.filter (fun t => t.2.2)).foldl (fun s t => endWriter j wrote s t.1 t.2.1) s
/-- The jobs of a slot whose task is gone go on without its tile table (R138). -/
def State.disown (s : State) (c : CtxId) : State :=
  let f := fun (j : EJob) => { j with tiles := j.tiles.filter (fun t => t.1 ≠ c), priors := j.priors.filter (fun p => p.1.1 ≠ c) }
  { s with clusters := s.clusters.map (fun p => (p.1, { p.2 with jobs := p.2.jobs.map f })) }
/-- The arrival of an engine at a barrier of the job's gang, where the job names one (R132, R180). -/
def engineArrive (s : State) (g : Nat) (arrive : Bool) (n : BitVec 6) (poison : Bool) : State :=
  if arrive then barArrive s g n poison else s

/-! ## The end of a block (R259) -/

/-- Whether every task, segment and node of a placed gang has ended. -/
def tasksDone (s : State) (g : Nat) : Bool :=
  let x := s.gang g
  (x.status = .running || x.status = .stopping) &&
  x.held.all (fun c => decide ((s.slot c).gang ≠ some g)) && x.nodes.all (fun n => n.fin) &&
  s.clusters.all (fun c => c.2.pool.all (fun p => p.gang ≠ g))
/-- Whether nothing of a gang is left to end: its tasks, segments and nodes, its engine jobs and its Kettle commands; and its digest, where its
launch keeps one, is formed before (R370). -/
def gangDone (s : State) (g : Nat) : Bool :=
  tasksDone s g && s.clusters.all (fun c => c.2.jobs.all (fun j => j.gang ≠ g)) && s.allParts.all (fun p => p.gang ≠ g) &&
  ((s.gang g).digested || !(s.launch (s.gang g).launch).rc.digest)
/-- A gang gives up its room and what clusters and cores hold for it. -/
def freeGang (s : State) (g : Nat) : State :=
  let cl := fun (c : Cluster) =>
    { c with pool := c.pool.filter (fun p => p.gang ≠ g), drafts := c.drafts.filter (fun d => d.gang ≠ g),
             conds := c.conds.filter (fun d => d.gang ≠ g), walk := kdel c.walk g }
  let co := fun (k : Core) => { k with stages := kdel k.stages g, markers := k.markers.filter (· ≠ g) }
  { s.modGang g (fun x => { x with held := [] }) with
    clusters := s.clusters.map (fun p => (p.1, cl p.2)), cores := s.cores.map (fun p => (p.1, co p.2)) }
/-- A block retires once nothing of its gang is left (R259); the launch loses a member (R276, R281). -/
def State.settle (s : State) (g : Nat) : State :=
  if gangDone s g then
    let s := freeGang (s.modGang g (fun x => { x with status := .retired })) g
    s.modLaunch (s.gang g).launch (fun l => { l with retired := l.retired + 1, cmgen := l.cmgen + (if l.rc.resident then 1 else 0) })
  else s

/-! ## Digests of tiles and cards (R138, R369) -/

/-- The bytes of a submitted card fold as a store of its doublewords at its address (R369). -/
def foldCard (s : State) (c : CtxId) (ea : DWord) (ds : List Nat) : State :=
  s.foldDigest c (ds.mapIdx (fun i d => wholeElem (ea + BitVec.ofNat 64 (8 * i)) 8 d))
/-- A DET task's job takes its place in the order of folding (R138). -/
def openFold (s : State) (c : CtxId) (uid : Nat) : State :=
  if (s.launchOf c).rc.digest then s.modSlot c (fun sl => { sl with folds := sl.folds ++ [(uid, none)] }) else s
/-- The tiles at the head of the order that have been written fold into the digest. -/
def drainFolds : List (Nat × Option (List StoreElem)) → DWord → List (Nat × Option (List StoreElem)) × DWord
  | (_, some es) :: r, d => drainFolds r (es.foldl foldElem d)
  | l, d => (l, d)
/-- A job's tile is written, or will not be; the tiles of a segment fold once it is certain. -/
def closeFold (s : State) (c : CtxId) (uid : Nat) (es : List StoreElem) : State :=
  s.modSlot c (fun sl =>
    let l := sl.folds.map (fun p => if p.1 = uid then (uid, some es) else p)
    let r := if sl.speculative then (l, sl.digest) else drainFolds l sl.digest
    { sl with folds := r.1, digest := r.2 })

/-! ## Tile instructions (R213, R214) -/

/-- TALLOC (R213). -/
def execTalloc (s : Bool) (n rs1 : BitVec 5) (imm : BitVec 12) (st : State) : Out State :=
  .next (issue { s := s, a := [rs1] } st fun st =>
    let ea := st.cx.ra rs1 + imm.signExtend 64
    let off := match form ea with | .priv o => some o | _ => none
    if ea.toNat % 32 ≠ 0 then st.raise (trapInfo 0x040 ea)
    else match off with
      | none => st.raise (trapInfo 0x041 ea)
      | some o =>
        if !st.ownsPriv st.me o 1 then st.raise (trapInfo 0x041 ea)
        else if (st.cx.tile n.toNat).alloc then st.raise (trapInfo 0x089)
        else st.done (st.cx.setTile n.toNat ⟨true, ea.setWidth 15, .none, .empty, false, 0⟩))
/-- TFREE waits until no accepted, unfinished job names the tile (R214). -/
def execTfree (s : Bool) (h : BitVec 5) (st : State) : Out State :=
  .next (issue { s := s } st fun st =>
    if !(st.cx.tile h.toNat).alloc then st.raise (trapInfo 0x089)
    else if st.tileBusy st.me h.toNat then st.park (.tileIdle h.toNat)
    else st.done (st.cx.setTile h.toNat Tile.reset))
/-- TSTAT samples the entry (R214). -/
def execTstat (s : Bool) (rd h : BitVec 5) (st : State) : Out State :=
  .next (issue { s := s, long := true } st fun st =>
    st.done (st.cx.pushRb (.areg rd) (.scalar (st.cx.tile h.toNat).word)))
/-- TWAIT (R214). -/
def execTwait (s : Bool) (h : BitVec 5) (st : State) : Out State :=
  .next (issue { s := s } st fun st =>
    let t := st.cx.tile h.toNat
    if !t.alloc then st.raise (trapInfo 0x089)
    else if t.state = .ready then st.finish else st.park (.tileReady h.toNat))
/-- TSET (R214). -/
def execTset (s : Bool) (h : BitVec 5) (ready : Bool) (tag : BitVec 4) (st : State) : Out State :=
  .next (issue { s := s } st fun st =>
    let t := st.cx.tile h.toNat
    let g := tagOf tag.toNat
    if !t.alloc then st.raise (trapInfo 0x089)
    else if st.tileBusy st.me h.toNat then st.park (.tileIdle h.toNat)
    else
      let regions := (List.range 4).filter (fun i =>
        decide (t.storage.toNat < 0x2000 * (i + 1)) && decide (0x2000 * i < t.storage.toNat + tileBytes g))
      if 0x8000 < t.storage.toNat + tileBytes g ||
          !regions.all (fun i => (st.gang st.myGang).held.contains ⟨st.cur, Fin.ofNat 5 i⟩)
      then st.raise (trapInfo 0x08A)
      else st.done (st.cx.setTile h.toNat { t with tag := g, state := if ready then .ready else .empty, corrupt := false }))

end Sys2Proof.Machine
end

