-- ==== Sys2Proof/Machine/Numeric.lean ====
section
/-! DEFINITION. The numeric promise (R66 to R75): what an element's bits mean under a tag, and the lane operations of the
vector, special-function and conversion instructions on one element each (R87, R88, R112 to R118). -/

namespace Sys2Proof.Machine

/-- What the bits of an element mean (R67 to R73). -/
inductive Num where
  | fin (neg : Bool) (m : Nat) (e : Int)
  | inf (neg : Bool)
  | nan (neg quiet : Bool) (payload : Nat)
  | tapNan
  deriving DecidableEq, Repr

/-- An IEEE element decoded (R67 to R69). -/
def Ieee.num (f : Ieee) (b : Nat) : Num :=
  let neg := b.testBit (f.eb + f.fb)
  let ex := bits b (f.eb + f.fb - 1) f.fb
  let fr := b % 2 ^ f.fb
  if ex = 2 ^ f.eb - 1 then
    if fr = 0 then .inf neg else .nan neg (fr.testBit (f.fb - 1)) (fr % 2 ^ (f.fb - 1))
  else if ex = 0 then .fin neg fr (1 - (f.bias : Int) - f.fb)
  else .fin neg (fr + 2 ^ f.fb) ((ex : Int) - f.bias - f.fb)
/-- A register element decoded under a tag. -/
def numOf (t : Tag) (b : Nat) : Num :=
  match t.ieee with
  | some f => f.num b
  | none =>
    if t.isTap then
      let n := t.tap.1
      let s := b.testBit (n - 1)
      let m := b % 2 ^ (n - 1)
      if m = 0 then (if s then .tapNan else .fin false 0 0)
      else let v := tapMag t m; .fin s v.1 v.2
    else let v := intVal t b; .fin (decide (v < 0)) v.natAbs 0
def Num.isNan : Num → Bool | .nan .. => true | .tapNan => true | _ => false
def Num.isSig : Num → Bool | .nan _ q _ => !q | _ => false
def Num.isInf : Num → Bool | .inf _ => true | _ => false
def Num.isZero : Num → Bool | .fin _ m _ => m = 0 | _ => false
def Num.neg : Num → Bool | .fin n _ _ => n | .inf n => n | .nan n _ _ => n | .tapNan => true

/-- A NaN of an IEEE format (R69). -/
def Ieee.nan (f : Ieee) (neg : Bool) (payload : Nat) : Nat := f.zero neg + f.dnan + payload
/-- The NaN result where operands are NaN: the first NaN operand, quieted; a signalling operand sets INVALID (R69). -/
def propagate (f : Ieee) (ops : List Num) : Option (Nat × FlagBits) :=
  match ops.find? Num.isNan with
  | some (.nan neg _ p) => some (f.nan neg p, if ops.any Num.isSig then fInvalid else 0)
  | some .tapNan => some (f.dnan, 0)
  | _ => none
/-- The default NaN with INVALID (R69). -/
def invalid (f : Ieee) : Nat × FlagBits := (f.dnan, fInvalid)

/-- The exact sum of two signed dyadics; an exact zero is +0 but for (-0) + (-0) (R87). -/
def addExact (an : Bool) (am : Nat) (ae : Int) (bn : Bool) (bm : Nat) (be : Int) : Bool × Nat × Int :=
  let e := min ae be
  let x : Int := (am <<< (ae - e).natAbs : Nat)
  let y : Int := (bm <<< (be - e).natAbs : Nat)
  let v := (if an then -x else x) + (if bn then -y else y)
  if v = 0 then (an && bn && am = 0 && bm = 0, 0, 0) else (decide (v < 0), v.natAbs, e)
def Num.negate : Num → Num
  | .fin n m e => .fin (!n) m e | .inf n => .inf (!n) | .nan n q p => .nan (!n) q p | .tapNan => .tapNan

/-- a + b on numbers that are not NaN, rounded once. -/
def fpAddNum (f : Ieee) (a b : Num) : Nat × FlagBits :=
  match a, b with
  | .inf x, .inf y => if x = y then (f.inf x, 0) else invalid f
  | .inf x, _ => (f.inf x, 0)
  | _, .inf y => (f.inf y, 0)
  | .fin an am ae, .fin bn bm be => let (n, m, e) := addExact an am ae bn bm be; roundIeee f n ⟨m, e, false⟩
  | _, _ => invalid f
/-- a + b (R87). -/
def fpAdd (f : Ieee) (a b : Nat) : Nat × FlagBits :=
  (propagate f [f.num a, f.num b]).getD (fpAddNum f (f.num a) (f.num b))
/-- a - b (R87). -/
def fpSub (f : Ieee) (a b : Nat) : Nat × FlagBits :=
  (propagate f [f.num a, f.num b]).getD (fpAddNum f (f.num a) (f.num b).negate)
/-- a · b exactly; none for infinity times zero. -/
def mulNum (a b : Num) : Option Num :=
  match a, b with
  | .inf x, .fin y m _ => if m = 0 then none else some (.inf (x != y))
  | .fin x m _, .inf y => if m = 0 then none else some (.inf (x != y))
  | .inf x, .inf y => some (.inf (x != y))
  | .fin x m e, .fin y n g => some (.fin (x != y) (m * n) (e + g))
  | _, _ => none
def roundNum (f : Ieee) : Num → Nat × FlagBits
  | .fin n m e => roundIeee f n ⟨m, e, false⟩
  | .inf n => (f.inf n, 0)
  | _ => invalid f
/-- a · b (R87). -/
def fpMul (f : Ieee) (a b : Nat) : Nat × FlagBits :=
  (propagate f [f.num a, f.num b]).getD
    (match mulNum (f.num a) (f.num b) with | some p => roundNum f p | none => invalid f)
/-- d + a · b with one rounding, or d - a · b where `sub`; NaNs propagate in the order of `ns`, and infinity times zero raises INVALID
even then (R69, R87). -/
def fpFused (f : Ieee) (sub : Bool) (ns : List Nat) (a b d : Nat) : Nat × FlagBits :=
  let p := mulNum (f.num a) (f.num b)
  let bad := p.isNone && !(f.num a).isNan && !(f.num b).isNan
  match propagate f (ns.map f.num) with
  | some (r, fl) => (r, if bad then fl ||| fInvalid else fl)
  | none => match p with
    | some p => fpAddNum f (f.num d) (if sub then p.negate else p)
    | none => invalid f
/-- d + a · b, or d - a · b: the third source is d (R86). -/
def fpFma (f : Ieee) (sub : Bool) (a b d : Nat) : Nat × FlagBits := fpFused f sub [a, b, d] a b d
/-- VFMAL: vd + vs · l0, whose sources are vd, vs and l0 in this order (R91). -/
def fpFmal (f : Ieee) (vd vs l0 : Nat) : Nat × FlagBits := fpFused f false [vd, vs, l0] vs l0 vd
/-- The order of two numbers that are not NaN, with -0 below +0. -/
def numLt (a b : Num) : Bool :=
  match a, b with
  | .inf x, .inf y => x && !y
  | .inf x, _ => x
  | _, .inf y => !y
  | .fin an am ae, .fin bn bm be =>
    if an && !bn then true
    else if !an && bn then false
    else if an then !dyLe am ae bm be else !dyLe bm be am ae
  | _, _ => false
/-- Equality of two numbers that are not NaN, -0 and +0 equal (R93). -/
def numEq (a b : Num) : Bool := (a.isZero && b.isZero) || (!numLt a b && !numLt b a)
/-- max or min (R87). -/
def fpMax (f : Ieee) (a b : Nat) : Nat × FlagBits :=
  (propagate f [f.num a, f.num b]).getD (if numLt (f.num a) (f.num b) then (b, 0) else (a, 0))
def fpMin (f : Ieee) (a b : Nat) : Nat × FlagBits :=
  (propagate f [f.num a, f.num b]).getD (if numLt (f.num b) (f.num a) then (b, 0) else (a, 0))
/-- Only the sign bit changes (R87). -/
def fpAbs (f : Ieee) (a : Nat) : Nat := a % 2 ^ (f.eb + f.fb)
def fpNeg (f : Ieee) (a : Nat) : Nat := a ^^^ 2 ^ (f.eb + f.fb)
/-- a / b (R115). -/
def fpDiv (f : Ieee) (a b : Nat) : Nat × FlagBits :=
  (propagate f [f.num a, f.num b]).getD
    (match f.num a, f.num b with
    | .inf _, .inf _ => invalid f
    | .inf x, y => (f.inf (x != y.neg), 0)
    | x, .inf y => (f.zero (x.neg != y), 0)
    | .fin x m e, .fin y n g =>
      if n = 0 then (if m = 0 then invalid f else (f.inf (x != y), fDivzero))
      else
        let q := (m <<< 160) / n
        roundIeee f (x != y) ⟨q, e - g - 160, q * n ≠ m <<< 160⟩
    | _, _ => invalid f)
/-- The integer square root by bits: the largest r with r² ≤ n, from `r` on, trying bits `k - 1` to 0. -/
def isqrt (n : Nat) : Nat → Nat → Nat
  | 0, r => r
  | k + 1, r => if (r + 2 ^ k) * (r + 2 ^ k) ≤ n then isqrt n k (r + 2 ^ k) else isqrt n k r
/-- √a (R110, R114). -/
def fpSqrt (f : Ieee) (a : Nat) : Nat × FlagBits :=
  (propagate f [f.num a]).getD
    (match f.num a with
    | .fin n m e =>
      if m = 0 then (f.zero n, 0) else if n then invalid f
      else
        let v := if e % 2 = 0 then m <<< 120 else m <<< 121
        let h := if e % 2 = 0 then (e - 120) / 2 else (e - 121) / 2
        let r := isqrt v 96 0
        roundIeee f false ⟨r, h, r * r ≠ v⟩
    | .inf n => if n then invalid f else (f.inf false, 0)
    | _ => invalid f)
/-- Only an overflow or an underflow of the final rounding raises flags in the estimates (R113). -/
def estFlags (r : Nat × FlagBits) : Nat × FlagBits := (r.1, if r.2 &&& (fOverflow ||| fUnderflow) = 0 then 0 else r.2)
/-- The reciprocal estimate (R112, R114). -/
def fpRcpe (f : Ieee) (a : Nat) : Nat × FlagBits :=
  (propagate f [f.num a]).getD
    (match f.num a with
    | .inf n => (f.zero n, 0)
    | .fin n m e =>
      if m = 0 then (f.inf n, 0)
      else
        let l := bitLen m - 1
        let k := (m <<< 11) >>> l
        let r := (2 ^ 25 + (2 * k + 1)) / (2 * (2 * k + 1))
        estFlags (roundIeee f n ⟨r, -12 - (e + l), false⟩)
    | _ => invalid f)
/-- The reciprocal square-root estimate (R113, R114). -/
def fpRsqe (f : Ieee) (a : Nat) : Nat × FlagBits :=
  (propagate f [f.num a]).getD
    (match f.num a with
    | .inf n => if n then invalid f else (f.zero false, 0)
    | .fin n m e =>
      if m = 0 then (f.inf n, 0) else if n then invalid f
      else
        let l := bitLen m - 1
        let ex : Int := e + l
        let odd := ex % 2 ≠ 0
        let k := if odd then (m <<< 11) >>> l else (m <<< 10) >>> l
        let ex2 := if odd then ex - 1 else ex
        let r := (isqrt (2 ^ 37 / (2 * k + 1)) 20 0 + 1) / 2
        estFlags (roundIeee f false ⟨r, -12 - ex2 / 2, false⟩)
    | _ => invalid f)
/-- The refinement steps 2 - a·b, and (3 - a·b) / 2 (R115). -/
def fpStep (f : Ieee) (c : Nat) (h : Int) (a b : Nat) : Nat × FlagBits :=
  let x := f.num a
  let y := f.num b
  (propagate f [x, y]).getD
    (if x.isZero || x.isInf || y.isZero || y.isInf then (f.one, 0)
    else match x, y with
    | .fin xn xm xe, .fin yn ym ye =>
      let (n, m, e) := addExact false c 0 (xn == yn) (xm * ym) (xe + ye)
      roundIeee f n ⟨m, e - h, false⟩
    | _, _ => invalid f)
def fpRcps (f : Ieee) := fpStep f 2 0
def fpRsqs (f : Ieee) := fpStep f 3 1

/-- Conversion of one element (R69, R75, R116). -/
def convert (src dst : Tag) (b : Nat) : Nat × FlagBits :=
  if src = dst then (b, 0)
  else match numOf src b with
  | .fin n m e =>
    if m = 0 then ((match dst.ieee with | some f => f.zero n | none => 0), 0) else roundTo dst n m e
  | .inf n => match dst.ieee with
    | some f => (f.inf n, 0)
    | none =>
      if dst.isTap then ((if n then 2 ^ (dst.tap.1 - 1) else 0) + (2 ^ (dst.tap.1 - 1) - 1), fSat)
      else (wrapInt dst (if n then intMin dst else intMax dst), fSat)
  | .nan n q p =>
    let fl := if q then 0 else fInvalid
    match dst.ieee, src.ieee with
    | some f, some g => (f.nan n (if g.fb ≤ f.fb then p <<< (f.fb - g.fb) else p >>> (g.fb - f.fb)), fl)
    | _, _ => if dst.isTap then (2 ^ (dst.tap.1 - 1), fl) else (0, fInvalid)
  | .tapNan => match dst.ieee with
    | some f => (f.dnan, 0)
    | none => if dst.isTap then (2 ^ (dst.tap.1 - 1), 0) else (0, fInvalid)

/-- An operation defined on FP and integer elements, by tag. -/
def byType (t : Tag) (fp : Ieee → Nat × FlagBits) (int : Nat) : Nat × FlagBits :=
  match t.ieee with | some f => fp f | none => (int, 0)
def laneAdd (t : Tag) (a b : Nat) := byType t (fun f => fpAdd f a b) (wrapInt t (intVal t a + intVal t b))
def laneSub (t : Tag) (a b : Nat) := byType t (fun f => fpSub f a b) (wrapInt t (intVal t a - intVal t b))
def laneMul (t : Tag) (a b : Nat) := byType t (fun f => fpMul f a b) (wrapInt t (intVal t a * intVal t b))
def laneMax (t : Tag) (a b : Nat) := byType t (fun f => fpMax f a b) (wrapInt t (max (intVal t a) (intVal t b)))
def laneMin (t : Tag) (a b : Nat) := byType t (fun f => fpMin f a b) (wrapInt t (min (intVal t a) (intVal t b)))
/-- VABS of the most negative value returns that value (R88). -/
def laneAbs (t : Tag) (a : Nat) := byType t (fun f => (fpAbs f a, 0)) (wrapInt t (intVal t a).natAbs)
def laneNeg (t : Tag) (a : Nat) := byType t (fun f => (fpNeg f a, 0)) (wrapInt t (-intVal t a))
def laneFma (t : Tag) (sub : Bool) (a b d : Nat) := byType t (fun f => fpFma f sub a b d) 0
def laneFmal (t : Tag) (vd vs l0 : Nat) := byType t (fun f => fpFmal f vd vs l0) 0
/-- The high half of the product (R88). -/
def laneMulh (t : Tag) (a b : Nat) : Nat := wrapInt t ((intVal t a * intVal t b) / (2 ^ t.iw : Nat))
/-- Shifts; an amount of the width or more gives 0, or the sign (R89). -/
def laneSll (t : Tag) (a n : Nat) : Nat := if t.iw ≤ n then 0 else wrapInt t (((a % 2 ^ t.iw) <<< n : Nat) : Int)
def laneSrl (t : Tag) (a n : Nat) : Nat := if t.iw ≤ n then 0 else wrapInt t (((a % 2 ^ t.iw) >>> n : Nat) : Int)
def laneSra (t : Tag) (a n : Nat) : Nat := wrapInt t (intVal t a >>> min n t.iw)
/-- The four relations, with INVALID as R93 gives it. -/
def laneCmp (t : Tag) (op : Nat) (a b : Nat) : Bool × FlagBits :=
  let x := numOf t a
  let y := numOf t b
  if x.isNan || y.isNan then
    (decide (op = 1), if 2 ≤ op || x.isSig || y.isSig then fInvalid else 0)
  else ((match op with | 0 => numEq x y | 1 => !numEq x y | 2 => numLt x y && !numEq x y | _ => numLt x y || numEq x y), 0)

end Sys2Proof.Machine
end

