-- ==== Sys2Proof/Machine/Matrix.lean ====
section
/-! DEFINITION. The matrix engine: the job card (R124), weight-buffer records (R126), the arithmetic of a job (R127 to R129),
MXSUB, MXPOLL and MXWAIT (R134 to R136), and the start and completion of a job (R131, R132). -/

namespace Sys2Proof.Machine

/-! ## The card (R124) -/

/-- The card of four doublewords; none where a rule of R124 is broken. -/
def mxCardOf : List Nat → Option MxCard
  | [d0, d1, d2, d3] =>
    let bsrc := d0.testBit 9
    let wlen := bits d1 31 16
    let wbo := bits d1 15 0
    let ok := bits d0 63 32 = 0 && bits d0 7 0 = 1 && d3 = 0 && d2 % 8 = 0 && (d2 = 0 || !(form (BitVec.ofNat 64 d2)).isNone) &&
      (if bsrc then bits d0 27 24 = 0 && bits d1 63 32 = 0 && 1 ≤ wlen && wlen ≤ 8192 && wbo % 8 = 0 && wbo + 8 * wlen ≤ 65536
       else d1 = 0)
    if ok then some { hc := bits d0 31 28, hb := bits d0 27 24, ha := bits d0 23 20, bar := BitVec.ofNat 6 (d0 / 2 ^ 14),
                      arrive := d0.testBit 13, spa := d0.testBit 12, tb := d0.testBit 11, ta := d0.testBit 10, bsrc := bsrc,
                      acc := d0.testBit 8, wlen := wlen, wbo := wbo, ctr := BitVec.ofNat 64 d2 }
    else none
  | _ => none
/-- The accumulator format of a tag of A; none where R123 does not accept it. -/
def accTag : Tag → Option Tag
  | .fp64 => some .fp64
  | .fp32 | .fp16 | .bf16 | .tap8 | .tap6 => some .fp32
  | .int8 | .uint8 | .int4 => some .int32
  | _ => none

/-! ## Elements of tiles and records -/

/-- Element `e` of a run of elements packed from location `l` (R72, R122). -/
def elemOf (m : List Host.Cell) (l : Nat) (t : Tag) (e : Nat) : Nat :=
  match t with
  | .tap6 => fromMem t (e % 4) (Memory.getN m (l + 3 * (e / 4)) 3)
  | .int4 => fromMem t (e % 2) (Memory.getN m (l + e / 2) 1)
  | t => Memory.getN m (l + e * t.mbytes) t.mbytes
/-- Elements packed from the element at `l` end to end, in bytes rounded up (R72); the last TAP6 group of a bitmap record need not be whole, and
takes the bytes that its elements reach (R126, assumption 56). -/
def packedBytes (t : Tag) (n : Nat) : Nat :=
  match t with
  | .tap6 => (6 * n + 7) / 8
  | .int4 => (n + 1) / 2
  | t => n * t.mbytes
/-- The elements that stand before element `e` in a bitmap. -/
def onesBefore (m : List Host.Cell) (l : Nat) : Nat → Nat
  | 0 => 0
  | e + 1 => (if (Memory.get m (l + e / 8)).getLsbD (e % 8) then 1 else 0) + onesBefore m l e
/-- A checked record: its first element's location and its bitmap's, where it has one. -/
structure Record where
  vals : Nat
  map  : Option Nat
  deriving DecidableEq, Repr
/-- The record at location `l` of `8 * wlen` bytes, checked against the tag of A (R126). -/
def recordAt (m : List Host.Cell) (l wlen : Nat) (t : Tag) : Option Record :=
  let h := Memory.getN m l 8
  let nnz := bits h 31 21
  let mode := bits h 5 4
  let n := if mode = 1 then onesBefore m (l + 8) 1024 else 1024
  let len := 8 + (if mode = 1 then 128 else 0) + packedBytes t nnz
  if bits h 63 32 ≠ 0 || bits h 20 6 ≠ 0 || 2 ≤ mode || bits h 3 0 ≠ t.code || nnz ≠ n || (len + 7) / 8 ≠ wlen then none
  else some ⟨l + 8 + (if mode = 1 then 128 else 0), if mode = 1 then some (l + 8) else none⟩
/-- Element `e` of B from a record; none where it is absent (R127). -/
def Record.elem (r : Record) (m : List Host.Cell) (t : Tag) (e : Nat) : Option Nat :=
  match r.map with
  | none => some (elemOf m r.vals t e)
  | some b =>
    if (Memory.get m (b + e / 8)).getLsbD (e % 8) then some (elemOf m r.vals t (onesBefore m b e)) else none

/-! ## Arithmetic (R128, R129) -/

/-- A pair of formed elements, or a product that is not formed. -/
abbrev Term := Option (Nat × Nat)
/-- The first NaN element of the formed products, A before B (R129). -/
def firstNan (t : Tag) : List Term → Option Nat
  | [] => none
  | none :: r => firstNan t r
  | some (a, b) :: r => if (numOf t a).isNan then some a else if (numOf t b).isNan then some b else firstNan t r
/-- Whether any element of the formed products is a signalling NaN (R129). -/
def anySig (t : Tag) (l : List Term) : Bool :=
  l.any (fun p => match p with | some (a, b) => (numOf t a).isSig || (numOf t b).isSig | none => false)
/-- The product of a term; +0 where it is not formed. A negative tapered element times the one tapered zero
is −0 (assumption 60). -/
def Term.prod (t : Tag) : Term → Option Num
  | none => some (.fin false 0 0)
  | some (a, b) => mulNum (numOf t a) (numOf t b)
/-- The exact sum of finite numbers, -0 only where all of them are. -/
def sumFin : List Num → Bool × Nat × Int
  | [] => (true, 0, 0)
  | .fin n m e :: r => let (n', m', e') := sumFin r; addExact n m e n' m' e'
  | _ :: r => sumFin r
/-- GroupSum of R129 in FP32. -/
def groupSum (t : Tag) (l : List Term) : Nat × FlagBits :=
  let f32 := Ieee.mk 8 23
  let sig := if anySig t l then fInvalid else 0
  match firstNan t l with
  | some x => let r := convert t .fp32 x; (if t = .fp32 then (r.1 ||| 2 ^ 22) else r.1, sig)
  | none =>
    let ps := l.map (Term.prod t)
    let nums := ps.filterMap id
    if ps.any Option.isNone || (nums.any (· = .inf true) && nums.any (· = .inf false)) then invalid f32
    else if nums.any (· = .inf true) then (f32.inf true, 0)
    else if nums.any (· = .inf false) then (f32.inf false, 0)
    else
      let (n, m, e) := sumFin nums
      roundIeee f32 n ⟨m, e, false⟩
/-- The exact integer sum of a group. -/
def groupInt (t : Tag) (l : List Term) : Int :=
  l.foldl (fun acc p => match p with | some (a, b) => acc + intVal t a * intVal t b | none => acc) 0
/-- One element of C from its old value and its 32 terms (R128). -/
def mxElem (t : Tag) (old : Nat) (terms : List Term) : Nat × FlagBits :=
  if t = .fp64 then
    let f := Ieee.mk 11 52
    terms.foldl (fun (acc : Nat × FlagBits) p =>
      let r := match p with | some (a, b) => fpFma f false a b acc.1 | none => fpAdd f acc.1 0
      (r.1, acc.2 ||| r.2)) (old, 0)
  else
    (List.range 4).foldl (fun (acc : Nat × FlagBits) g =>
      let grp := (terms.drop (8 * g)).take 8
      if t.isInt then
        let r := satInt .int32 (intVal .int32 acc.1 + groupInt t grp)
        (r.1, if r.2 then acc.2 ||| fSat else acc.2)
      else
        let s := groupSum t grp
        let r := fpAdd (Ieee.mk 8 23) acc.1 s.1
        (r.1, acc.2 ||| s.2 ||| r.2)) (old, 0)
/-- What a job multiplies: the elements of A' and B' by row and column, none where absent (R124, R127). -/
structure MxIn where
  t : Tag
  a : Nat → Nat → Option Nat
  b : Nat → Nat → Option Nat
  old : Nat → Nat
/-- A formed product needs both of its elements. -/
def MxIn.term (x : MxIn) (i j k : Nat) : Term :=
  match x.a i k, x.b k j with | some a, some b => some (a, b) | _, _ => none
/-- Cnew in row-major order with the exception bits (R128). -/
def MxIn.result (x : MxIn) : List Nat × FlagBits :=
  let es := (List.range 1024).map (fun e =>
    mxElem x.t (x.old e) ((List.range 32).map (fun k => x.term (e / 32) (e % 32) k)))
  (es.map (·.1), orAll (es.map (·.2)))

/-! ## MXSUB, MXPOLL, MXWAIT (R134 to R136) -/

/-- The entry of a job in a job table. -/
def Ctxt.job (c : Ctxt) (id : DWord) : Option JobEntry := c.jobs.find? (fun e => e.id = id)
/-- The status word of R136; a freed entry reads as DONE with GONE. -/
def mxStatus : Option JobEntry → DWord
  | none => 0x600
  | some e => BitVec.ofNat 64 (e.kind.toNat * 2 ^ 24 + e.state.code * 2 ^ 8 + e.flags.toNat)
/-- The checks of R134 on a card in the order written. -/
def mxCheck (c : Ctxt) (d : MxCard) : Except (BitVec 9) Tag :=
  let a := c.tile d.ha
  let b := c.tile d.hb
  let t := c.tile d.hc
  if !a.alloc || !t.alloc || (!d.bsrc && !b.alloc) then .error 0x092
  else match accTag a.tag with
    | none => .error 0x093
    | some acc =>
      if (!d.bsrc && b.tag ≠ a.tag) || (d.acc && t.tag ≠ acc) then .error 0x093
      else if a.state = .empty || (!d.bsrc && b.state = .empty) || (d.acc && t.state = .empty) then .error 0x094
      else
        let tooFar := fun (x : Tile) (tag : Tag) => decide (0x8000 < x.storage.toNat + tileBytes tag)
        let laps := fun (x : Tile) => decide (x.storage.toNat < t.storage.toNat + tileBytes acc) &&
          decide (t.storage.toNat < x.storage.toNat + tileBytes x.tag)
        if tooFar a a.tag || (!d.bsrc && tooFar b b.tag) || tooFar t acc || laps a || (!d.bsrc && laps b) then .error 0x095
        else .ok acc
/-- Whether a speculative context submits without parking: it is a segment, C lies in its own slot region, and there is no counter and no barrier
(R138). A run-ahead, whose every store is drafted, is no case of that rule (assumption 57). -/
def mxFree (c : CtxId) (sl : Slot) (t : Tile) (acc : Tag) (d : MxCard) : Bool :=
  sl.ck.isNone && decide (0x2000 * c.who.val ≤ t.storage.toNat) && decide (t.storage.toNat + tileBytes acc ≤ 0x2000 * (c.who.val + 1)) &&
  d.ctr = 0 && !d.arrive
/-- The footprint of a job (R125). -/
def mxFoot (s : State) (o : CtxId) (d : MxCard) (acc : Tag) : List Region :=
  let c := (s.slot o).cx
  let k := o.core
  let a := c.tile d.ha
  let b := c.tile d.hb
  [tileRegion k a a.tag false,
   if d.bsrc then ⟨wbufLoc k.cl d.wbo, 8 * d.wlen, false⟩ else tileRegion k b b.tag false,
   tileRegion k (c.tile d.hc) acc true] ++ counterRegion s o d.ctr
/-- How a job gets its table entry (R121). -/
inductive Room where
  | ok (l : List JobEntry)
  | wait
  | full
  deriving DecidableEq, Repr
def jobRoom (l : List JobEntry) : Room :=
  if l.length < 16 then .ok l
  else match l.find? (fun e => e.state = .done) with
    | some d =>
      let oldest := l.foldl (fun m e => if e.state = .done && e.id.ult m then e.id else m) d.id
      .ok (l.filter (fun e => e.id ≠ oldest))
    | none => if l.all (fun e => e.state = .fault) then .full else .wait
/-- The matrix jobs a cluster holds (R120). -/
def Cluster.mxCount (c : Cluster) : Nat := (c.jobs.filter (fun j => match j.kind with | .matrix .. => true | _ => false)).length
/-- A job accepted (R133, R134). -/
def mxAccept (st : State) (rd : BitVec 5) (ea : DWord) (ds : List Nat) (d : MxCard) (acc : Tag) (l : List JobEntry) : State :=
  let c := st.me
  let cx := st.cx
  let off := fun (h : Nat) => (cx.tile h).storage.toNat
  let sl := st.self
  let j := { newJob st c (.matrix cx.seq d acc ⟨(cx.tile d.ha).tag, off d.ha, off d.hb, off d.hc, false⟩) with
    after := if sl.speculative then (sl.uid, sl.made) :: sl.parents else [], foot := mxFoot st c d acc, priors := [st.prior c d.hc],
    tiles := [(c, d.hc, true), (c, d.ha, false)] ++ (if d.bsrc then [] else [(c, d.hb, false)]) }
  let e : JobEntry := { id := cx.seq, uid := j.uid, kind := 0, state := .queued, flags := 0, card := ea }
  let st := (st.setCx { cx with jobs := l ++ [e], seq := cx.seq + 1 }).tick.acceptJob c.core.cl j
  let st := openFold (foldCard (acceptWriter st c d.hc acc) c ea ds) c j.uid
  st.done (st.cx.wa rd cx.seq)
/-- MXSUB (R134). -/
def execMxsub (s : Bool) (rd rs1 : BitVec 5) (imm : BitVec 12) (st : State) : Out State :=
  .next (issue { s := s, a := [rs1] } st fun st =>
    let ea := st.cx.ra rs1 + imm.signExtend 64
    if !(form ea).isPriv || ea.toNat % 32 ≠ 0 then st.raise (trapInfo 0x090)
    else match recordCheck st st.me ea 32 32 with
      | some t => st.raise t
      | none => match readDwords st st.me ea 4 with
        | .error (.fault t) => st.raise t
        | .error _ => st.park (.reissue [ea])
        | .ok ds => match mxCardOf ds with
          | none => st.raise (trapInfo 0x091)
          | some d => match mxCheck st.cx d with
            | .error e => st.raise (trapInfo e)
            | .ok acc =>
              if st.self.speculative && !mxFree st.me st.self (st.cx.tile d.hc) acc d then st.park .certain
              else if 16 ≤ (st.cluster st.cur.cl).mxCount then st.park .mxRoom
              else match jobRoom st.cx.jobs with
                | .full => st.raise (trapInfo 0x096)
                | .wait => st.park .mxEntry
                | .ok l => mxAccept st rd ea ds d acc l)
/-- Whether an id was never issued (R135). -/
def Ctxt.badJob (c : Ctxt) (id : DWord) : Bool := id = 0 || !id.ult c.seq
/-- MXPOLL samples the entry, and frees one that is DONE or FAULT (R135, R136). -/
def execMxpoll (s : Bool) (rd rs1 : BitVec 5) (st : State) : Out State :=
  .next (issue { s := s, long := true, a := [rs1] } st fun st =>
    let id := st.cx.ra rs1
    if st.cx.badJob id then st.raise (trapInfo 0x099)
    else
      let e := st.cx.job id
      let c := st.cx.pushRb (.areg rd) (.scalar (mxStatus e))
      let ended := match e with | some e => e.state.ended | none => false
      st.done (if ended then { c with jobs := c.jobs.filter (fun x => x.id ≠ id) } else c))
/-- MXWAIT (R136). -/
def execMxwait (s : Bool) (rs1 : BitVec 5) (st : State) : Out State :=
  .next (issue { s := s, a := [rs1] } st fun st =>
    let id := st.cx.ra rs1
    if st.cx.badJob id then st.raise (trapInfo 0x099)
    else match st.cx.job id with
      | none => st.finish
      | some e => match e.state with
        | .done => st.finish
        | .fault => st.raise (trapInfo 0x098 e.card)
        | _ => st.park (.mxJob id))

/-! ## Start and completion (R131, R132) -/

/-- The status of a job in its task's table. -/
def setStatus (s : State) (j : EJob) (f : JobEntry → JobEntry) : State :=
  s.modTables j.owner (fun c => { c with jobs := c.jobs.map (fun e => if e.uid = j.uid then f e else e) })
/-- Whether a quadrant's matrix engines are idle for the energy budget is timing only (R255); an engine runs one job at a
time (R120). -/
def Cluster.mxBusy (c : Cluster) : Bool :=
  c.jobs.any (fun j => j.running && match j.kind with | .matrix .. => true | _ => false)
/-- The record of a job with BSRC = 1 at its start: whether it has a bitmap; none where it is bad (R126). -/
def recordStart (s : State) (cl : ClusterId) (d : MxCard) (t : Tag) : Option Bool :=
  if !d.bsrc then some false else (recordAt s.mem (wbufLoc cl d.wbo) d.wlen t).map (fun r => r.map.isSome)
/-- Whether a unit of the record is poisoned (R136). -/
def recordPoison (s : State) (cl : ClusterId) (d : MxCard) : Bool := d.bsrc && s.poisoned (wbufLoc cl d.wbo) (8 * d.wlen)
/-- Whether a draft that the submitting segment reads, made before it submitted the job, is still to be performed in what the job reads or writes:
the job waits for it, since the submitter's earlier accesses are performed before the work reads and no agent reads a draft (R199, R204). -/
def State.draftsFirst (s : State) (cl : ClusterId) (j : EJob) : Bool :=
  let touches := fun (e : StoreElem) => (spanRegions s j.owner e.addr e.size true).any (fun r => j.foot.any r.meets)
  (s.cluster cl).drafts.any (fun d => j.after.any (fun p => decide (d.owner = p.1) && decide (d.n < p.2)) && d.elems.any touches)
/-- A matrix job starts once every job it has an edge to has ended and the drafts before it are performed; its record is checked then (R126,
R131). -/
def execMxJobStart (cl : ClusterId) (n : Nat) (st : State) : Out State :=
  .next (match (st.cluster cl).job n with
    | some j => match j.kind with
      | .matrix id d acc p =>
        if j.running || st.blocked cl j || st.draftsFirst cl j || (st.cluster cl).mxBusy then st
        else
          let r := recordStart st cl d p.ta
          let bad := if recordPoison st cl d then 3 else if r.isNone then 4 else 0
          let j' := { j with running := true, bad := bad, kind := .matrix id d acc { p with bitmap := r.getD false } }
          setStatus (st.setJob cl j') j (fun e => { e with state := .running })
      | _ => st
    | none => st)
/-- What a job reads at its completion, of the tiles as they were at its acceptance and of the record as it was at its start (assumption 56); a
poisoned unit of an accumulating C supplies free values (assumption 8). -/
def mxInput (s : State) (cl : ClusterId) (j : EJob) (d : MxCard) (acc : Tag) (p : MxPlace) : MxIn :=
  let k := j.owner.core
  let m := s.mem
  let la := privLoc k p.oa
  let lb := privLoc k p.ob
  let lc := privLoc k p.oc
  let rec_ := wbufLoc cl d.wbo + 8
  let r : Record := if p.bitmap then ⟨rec_ + 128, some rec_⟩ else ⟨rec_, none⟩
  { t := p.ta
    a := fun i x =>
      let e := if d.ta then 32 * x + i else 32 * i + x
      let v := elemOf m la p.ta e
      if d.spa && (numOf p.ta v).isZero then none else some v
    b := fun x i =>
      let e := if d.tb then 32 * i + x else 32 * x + i
      if d.bsrc then r.elem m p.ta e else some (elemOf m lb p.ta e)
    old := fun e =>
      if !d.acc then 0
      else if s.poisoned (lc + e * acc.mbytes) acc.mbytes then (Config.freeValue (s.fresh + e)).toNat % 2 ^ acc.ebits
      else elemOf m lc acc e }
/-- The fault a job meets before it writes C: what its record showed at the start, POISON_WB before BAD_RECORD, then an uncorrectable error in A, in B
or in the record (R136; the order is that of assumption 60). -/
def mxFault (s : State) (cl : ClusterId) (j : EJob) (d : MxCard) (p : MxPlace) : Nat :=
  let bad := fun (off : Nat) => s.poisoned (privLoc j.owner.core off) (tileBytes p.ta)
  if j.bad ≠ 0 then j.bad
  else if bad p.oa then 1
  else if !d.bsrc && bad p.ob then 2
  else if recordPoison s cl d then 3 else 0
/-- A job ends in FAULT with C as it was (R132). -/
def mxFail (s : State) (cl : ClusterId) (j : EJob) (d : MxCard) (kind : Nat) : State :=
  let s := endTiles j false (s.dropJob cl j.uid)
  let s := setStatus s j (fun e => { e with state := .fault, kind := BitVec.ofNat 8 kind })
  engineArrive (closeFold s j.owner j.uid []) j.gang d.arrive d.bar true
/-- Elements written end to end from a location of a core's scratchpad, as stores of the elements. -/
def writeElems (s : State) (l n : Nat) : List Nat → Nat → State
  | [], _ => s
  | v :: r, e => writeElems (s.write (l + e * n) n v) l n r (e + 1)
/-- A job completes (R132): C is written and READY, then the counter, the status and the barrier; while the increment is refused with RETRY or held
by a module in a power state, the whole of it waits (assumption 60). -/
def mxDone (s : State) (cl : ClusterId) (j : EJob) (d : MxCard) (acc : Tag) (p : MxPlace) : State :=
  let r := (mxInput s cl j d acc p).result
  let off := p.oc
  let n := acc.mbytes
  let w := { writeElems s (privLoc j.owner.core off) n r.1 0 with fresh := s.fresh + 1024 }
  let fold := r.1.mapIdx (fun e v => wholeElem (BitVec.ofNat 64 (off + e * n)) n v)
  let fl : BitVec 6 := r.2.setWidth 6
  let w := closeFold (endTiles j true (w.dropJob cl j.uid)) j.owner j.uid fold
  match engineCount w j d.ctr with
  | .retry => s.setJob cl { j with tries := j.tries + 1 }
  | .held => s
  | .refused _ => engineArrive (setStatus w j (fun e => { e with state := .fault, kind := 5, flags := fl })) j.gang d.arrive d.bar true
  | .ok w => engineArrive (setStatus w j (fun e => { e with state := .done, flags := fl })) j.gang d.arrive d.bar false
/-- A started matrix job ends (R132). -/
def execMxJobComplete (cl : ClusterId) (n : Nat) (st : State) : Out State :=
  .next (match (st.cluster cl).job n with
    | some j => match j.kind with
      | .matrix _ d acc p =>
        if !j.running then st
        else
          let k := mxFault st cl j d p
          (if k ≠ 0 then mxFail st cl j d k else mxDone st cl j d acc p).settle j.gang
      | _ => st
    | none => st)

end Sys2Proof.Machine
end

