-- ==== Sys2Proof/Machine/Copy.lean ====
section
/-! DEFINITION. The copy schedule and its tile walkers (R179, R180), the AV1 decoders (R181 to R183), and CPSTAGE, CPQ and
CPCANCEL (R215, R216). -/

namespace Sys2Proof.Machine

/-! ## The rectangle of a gang (R239) -/

/-- Cluster `i` of a gang, row-major. -/
def Gang.cluster (g : Gang) (i : Nat) : ClusterId := ⟨g.m, g.x + i % g.wd, g.y + i / g.wd⟩
/-- Whether a cluster lies in a gang's rectangle, and its index there. -/
def Gang.covers (g : Gang) (cl : ClusterId) : Bool :=
  decide (cl.m = g.m) && decide (g.x ≤ cl.x) && decide (cl.x < g.x + g.wd) && decide (g.y ≤ cl.y) && decide (cl.y < g.y + g.ht)
def Gang.indexOf (g : Gang) (cl : ClusterId) : Nat := (cl.y - g.y) * g.wd + (cl.x - g.x)
/-- The clusters of a gang in row-major order. -/
def Gang.clusters (g : Gang) : List ClusterId := (List.range (g.wd * g.ht)).map g.cluster

/-! ## Entries (R179) -/

/-- The entry of eight doublewords. -/
def copyEntryOf : List Nat → Option CopyEntry
  | [d0, d1, d2, d3, d4, d5, d6, d7] =>
    let four := fun (d : Nat) => (List.range 4).map (fun i => bits d (16 * i + 15) (16 * i))
    some { stage := bits d0 63 48, cluster := bits d0 47 32, core := bits d0 31 29, slot := bits d0 28 27, handle := bits d0 26 23,
           kind := bits d0 22 21, out := d0.testBit 20, aon := d0.testBit 19, arrive := d0.testBit 18,
           bar := BitVec.ofNat 6 (d0 / 2 ^ 12), circ := BitVec.ofNat 4 (d0 / 2 ^ 8), tag := BitVec.ofNat 4 (d0 / 2 ^ 4),
           low := BitVec.ofNat 4 d0, base := BitVec.ofNat 64 d1, ext := four d2,
           str := [1, bits d3 31 0, bits d3 63 32, bits d4 31 0], str3hi := bits d4 63 32, org := (four d5).map (sgn 16),
           ctr := BitVec.ofNat 64 d6, extra := BitVec.ofNat 64 d7, card := [] }
  | _ => none
/-- Whether an entry selects a cluster of a gang; an index that names no cluster is found by every walker (R179). -/
def CopyEntry.selects (e : CopyEntry) (g : Gang) (cl : ClusterId) : Bool :=
  e.cluster = 0xFFFF || g.wd * g.ht ≤ e.cluster || e.cluster = g.indexOf cl
/-- The identity of a gang's walkers: that of its launch; a schedule is no slot's, and its SLOTGEN is 0 (assumption 57). -/
def State.walkWho (s : State) (g : Nat) (cl : ClusterId) : Who :=
  let l := s.launch (s.gang g).launch
  ⟨l.pid, l.lid, 0, false, ⟨⟨cl, 0⟩, 4⟩⟩
/-- Doublewords read by an identity. -/
def whoDwords (s : State) (w : Who) (a : DWord) : Nat → Except Load (List Nat)
  | 0 => .ok []
  | n + 1 => match readMem s w a 8 with
    | .val v => match whoDwords s w (a + 8) n with
      | .ok l => .ok (v :: l)
      | e => e
    | r => .error r
/-- Entry `n` of a gang's schedule as a walker reads it. -/
def readEntry (s : State) (g : Nat) (cl : ClusterId) (n : Nat) : Except Load CopyEntry :=
  match whoDwords s (s.walkWho g cl) ((s.launch (s.gang g).launch).rc.sched + BitVec.ofNat 64 (64 * n)) 8 with
  | .error r => .error r
  | .ok ds => match copyEntryOf ds with | some e => .ok e | none => .error .retry
/-- The status of an entry that its walker has not come to (R216). -/
def CopyStatus.waiting : CopyStatus := ⟨.queued, 0, 0, 0, false, false, 0⟩
/-- That of one that does not select the cluster (R216). -/
def CopyStatus.skipped (x : CopyStatus) : CopyStatus := { x with state := .done, other := true, passed := true }
/-- The statuses a walker holds at gang start: it reads the schedule as it replays it (R298). -/
def walkInit (s : State) (g : Nat) : List CopyStatus := List.replicate (s.launch (s.gang g).launch).rc.schedLen .waiting
/-- The status of an entry as CPQ finds it: one that the walker has not come to selects the cluster or does not as it now stands (R216, R298). -/
def statusNow (s : State) (g : Nat) (cl : ClusterId) (n : Nat) (x : CopyStatus) : CopyStatus :=
  match readEntry s g cl n with
  | .ok e => if x.passed || e.selects (s.gang g) cl then x else x.skipped
  | .error _ => x
/-- A status changed. -/
def modCopy (s : State) (cl : ClusterId) (g n : Nat) (f : CopyStatus → CopyStatus) : State :=
  s.modCluster cl (fun c => { c with walk := kset c.walk g (((kget c.walk g []).mapIdx (fun i x => if i = n then f x else x))) })

/-- The tag of an entry. -/
def CopyEntry.fmt (e : CopyEntry) : Tag := tagOf e.tag.toNat
/-- The contexts whose tiles an entry names (R179, R180), with those of a MULTICAST rectangle. -/
def CopyEntry.owners (e : CopyEntry) (g : Gang) (cl : ClusterId) : List CtxId :=
  let at_ := fun (c : ClusterId) => (⟨⟨c, e.core⟩, Fin.ofNat 5 e.slot⟩ : CtxId)
  match e.kind with
  | 0 => [at_ cl]
  | 1 =>
    let w := bits e.extra.toNat 7 0
    let i := g.indexOf cl
    (List.range (w * bits e.extra.toNat 15 8)).map (fun n => at_ (g.cluster (i + n % w + n / w * g.wd)))
  | _ => []
/-- Whether an address may stand for an array, a card or a record: a virtual, remote-HBM or global local-store address. -/
def formsArray (a : DWord) : Bool := formsSync (form a)
/-- Whether a handle names no tile for an entry, or one that at the size of a tag leaves the gang's slot regions (R170, R179, R214). -/
def tileAway (s : State) (g : Gang) (c : CtxId) (h : Nat) (tag : Tag) : Bool :=
  let t := s.tileOf c h
  let last := t.storage.toNat + tileBytes tag - 1
  !g.held.contains c || !t.alloc || 0x8000 ≤ last ||
  !(List.range 4).all (fun k => last < 0x2000 * k || 0x2000 * (k + 1) ≤ t.storage.toNat || g.held.contains ⟨c.core, Fin.ofNat 5 k⟩)
/-- Whether a field of an entry is broken (R179, R180), as its walker finds it: among them a base out of its element's alignment, and an EMPTY tile or
one of another tag as the source of a copy out (assumption 60). -/
def CopyEntry.broken (e : CopyEntry) (s : State) (g : Gang) (cl : ClusterId) : Bool :=
  let w := bits e.extra.toNat 7 0
  let h := bits e.extra.toNat 15 8
  let i := g.indexOf cl
  let tileBad := fun (c : CtxId) =>
    let t := s.tileOf c e.handle
    tileAway s g c e.handle e.fmt || (e.out && (t.state = .empty || t.tag ≠ e.fmt))
  let array := formsArray e.base && e.base.toNat % e.fmt.align = 0 && e.ext.all (· ≠ 0) &&
    !(e.owners g cl).any tileBad
  let aonOk := !e.aon || (s.module cl.m).mode ≠ .normal
  let ok := e.low = 0 && 1 ≤ e.tag.toNat && e.tag.toNat ≤ 13 && (e.cluster = 0xFFFF || e.cluster < g.wd * g.ht) && (!e.out || e.kind = 0) && e.str3hi = 0 &&
    e.ctr.toNat % 8 = 0 && (e.ctr = 0 || !(form e.ctr).isNone) &&
    match e.kind with
    | 0 => array && e.extra = 0 && (e.out || aonOk)
    | 1 => e.extra.toNat < 2 ^ 16 && 1 ≤ w && 1 ≤ h && i % g.wd + w ≤ g.wd && i / g.wd + h ≤ g.ht && array && aonOk
    | 2 => formsArray e.base && e.base.toNat % 8 = 0 && e.extra = 0 && aonOk
    | _ =>
      let wlen := bits e.extra.toNat 31 16
      let wbo := bits e.extra.toNat 15 0
      formsArray e.base && e.base.toNat % 8 = 0 && e.extra.toNat < 2 ^ 32 && 1 ≤ wlen && wlen ≤ 8192 && wbo % 8 = 0 &&
        wbo + 8 * wlen ≤ 65536
  !ok
/-- The array element that holds tile element `i`; none where it is outside a dimension that is not circular (R179). -/
def CopyEntry.offset (e : CopyEntry) (i : Nat) : Option Nat :=
  let c := fun (j : Nat) =>
    let x := e.org.getD j 0 + (if j = 0 then (i % 32 : Nat) else if j = 1 then (i / 32 : Nat) else 0)
    let n := e.ext.getD j 1
    if e.circ.getLsbD j then some (x % (n : Int)).toNat
    else if 0 ≤ x && x < (n : Int) then some x.toNat else none
  match c 0, c 1, c 2, c 3 with
  | some a, some b, some d, some f => some (a + b * e.str.getD 1 0 + d * e.str.getD 2 0 + f * e.str.getD 3 0)
  | _, _, _, _ => none
/-- The bytes an entry's array elements are in. -/
def CopyEntry.arrayFoot (e : CopyEntry) (s : State) (c : CtxId) : List Region :=
  ((List.range 1024).map (fun i => match e.offset i with
    | some o => spanRegions s c (elemAt e.fmt e.base o).1 e.fmt.mbytes e.out
    | none => [])).flatten
/-! ## The job card of a DECODE entry (R181) -/

/-- Whether a job card breaks R181. -/
def cardBroken (g : Gang) (ds : List Nat) : Bool :=
  match ds with
  | [d0, d1, d2, d3, d4, d5, d6, d7] =>
    let fm := form (BitVec.ofNat 64 d0)
    !((fm.isVirt || fm.isRemote) && bits d1 63 32 ≠ 0 && bits d2 15 2 = 0 && bits d2 1 0 ≤ 1 &&
      bits d2 31 24 * bits d2 23 16 ≤ g.wd * g.ht &&
      (bits d2 31 24 * bits d2 23 16 = 0 || (bits d2 31 24 - 1) * g.wd + bits d2 23 16 ≤ g.wd * g.ht) && d3 = 0 && d4 = 0 && d5 = 0 && d6 = 0 && d7 = 0)
  | _ => true
/-- The tiles of a decoder's crop: context, handle, plane, and column and row of the picture in tiles (R181); a chroma tile takes its plane's tile at the
luma tile's place (assumption 60). -/
def cropTiles (g : Gang) (e : CopyEntry) : List (CtxId × Nat × Nat × Nat × Nat) :=
  let d2 := e.card.getD 2 0
  let w := bits d2 23 16
  ((List.range (w * bits d2 31 24)).map (fun n =>
    let cl := g.cluster (n / w * g.wd + n % w)
    let c : CtxId := ⟨⟨cl, e.core⟩, Fin.ofNat 5 e.slot⟩
    (if bits d2 1 0 = 1 then [0, 1, 2] else [0]).map (fun p =>
      (c, e.handle + p, p, bits d2 47 32 + n % w, bits d2 63 48 + n / w)))).flatten
/-- Whether a tile of the crop is none of the gang's, or not allocated (R179, R214). -/
def cropAway (s : State) (g : Gang) (e : CopyEntry) : Bool :=
  (cropTiles g e).any (fun x => decide (15 < x.2.1) || tileAway s g x.1 x.2.1 .none)
/-- The card of a DECODE entry read as the entry is passed, since its destination tiles are the entry's (R181, R182; assumption 57): the entry with
its card, or the kind and the cause of its fault; none where the read is refused with RETRY. -/
def readCard (s : State) (w : Who) (g : Gang) (e : CopyEntry) : Option (Except (BitVec 8 × BitVec 9) CopyEntry) :=
  if e.kind ≠ 2 then some (.ok e)
  else match whoDwords s w e.base 8 with
    | .error (.fault t) => some (.error (2, t.code))
    | .error _ => none
    | .ok ds => if cardBroken g ds || cropAway s g { e with card := ds } then some (.error (1, 0)) else some (.ok { e with card := ds })

/-- `n` bytes of a bitstream. -/
def engineStream (s : State) (j : EJob) (a : DWord) : Nat → Except Load (List Byte)
  | 0 => .ok []
  | n + 1 => match engineStream s j a n with
    | .error r => .error r
    | .ok l => match engineRead s j (a + BitVec.ofNat 64 n) 1 with
      | .val v => .ok (l ++ [BitVec.ofNat 8 v])
      | r => .error r
/-- The tag of a decoder's tiles (R181). -/
def frameTag (b : List Byte) : Tag := if Config.av1TenBit b then .int16 else .uint8
/-- The tag of the tiles that a job writes: of a DECODE entry that of its bitstream, as it can be read when the entry is passed (R181; assumption 57). -/
def writesTag (s : State) (j : EJob) (e : CopyEntry) : Tag :=
  if e.kind ≠ 2 then e.fmt
  else match engineStream s j (BitVec.ofNat 64 (e.card.getD 0 0)) (bits (e.card.getD 1 0) 31 0) with | .ok b => frameTag b | .error _ => .uint8
/-- The footprint of an entry; that of a decoder is its destination tiles, at the size of the tag `t` that it writes (R131, R182). -/
def CopyEntry.foot (e : CopyEntry) (s : State) (g : Gang) (cl : ClusterId) (c : CtxId) (t : Tag) : List Region :=
  counterRegion s c e.ctr ++
  match e.kind with
  | 0 | 1 =>
    (e.owners g cl).map (fun o => tileRegion o.core (s.tileOf o e.handle) e.fmt (!e.out)) ++ e.arrayFoot s c
  | 2 => (cropTiles g e).map (fun x => tileRegion x.1.core (s.tileOf x.1 x.2.1) t true)
  | _ =>
    let n := 8 * bits e.extra.toNat 31 16
    ⟨wbufLoc cl (bits e.extra.toNat 15 0), n, true⟩ :: spanRegions s c e.base n false

/-! ## Passing an entry (R180) -/

/-- The cluster stage of a gang: the least of the eight counters, a core without a slot of the gang counting as 65,535. -/
def clusterStage (s : State) (cl : ClusterId) (g : Nat) : Nat :=
  (coreIds cl).foldl (fun m k =>
    if (s.gang g).held.any (fun c => decide (c.core = k)) then Nat.min m (kget (s.core k).stages g 0) else m) 65535
/-- An entry ends in FAULT without having been passed, or before it writes: no counter, and a poisoned arrival (R180, R215). -/
def copyRefuse (s : State) (cl : ClusterId) (g n : Nat) (kind : BitVec 8) (cause : BitVec 9) (arrive : Bool) (bar : BitVec 6) :
    State :=
  engineArrive (modCopy s cl g n (fun x => { x with state := .fault, kind := kind, cause := cause, passed := true })) g arrive bar true
/-- The walker passes the first entry that selects its cluster once the cluster stage has reached the entry's; a broken or
unreadable one faults, and one whose card is refused with RETRY 1,024 times (R179, R180, R219, R361). An entry is read as it is replayed (R298), and
one that does not select the cluster is skipped. -/
def execCopyEntryPass (cl : ClusterId) (g n : Nat) (st : State) : Out State :=
  let gg := st.gang g
  let w := kget (st.cluster cl).walk g []
  .next (
    if !gg.covers cl || gg.status ≠ .running || (w.findIdx? (fun x => !x.passed)) ≠ some n then st
    else match readEntry st g cl n with
      | .error (.fault t) => copyRefuse st cl g n 2 t.code false 0
      | .error _ => st
      | .ok e =>
        if !e.selects gg cl then modCopy st cl g n CopyStatus.skipped
        else if clusterStage st cl g < e.stage then st
        else if e.broken st gg cl then copyRefuse st cl g n 1 0 e.arrive e.bar
        else match readCard st (st.walkWho g cl) gg e with
        | none =>
          let tries := (w.getD n .waiting).tries + 1
          if st.holds cl.m e.base then st
          else if retryLimit ≤ tries then copyRefuse st cl g n 2 0x051 e.arrive e.bar
          else modCopy st cl g n (fun x => { x with tries := tries })
        | some (.error (kind, cause)) => copyRefuse st cl g n kind cause e.arrive e.bar
        | some (.ok e) =>
          let c : CtxId := ⟨⟨cl, e.core⟩, Fin.ofNat 5 e.slot⟩
          let l := st.launch gg.launch
          let owners := e.owners gg cl
          let j := { newJob st c (.copy n e) with
            gang := g, pid := l.pid, lid := l.lid, gen := (st.slot c).slotgen, tiles := owners.map (fun o => (o, e.handle, !e.out)),
            priors := if e.out then [] else owners.map (fun o => st.prior o e.handle) }
          let j := { j with foot := e.foot st gg cl c (writesTag st j e) }
          let st := modCopy (st.tick.acceptJob cl j) cl g n (fun x => { x with passed := true })
          if e.out then
            st.modTile c e.handle (fun t => if t.state = .ready then { t with state := .draining } else t)
          else owners.foldl (fun s o => acceptWriter s o e.handle e.fmt) st)

/-! ## Transfers -/

/-- A copy entry's job of a kind that may do its transfer now: accepted, without an unfinished edge, and not yet done. -/
def copyReady (s : State) (cl : ClusterId) (n : Nat) (p : CopyEntry → Bool) : Option (EJob × Nat × CopyEntry) :=
  match (s.cluster cl).job n with
  | some j => match j.kind with
    | .copy i e => if p e && !j.worked && !j.running && !s.blocked cl j then some (j, i, e) else none
    | _ => none
  | none => none
/-- The transfer of an entry has been made, or met a fault: its job is ready to end. -/
def copyWorked (s : State) (cl : ClusterId) (j : EJob) (i : Nat) (bad : Nat) (cause : BitVec 9) : State :=
  modCopy (s.setJob cl { j with running := true, worked := true, bad := bad, cause := cause }) cl j.gang i
    (fun x => { x with state := .running })
/-- A transfer refused with RETRY is made again, and after 1,024 refusals the entry faults (R219, R361; assumption 57); one to a module in a power
state is held (R378). -/
def copyRetry (s : State) (cl : ClusterId) (j : EJob) (i : Nat) (a : DWord) : State :=
  if s.holds j.owner.core.cl.m a then s.setJob cl j
  else if retryLimit ≤ j.tries + 1 then copyWorked s cl j i 2 0x051 else s.setJob cl { j with tries := j.tries + 1 }
/-- An element read by an engine; a group of three bytes is read byte by byte (R103). -/
def engineElem (s : State) (j : EJob) (a : DWord) (n : Nat) : Load :=
  if n = 3 then
    match engineRead s j a 1, engineRead s j (a + 1) 1, engineRead s j (a + 2) 1 with
    | .val x, .val y, .val z => .val (x + 256 * y + 65536 * z)
    | .val _, .val _, r => r
    | .val _, r, _ => r
    | r, _, _ => r
  else engineRead s j a n
/-- The elements of the window as a tile holds them, from the highest down; the first fault in tile order decides. -/
def readWindow (s : State) (j : EJob) (e : CopyEntry) : Nat → Except Load (List Nat)
  | 0 => .ok []
  | i + 1 => match readWindow s j e i with
    | .error r => .error r
    | .ok l => match e.offset i with
      | none => .ok (l ++ [0])
      | some o =>
        let (a, p) := elemAt e.fmt e.base o
        match engineElem s j a e.fmt.mbytes with
        | .val v => .ok (l ++ [fromMem e.fmt p v])
        | r => .error r
/-- The elements of a tile gathered into the units they are packed in (R72, R122). -/
def packUnits (t : Tag) (v : List Nat) : List Nat :=
  match t with
  | .tap6 => (List.range 256).map (fun g => (List.range 4).foldl (fun a i => a + (v.getD (4 * g + i) 0 % 64) * 2 ^ (6 * i)) 0)
  | .int4 => (List.range 512).map (fun g => v.getD (2 * g) 0 % 16 + 16 * (v.getD (2 * g + 1) 0 % 16))
  | _ => v
/-- A tile written whole; an all-or-nothing write leaves the next even version (R180). -/
def writeTile (s : State) (c : CtxId) (h : Nat) (t : Tag) (v : List Nat) (aon : Bool) : State :=
  let s := writeElems s (privLoc c.core (s.tileOf c h).storage.toNat) t.mbytes (packUnits t v) 0
  if aon then s.modTile c h (fun x => { x with version := x.version + 2 }) else s
/-- An entry that reads the array once and writes its tiles (R179, R180). -/
def copyInto (s : State) (cl : ClusterId) (n : Nat) (p : CopyEntry → Bool) : State :=
  match copyReady s cl n p with
  | none => s
  | some (j, i, e) => match readWindow s j e 1024 with
    | .error (.fault t) => copyWorked s cl j i 2 t.code
    | .error _ => copyRetry s cl j i e.base
    | .ok v =>
      copyWorked ((j.tiles.map (·.1)).foldl (fun s c => writeTile s c e.handle e.fmt v e.aon) s) cl j i 0 0
/-- A COPY entry with OUT clear (R179). -/
def execCopyIn (cl : ClusterId) (n : Nat) (st : State) : Out State := .next (copyInto st cl n (fun e => e.kind = 0 && !e.out))
/-- A MULTICAST entry (R180). -/
def execMulticast (cl : ClusterId) (n : Nat) (st : State) : Out State := .next (copyInto st cl n (fun e => e.kind = 1))
/-- An element written by an engine at its address under its mask; the cause where it is refused, or `retry`. -/
def engineStore (s : State) (j : EJob) (x : StoreElem) : Except Load State :=
  x.pieces.foldl (fun acc p => match acc with
    | .error r => .error r
    | .ok s => match engineAccess s j (x.addr + BitVec.ofNat 64 p.1) p.2 .write with
      | .fault t => .error (.fault t)
      | .retry => .error .retry
      | .loc l =>
        let m := (x.mask >>> (8 * p.1)) % 2 ^ (8 * p.2)
        let v := (x.val >>> (8 * p.1)) % 2 ^ (8 * p.2)
        if s.room l p.2 = .full then .error .retry else .ok (s.homeWrite j.who (x.addr + BitVec.ofNat 64 p.1) l p.2 v m)) (.ok s)
/-- The elements of a tile written to the window in order, from one on; the first that is refused, with its place. -/
def writeWindow (j : EJob) (e : CopyEntry) : List Nat → State → Nat → State × Option (Load × Nat)
  | [], s, _ => (s, none)
  | v :: r, s, i => match e.offset i with
    | none => writeWindow j e r s (i + 1)
    | some o =>
      let (a, p) := elemAt e.fmt e.base o
      match engineStore s j (toMem e.fmt a p v) with
      | .ok s => writeWindow j e r s (i + 1)
      | .error x => (s, some (x, i))
/-- A COPY entry with OUT set: the draining tile to the window (R177, R179); from an element refused with RETRY it goes on (R219, R360). -/
def execCopyOut (cl : ClusterId) (n : Nat) (st : State) : Out State :=
  .next (match copyReady st cl n (fun e => e.kind = 0 && e.out) with
    | none => st
    | some (j, i, e) =>
      let c := j.owner
      let st := st.modTile c e.handle (fun t => if t.state = .ready then { t with state := .draining } else t)
      let l := privLoc c.core (st.tileOf c e.handle).storage.toNat
      if st.poisoned l (tileBytes e.fmt) then copyWorked st cl j i 2 0x050
      else match writeWindow j e (((List.range 1024).map (elemOf st.mem l e.fmt)).drop j.left) st j.left with
        | (s, none) => copyWorked s cl j i 0 0
        | (s, some (.fault t, _)) => copyWorked s cl j i 2 t.code
        | (s, some (_, n)) => copyRetry s cl { j with left := n, tries := if n = j.left then j.tries else 0 } i e.base)
/-- A WBLOAD entry: a record into the cluster's weight buffer (R179). -/
def execWbload (cl : ClusterId) (n : Nat) (st : State) : Out State :=
  .next (match copyReady st cl n (fun e => e.kind = 3) with
    | none => st
    | some (j, i, e) => match whoDwords st j.who e.base (bits e.extra.toNat 31 16) with
      | .error (.fault t) => copyWorked st cl j i 2 t.code
      | .error _ => copyRetry st cl j i e.base
      | .ok ds => copyWorked (writeElems st (wbufLoc cl (bits e.extra.toNat 15 0)) 8 ds 0) cl j i 0 0)
/-- An entry's job leaves the scheduler and its tiles change state (R177, R180). -/
def copyLeave (s : State) (cl : ClusterId) (j : EJob) (e : CopyEntry) (wrote : Bool) : State :=
  let s := s.dropJob cl j.uid
  let s := { s with decoders := s.decoders.map (fun d => if d.2.job = some (cl, j.uid) then (d.1, ⟨none⟩) else d) }
  if e.out then endCopyOut s j.owner e.handle else endTiles j wrote s
/-- An entry ends in FAULT before its destination is whole (R180). -/
def copyFail (s : State) (cl : ClusterId) (j : EJob) (i : Nat) (e : CopyEntry) (kind : BitVec 8) (cause : BitVec 9) : State :=
  copyRefuse (copyLeave s cl j e false) cl j.gang i kind cause e.arrive e.bar
/-- An entry whose transfer is made ends (R180): the destination READY, the counter, the status, the arrival; a decoder has
arrived once for each frame (R182). -/
def execCopyEntryComplete (cl : ClusterId) (n : Nat) (st : State) : Out State :=
  .next (match (st.cluster cl).job n with
    | some j => match j.kind with
      | .copy i e =>
        if !j.worked then st
        else State.settle (g := j.gang) <| if j.bad ≠ 0 then copyFail st cl j i e (BitVec.ofNat 8 j.bad) j.cause
        else match engineCount (copyLeave st cl j e true) j e.ctr with
          | .retry => st.setJob cl { j with tries := j.tries + 1 }
          | .held => st
          | .refused code => copyRefuse (copyLeave st cl j e true) cl j.gang i 2 code e.arrive e.bar
          | .ok s => engineArrive (modCopy s cl j.gang i (fun x => { x with state := .done })) j.gang (e.arrive && e.kind ≠ 2) e.bar false
      | _ => st
    | none => st)

/-! ## The decoders (R181 to R183) -/

/-- A DECODE entry hands its card to the first free decoder of the quadrant, and waits while there is none (R181). -/
def execDecode (cl : ClusterId) (n : Nat) (st : State) : Out State :=
  .next (match copyReady st cl n (fun e => e.kind = 2) with
    | none => st
    | some (j, i, e) =>
      match (List.range 8).find? (fun d => (st.decoder cl.m (8 * quadrantOf cl + d)).job.isNone) with
      | none => st
      | some d =>
        let j := { j with running := true, left := bits (e.card.getD 1 0) 63 32 }
        modCopy { st.setJob cl j with decoders := kset st.decoders (cl.m, 8 * quadrantOf cl + d) ⟨some (cl, n)⟩ } cl j.gang i
          (fun x => { x with state := .running }))
/-- Whether a frame is corrupt: it cannot be decoded, or it follows a corrupt frame and is no key frame (R183). -/
def frameCorrupt (b : List Byte) : Nat → Bool
  | 0 => !Config.av1FrameOk b 0
  | f + 1 => !Config.av1FrameOk b (f + 1) || (frameCorrupt b f && !Config.av1KeyFrame b (f + 1))
/-- The samples of one tile of a frame, 4:2:0: zero outside the picture and in a corrupt frame (R181, R183). -/
def tileSamples (b : List Byte) (f plane tx ty : Nat) (corrupt : Bool) : List Nat :=
  (List.range 1024).map (fun e =>
    let size := fun (n : Nat) => if plane = 0 then n else (n + 1) / 2
    let out := size (Config.av1Width b f) ≤ 32 * tx + e % 32 || size (Config.av1Height b f) ≤ 32 * ty + e / 32
    if corrupt || out then 0 else Config.av1Sample b f plane tx ty e % (if Config.av1TenBit b then 1024 else 256))
/-- One tile of a frame written, through FILLING to READY (R182, R183). -/
def frameTile (b : List Byte) (f : Nat) (e : CopyEntry) (corrupt : Bool) (s : State) (x : CtxId × Nat × Nat × Nat × Nat) : State :=
  let (c, h, plane, tx, ty) := x
  let t := frameTag b
  let s := writeTile (acceptWriter s c h t) c h t (tileSamples b f plane tx ty corrupt) e.aon
  s.modTile c h (fun t => { t with state := .ready, corrupt := t.corrupt || corrupt })
/-- A decoder writes its next frame once every destination tile is EMPTY, and arrives at the barrier; a bitstream that cannot be
read faults the entry (R182, R183). -/
def execDecoderFrame (m dec : Nat) (st : State) : Out State :=
  .next (match (st.decoder m dec).job with
    | none => st
    | some (cl, n) => match (st.cluster cl).job n with
      | none => st
      | some j => match j.kind with
        | .copy i e =>
          let ts := cropTiles (st.gang j.gang) e
          let free := fun (x : CtxId × Nat × Nat × Nat × Nat) =>
            let t := st.tileOf x.1 x.2.1
            t.alloc && t.state = .empty && !st.tileBusy x.1 x.2.1
          if j.worked || j.left = 0 || !ts.all free then st
          else match engineStream st j (BitVec.ofNat 64 (e.card.getD 0 0)) (bits (e.card.getD 1 0) 31 0) with
            | .error (.fault t) => copyWorked st cl j i 2 t.code
            | .error _ => copyRetry st cl j i (BitVec.ofNat 64 (e.card.getD 0 0))
            | .ok b =>
              if ts.any (fun x => tileAway st (st.gang j.gang) x.1 x.2.1 (frameTag b)) then copyWorked st cl j i 1 0
              else
                let bad := frameCorrupt b j.frame
                let s := ts.foldl (frameTile b j.frame e bad) st
                let j := { j with frame := j.frame + 1, left := j.left - 1, tries := 0, worked := j.left = 1,
                                  badFrames := j.badFrames + (if bad then 1 else 0) }
                let s := modCopy (s.setJob cl j) cl j.gang i (fun x => { x with corrupt := Nat.min 65535 j.badFrames })
                engineArrive s j.gang e.arrive e.bar bad
        | _ => st)

/-! ## CPSTAGE, CPQ, CPCANCEL (R215, R216) -/

/-- Whether the launch of the issuing context names no copy schedule, and the length of its schedule. -/
def State.noSched (s : State) : Bool := (s.launchOf s.me).rc.sched = 0
def State.schedLen (s : State) : Nat := (s.launchOf s.me).rc.schedLen
/-- CPSTAGE (R215). -/
def execCpstage (s : Bool) (n : BitVec 8) (st : State) : Out State :=
  .next (issue { s := s, parks := true } st fun st =>
    if st.noSched then st.raise (trapInfo 0x081)
    else
      let g := st.myGang
      (st.modCore st.cur (fun k => { k with stages := kset k.stages g (Nat.min 65535 (kget k.stages g 0 + n.toNat)) })).finish)
/-- The copy status word (R216). -/
def copyWord (x : CopyStatus) : DWord :=
  BitVec.ofNat 64 (x.corrupt % 2 ^ 16 * 2 ^ 48 + (if x.kind = 2 then x.cause.toNat * 2 ^ 32 else 0) + x.kind.toNat * 2 ^ 24 +
    (if x.other then 2 ^ 10 else 0) + x.state.code * 2 ^ 8)
/-- CPQ (R215). -/
def execCpq (s : Bool) (rd rs1 : BitVec 5) (st : State) : Out State :=
  .next (issue { s := s, long := true, a := [rs1] } st fun st =>
    let n := (st.cx.ra rs1).toNat
    if st.noSched then st.raise (trapInfo 0x081)
    else if st.schedLen ≤ n then st.raise (trapInfo 0x080)
    else
      let x := (kget (st.cluster st.cur.cl).walk st.myGang []).getD n .waiting
      st.done (st.cx.pushRb (.areg rd) (.scalar (copyWord (statusNow st st.myGang st.cur.cl n x)))))
/-- CPCANCEL: every entry of this cluster from the index on that has not been passed ends CANCELLED (R215). -/
def execCpcancel (s : Bool) (rs1 : BitVec 5) (st : State) : Out State :=
  .next (issue { s := s, parks := true, a := [rs1] } st fun st =>
    if st.noSched then st.raise (trapInfo 0x081)
    else
      let g := st.myGang
      let cl := st.cur.cl
      let from_ := (st.cx.ra rs1).toNat
      let cancel := fun (s : State) (n : Nat) =>
        match (kget (s.cluster cl).walk g [])[n]? with
        | some x =>
          if n < from_ || x.passed then s
          else match readEntry s g cl n with
            | .ok e => if e.selects (s.gang g) cl then copyRefuse s cl g n 4 0 e.arrive e.bar else s
            | .error _ => copyRefuse s cl g n 4 0 false 0
        | none => s
      ((List.range st.schedLen).foldl cancel st).finish)

end Sys2Proof.Machine
end

