-- ==== Sys2Proof/WellFormed.lean ====
section
/-! DEFINITION. Which instructions are well formed: the field checks of R53 that need nothing but the encoding
(RESERVED_FIELD, RESERVED_SPECIFIER, SPECIFIER_DIRECTION), and for the other steps of the table that the places they
name exist (R7, R24, R21, R256). -/

namespace Sys2Proof

/-- A cluster's coordinates lie in the mesh of a module of the pod (R7, R23). -/
def ClusterId.ok (c : ClusterId) : Bool := c.m < 1024 && c.x < 192 && c.y < 168
/-- A core's ring index is 0 to 7 (R7). -/
def CoreId.ok (k : CoreId) : Bool := k.cl.ok && k.n < 8
/-- A context's core exists. -/
def CtxId.ok (c : CtxId) : Bool := c.core.ok
/-- A dispatcher exists: four quadrants, twelve bands a quadrant (R256). -/
def DispNode.ok : DispNode → Bool
  | .root m => m < 1024
  | .module m => m < 1024
  | .quadrant m q => m < 1024 && q < 4
  | .band m q b => m < 1024 && q < 4 && b < 12

/-- A specifier that broadcasts a24 to a31 (R41). -/
def isBcast (v : BitVec 6) : Bool := 50 ≤ v.toNat && v.toNat ≤ 57
/-- A specifier that names q0 to q3 (R41). -/
def isQ (v : BitVec 6) : Bool := 44 ≤ v.toNat && v.toNat ≤ 47
/-- A specifier that names w0 or w1 (R41). -/
def isW (v : BitVec 6) : Bool := v.toNat == 48 || v.toNat == 49
/-- The selectors that R353 assigns. -/
def selectorAssigned (n : Nat) : Bool :=
  n ≤ 0x23 || (0x100 ≤ n && n ≤ 0x11F) || (0x140 ≤ n && n ≤ 0x15F)

/-- How an instruction uses a specifier: as a source, as a destination, or as both (R41, R86, R97). -/
inductive Dir where
  | src | dst | both
  deriving DecidableEq, Repr

/-- A specifier is legal in its direction (R41); a value of 58 to 62 has been refused before. -/
def dirOk (v : BitVec 6) : Dir → Bool
  | .src => v.toNat < 48 || isBcast v || v == 63
  | .dst => v.toNat < 40 || isW v || v == 63
  | .both => v.toNat < 40 || v == 63

/-- The values that an instruction's entry reserves in its fields (RESERVED_FIELD, and RESERVED_MINOR for a selector or
a region, QUEUE_NUMBER for a 16-bit queue move). -/
def Instr.fieldsOk : Instr → Bool
  | .add _ _ _ _ => true
  | .sub _ _ _ _ => true
  | .and _ _ _ _ => true
  | .or _ _ _ _ => true
  | .xor _ _ _ _ => true
  | .andn _ _ _ _ => true
  | .sll _ _ _ _ => true
  | .srl _ _ _ _ => true
  | .sra _ _ _ _ => true
  | .slt _ _ _ _ => true
  | .sltu _ _ _ _ => true
  | .min _ _ _ _ => true
  | .max _ _ _ _ => true
  | .minu _ _ _ _ => true
  | .maxu _ _ _ _ => true
  | .mul _ _ _ _ => true
  | .mulh _ _ _ _ => true
  | .mulhu _ _ _ _ => true
  | .div _ _ _ _ => true
  | .divu _ _ _ _ => true
  | .rem _ _ _ _ => true
  | .remu _ _ _ _ => true
  | .clz _ _ _ => true
  | .ctz _ _ _ => true
  | .popc _ _ _ => true
  | .addw _ _ _ _ => true
  | .subw _ _ _ _ => true
  | .mulw _ _ _ _ => true
  | .sllw _ _ _ _ => true
  | .srlw _ _ _ _ => true
  | .sraw _ _ _ _ => true
  | .addi _ _ _ _ => true
  | .andi _ _ _ _ => true
  | .ori _ _ _ _ => true
  | .xori _ _ _ _ => true
  | .slti _ _ _ _ => true
  | .sltiu _ _ _ _ => true
  | .slli _ _ _ _ => true
  | .srli _ _ _ _ => true
  | .srai _ _ _ _ => true
  | .addiw _ _ _ _ => true
  | .mkhi _ _ _ => true
  | .mkga _ _ _ _ region => (region.toNat ≤ 4)
  | .peera _ _ _ imm => (imm.toInt ≥ -7 && imm.toInt ≤ 7)
  | .beq _ _ _ _ => true
  | .bne _ _ _ _ => true
  | .blt _ _ _ _ => true
  | .bge _ _ _ _ => true
  | .bltu _ _ _ _ => true
  | .bgeu _ _ _ _ => true
  | .loop _ _ _ => true
  | .jal _ _ _ => true
  | .jr _ _ _ _ => true
  | .nop _ => true
  | .yield _ => true
  | .retire _ => true
  | .vlq _ _ => true
  | .ldb _ _ _ _ => true
  | .ldbz _ _ _ _ => true
  | .ldh _ _ _ _ => true
  | .ldhz _ _ _ _ => true
  | .ldw _ _ _ _ => true
  | .ldwz _ _ _ _ => true
  | .ldd _ _ _ _ => true
  | .stb _ _ _ _ => true
  | .sth _ _ _ _ => true
  | .stw _ _ _ _ => true
  | .std _ _ _ _ => true
  | .rld _ _ _ cls zx size => (cls.toNat ≤ 5 && !(zx && size == 3))
  | .rst _ _ _ cls _ => (cls.toNat ≤ 5)
  | .sdef _ n _ _ => (n.toNat ≤ 3)
  | .sgo _ _ q isW => !(isW && q.toNat ≥ 2)
  | .shalt _ _ => true
  | .sq _ _ _ => true
  | .qpush _ n _ fmt => (n.toNat ≤ 3 && fmt.toNat ≥ 1 && fmt.toNat ≤ 13)
  | .qpop _ _ n => (n.toNat ≤ 1)
  | .bind _ n _ _ lg _ => (n.toNat ≤ 7 && lg.toNat ≥ 3 && lg.toNat ≤ 40)
  | .unbind _ n => (n.toNat ≤ 7)
  | .acq _ _ _ scope => (scope.toNat ≤ 4)
  | .rel _ _ scope => (scope.toNat ≤ 4)
  | .fence _ scope => (scope.toNat ≤ 4)
  | .lbfence _ => true
  | .aadd _ _ _ _ size _ => (size.toNat ≥ 2)
  | .amin _ _ _ _ size _ => (size.toNat ≥ 2)
  | .amax _ _ _ _ size _ => (size.toNat ≥ 2)
  | .aand _ _ _ _ size _ => (size.toNat ≥ 2)
  | .aor _ _ _ _ size _ => (size.toNat ≥ 2)
  | .axor _ _ _ _ size _ => (size.toNat ≥ 2)
  | .axchg _ _ _ _ size _ => (size.toNat ≥ 2)
  | .acas _ _ _ _ size _ => (size.toNat ≥ 2)
  | .cwait _ _ _ _ _ => true
  | .cadd _ _ _ scope => (scope.toNat ≤ 4)
  | .bari _ _ _ => true
  | .bara _ _ _ _ => true
  | .barw _ _ _ => true
  | .baraw _ _ _ _ => true
  | .barq _ _ _ => true
  | .talloc _ n _ _ => (n.toNat ≤ 15)
  | .tfree _ h => (h.toNat ≤ 15)
  | .tstat _ _ h => (h.toNat ≤ 15)
  | .twait _ h => (h.toNat ≤ 15)
  | .tset _ h _ tag => (h.toNat ≤ 15 && tag.toNat ≥ 1 && tag.toNat ≤ 13)
  | .cpstage _ _ => true
  | .cpq _ _ _ => true
  | .cpcancel _ _ => true
  | .mxsub _ _ _ _ => true
  | .mxpoll _ _ _ => true
  | .mxwait _ _ => true
  | .puts _ _ cls => (cls.toNat ≤ 5)
  | .get _ _ cls => (cls.toNat ≤ 5)
  | .radd _ _ cls => (cls.toNat ≤ 5)
  | .evwait _ _ _ n => (n.toNat ≤ 2)
  | .kcmd _ _ _ _ => true
  | .kfence _ => true
  | .kpoll _ _ _ => true
  | .wseal _ _ _ _ => true
  | .wq _ _ _ => true
  | .spawn _ _ _ => true
  | .spawnc _ _ _ _ _ => true
  | .cres _ _ _ _ => true
  | .cbr _ _ op _ _ => (op.toNat ≤ 2)
  | .cvote _ _ _ op => (op.toNat ≤ 2)
  | .ssend _ => true
  | .xend _ _ => true
  | .xmit _ _ dir _ _ _ => (dir.toNat ≤ 5)
  | .xsel _ _ dir _ _ _ => (dir.toNat ≤ 5)
  | .launch _ _ _ _ => true
  | .lcancel _ _ _ => true
  | .lwait _ _ _ => true
  | .cycb _ _ _ _ => true
  | .cycres _ _ => true
  | .cyce _ => true
  | .cyct _ _ _ => true
  | .sysrd _ _ sel => (selectorAssigned sel.toNat)
  | .syswr _ _ sel => (selectorAssigned sel.toNat)
  | .trap _ _ code => (code.toNat ≤ 0x17F)
  | .eret _ mode => (mode.toNat ≤ 2)
  | .brk _ _ => true
  | .wdog _ _ _ => true
  | .pwrhint _ c => (c.toNat ≤ 3)
  | .vmov _ _ _ _ _ => true
  | .vadd _ _ _ _ _ _ => true
  | .vsub _ _ _ _ _ _ => true
  | .vmul _ _ _ _ _ _ => true
  | .vfma _ _ _ _ _ _ => true
  | .vfms _ _ _ _ _ _ => true
  | .vmax _ _ _ _ _ _ => true
  | .vmin _ _ _ _ _ _ => true
  | .vand _ _ _ _ _ _ => true
  | .vor _ _ _ _ _ _ => true
  | .vxor _ _ _ _ _ _ => true
  | .vandn _ _ _ _ _ _ => true
  | .vsll _ _ _ _ _ _ => true
  | .vsrl _ _ _ _ _ _ => true
  | .vsra _ _ _ _ _ _ => true
  | .vabs _ _ _ _ _ => true
  | .vneg _ _ _ _ _ => true
  | .vmulh _ _ _ _ _ _ => true
  | .vcmpeq _ d _ _ _ _ => (d.toNat ≤ 7)
  | .vcmpne _ d _ _ _ _ => (d.toNat ≤ 7)
  | .vcmplt _ d _ _ _ _ => (d.toNat ≤ 7)
  | .vcmple _ d _ _ _ _ => (d.toNat ≤ 7)
  | .kand _ d a b _ _ => (d.toNat ≤ 7 && a.toNat ≤ 7 && b.toNat ≤ 7)
  | .kor _ d a b _ _ => (d.toNat ≤ 7 && a.toNat ≤ 7 && b.toNat ≤ 7)
  | .kxor _ d a b _ _ => (d.toNat ≤ 7 && a.toNat ≤ 7 && b.toNat ≤ 7)
  | .kandn _ d a b _ _ => (d.toNat ≤ 7 && a.toNat ≤ 7 && b.toNat ≤ 7)
  | .vwhile _ d a b esize => (esize.toNat ≤ 3 && isBcast a && isBcast b && d.toNat ≤ 7)
  | .vaddi _ _ _ _ _ => true
  | .vmovi _ _ _ _ => true
  | .vslli _ _ _ _ _ => true
  | .vsrli _ _ _ _ _ => true
  | .vsrai _ _ _ _ _ => true
  | .vrcpe _ _ _ _ _ => true
  | .vrsqe _ _ _ _ _ => true
  | .vsin _ _ _ _ _ => true
  | .vcos _ _ _ _ _ => true
  | .vexp2 _ _ _ _ _ => true
  | .vlog2 _ _ _ _ _ => true
  | .vsqrt _ _ _ _ _ => true
  | .vrcps _ _ _ _ _ _ => true
  | .vrsqs _ _ _ _ _ _ => true
  | .vdiv _ _ _ _ _ _ => true
  | .vcvt _ _ _ fmt _ _ => (fmt.toNat ≥ 1 && fmt.toNat ≤ 13)
  | .vtag _ _ a fmt => (fmt.toNat ≤ 13 && !(isBcast a) && a != 63)
  | .vrq _ _ _ tgt m _ _ => (m.toNat ≤ 5 && tgt.toNat ≤ 1)
  | .vperm _ _ _ _ _ _ => true
  | .vbcast _ _ _ lane _ _ => lane.toNat < 32
  | .vslide _ _ _ _ _ => true
  | .vext _ _ _ lane _ _ => lane.toNat < 32
  | .vins _ _ _ lane _ _ => lane.toNat < 32
  | .vzip2 _ _ a lane _ _ => (a.toNat + 2 ≤ 32 && lane.toNat < 2)
  | .vzip3 _ _ a lane _ _ => (a.toNat + 3 ≤ 32 && lane.toNat < 3)
  | .vzip4 _ _ a lane _ _ => (a.toNat + 4 ≤ 32 && lane.toNat < 4)
  | .vunzip2 _ _ a lane _ _ => (a.toNat + 2 ≤ 32 && lane.toNat < 2)
  | .vunzip3 _ _ a lane _ _ => (a.toNat + 3 ≤ 32 && lane.toNat < 3)
  | .vunzip4 _ _ a lane _ _ => (a.toNat + 4 ≤ 32 && lane.toNat < 4)
  | .vrsum _ _ _ _ => true
  | .vrmax _ _ _ _ => true
  | .vrmin _ _ _ _ => true
  | .vrand _ _ _ _ => true
  | .vror _ _ _ _ => true
  | .vrxor _ _ _ _ => true
  | .vld _ d _ fmt _ _ => (fmt.toNat ≥ 1 && fmt.toNat ≤ 13 && !(isW d))
  | .vst _ d _ fmt _ _ => (fmt.toNat ≥ 1 && fmt.toNat ≤ 13 && !(isQ d))
  | .vgather _ d _ fmt _ _ => (fmt.toNat ≥ 1 && fmt.toNat ≤ 13 && !(isW d))
  | .vscatter _ d _ fmt _ _ => (fmt.toNat ≥ 1 && fmt.toNat ≤ 13 && !(isQ d))
  | .vflrd _ d => !(isW d)
  | .vflclr _ a => (isBcast a)
  | .vmov16 _ d vs => !(vs == 0 && d == 0)
  | .vadd16 _ _ _ => true
  | .vsub16 _ _ _ => true
  | .vmul16 _ _ _ => true
  | .vfmal _ _ _ => true
  | .vmax16 _ _ _ => true
  | .vmin16 _ _ _ => true
  | .vand16 _ _ _ => true
  | .vor16 _ _ _ => true
  | .vxor16 _ _ _ => true
  | .vneg16 _ _ _ => true
  | .vabs16 _ _ _ => true
  | .vsll16 _ _ _ => true
  | .vsrl16 _ _ _ => true
  | .vqpop _ _ n => (n.toNat ≤ 3)
  | .vqpush _ _ n => (n.toNat ≤ 1)
  | .waitall => true
  | .longResultReturn c _ => c.ok
  | .storeConfirmation c => c.ok
  | .waitSatisfied c => c.ok
  | .handlerDispatch k => k.ok
  | .handlerWatchdogExpiry k => k.ok
  | .watchdog c => c.ok
  | .quantumEnd c => c.ok
  | .contextLost c => c.ok
  | .gangStop _ => true
  | .checkpoint _ => true
  | .gangStopComplete _ => true
  | .gangResume _ => true
  | .remoteReissue c => c.ok
  | .mxJobStart cl _ => cl.ok
  | .mxJobComplete cl _ => cl.ok
  | .copyEntryPass cl _ _ => cl.ok
  | .copyIn cl _ => cl.ok
  | .copyOut cl _ => cl.ok
  | .multicast cl _ => cl.ok
  | .decode cl _ => cl.ok
  | .wbload cl _ => cl.ok
  | .copyEntryComplete cl _ => cl.ok
  | .decoderFrame m dec => decide (m < 1024) && decide (dec < 32)
  | .rradd m kt _ => decide (m < 1024) && decide (kt < 12)
  | .axpy m kt _ => decide (m < 1024) && decide (kt < 12)
  | .fade m kt _ => decide (m < 1024) && decide (kt < 12)
  | .kettleCopy m kt _ => decide (m < 1024) && decide (kt < 12)
  | .kettleFill m kt _ => decide (m < 1024) && decide (kt < 12)
  | .scale m kt _ => decide (m < 1024) && decide (kt < 12)
  | .kettlePartEnd m kt _ => decide (m < 1024) && decide (kt < 12)
  | .receiveAreaContribution m kt _ => decide (m < 1024) && decide (kt < 12)
  | .remoteAddMessage _ => true
  | .putsTransfer cl _ => cl.ok
  | .getTransfer cl _ => cl.ok
  | .raddTransfer cl _ => cl.ok
  | .putsMessage _ => true
  | .oneSidedRetry _ => true
  | .oneSidedComplete cl _ => cl.ok
  | .remoteAccessArrival _ => true
  | .subByteMessage _ => true
  | .stationTranslation m _ _ _ => decide (m < 1024)
  | .invalidation m _ => decide (m < 1024)
  | .streamInputFill c _ => c.ok
  | .streamOutputDrain c _ => c.ok
  | .launchDependenceMet _ => true
  | .blockRangeRequest node _ => node.ok
  | .gangStart node _ _ _ => node.ok
  | .segmentTake c => c.ok
  | .conditionalNode _ _ => true
  | .whileNode _ _ => true
  | .launchComplete _ => true
  | .cancelAtDispatcher node _ => node.ok
  | .conditionOutcomeArrival cl _ _ => cl.ok
  | .collectiveResolve _ => true
  | .markerToken k => k.ok
  | .exchangeDelivery _ _ => true
  | .energyWindowEnd m _ _ => decide (m < 1024)
  | .thermalLimit m _ _ => decide (m < 1024)
  | .powerKill m _ => decide (m < 1024)
  | .marginReplan m _ => decide (m < 1024)
  | .hardwareCheckFailure _ _ => true
  | .spareReplacement cl => cl.ok
  | .levanterReplay m _ => decide (m < 1024)
  | .levanterPortFailure m _ => decide (m < 1024)
  | .powerStateEntry m => decide (m < 1024)
  | .wakeEvent m _ => decide (m < 1024)
  | .powerExitComplete m => decide (m < 1024)
  | .hostWindowAccess m _ _ _ => decide (m < 1024)
  | .hostDoorbell m _ => decide (m < 1024)
  | .functionLevelReset m => decide (m < 1024)
  | .identityRequest m _ => decide (m < 1024)
  | .attestation m _ _ => decide (m < 1024)
  | .firmwareDelivery m _ _ => decide (m < 1024)
  | .telemetry m _ => decide (m < 1024)
  | .managementReset m _ => decide (m < 1024)
  | .keyEnrolment m _ _ => decide (m < 1024)
  | .testMode m _ _ => decide (m < 1024)
  | .moduleReset m _ => decide (m < 1024)
  | .slotctlResume c => c.ok
  | .slotctlEnd c => c.ok
  | .tvecWrite k _ => k.ok
  | .streamReserve k _ => k.ok
  | .streamRelease k _ => k.ok
  | .wsetCreate k _ => k.ok
  | .wsetDelete k _ => k.ok
  | .systemWindowWrite _ _ => true
  | .operatingMode m _ => decide (m < 1024)

/-- The specifier fields of an instruction, d first, then a, then b (R53), each with its use. -/
def Instr.specs : Instr → List (BitVec 6 × Dir)
  | .add _ _ _ _ => []
  | .sub _ _ _ _ => []
  | .and _ _ _ _ => []
  | .or _ _ _ _ => []
  | .xor _ _ _ _ => []
  | .andn _ _ _ _ => []
  | .sll _ _ _ _ => []
  | .srl _ _ _ _ => []
  | .sra _ _ _ _ => []
  | .slt _ _ _ _ => []
  | .sltu _ _ _ _ => []
  | .min _ _ _ _ => []
  | .max _ _ _ _ => []
  | .minu _ _ _ _ => []
  | .maxu _ _ _ _ => []
  | .mul _ _ _ _ => []
  | .mulh _ _ _ _ => []
  | .mulhu _ _ _ _ => []
  | .div _ _ _ _ => []
  | .divu _ _ _ _ => []
  | .rem _ _ _ _ => []
  | .remu _ _ _ _ => []
  | .clz _ _ _ => []
  | .ctz _ _ _ => []
  | .popc _ _ _ => []
  | .addw _ _ _ _ => []
  | .subw _ _ _ _ => []
  | .mulw _ _ _ _ => []
  | .sllw _ _ _ _ => []
  | .srlw _ _ _ _ => []
  | .sraw _ _ _ _ => []
  | .addi _ _ _ _ => []
  | .andi _ _ _ _ => []
  | .ori _ _ _ _ => []
  | .xori _ _ _ _ => []
  | .slti _ _ _ _ => []
  | .sltiu _ _ _ _ => []
  | .slli _ _ _ _ => []
  | .srli _ _ _ _ => []
  | .srai _ _ _ _ => []
  | .addiw _ _ _ _ => []
  | .mkhi _ _ _ => []
  | .mkga _ _ _ _ _ => []
  | .peera _ _ _ _ => []
  | .beq _ _ _ _ => []
  | .bne _ _ _ _ => []
  | .blt _ _ _ _ => []
  | .bge _ _ _ _ => []
  | .bltu _ _ _ _ => []
  | .bgeu _ _ _ _ => []
  | .loop _ _ _ => []
  | .jal _ _ _ => []
  | .jr _ _ _ _ => []
  | .nop _ => []
  | .yield _ => []
  | .retire _ => []
  | .vlq _ _ => []
  | .ldb _ _ _ _ => []
  | .ldbz _ _ _ _ => []
  | .ldh _ _ _ _ => []
  | .ldhz _ _ _ _ => []
  | .ldw _ _ _ _ => []
  | .ldwz _ _ _ _ => []
  | .ldd _ _ _ _ => []
  | .stb _ _ _ _ => []
  | .sth _ _ _ _ => []
  | .stw _ _ _ _ => []
  | .std _ _ _ _ => []
  | .rld _ _ _ _ _ _ => []
  | .rst _ _ _ _ _ => []
  | .sdef _ _ _ _ => []
  | .sgo _ _ _ _ => []
  | .shalt _ _ => []
  | .sq _ _ _ => []
  | .qpush _ _ _ _ => []
  | .qpop _ _ _ => []
  | .bind _ _ _ _ _ _ => []
  | .unbind _ _ => []
  | .acq _ _ _ _ => []
  | .rel _ _ _ => []
  | .fence _ _ => []
  | .lbfence _ => []
  | .aadd _ _ _ _ _ _ => []
  | .amin _ _ _ _ _ _ => []
  | .amax _ _ _ _ _ _ => []
  | .aand _ _ _ _ _ _ => []
  | .aor _ _ _ _ _ _ => []
  | .axor _ _ _ _ _ _ => []
  | .axchg _ _ _ _ _ _ => []
  | .acas _ _ _ _ _ _ => []
  | .cwait _ _ _ _ _ => []
  | .cadd _ _ _ _ => []
  | .bari _ _ _ => []
  | .bara _ _ _ _ => []
  | .barw _ _ _ => []
  | .baraw _ _ _ _ => []
  | .barq _ _ _ => []
  | .talloc _ _ _ _ => []
  | .tfree _ _ => []
  | .tstat _ _ _ => []
  | .twait _ _ => []
  | .tset _ _ _ _ => []
  | .cpstage _ _ => []
  | .cpq _ _ _ => []
  | .cpcancel _ _ => []
  | .mxsub _ _ _ _ => []
  | .mxpoll _ _ _ => []
  | .mxwait _ _ => []
  | .puts _ _ _ => []
  | .get _ _ _ => []
  | .radd _ _ _ => []
  | .evwait _ _ _ _ => []
  | .kcmd _ _ _ _ => []
  | .kfence _ => []
  | .kpoll _ _ _ => []
  | .wseal _ _ _ _ => []
  | .wq _ _ _ => []
  | .spawn _ _ _ => []
  | .spawnc _ _ _ _ _ => []
  | .cres _ _ _ _ => []
  | .cbr _ _ _ _ _ => []
  | .cvote _ _ _ _ => []
  | .ssend _ => []
  | .xend _ _ => []
  | .xmit _ _ _ _ _ _ => []
  | .xsel _ _ _ _ _ _ => []
  | .launch _ _ _ _ => []
  | .lcancel _ _ _ => []
  | .lwait _ _ _ => []
  | .cycb _ _ _ _ => []
  | .cycres _ _ => []
  | .cyce _ => []
  | .cyct _ _ _ => []
  | .sysrd _ _ _ => []
  | .syswr _ _ _ => []
  | .trap _ _ _ => []
  | .eret _ _ => []
  | .brk _ _ => []
  | .wdog _ _ _ => []
  | .pwrhint _ _ => []
  | .vmov _ d a _ _ => [(d, .dst), (a, .src)]
  | .vadd _ d a b _ _ => [(d, .dst), (a, .src), (b, .src)]
  | .vsub _ d a b _ _ => [(d, .dst), (a, .src), (b, .src)]
  | .vmul _ d a b _ _ => [(d, .dst), (a, .src), (b, .src)]
  | .vfma _ d a b _ _ => [(d, .both), (a, .src), (b, .src)]
  | .vfms _ d a b _ _ => [(d, .both), (a, .src), (b, .src)]
  | .vmax _ d a b _ _ => [(d, .dst), (a, .src), (b, .src)]
  | .vmin _ d a b _ _ => [(d, .dst), (a, .src), (b, .src)]
  | .vand _ d a b _ _ => [(d, .dst), (a, .src), (b, .src)]
  | .vor _ d a b _ _ => [(d, .dst), (a, .src), (b, .src)]
  | .vxor _ d a b _ _ => [(d, .dst), (a, .src), (b, .src)]
  | .vandn _ d a b _ _ => [(d, .dst), (a, .src), (b, .src)]
  | .vsll _ d a b _ _ => [(d, .dst), (a, .src), (b, .src)]
  | .vsrl _ d a b _ _ => [(d, .dst), (a, .src), (b, .src)]
  | .vsra _ d a b _ _ => [(d, .dst), (a, .src), (b, .src)]
  | .vabs _ d a _ _ => [(d, .dst), (a, .src)]
  | .vneg _ d a _ _ => [(d, .dst), (a, .src)]
  | .vmulh _ d a b _ _ => [(d, .dst), (a, .src), (b, .src)]
  | .vcmpeq _ _ a b _ _ => [(a, .src), (b, .src)]
  | .vcmpne _ _ a b _ _ => [(a, .src), (b, .src)]
  | .vcmplt _ _ a b _ _ => [(a, .src), (b, .src)]
  | .vcmple _ _ a b _ _ => [(a, .src), (b, .src)]
  | .kand _ _ _ _ _ _ => []
  | .kor _ _ _ _ _ _ => []
  | .kxor _ _ _ _ _ _ => []
  | .kandn _ _ _ _ _ _ => []
  | .vwhile _ _ _ _ _ => []
  | .vaddi _ d a _ _ => [(d, .dst), (a, .src)]
  | .vmovi _ d _ _ => [(d, .dst)]
  | .vslli _ d a _ _ => [(d, .dst), (a, .src)]
  | .vsrli _ d a _ _ => [(d, .dst), (a, .src)]
  | .vsrai _ d a _ _ => [(d, .dst), (a, .src)]
  | .vrcpe _ d a _ _ => [(d, .dst), (a, .src)]
  | .vrsqe _ d a _ _ => [(d, .dst), (a, .src)]
  | .vsin _ d a _ _ => [(d, .dst), (a, .src)]
  | .vcos _ d a _ _ => [(d, .dst), (a, .src)]
  | .vexp2 _ d a _ _ => [(d, .dst), (a, .src)]
  | .vlog2 _ d a _ _ => [(d, .dst), (a, .src)]
  | .vsqrt _ d a _ _ => [(d, .dst), (a, .src)]
  | .vrcps _ d a b _ _ => [(d, .dst), (a, .src), (b, .src)]
  | .vrsqs _ d a b _ _ => [(d, .dst), (a, .src), (b, .src)]
  | .vdiv _ d a b _ _ => [(d, .dst), (a, .src), (b, .src)]
  | .vcvt _ d a _ _ _ => [(d, .dst), (a, .src)]
  | .vtag _ d a _ => [(d, .dst), (a, .src)]
  | .vrq _ d a _ _ _ _ => [(d, .dst), (a, .src)]
  | .vperm _ d a b _ _ => [(d, .dst), (a, .src), (b, .src)]
  | .vbcast _ d a _ _ _ => [(d, .dst), (a, .src)]
  | .vslide _ d a _ _ => [(d, .dst), (a, .src)]
  | .vext _ d a _ _ _ => [(d, .dst), (a, .src)]
  | .vins _ d a _ _ _ => [(d, .both), (a, .src)]
  | .vzip2 _ d a _ _ _ => [(d, .dst), (a, .src)]
  | .vzip3 _ d a _ _ _ => [(d, .dst), (a, .src)]
  | .vzip4 _ d a _ _ _ => [(d, .dst), (a, .src)]
  | .vunzip2 _ d a _ _ _ => [(d, .dst), (a, .src)]
  | .vunzip3 _ d a _ _ _ => [(d, .dst), (a, .src)]
  | .vunzip4 _ d a _ _ _ => [(d, .dst), (a, .src)]
  | .vrsum _ d a _ => [(d, .dst), (a, .src)]
  | .vrmax _ d a _ => [(d, .dst), (a, .src)]
  | .vrmin _ d a _ => [(d, .dst), (a, .src)]
  | .vrand _ d a _ => [(d, .dst), (a, .src)]
  | .vror _ d a _ => [(d, .dst), (a, .src)]
  | .vrxor _ d a _ => [(d, .dst), (a, .src)]
  | .vld _ d _ _ _ _ => [(d, .both)]
  | .vst _ d _ _ _ _ => [(d, .src)]
  | .vgather _ d _ _ _ _ => [(d, .both)]
  | .vscatter _ d _ _ _ _ => [(d, .src)]
  | .vflrd _ d => [(d, .both)]
  | .vflclr _ _ => []
  | .vmov16 _ _ _ => []
  | .vadd16 _ _ _ => []
  | .vsub16 _ _ _ => []
  | .vmul16 _ _ _ => []
  | .vfmal _ _ _ => []
  | .vmax16 _ _ _ => []
  | .vmin16 _ _ _ => []
  | .vand16 _ _ _ => []
  | .vor16 _ _ _ => []
  | .vxor16 _ _ _ => []
  | .vneg16 _ _ _ => []
  | .vabs16 _ _ _ => []
  | .vsll16 _ _ _ => []
  | .vsrl16 _ _ _ => []
  | .vqpop _ _ _ => []
  | .vqpush _ _ _ => []
  | .waitall => []
  | .longResultReturn _ _ => []
  | .storeConfirmation _ => []
  | .waitSatisfied _ => []
  | .handlerDispatch _ => []
  | .handlerWatchdogExpiry _ => []
  | .watchdog _ => []
  | .quantumEnd _ => []
  | .contextLost _ => []
  | .gangStop _ => []
  | .checkpoint _ => []
  | .gangStopComplete _ => []
  | .gangResume _ => []
  | .remoteReissue _ => []
  | .mxJobStart _ _ => []
  | .mxJobComplete _ _ => []
  | .copyEntryPass _ _ _ => []
  | .copyIn _ _ => []
  | .copyOut _ _ => []
  | .multicast _ _ => []
  | .decode _ _ => []
  | .wbload _ _ => []
  | .copyEntryComplete _ _ => []
  | .decoderFrame _ _ => []
  | .rradd _ _ _ => []
  | .axpy _ _ _ => []
  | .fade _ _ _ => []
  | .kettleCopy _ _ _ => []
  | .kettleFill _ _ _ => []
  | .scale _ _ _ => []
  | .kettlePartEnd _ _ _ => []
  | .receiveAreaContribution _ _ _ => []
  | .remoteAddMessage _ => []
  | .putsTransfer _ _ => []
  | .getTransfer _ _ => []
  | .raddTransfer _ _ => []
  | .putsMessage _ => []
  | .oneSidedRetry _ => []
  | .oneSidedComplete _ _ => []
  | .remoteAccessArrival _ => []
  | .subByteMessage _ => []
  | .stationTranslation _ _ _ _ => []
  | .invalidation _ _ => []
  | .streamInputFill _ _ => []
  | .streamOutputDrain _ _ => []
  | .launchDependenceMet _ => []
  | .blockRangeRequest _ _ => []
  | .gangStart _ _ _ _ => []
  | .segmentTake _ => []
  | .conditionalNode _ _ => []
  | .whileNode _ _ => []
  | .launchComplete _ => []
  | .cancelAtDispatcher _ _ => []
  | .conditionOutcomeArrival _ _ _ => []
  | .collectiveResolve _ => []
  | .markerToken _ => []
  | .exchangeDelivery _ _ => []
  | .energyWindowEnd _ _ _ => []
  | .thermalLimit _ _ _ => []
  | .powerKill _ _ => []
  | .marginReplan _ _ => []
  | .hardwareCheckFailure _ _ => []
  | .spareReplacement _ => []
  | .levanterReplay _ _ => []
  | .levanterPortFailure _ _ => []
  | .powerStateEntry _ => []
  | .wakeEvent _ _ => []
  | .powerExitComplete _ => []
  | .hostWindowAccess _ _ _ _ => []
  | .hostDoorbell _ _ => []
  | .functionLevelReset _ => []
  | .identityRequest _ _ => []
  | .attestation _ _ _ => []
  | .firmwareDelivery _ _ _ => []
  | .telemetry _ _ => []
  | .managementReset _ _ => []
  | .keyEnrolment _ _ _ => []
  | .testMode _ _ _ => []
  | .moduleReset _ _ => []
  | .slotctlResume _ => []
  | .slotctlEnd _ => []
  | .tvecWrite _ _ => []
  | .streamReserve _ _ => []
  | .streamRelease _ _ => []
  | .wsetCreate _ _ => []
  | .wsetDelete _ _ => []
  | .systemWindowWrite _ _ => []
  | .operatingMode _ _ => []

/-- No specifier field holds 58 to 62 (R41, R53). -/
def Instr.specsInRange (i : Instr) : Bool := i.specs.all fun p => p.1.toNat < 58 || p.1 == 63
/-- Every specifier field is legal in its direction (R41, R53). -/
def Instr.specsDirOk (i : Instr) : Bool := i.specs.all fun p => dirOk p.1 p.2

/-- An instruction that the decoder can answer (or a step whose places exist). -/
def Instr.wf (i : Instr) : Bool := i.fieldsOk && i.specsInRange && i.specsDirOk

end Sys2Proof
end

