-- ==== Sys2Proof/Decode.lean ====
section
/-! DEFINITION. The decoder (R32 to R39, R53 to R59), total on any bytes and rejecting by name, and after it the
encoder, written from the same tables. A word is read as one number whose bit 0 is the length bit (R5, R32). -/

namespace Sys2Proof

/-- Why bytes are no instruction: the encoding traps of R54, or too few bytes. -/
inductive DecodeError where
  | zeroHalfword | reservedMajor | reservedMinor | reservedSpecifier | specifierDirection | reservedField
  | queueNumber | truncated
  deriving DecidableEq, Repr

/-- Bit 0 of a number. -/
def bitAt (n : Nat) : Bool := n % 2 == 1
/-- The must-be-zero bits (or fixed field values) of a form: RESERVED_FIELD where they do not hold (R39, R53). -/
def zeros (b : Bool) (i : Instr) : Except DecodeError Instr := if b then .ok i else .error .reservedField
/-- A selector that R353 does not assign traps with RESERVED_MINOR (R57). -/
def selector (n : Nat) (r : Except DecodeError Instr) : Except DecodeError Instr :=
  if selectorAssigned n then r else .error .reservedMinor
/-- MKGA's regions 5 to 127 trap with RESERVED_MINOR (R55). -/
def region (n : Nat) (r : Except DecodeError Instr) : Except DecodeError Instr :=
  if n ≤ 4 then r else .error .reservedMinor

/-- The minor operations under A-class major 0x01 (R56, R57, R59). -/
def decodeA01 (w : Nat) : Except DecodeError Instr :=
  match w / 33554432 % 128 with
  | 0 => .ok (.add (bitAt (w / 2)) (.ofNat 5 (w / 1024)) (.ofNat 5 (w / 32768)) (.ofNat 5 (w / 1048576)))
  | 1 => .ok (.sub (bitAt (w / 2)) (.ofNat 5 (w / 1024)) (.ofNat 5 (w / 32768)) (.ofNat 5 (w / 1048576)))
  | 2 => .ok (.and (bitAt (w / 2)) (.ofNat 5 (w / 1024)) (.ofNat 5 (w / 32768)) (.ofNat 5 (w / 1048576)))
  | 3 => .ok (.or (bitAt (w / 2)) (.ofNat 5 (w / 1024)) (.ofNat 5 (w / 32768)) (.ofNat 5 (w / 1048576)))
  | 4 => .ok (.xor (bitAt (w / 2)) (.ofNat 5 (w / 1024)) (.ofNat 5 (w / 32768)) (.ofNat 5 (w / 1048576)))
  | 5 => .ok (.andn (bitAt (w / 2)) (.ofNat 5 (w / 1024)) (.ofNat 5 (w / 32768)) (.ofNat 5 (w / 1048576)))
  | 6 => .ok (.sll (bitAt (w / 2)) (.ofNat 5 (w / 1024)) (.ofNat 5 (w / 32768)) (.ofNat 5 (w / 1048576)))
  | 7 => .ok (.srl (bitAt (w / 2)) (.ofNat 5 (w / 1024)) (.ofNat 5 (w / 32768)) (.ofNat 5 (w / 1048576)))
  | 8 => .ok (.sra (bitAt (w / 2)) (.ofNat 5 (w / 1024)) (.ofNat 5 (w / 32768)) (.ofNat 5 (w / 1048576)))
  | 9 => .ok (.slt (bitAt (w / 2)) (.ofNat 5 (w / 1024)) (.ofNat 5 (w / 32768)) (.ofNat 5 (w / 1048576)))
  | 10 => .ok (.sltu (bitAt (w / 2)) (.ofNat 5 (w / 1024)) (.ofNat 5 (w / 32768)) (.ofNat 5 (w / 1048576)))
  | 11 => .ok (.min (bitAt (w / 2)) (.ofNat 5 (w / 1024)) (.ofNat 5 (w / 32768)) (.ofNat 5 (w / 1048576)))
  | 12 => .ok (.max (bitAt (w / 2)) (.ofNat 5 (w / 1024)) (.ofNat 5 (w / 32768)) (.ofNat 5 (w / 1048576)))
  | 13 => .ok (.minu (bitAt (w / 2)) (.ofNat 5 (w / 1024)) (.ofNat 5 (w / 32768)) (.ofNat 5 (w / 1048576)))
  | 14 => .ok (.maxu (bitAt (w / 2)) (.ofNat 5 (w / 1024)) (.ofNat 5 (w / 32768)) (.ofNat 5 (w / 1048576)))
  | 15 => .ok (.mul (bitAt (w / 2)) (.ofNat 5 (w / 1024)) (.ofNat 5 (w / 32768)) (.ofNat 5 (w / 1048576)))
  | 16 => .ok (.mulh (bitAt (w / 2)) (.ofNat 5 (w / 1024)) (.ofNat 5 (w / 32768)) (.ofNat 5 (w / 1048576)))
  | 17 => .ok (.mulhu (bitAt (w / 2)) (.ofNat 5 (w / 1024)) (.ofNat 5 (w / 32768)) (.ofNat 5 (w / 1048576)))
  | 18 => .ok (.div (bitAt (w / 2)) (.ofNat 5 (w / 1024)) (.ofNat 5 (w / 32768)) (.ofNat 5 (w / 1048576)))
  | 19 => .ok (.divu (bitAt (w / 2)) (.ofNat 5 (w / 1024)) (.ofNat 5 (w / 32768)) (.ofNat 5 (w / 1048576)))
  | 20 => .ok (.rem (bitAt (w / 2)) (.ofNat 5 (w / 1024)) (.ofNat 5 (w / 32768)) (.ofNat 5 (w / 1048576)))
  | 21 => .ok (.remu (bitAt (w / 2)) (.ofNat 5 (w / 1024)) (.ofNat 5 (w / 32768)) (.ofNat 5 (w / 1048576)))
  | 22 => zeros (w / 1048576 % 32 == 0) (.clz (bitAt (w / 2)) (.ofNat 5 (w / 1024)) (.ofNat 5 (w / 32768)))
  | 23 => zeros (w / 1048576 % 32 == 0) (.ctz (bitAt (w / 2)) (.ofNat 5 (w / 1024)) (.ofNat 5 (w / 32768)))
  | 24 => zeros (w / 1048576 % 32 == 0) (.popc (bitAt (w / 2)) (.ofNat 5 (w / 1024)) (.ofNat 5 (w / 32768)))
  | 32 => .ok (.addw (bitAt (w / 2)) (.ofNat 5 (w / 1024)) (.ofNat 5 (w / 32768)) (.ofNat 5 (w / 1048576)))
  | 33 => .ok (.subw (bitAt (w / 2)) (.ofNat 5 (w / 1024)) (.ofNat 5 (w / 32768)) (.ofNat 5 (w / 1048576)))
  | 34 => .ok (.mulw (bitAt (w / 2)) (.ofNat 5 (w / 1024)) (.ofNat 5 (w / 32768)) (.ofNat 5 (w / 1048576)))
  | 35 => .ok (.sllw (bitAt (w / 2)) (.ofNat 5 (w / 1024)) (.ofNat 5 (w / 32768)) (.ofNat 5 (w / 1048576)))
  | 36 => .ok (.srlw (bitAt (w / 2)) (.ofNat 5 (w / 1024)) (.ofNat 5 (w / 32768)) (.ofNat 5 (w / 1048576)))
  | 37 => .ok (.sraw (bitAt (w / 2)) (.ofNat 5 (w / 1024)) (.ofNat 5 (w / 32768)) (.ofNat 5 (w / 1048576)))
  | _ => .error .reservedMinor

/-- The minor operations under A-class major 0x19 (R56, R57, R59). -/
def decodeA19 (w : Nat) : Except DecodeError Instr :=
  match w / 268435456 % 16 with
  | 0 => zeros (w / 1024 % 262144 == 0) (.nop (bitAt (w / 2)))
  | 1 => zeros (w / 1024 % 262144 == 0) (.yield (bitAt (w / 2)))
  | 2 => zeros (w / 1024 % 262144 == 0) (.retire (bitAt (w / 2)))
  | 3 => zeros (w / 32768 % 8192 == 0) (.vlq (bitAt (w / 2)) (.ofNat 5 (w / 1024)))
  | _ => .error .reservedMinor

/-- The minor operations under A-class major 0x33 (R56, R57, R59). -/
def decodeA33 (w : Nat) : Except DecodeError Instr :=
  match w / 268435456 % 16 with
  | 0 => zeros (w / 1024 % 1024 == 0 && w / 33554432 % 8 == 0) (.sgo (bitAt (w / 2)) (.ofNat 2 (w / 1048576)) (.ofNat 2 (w / 4194304)) (bitAt (w / 16777216)))
  | 1 => zeros (w / 1024 % 1024 == 0 && w / 4194304 % 64 == 0) (.shalt (bitAt (w / 2)) (.ofNat 2 (w / 1048576)))
  | 2 => zeros (w / 32768 % 32 == 0 && w / 4194304 % 64 == 0) (.sq (bitAt (w / 2)) (.ofNat 5 (w / 1024)) (.ofNat 2 (w / 1048576)))
  | _ => .error .reservedMinor

/-- The minor operations under A-class major 0x4a (R56, R57, R59). -/
def decodeA4A (w : Nat) : Except DecodeError Instr :=
  match w / 268435456 % 16 with
  | 0 => zeros (w / 1024 % 32 == 0 && w / 67108864 % 4 == 0) (.bari (bitAt (w / 2)) (.ofNat 5 (w / 32768)) (.ofNat 6 (w / 1048576)))
  | 1 => zeros (w / 32768 % 32 == 0 && w / 134217728 % 2 == 0) (.bara (bitAt (w / 2)) (.ofNat 5 (w / 1024)) (.ofNat 6 (w / 1048576)) (bitAt (w / 67108864)))
  | 2 => zeros (w / 32768 % 32 == 0 && w / 67108864 % 4 == 0) (.barw (bitAt (w / 2)) (.ofNat 5 (w / 1024)) (.ofNat 6 (w / 1048576)))
  | 3 => zeros (w / 32768 % 32 == 0 && w / 134217728 % 2 == 0) (.baraw (bitAt (w / 2)) (.ofNat 5 (w / 1024)) (.ofNat 6 (w / 1048576)) (bitAt (w / 67108864)))
  | 4 => zeros (w / 32768 % 32 == 0 && w / 67108864 % 4 == 0) (.barq (bitAt (w / 2)) (.ofNat 5 (w / 1024)) (.ofNat 6 (w / 1048576)))
  | _ => .error .reservedMinor

/-- The minor operations under A-class major 0x4c (R56, R57, R59). -/
def decodeA4C (w : Nat) : Except DecodeError Instr :=
  match w / 268435456 % 16 with
  | 0 => zeros (w / 1024 % 32 == 0 && w / 1048576 % 256 == 0) (.tfree (bitAt (w / 2)) (.ofNat 5 (w / 32768)))
  | 1 => zeros (w / 1048576 % 256 == 0) (.tstat (bitAt (w / 2)) (.ofNat 5 (w / 1024)) (.ofNat 5 (w / 32768)))
  | 2 => zeros (w / 1024 % 32 == 0 && w / 1048576 % 256 == 0) (.twait (bitAt (w / 2)) (.ofNat 5 (w / 32768)))
  | 3 => zeros (w / 1024 % 32 == 0 && w / 2097152 % 8 == 0) (.tset (bitAt (w / 2)) (.ofNat 5 (w / 32768)) (bitAt (w / 1048576)) (.ofNat 4 (w / 16777216)))
  | _ => .error .reservedMinor

/-- The minor operations under A-class major 0x4d (R56, R57, R59). -/
def decodeA4D (w : Nat) : Except DecodeError Instr :=
  match w / 268435456 % 16 with
  | 0 => zeros (w / 1024 % 1024 == 0) (.cpstage (bitAt (w / 2)) (.ofNat 8 (w / 1048576)))
  | 1 => zeros (w / 1048576 % 256 == 0) (.cpq (bitAt (w / 2)) (.ofNat 5 (w / 1024)) (.ofNat 5 (w / 32768)))
  | 2 => zeros (w / 1024 % 32 == 0 && w / 1048576 % 256 == 0) (.cpcancel (bitAt (w / 2)) (.ofNat 5 (w / 32768)))
  | _ => .error .reservedMinor

/-- The minor operations under A-class major 0x4f (R56, R57, R59). -/
def decodeA4F (w : Nat) : Except DecodeError Instr :=
  match w / 268435456 % 16 with
  | 0 => zeros (w / 1048576 % 256 == 0) (.mxpoll (bitAt (w / 2)) (.ofNat 5 (w / 1024)) (.ofNat 5 (w / 32768)))
  | 1 => zeros (w / 1024 % 32 == 0 && w / 1048576 % 256 == 0) (.mxwait (bitAt (w / 2)) (.ofNat 5 (w / 32768)))
  | _ => .error .reservedMinor

/-- The minor operations under A-class major 0x55 (R56, R57, R59). -/
def decodeA55 (w : Nat) : Except DecodeError Instr :=
  match w / 268435456 % 16 with
  | 0 => zeros (w / 1024 % 262144 == 0) (.kfence (bitAt (w / 2)))
  | 1 => zeros (w / 1048576 % 256 == 0) (.kpoll (bitAt (w / 2)) (.ofNat 5 (w / 1024)) (.ofNat 5 (w / 32768)))
  | _ => .error .reservedMinor

/-- The minor operations under A-class major 0x56 (R56, R57, R59). -/
def decodeA56 (w : Nat) : Except DecodeError Instr :=
  match w / 268435456 % 16 with
  | 0 => zeros (w / 67108864 % 4 == 0) (.wseal (bitAt (w / 2)) (.ofNat 5 (w / 1024)) (.ofNat 5 (w / 32768)) (.ofNat 6 (w / 1048576)))
  | 1 => zeros (w / 32768 % 32 == 0 && w / 67108864 % 4 == 0) (.wq (bitAt (w / 2)) (.ofNat 5 (w / 1024)) (.ofNat 6 (w / 1048576)))
  | _ => .error .reservedMinor

/-- The minor operations under A-class major 0x5e (R56, R57, R59). -/
def decodeA5E (w : Nat) : Except DecodeError Instr :=
  match w / 268435456 % 16 with
  | 0 => zeros (w / 1024 % 262144 == 0) (.ssend (bitAt (w / 2)))
  | 1 => zeros (w / 32768 % 8192 == 0) (.xend (bitAt (w / 2)) (.ofNat 5 (w / 1024)))
  | _ => .error .reservedMinor

/-- The minor operations under A-class major 0x68 (R56, R57, R59). -/
def decodeA68 (w : Nat) : Except DecodeError Instr :=
  match w / 268435456 % 16 with
  | 0 => zeros (w / 1024 % 32 == 0 && w / 134217728 % 2 == 0) (.cycb (bitAt (w / 2)) (.ofNat 5 (w / 32768)) (.ofNat 6 (w / 1048576)) (bitAt (w / 67108864)))
  | 1 => zeros (w / 1024 % 32 == 0 && w / 1048576 % 256 == 0) (.cycres (bitAt (w / 2)) (.ofNat 5 (w / 32768)))
  | 2 => zeros (w / 1024 % 262144 == 0) (.cyce (bitAt (w / 2)))
  | _ => .error .reservedMinor

/-- The minor operations under A-class major 0x73 (R56, R57, R59). -/
def decodeA73 (w : Nat) : Except DecodeError Instr :=
  match w / 268435456 % 16 with
  | 0 => zeros (w / 1024 % 1024 == 0 && w / 4194304 % 64 == 0) (.eret (bitAt (w / 2)) (.ofNat 2 (w / 1048576)))
  | 1 => zeros (w / 1024 % 1024 == 0) (.brk (bitAt (w / 2)) (.ofNat 8 (w / 1048576)))
  | 2 => zeros (w / 1048576 % 256 == 0) (.wdog (bitAt (w / 2)) (.ofNat 5 (w / 1024)) (.ofNat 5 (w / 32768)))
  | 3 => zeros (w / 1024 % 1024 == 0) (.pwrhint (bitAt (w / 2)) (.ofNat 8 (w / 1048576)))
  | _ => .error .reservedMinor

/-- The minor operations under C-class major 0x28 (R56, R57, R59). -/
def decodeC28 (w : Nat) : Except DecodeError Instr :=
  match w / 4194304 % 64 with
  | 0 => .ok (.vrcpe (bitAt (w / 2)) (.ofNat 6 (w / 1024)) (.ofNat 6 (w / 65536)) (.ofNat 3 (w / 268435456)) (bitAt (w / 2147483648)))
  | 1 => .ok (.vrsqe (bitAt (w / 2)) (.ofNat 6 (w / 1024)) (.ofNat 6 (w / 65536)) (.ofNat 3 (w / 268435456)) (bitAt (w / 2147483648)))
  | 2 => .ok (.vsin (bitAt (w / 2)) (.ofNat 6 (w / 1024)) (.ofNat 6 (w / 65536)) (.ofNat 3 (w / 268435456)) (bitAt (w / 2147483648)))
  | 3 => .ok (.vcos (bitAt (w / 2)) (.ofNat 6 (w / 1024)) (.ofNat 6 (w / 65536)) (.ofNat 3 (w / 268435456)) (bitAt (w / 2147483648)))
  | 4 => .ok (.vexp2 (bitAt (w / 2)) (.ofNat 6 (w / 1024)) (.ofNat 6 (w / 65536)) (.ofNat 3 (w / 268435456)) (bitAt (w / 2147483648)))
  | 5 => .ok (.vlog2 (bitAt (w / 2)) (.ofNat 6 (w / 1024)) (.ofNat 6 (w / 65536)) (.ofNat 3 (w / 268435456)) (bitAt (w / 2147483648)))
  | 6 => .ok (.vsqrt (bitAt (w / 2)) (.ofNat 6 (w / 1024)) (.ofNat 6 (w / 65536)) (.ofNat 3 (w / 268435456)) (bitAt (w / 2147483648)))
  | _ => .error .reservedMinor

/-- The minor operations under C-class major 0x40 (R56, R57, R59). -/
def decodeC40 (w : Nat) : Except DecodeError Instr :=
  match w / 4194304 % 64 with
  | 0 => zeros (w / 2147483648 % 2 == 0) (.vrsum (bitAt (w / 2)) (.ofNat 6 (w / 1024)) (.ofNat 6 (w / 65536)) (.ofNat 3 (w / 268435456)))
  | 1 => zeros (w / 2147483648 % 2 == 0) (.vrmax (bitAt (w / 2)) (.ofNat 6 (w / 1024)) (.ofNat 6 (w / 65536)) (.ofNat 3 (w / 268435456)))
  | 2 => zeros (w / 2147483648 % 2 == 0) (.vrmin (bitAt (w / 2)) (.ofNat 6 (w / 1024)) (.ofNat 6 (w / 65536)) (.ofNat 3 (w / 268435456)))
  | 3 => zeros (w / 2147483648 % 2 == 0) (.vrand (bitAt (w / 2)) (.ofNat 6 (w / 1024)) (.ofNat 6 (w / 65536)) (.ofNat 3 (w / 268435456)))
  | 4 => zeros (w / 2147483648 % 2 == 0) (.vror (bitAt (w / 2)) (.ofNat 6 (w / 1024)) (.ofNat 6 (w / 65536)) (.ofNat 3 (w / 268435456)))
  | 5 => zeros (w / 2147483648 % 2 == 0) (.vrxor (bitAt (w / 2)) (.ofNat 6 (w / 1024)) (.ofNat 6 (w / 65536)) (.ofNat 3 (w / 268435456)))
  | _ => .error .reservedMinor

/-- The minor operations under C-class major 0x50 (R56, R57, R59). -/
def decodeC50 (w : Nat) : Except DecodeError Instr :=
  match w / 4194304 % 64 with
  | 0 => zeros (w / 65536 % 64 == 63 && w / 268435456 % 16 == 0) (.vflrd (bitAt (w / 2)) (.ofNat 6 (w / 1024)))
  | 1 => zeros (w / 1024 % 64 == 63 && w / 268435456 % 16 == 0) (.vflclr (bitAt (w / 2)) (.ofNat 6 (w / 65536)))
  | _ => .error .reservedMinor

/-- The A-class map (R55). -/
def decodeA (w : Nat) : Except DecodeError Instr :=
  match w / 8 % 128 with
  | 1 => decodeA01 w
  | 2 => .ok (.addi (bitAt (w / 2)) (.ofNat 5 (w / 1024)) (.ofNat 5 (w / 32768)) (.ofNat 12 (w / 1048576)))
  | 3 => .ok (.andi (bitAt (w / 2)) (.ofNat 5 (w / 1024)) (.ofNat 5 (w / 32768)) (.ofNat 12 (w / 1048576)))
  | 4 => .ok (.ori (bitAt (w / 2)) (.ofNat 5 (w / 1024)) (.ofNat 5 (w / 32768)) (.ofNat 12 (w / 1048576)))
  | 5 => .ok (.xori (bitAt (w / 2)) (.ofNat 5 (w / 1024)) (.ofNat 5 (w / 32768)) (.ofNat 12 (w / 1048576)))
  | 6 => .ok (.slti (bitAt (w / 2)) (.ofNat 5 (w / 1024)) (.ofNat 5 (w / 32768)) (.ofNat 12 (w / 1048576)))
  | 7 => .ok (.sltiu (bitAt (w / 2)) (.ofNat 5 (w / 1024)) (.ofNat 5 (w / 32768)) (.ofNat 12 (w / 1048576)))
  | 8 => zeros (w / 67108864 % 64 == 0) (.slli (bitAt (w / 2)) (.ofNat 5 (w / 1024)) (.ofNat 5 (w / 32768)) (.ofNat 6 (w / 1048576)))
  | 9 => zeros (w / 67108864 % 64 == 0) (.srli (bitAt (w / 2)) (.ofNat 5 (w / 1024)) (.ofNat 5 (w / 32768)) (.ofNat 6 (w / 1048576)))
  | 10 => zeros (w / 67108864 % 64 == 0) (.srai (bitAt (w / 2)) (.ofNat 5 (w / 1024)) (.ofNat 5 (w / 32768)) (.ofNat 6 (w / 1048576)))
  | 11 => .ok (.addiw (bitAt (w / 2)) (.ofNat 5 (w / 1024)) (.ofNat 5 (w / 32768)) (.ofNat 12 (w / 1048576)))
  | 12 => .ok (.mkhi (bitAt (w / 2)) (.ofNat 5 (w / 1024)) (.ofNat 17 (w / 32768)))
  | 13 => region (w / 33554432 % 128) (.ok (.mkga (bitAt (w / 2)) (.ofNat 5 (w / 1024)) (.ofNat 5 (w / 32768)) (.ofNat 5 (w / 1048576)) (.ofNat 7 (w / 33554432))))
  | 14 => .ok (.peera (bitAt (w / 2)) (.ofNat 5 (w / 1024)) (.ofNat 5 (w / 32768)) (.ofNat 12 (w / 1048576)))
  | 16 => .ok (.beq (bitAt (w / 2)) (.ofNat 5 (w / 1024)) (.ofNat 5 (w / 32768)) (.ofNat 12 (w / 1048576)))
  | 17 => .ok (.bne (bitAt (w / 2)) (.ofNat 5 (w / 1024)) (.ofNat 5 (w / 32768)) (.ofNat 12 (w / 1048576)))
  | 18 => .ok (.blt (bitAt (w / 2)) (.ofNat 5 (w / 1024)) (.ofNat 5 (w / 32768)) (.ofNat 12 (w / 1048576)))
  | 19 => .ok (.bge (bitAt (w / 2)) (.ofNat 5 (w / 1024)) (.ofNat 5 (w / 32768)) (.ofNat 12 (w / 1048576)))
  | 20 => .ok (.bltu (bitAt (w / 2)) (.ofNat 5 (w / 1024)) (.ofNat 5 (w / 32768)) (.ofNat 12 (w / 1048576)))
  | 21 => .ok (.bgeu (bitAt (w / 2)) (.ofNat 5 (w / 1024)) (.ofNat 5 (w / 32768)) (.ofNat 12 (w / 1048576)))
  | 22 => zeros (w / 32768 % 32 == 0) (.loop (bitAt (w / 2)) (.ofNat 5 (w / 1024)) (.ofNat 12 (w / 1048576)))
  | 23 => .ok (.jal (bitAt (w / 2)) (.ofNat 5 (w / 1024)) (.ofNat 17 (w / 32768)))
  | 24 => .ok (.jr (bitAt (w / 2)) (.ofNat 5 (w / 1024)) (.ofNat 5 (w / 32768)) (.ofNat 12 (w / 1048576)))
  | 25 => decodeA19 w
  | 32 => .ok (.ldb (bitAt (w / 2)) (.ofNat 5 (w / 1024)) (.ofNat 5 (w / 32768)) (.ofNat 12 (w / 1048576)))
  | 33 => .ok (.ldbz (bitAt (w / 2)) (.ofNat 5 (w / 1024)) (.ofNat 5 (w / 32768)) (.ofNat 12 (w / 1048576)))
  | 34 => .ok (.ldh (bitAt (w / 2)) (.ofNat 5 (w / 1024)) (.ofNat 5 (w / 32768)) (.ofNat 12 (w / 1048576)))
  | 35 => .ok (.ldhz (bitAt (w / 2)) (.ofNat 5 (w / 1024)) (.ofNat 5 (w / 32768)) (.ofNat 12 (w / 1048576)))
  | 36 => .ok (.ldw (bitAt (w / 2)) (.ofNat 5 (w / 1024)) (.ofNat 5 (w / 32768)) (.ofNat 12 (w / 1048576)))
  | 37 => .ok (.ldwz (bitAt (w / 2)) (.ofNat 5 (w / 1024)) (.ofNat 5 (w / 32768)) (.ofNat 12 (w / 1048576)))
  | 38 => .ok (.ldd (bitAt (w / 2)) (.ofNat 5 (w / 1024)) (.ofNat 5 (w / 32768)) (.ofNat 12 (w / 1048576)))
  | 40 => .ok (.stb (bitAt (w / 2)) (.ofNat 5 (w / 1024)) (.ofNat 5 (w / 32768)) (.ofNat 12 (w / 1048576)))
  | 41 => .ok (.sth (bitAt (w / 2)) (.ofNat 5 (w / 1024)) (.ofNat 5 (w / 32768)) (.ofNat 12 (w / 1048576)))
  | 42 => .ok (.stw (bitAt (w / 2)) (.ofNat 5 (w / 1024)) (.ofNat 5 (w / 32768)) (.ofNat 12 (w / 1048576)))
  | 43 => .ok (.std (bitAt (w / 2)) (.ofNat 5 (w / 1024)) (.ofNat 5 (w / 32768)) (.ofNat 12 (w / 1048576)))
  | 48 => zeros (w / 67108864 % 64 == 0) (.rld (bitAt (w / 2)) (.ofNat 5 (w / 1024)) (.ofNat 5 (w / 32768)) (.ofNat 3 (w / 1048576)) (bitAt (w / 8388608)) (.ofNat 2 (w / 16777216)))
  | 49 => zeros (w / 1024 % 32 == 0 && w / 268435456 % 2 == 0 && w / 2147483648 % 2 == 0) (.rst (bitAt (w / 2)) (.ofNat 5 (w / 32768)) (.ofNat 5 (w / 1048576)) (.ofNat 3 (w / 33554432)) (.ofNat 2 (w / 536870912)))
  | 50 => .ok (.sdef (bitAt (w / 2)) (.ofNat 5 (w / 1024)) (.ofNat 5 (w / 32768)) (.ofNat 12 (w / 1048576)))
  | 51 => decodeA33 w
  | 52 => zeros (w / 1048576 % 32 == 0) (.qpush (bitAt (w / 2)) (.ofNat 5 (w / 1024)) (.ofNat 5 (w / 32768)) (.ofNat 7 (w / 33554432)))
  | 53 => zeros (w / 1048576 % 4096 == 0) (.qpop (bitAt (w / 2)) (.ofNat 5 (w / 1024)) (.ofNat 5 (w / 32768)))
  | 56 => .ok (.bind (bitAt (w / 2)) (.ofNat 5 (w / 1024)) (.ofNat 5 (w / 32768)) (.ofNat 5 (w / 1048576)) (.ofNat 6 (w / 33554432)) (bitAt (w / 2147483648)))
  | 57 => zeros (w / 32768 % 131072 == 0) (.unbind (bitAt (w / 2)) (.ofNat 5 (w / 1024)))
  | 58 => zeros (w / 8388608 % 512 == 0) (.acq (bitAt (w / 2)) (.ofNat 5 (w / 1024)) (.ofNat 5 (w / 32768)) (.ofNat 3 (w / 1048576)))
  | 59 => zeros (w / 1024 % 32 == 0 && w / 8388608 % 512 == 0) (.rel (bitAt (w / 2)) (.ofNat 5 (w / 32768)) (.ofNat 3 (w / 1048576)))
  | 60 => zeros (w / 1024 % 1024 == 0 && w / 8388608 % 512 == 0) (.fence (bitAt (w / 2)) (.ofNat 3 (w / 1048576)))
  | 61 => zeros (w / 1024 % 4194304 == 0) (.lbfence (bitAt (w / 2)))
  | 64 => zeros (w / 268435456 % 16 == 0) (.aadd (bitAt (w / 2)) (.ofNat 5 (w / 1024)) (.ofNat 5 (w / 32768)) (.ofNat 5 (w / 1048576)) (.ofNat 2 (w / 33554432)) (bitAt (w / 134217728)))
  | 65 => zeros (w / 268435456 % 16 == 0) (.amin (bitAt (w / 2)) (.ofNat 5 (w / 1024)) (.ofNat 5 (w / 32768)) (.ofNat 5 (w / 1048576)) (.ofNat 2 (w / 33554432)) (bitAt (w / 134217728)))
  | 66 => zeros (w / 268435456 % 16 == 0) (.amax (bitAt (w / 2)) (.ofNat 5 (w / 1024)) (.ofNat 5 (w / 32768)) (.ofNat 5 (w / 1048576)) (.ofNat 2 (w / 33554432)) (bitAt (w / 134217728)))
  | 67 => zeros (w / 268435456 % 16 == 0) (.aand (bitAt (w / 2)) (.ofNat 5 (w / 1024)) (.ofNat 5 (w / 32768)) (.ofNat 5 (w / 1048576)) (.ofNat 2 (w / 33554432)) (bitAt (w / 134217728)))
  | 68 => zeros (w / 268435456 % 16 == 0) (.aor (bitAt (w / 2)) (.ofNat 5 (w / 1024)) (.ofNat 5 (w / 32768)) (.ofNat 5 (w / 1048576)) (.ofNat 2 (w / 33554432)) (bitAt (w / 134217728)))
  | 69 => zeros (w / 268435456 % 16 == 0) (.axor (bitAt (w / 2)) (.ofNat 5 (w / 1024)) (.ofNat 5 (w / 32768)) (.ofNat 5 (w / 1048576)) (.ofNat 2 (w / 33554432)) (bitAt (w / 134217728)))
  | 70 => zeros (w / 268435456 % 16 == 0) (.axchg (bitAt (w / 2)) (.ofNat 5 (w / 1024)) (.ofNat 5 (w / 32768)) (.ofNat 5 (w / 1048576)) (.ofNat 2 (w / 33554432)) (bitAt (w / 134217728)))
  | 71 => zeros (w / 268435456 % 16 == 0) (.acas (bitAt (w / 2)) (.ofNat 5 (w / 1024)) (.ofNat 5 (w / 32768)) (.ofNat 5 (w / 1048576)) (.ofNat 2 (w / 33554432)) (bitAt (w / 134217728)))
  | 72 => zeros (w / 67108864 % 64 == 0) (.cwait (bitAt (w / 2)) (.ofNat 5 (w / 1024)) (.ofNat 5 (w / 32768)) (.ofNat 5 (w / 1048576)) (bitAt (w / 33554432)))
  | 73 => zeros (w / 1024 % 32 == 0 && w / 268435456 % 16 == 0) (.cadd (bitAt (w / 2)) (.ofNat 5 (w / 32768)) (.ofNat 5 (w / 1048576)) (.ofNat 3 (w / 33554432)))
  | 74 => decodeA4A w
  | 75 => .ok (.talloc (bitAt (w / 2)) (.ofNat 5 (w / 1024)) (.ofNat 5 (w / 32768)) (.ofNat 12 (w / 1048576)))
  | 76 => decodeA4C w
  | 77 => decodeA4D w
  | 78 => .ok (.mxsub (bitAt (w / 2)) (.ofNat 5 (w / 1024)) (.ofNat 5 (w / 32768)) (.ofNat 12 (w / 1048576)))
  | 79 => decodeA4F w
  | 80 => zeros (w / 1024 % 32 == 0 && w / 1048576 % 32 == 0 && w / 268435456 % 16 == 0) (.puts (bitAt (w / 2)) (.ofNat 5 (w / 32768)) (.ofNat 3 (w / 33554432)))
  | 81 => zeros (w / 1024 % 32 == 0 && w / 1048576 % 32 == 0 && w / 268435456 % 16 == 0) (.get (bitAt (w / 2)) (.ofNat 5 (w / 32768)) (.ofNat 3 (w / 33554432)))
  | 82 => zeros (w / 1024 % 32 == 0 && w / 1048576 % 32 == 0 && w / 268435456 % 16 == 0) (.radd (bitAt (w / 2)) (.ofNat 5 (w / 32768)) (.ofNat 3 (w / 33554432)))
  | 83 => zeros (w / 4194304 % 1024 == 0) (.evwait (bitAt (w / 2)) (.ofNat 5 (w / 1024)) (.ofNat 5 (w / 32768)) (.ofNat 2 (w / 1048576)))
  | 84 => .ok (.kcmd (bitAt (w / 2)) (.ofNat 5 (w / 1024)) (.ofNat 5 (w / 32768)) (.ofNat 12 (w / 1048576)))
  | 85 => decodeA55 w
  | 86 => decodeA56 w
  | 88 => .ok (.spawn (bitAt (w / 2)) (.ofNat 5 (w / 1024)) (.ofNat 17 (w / 32768)))
  | 89 => .ok (.spawnc (bitAt (w / 2)) (.ofNat 5 (w / 1024)) (bitAt (w / 32768)) (.ofNat 8 (w / 65536)) (.ofNat 8 (w / 16777216)))
  | 90 => zeros (w / 1024 % 32 == 0 && w / 67108864 % 64 == 0) (.cres (bitAt (w / 2)) (.ofNat 5 (w / 32768)) (.ofNat 5 (w / 1048576)) (bitAt (w / 33554432)))
  | 92 => zeros (w / 262144 % 4 == 0) (.cbr (bitAt (w / 2)) (.ofNat 5 (w / 1024)) (.ofNat 2 (w / 32768)) (bitAt (w / 131072)) (.ofNat 12 (w / 1048576)))
  | 93 => zeros (w / 4194304 % 1024 == 0) (.cvote (bitAt (w / 2)) (.ofNat 5 (w / 1024)) (.ofNat 5 (w / 32768)) (.ofNat 2 (w / 1048576)))
  | 94 => decodeA5E w
  | 95 => .ok (.xmit (bitAt (w / 2)) (.ofNat 2 (w / 1024)) (.ofNat 3 (w / 4096)) (.ofNat 5 (w / 32768)) (.ofNat 6 (w / 1048576)) (.ofNat 6 (w / 67108864)))
  | 96 => .ok (.xsel (bitAt (w / 2)) (.ofNat 2 (w / 1024)) (.ofNat 3 (w / 4096)) (.ofNat 5 (w / 32768)) (.ofNat 6 (w / 1048576)) (.ofNat 6 (w / 67108864)))
  | 100 => .ok (.launch (bitAt (w / 2)) (.ofNat 5 (w / 1024)) (.ofNat 5 (w / 32768)) (.ofNat 12 (w / 1048576)))
  | 101 => zeros (w / 1024 % 32 == 0 && w / 2097152 % 2048 == 0) (.lcancel (bitAt (w / 2)) (.ofNat 5 (w / 32768)) (bitAt (w / 1048576)))
  | 102 => zeros (w / 1048576 % 4096 == 0) (.lwait (bitAt (w / 2)) (.ofNat 5 (w / 1024)) (.ofNat 5 (w / 32768)))
  | 104 => decodeA68 w
  | 105 => zeros (w / 1024 % 32 == 0 && w / 65536 % 16 == 0) (.cyct (bitAt (w / 2)) (bitAt (w / 32768)) (.ofNat 12 (w / 1048576)))
  | 112 => selector (w / 1048576 % 4096) (zeros (w / 32768 % 32 == 0) (.sysrd (bitAt (w / 2)) (.ofNat 5 (w / 1024)) (.ofNat 12 (w / 1048576))))
  | 113 => selector (w / 1048576 % 4096) (zeros (w / 1024 % 32 == 0) (.syswr (bitAt (w / 2)) (.ofNat 5 (w / 32768)) (.ofNat 12 (w / 1048576))))
  | 114 => zeros (w / 1024 % 32 == 0) (.trap (bitAt (w / 2)) (.ofNat 5 (w / 32768)) (.ofNat 12 (w / 1048576)))
  | 115 => decodeA73 w
  | _ => .error .reservedMajor

/-- The C-class map (R58). -/
def decodeC (w : Nat) : Except DecodeError Instr :=
  match w / 8 % 128 with
  | 1 => zeros (w / 4194304 % 64 == 0) (.vmov (bitAt (w / 2)) (.ofNat 6 (w / 1024)) (.ofNat 6 (w / 65536)) (.ofNat 3 (w / 268435456)) (bitAt (w / 2147483648)))
  | 2 => .ok (.vadd (bitAt (w / 2)) (.ofNat 6 (w / 1024)) (.ofNat 6 (w / 65536)) (.ofNat 6 (w / 4194304)) (.ofNat 3 (w / 268435456)) (bitAt (w / 2147483648)))
  | 3 => .ok (.vsub (bitAt (w / 2)) (.ofNat 6 (w / 1024)) (.ofNat 6 (w / 65536)) (.ofNat 6 (w / 4194304)) (.ofNat 3 (w / 268435456)) (bitAt (w / 2147483648)))
  | 4 => .ok (.vmul (bitAt (w / 2)) (.ofNat 6 (w / 1024)) (.ofNat 6 (w / 65536)) (.ofNat 6 (w / 4194304)) (.ofNat 3 (w / 268435456)) (bitAt (w / 2147483648)))
  | 5 => .ok (.vfma (bitAt (w / 2)) (.ofNat 6 (w / 1024)) (.ofNat 6 (w / 65536)) (.ofNat 6 (w / 4194304)) (.ofNat 3 (w / 268435456)) (bitAt (w / 2147483648)))
  | 6 => .ok (.vfms (bitAt (w / 2)) (.ofNat 6 (w / 1024)) (.ofNat 6 (w / 65536)) (.ofNat 6 (w / 4194304)) (.ofNat 3 (w / 268435456)) (bitAt (w / 2147483648)))
  | 7 => .ok (.vmax (bitAt (w / 2)) (.ofNat 6 (w / 1024)) (.ofNat 6 (w / 65536)) (.ofNat 6 (w / 4194304)) (.ofNat 3 (w / 268435456)) (bitAt (w / 2147483648)))
  | 8 => .ok (.vmin (bitAt (w / 2)) (.ofNat 6 (w / 1024)) (.ofNat 6 (w / 65536)) (.ofNat 6 (w / 4194304)) (.ofNat 3 (w / 268435456)) (bitAt (w / 2147483648)))
  | 9 => .ok (.vand (bitAt (w / 2)) (.ofNat 6 (w / 1024)) (.ofNat 6 (w / 65536)) (.ofNat 6 (w / 4194304)) (.ofNat 3 (w / 268435456)) (bitAt (w / 2147483648)))
  | 10 => .ok (.vor (bitAt (w / 2)) (.ofNat 6 (w / 1024)) (.ofNat 6 (w / 65536)) (.ofNat 6 (w / 4194304)) (.ofNat 3 (w / 268435456)) (bitAt (w / 2147483648)))
  | 11 => .ok (.vxor (bitAt (w / 2)) (.ofNat 6 (w / 1024)) (.ofNat 6 (w / 65536)) (.ofNat 6 (w / 4194304)) (.ofNat 3 (w / 268435456)) (bitAt (w / 2147483648)))
  | 12 => .ok (.vandn (bitAt (w / 2)) (.ofNat 6 (w / 1024)) (.ofNat 6 (w / 65536)) (.ofNat 6 (w / 4194304)) (.ofNat 3 (w / 268435456)) (bitAt (w / 2147483648)))
  | 13 => .ok (.vsll (bitAt (w / 2)) (.ofNat 6 (w / 1024)) (.ofNat 6 (w / 65536)) (.ofNat 6 (w / 4194304)) (.ofNat 3 (w / 268435456)) (bitAt (w / 2147483648)))
  | 14 => .ok (.vsrl (bitAt (w / 2)) (.ofNat 6 (w / 1024)) (.ofNat 6 (w / 65536)) (.ofNat 6 (w / 4194304)) (.ofNat 3 (w / 268435456)) (bitAt (w / 2147483648)))
  | 15 => .ok (.vsra (bitAt (w / 2)) (.ofNat 6 (w / 1024)) (.ofNat 6 (w / 65536)) (.ofNat 6 (w / 4194304)) (.ofNat 3 (w / 268435456)) (bitAt (w / 2147483648)))
  | 16 => zeros (w / 4194304 % 64 == 0) (.vabs (bitAt (w / 2)) (.ofNat 6 (w / 1024)) (.ofNat 6 (w / 65536)) (.ofNat 3 (w / 268435456)) (bitAt (w / 2147483648)))
  | 17 => zeros (w / 4194304 % 64 == 0) (.vneg (bitAt (w / 2)) (.ofNat 6 (w / 1024)) (.ofNat 6 (w / 65536)) (.ofNat 3 (w / 268435456)) (bitAt (w / 2147483648)))
  | 18 => .ok (.vmulh (bitAt (w / 2)) (.ofNat 6 (w / 1024)) (.ofNat 6 (w / 65536)) (.ofNat 6 (w / 4194304)) (.ofNat 3 (w / 268435456)) (bitAt (w / 2147483648)))
  | 20 => .ok (.vcmpeq (bitAt (w / 2)) (.ofNat 6 (w / 1024)) (.ofNat 6 (w / 65536)) (.ofNat 6 (w / 4194304)) (.ofNat 3 (w / 268435456)) (bitAt (w / 2147483648)))
  | 21 => .ok (.vcmpne (bitAt (w / 2)) (.ofNat 6 (w / 1024)) (.ofNat 6 (w / 65536)) (.ofNat 6 (w / 4194304)) (.ofNat 3 (w / 268435456)) (bitAt (w / 2147483648)))
  | 22 => .ok (.vcmplt (bitAt (w / 2)) (.ofNat 6 (w / 1024)) (.ofNat 6 (w / 65536)) (.ofNat 6 (w / 4194304)) (.ofNat 3 (w / 268435456)) (bitAt (w / 2147483648)))
  | 23 => .ok (.vcmple (bitAt (w / 2)) (.ofNat 6 (w / 1024)) (.ofNat 6 (w / 65536)) (.ofNat 6 (w / 4194304)) (.ofNat 3 (w / 268435456)) (bitAt (w / 2147483648)))
  | 24 => .ok (.kand (bitAt (w / 2)) (.ofNat 6 (w / 1024)) (.ofNat 6 (w / 65536)) (.ofNat 6 (w / 4194304)) (.ofNat 3 (w / 268435456)) (bitAt (w / 2147483648)))
  | 25 => .ok (.kor (bitAt (w / 2)) (.ofNat 6 (w / 1024)) (.ofNat 6 (w / 65536)) (.ofNat 6 (w / 4194304)) (.ofNat 3 (w / 268435456)) (bitAt (w / 2147483648)))
  | 26 => .ok (.kxor (bitAt (w / 2)) (.ofNat 6 (w / 1024)) (.ofNat 6 (w / 65536)) (.ofNat 6 (w / 4194304)) (.ofNat 3 (w / 268435456)) (bitAt (w / 2147483648)))
  | 27 => .ok (.kandn (bitAt (w / 2)) (.ofNat 6 (w / 1024)) (.ofNat 6 (w / 65536)) (.ofNat 6 (w / 4194304)) (.ofNat 3 (w / 268435456)) (bitAt (w / 2147483648)))
  | 28 => zeros (w / 2147483648 % 2 == 0) (.vwhile (bitAt (w / 2)) (.ofNat 6 (w / 1024)) (.ofNat 6 (w / 65536)) (.ofNat 6 (w / 4194304)) (.ofNat 3 (w / 268435456)))
  | 32 => .ok (.vaddi (bitAt (w / 2)) (.ofNat 6 (w / 1024)) (.ofNat 6 (w / 65536)) (.ofNat 8 (w / 4194304)) (.ofNat 2 (w / 1073741824)))
  | 33 => zeros (w / 65536 % 64 == 63) (.vmovi (bitAt (w / 2)) (.ofNat 6 (w / 1024)) (.ofNat 8 (w / 4194304)) (.ofNat 2 (w / 1073741824)))
  | 34 => .ok (.vslli (bitAt (w / 2)) (.ofNat 6 (w / 1024)) (.ofNat 6 (w / 65536)) (.ofNat 8 (w / 4194304)) (.ofNat 2 (w / 1073741824)))
  | 35 => .ok (.vsrli (bitAt (w / 2)) (.ofNat 6 (w / 1024)) (.ofNat 6 (w / 65536)) (.ofNat 8 (w / 4194304)) (.ofNat 2 (w / 1073741824)))
  | 36 => .ok (.vsrai (bitAt (w / 2)) (.ofNat 6 (w / 1024)) (.ofNat 6 (w / 65536)) (.ofNat 8 (w / 4194304)) (.ofNat 2 (w / 1073741824)))
  | 40 => decodeC28 w
  | 41 => .ok (.vrcps (bitAt (w / 2)) (.ofNat 6 (w / 1024)) (.ofNat 6 (w / 65536)) (.ofNat 6 (w / 4194304)) (.ofNat 3 (w / 268435456)) (bitAt (w / 2147483648)))
  | 42 => .ok (.vrsqs (bitAt (w / 2)) (.ofNat 6 (w / 1024)) (.ofNat 6 (w / 65536)) (.ofNat 6 (w / 4194304)) (.ofNat 3 (w / 268435456)) (bitAt (w / 2147483648)))
  | 43 => .ok (.vdiv (bitAt (w / 2)) (.ofNat 6 (w / 1024)) (.ofNat 6 (w / 65536)) (.ofNat 6 (w / 4194304)) (.ofNat 3 (w / 268435456)) (bitAt (w / 2147483648)))
  | 44 => .ok (.vcvt (bitAt (w / 2)) (.ofNat 6 (w / 1024)) (.ofNat 6 (w / 65536)) (.ofNat 6 (w / 4194304)) (.ofNat 3 (w / 268435456)) (bitAt (w / 2147483648)))
  | 45 => zeros (w / 268435456 % 16 == 0) (.vtag (bitAt (w / 2)) (.ofNat 6 (w / 1024)) (.ofNat 6 (w / 65536)) (.ofNat 6 (w / 4194304)))
  | 46 => .ok (.vrq (bitAt (w / 2)) (.ofNat 6 (w / 1024)) (.ofNat 6 (w / 65536)) (.ofNat 3 (w / 4194304)) (.ofNat 3 (w / 33554432)) (.ofNat 3 (w / 268435456)) (bitAt (w / 2147483648)))
  | 48 => .ok (.vperm (bitAt (w / 2)) (.ofNat 6 (w / 1024)) (.ofNat 6 (w / 65536)) (.ofNat 6 (w / 4194304)) (.ofNat 3 (w / 268435456)) (bitAt (w / 2147483648)))
  | 49 => .ok (.vbcast (bitAt (w / 2)) (.ofNat 6 (w / 1024)) (.ofNat 6 (w / 65536)) (.ofNat 6 (w / 4194304)) (.ofNat 3 (w / 268435456)) (bitAt (w / 2147483648)))
  | 50 => .ok (.vslide (bitAt (w / 2)) (.ofNat 6 (w / 1024)) (.ofNat 6 (w / 65536)) (.ofNat 8 (w / 4194304)) (.ofNat 2 (w / 1073741824)))
  | 51 => .ok (.vext (bitAt (w / 2)) (.ofNat 6 (w / 1024)) (.ofNat 6 (w / 65536)) (.ofNat 6 (w / 4194304)) (.ofNat 3 (w / 268435456)) (bitAt (w / 2147483648)))
  | 52 => .ok (.vins (bitAt (w / 2)) (.ofNat 6 (w / 1024)) (.ofNat 6 (w / 65536)) (.ofNat 6 (w / 4194304)) (.ofNat 3 (w / 268435456)) (bitAt (w / 2147483648)))
  | 56 => .ok (.vzip2 (bitAt (w / 2)) (.ofNat 6 (w / 1024)) (.ofNat 6 (w / 65536)) (.ofNat 6 (w / 4194304)) (.ofNat 3 (w / 268435456)) (bitAt (w / 2147483648)))
  | 57 => .ok (.vzip3 (bitAt (w / 2)) (.ofNat 6 (w / 1024)) (.ofNat 6 (w / 65536)) (.ofNat 6 (w / 4194304)) (.ofNat 3 (w / 268435456)) (bitAt (w / 2147483648)))
  | 58 => .ok (.vzip4 (bitAt (w / 2)) (.ofNat 6 (w / 1024)) (.ofNat 6 (w / 65536)) (.ofNat 6 (w / 4194304)) (.ofNat 3 (w / 268435456)) (bitAt (w / 2147483648)))
  | 59 => .ok (.vunzip2 (bitAt (w / 2)) (.ofNat 6 (w / 1024)) (.ofNat 6 (w / 65536)) (.ofNat 6 (w / 4194304)) (.ofNat 3 (w / 268435456)) (bitAt (w / 2147483648)))
  | 60 => .ok (.vunzip3 (bitAt (w / 2)) (.ofNat 6 (w / 1024)) (.ofNat 6 (w / 65536)) (.ofNat 6 (w / 4194304)) (.ofNat 3 (w / 268435456)) (bitAt (w / 2147483648)))
  | 61 => .ok (.vunzip4 (bitAt (w / 2)) (.ofNat 6 (w / 1024)) (.ofNat 6 (w / 65536)) (.ofNat 6 (w / 4194304)) (.ofNat 3 (w / 268435456)) (bitAt (w / 2147483648)))
  | 64 => decodeC40 w
  | 72 => .ok (.vld (bitAt (w / 2)) (.ofNat 6 (w / 1024)) (.ofNat 5 (w / 65536)) (.ofNat 4 (w / 2097152)) (.ofNat 5 (w / 33554432)) (.ofNat 2 (w / 1073741824)))
  | 73 => .ok (.vst (bitAt (w / 2)) (.ofNat 6 (w / 1024)) (.ofNat 5 (w / 65536)) (.ofNat 4 (w / 2097152)) (.ofNat 5 (w / 33554432)) (.ofNat 2 (w / 1073741824)))
  | 74 => .ok (.vgather (bitAt (w / 2)) (.ofNat 6 (w / 1024)) (.ofNat 5 (w / 65536)) (.ofNat 4 (w / 2097152)) (.ofNat 5 (w / 33554432)) (.ofNat 2 (w / 1073741824)))
  | 75 => .ok (.vscatter (bitAt (w / 2)) (.ofNat 6 (w / 1024)) (.ofNat 5 (w / 65536)) (.ofNat 4 (w / 2097152)) (.ofNat 5 (w / 33554432)) (.ofNat 2 (w / 1073741824)))
  | 80 => decodeC50 w
  | _ => .error .reservedMajor

/-- The checks of R53 that follow the map and the minor field: reserved values, then specifier ranges, then directions. -/
def checked (i : Instr) : Except DecodeError Instr :=
  if !i.fieldsOk then .error .reservedField
  else if !i.specsInRange then .error .reservedSpecifier
  else if !i.specsDirOk then .error .specifierDirection
  else .ok i

/-- A 32-bit instruction (R36): T selects the map. -/
def decode32 (w : Nat) : Except DecodeError Instr :=
  (if bitAt (w / 4) then decodeC w else decodeA w).bind checked

/-- The operations of the 16-bit form by op4 (R34). -/
def decodeOp4 (w : Nat) : Instr :=
  match w / 4 % 16 with
  | 0 => .vmov16 (bitAt (w / 2)) (.ofNat 5 (w / 64)) (.ofNat 5 (w / 2048))
  | 1 => .vadd16 (bitAt (w / 2)) (.ofNat 5 (w / 64)) (.ofNat 5 (w / 2048))
  | 2 => .vsub16 (bitAt (w / 2)) (.ofNat 5 (w / 64)) (.ofNat 5 (w / 2048))
  | 3 => .vmul16 (bitAt (w / 2)) (.ofNat 5 (w / 64)) (.ofNat 5 (w / 2048))
  | 4 => .vfmal (bitAt (w / 2)) (.ofNat 5 (w / 64)) (.ofNat 5 (w / 2048))
  | 5 => .vmax16 (bitAt (w / 2)) (.ofNat 5 (w / 64)) (.ofNat 5 (w / 2048))
  | 6 => .vmin16 (bitAt (w / 2)) (.ofNat 5 (w / 64)) (.ofNat 5 (w / 2048))
  | 7 => .vand16 (bitAt (w / 2)) (.ofNat 5 (w / 64)) (.ofNat 5 (w / 2048))
  | 8 => .vor16 (bitAt (w / 2)) (.ofNat 5 (w / 64)) (.ofNat 5 (w / 2048))
  | 9 => .vxor16 (bitAt (w / 2)) (.ofNat 5 (w / 64)) (.ofNat 5 (w / 2048))
  | 10 => .vneg16 (bitAt (w / 2)) (.ofNat 5 (w / 64)) (.ofNat 5 (w / 2048))
  | 11 => .vabs16 (bitAt (w / 2)) (.ofNat 5 (w / 64)) (.ofNat 5 (w / 2048))
  | 12 => .vsll16 (bitAt (w / 2)) (.ofNat 5 (w / 64)) (.ofNat 5 (w / 2048))
  | 13 => .vsrl16 (bitAt (w / 2)) (.ofNat 5 (w / 64)) (.ofNat 5 (w / 2048))
  | 14 => .vqpop (bitAt (w / 2)) (.ofNat 5 (w / 64)) (.ofNat 5 (w / 2048))
  | _ => .vqpush (bitAt (w / 2)) (.ofNat 5 (w / 64)) (.ofNat 5 (w / 2048))

/-- A 16-bit instruction (R33 to R35, R53). -/
def decode16 (h : Nat) : Except DecodeError Instr :=
  if h == 0 then .error .zeroHalfword
  else if h == 2 then .ok .waitall
  else if h / 4 % 16 == 14 && 3 < h / 2048 then .error .queueNumber
  else if h / 4 % 16 == 15 && 1 < h / 2048 then .error .queueNumber
  else .ok (decodeOp4 h)

/-- Little-endian value of bytes (R5). -/
def leNat : List Byte → Nat
  | [] => 0
  | b :: bs => b.toNat + 256 * leNat bs

/-- The low `n` bytes of a number, lowest first (R5). -/
def leBytes : Nat → Nat → List Byte
  | 0, _ => []
  | n + 1, v => BitVec.ofNat 8 v :: leBytes n (v / 256)

/-- The decoder (R32, R53): the instruction at the head of the bytes and the bytes after it. -/
def decode : List Byte → Except DecodeError (Instr × List Byte)
  | b0 :: b1 :: rest =>
    let h := b0.toNat + 256 * b1.toNat
    if h % 2 == 0 then (decode16 h).map fun i => (i, rest)
    else match rest with
      | b2 :: b3 :: rest' =>
        (decode32 (h + 65536 * (b2.toNat + 256 * b3.toNat))).map fun i => (i, rest')
      | _ => .error .truncated
  | _ => .error .truncated

/-- The instruction the decoder reads from an instruction whose bits are `w`, numbered as the opcode table numbers them:
the bytes are laid out as memory holds them and given to `decode`; bits above `nbits` are zero. -/
def decodeTableWord (nbits w : Nat) : Option Instr :=
  match decode (leBytes 4 (w % 2 ^ nbits)) with
  | .ok (i, _) => some i
  | .error _ => none

/-- A flag as a bit. -/
def b2n (b : Bool) : Nat := if b then 1 else 0

/-- The encoder (R33, R36 to R38, R55 to R59): the number of bits and the word of an instruction, its fixed
bits first and then each field at its place; none for a step that is no instruction. -/
def encode : Instr → Option (Nat × Nat)
  | .add s rd rs1 rs2 => some (32, 0x00000009 + b2n s * 2 + rd.toNat * 1024 + rs1.toNat * 32768 + rs2.toNat * 1048576)
  | .sub s rd rs1 rs2 => some (32, 0x02000009 + b2n s * 2 + rd.toNat * 1024 + rs1.toNat * 32768 + rs2.toNat * 1048576)
  | .and s rd rs1 rs2 => some (32, 0x04000009 + b2n s * 2 + rd.toNat * 1024 + rs1.toNat * 32768 + rs2.toNat * 1048576)
  | .or s rd rs1 rs2 => some (32, 0x06000009 + b2n s * 2 + rd.toNat * 1024 + rs1.toNat * 32768 + rs2.toNat * 1048576)
  | .xor s rd rs1 rs2 => some (32, 0x08000009 + b2n s * 2 + rd.toNat * 1024 + rs1.toNat * 32768 + rs2.toNat * 1048576)
  | .andn s rd rs1 rs2 => some (32, 0x0A000009 + b2n s * 2 + rd.toNat * 1024 + rs1.toNat * 32768 + rs2.toNat * 1048576)
  | .sll s rd rs1 rs2 => some (32, 0x0C000009 + b2n s * 2 + rd.toNat * 1024 + rs1.toNat * 32768 + rs2.toNat * 1048576)
  | .srl s rd rs1 rs2 => some (32, 0x0E000009 + b2n s * 2 + rd.toNat * 1024 + rs1.toNat * 32768 + rs2.toNat * 1048576)
  | .sra s rd rs1 rs2 => some (32, 0x10000009 + b2n s * 2 + rd.toNat * 1024 + rs1.toNat * 32768 + rs2.toNat * 1048576)
  | .slt s rd rs1 rs2 => some (32, 0x12000009 + b2n s * 2 + rd.toNat * 1024 + rs1.toNat * 32768 + rs2.toNat * 1048576)
  | .sltu s rd rs1 rs2 => some (32, 0x14000009 + b2n s * 2 + rd.toNat * 1024 + rs1.toNat * 32768 + rs2.toNat * 1048576)
  | .min s rd rs1 rs2 => some (32, 0x16000009 + b2n s * 2 + rd.toNat * 1024 + rs1.toNat * 32768 + rs2.toNat * 1048576)
  | .max s rd rs1 rs2 => some (32, 0x18000009 + b2n s * 2 + rd.toNat * 1024 + rs1.toNat * 32768 + rs2.toNat * 1048576)
  | .minu s rd rs1 rs2 => some (32, 0x1A000009 + b2n s * 2 + rd.toNat * 1024 + rs1.toNat * 32768 + rs2.toNat * 1048576)
  | .maxu s rd rs1 rs2 => some (32, 0x1C000009 + b2n s * 2 + rd.toNat * 1024 + rs1.toNat * 32768 + rs2.toNat * 1048576)
  | .mul s rd rs1 rs2 => some (32, 0x1E000009 + b2n s * 2 + rd.toNat * 1024 + rs1.toNat * 32768 + rs2.toNat * 1048576)
  | .mulh s rd rs1 rs2 => some (32, 0x20000009 + b2n s * 2 + rd.toNat * 1024 + rs1.toNat * 32768 + rs2.toNat * 1048576)
  | .mulhu s rd rs1 rs2 => some (32, 0x22000009 + b2n s * 2 + rd.toNat * 1024 + rs1.toNat * 32768 + rs2.toNat * 1048576)
  | .div s rd rs1 rs2 => some (32, 0x24000009 + b2n s * 2 + rd.toNat * 1024 + rs1.toNat * 32768 + rs2.toNat * 1048576)
  | .divu s rd rs1 rs2 => some (32, 0x26000009 + b2n s * 2 + rd.toNat * 1024 + rs1.toNat * 32768 + rs2.toNat * 1048576)
  | .rem s rd rs1 rs2 => some (32, 0x28000009 + b2n s * 2 + rd.toNat * 1024 + rs1.toNat * 32768 + rs2.toNat * 1048576)
  | .remu s rd rs1 rs2 => some (32, 0x2A000009 + b2n s * 2 + rd.toNat * 1024 + rs1.toNat * 32768 + rs2.toNat * 1048576)
  | .clz s rd rs1 => some (32, 0x2C000009 + b2n s * 2 + rd.toNat * 1024 + rs1.toNat * 32768)
  | .ctz s rd rs1 => some (32, 0x2E000009 + b2n s * 2 + rd.toNat * 1024 + rs1.toNat * 32768)
  | .popc s rd rs1 => some (32, 0x30000009 + b2n s * 2 + rd.toNat * 1024 + rs1.toNat * 32768)
  | .addw s rd rs1 rs2 => some (32, 0x40000009 + b2n s * 2 + rd.toNat * 1024 + rs1.toNat * 32768 + rs2.toNat * 1048576)
  | .subw s rd rs1 rs2 => some (32, 0x42000009 + b2n s * 2 + rd.toNat * 1024 + rs1.toNat * 32768 + rs2.toNat * 1048576)
  | .mulw s rd rs1 rs2 => some (32, 0x44000009 + b2n s * 2 + rd.toNat * 1024 + rs1.toNat * 32768 + rs2.toNat * 1048576)
  | .sllw s rd rs1 rs2 => some (32, 0x46000009 + b2n s * 2 + rd.toNat * 1024 + rs1.toNat * 32768 + rs2.toNat * 1048576)
  | .srlw s rd rs1 rs2 => some (32, 0x48000009 + b2n s * 2 + rd.toNat * 1024 + rs1.toNat * 32768 + rs2.toNat * 1048576)
  | .sraw s rd rs1 rs2 => some (32, 0x4A000009 + b2n s * 2 + rd.toNat * 1024 + rs1.toNat * 32768 + rs2.toNat * 1048576)
  | .addi s rd rs1 imm => some (32, 0x00000011 + b2n s * 2 + rd.toNat * 1024 + rs1.toNat * 32768 + imm.toNat * 1048576)
  | .andi s rd rs1 imm => some (32, 0x00000019 + b2n s * 2 + rd.toNat * 1024 + rs1.toNat * 32768 + imm.toNat * 1048576)
  | .ori s rd rs1 imm => some (32, 0x00000021 + b2n s * 2 + rd.toNat * 1024 + rs1.toNat * 32768 + imm.toNat * 1048576)
  | .xori s rd rs1 imm => some (32, 0x00000029 + b2n s * 2 + rd.toNat * 1024 + rs1.toNat * 32768 + imm.toNat * 1048576)
  | .slti s rd rs1 imm => some (32, 0x00000031 + b2n s * 2 + rd.toNat * 1024 + rs1.toNat * 32768 + imm.toNat * 1048576)
  | .sltiu s rd rs1 imm => some (32, 0x00000039 + b2n s * 2 + rd.toNat * 1024 + rs1.toNat * 32768 + imm.toNat * 1048576)
  | .slli s rd rs1 imm => some (32, 0x00000041 + b2n s * 2 + rd.toNat * 1024 + rs1.toNat * 32768 + imm.toNat * 1048576)
  | .srli s rd rs1 imm => some (32, 0x00000049 + b2n s * 2 + rd.toNat * 1024 + rs1.toNat * 32768 + imm.toNat * 1048576)
  | .srai s rd rs1 imm => some (32, 0x00000051 + b2n s * 2 + rd.toNat * 1024 + rs1.toNat * 32768 + imm.toNat * 1048576)
  | .addiw s rd rs1 imm => some (32, 0x00000059 + b2n s * 2 + rd.toNat * 1024 + rs1.toNat * 32768 + imm.toNat * 1048576)
  | .mkhi s rd imm => some (32, 0x00000061 + b2n s * 2 + rd.toNat * 1024 + imm.toNat * 32768)
  | .mkga s rd rs1 rs2 region => some (32, 0x00000069 + b2n s * 2 + rd.toNat * 1024 + rs1.toNat * 32768 + rs2.toNat * 1048576 + region.toNat * 33554432)
  | .peera s rd rs1 imm => some (32, 0x00000071 + b2n s * 2 + rd.toNat * 1024 + rs1.toNat * 32768 + imm.toNat * 1048576)
  | .beq s rs1 rs2 off => some (32, 0x00000081 + b2n s * 2 + rs1.toNat * 1024 + rs2.toNat * 32768 + off.toNat * 1048576)
  | .bne s rs1 rs2 off => some (32, 0x00000089 + b2n s * 2 + rs1.toNat * 1024 + rs2.toNat * 32768 + off.toNat * 1048576)
  | .blt s rs1 rs2 off => some (32, 0x00000091 + b2n s * 2 + rs1.toNat * 1024 + rs2.toNat * 32768 + off.toNat * 1048576)
  | .bge s rs1 rs2 off => some (32, 0x00000099 + b2n s * 2 + rs1.toNat * 1024 + rs2.toNat * 32768 + off.toNat * 1048576)
  | .bltu s rs1 rs2 off => some (32, 0x000000A1 + b2n s * 2 + rs1.toNat * 1024 + rs2.toNat * 32768 + off.toNat * 1048576)
  | .bgeu s rs1 rs2 off => some (32, 0x000000A9 + b2n s * 2 + rs1.toNat * 1024 + rs2.toNat * 32768 + off.toNat * 1048576)
  | .loop s rs1 off => some (32, 0x000000B1 + b2n s * 2 + rs1.toNat * 1024 + off.toNat * 1048576)
  | .jal s rd off => some (32, 0x000000B9 + b2n s * 2 + rd.toNat * 1024 + off.toNat * 32768)
  | .jr s rd rs1 imm => some (32, 0x000000C1 + b2n s * 2 + rd.toNat * 1024 + rs1.toNat * 32768 + imm.toNat * 1048576)
  | .nop s => some (32, 0x000000C9 + b2n s * 2)
  | .yield s => some (32, 0x100000C9 + b2n s * 2)
  | .retire s => some (32, 0x200000C9 + b2n s * 2)
  | .vlq s rd => some (32, 0x300000C9 + b2n s * 2 + rd.toNat * 1024)
  | .ldb s rd rs1 imm => some (32, 0x00000101 + b2n s * 2 + rd.toNat * 1024 + rs1.toNat * 32768 + imm.toNat * 1048576)
  | .ldbz s rd rs1 imm => some (32, 0x00000109 + b2n s * 2 + rd.toNat * 1024 + rs1.toNat * 32768 + imm.toNat * 1048576)
  | .ldh s rd rs1 imm => some (32, 0x00000111 + b2n s * 2 + rd.toNat * 1024 + rs1.toNat * 32768 + imm.toNat * 1048576)
  | .ldhz s rd rs1 imm => some (32, 0x00000119 + b2n s * 2 + rd.toNat * 1024 + rs1.toNat * 32768 + imm.toNat * 1048576)
  | .ldw s rd rs1 imm => some (32, 0x00000121 + b2n s * 2 + rd.toNat * 1024 + rs1.toNat * 32768 + imm.toNat * 1048576)
  | .ldwz s rd rs1 imm => some (32, 0x00000129 + b2n s * 2 + rd.toNat * 1024 + rs1.toNat * 32768 + imm.toNat * 1048576)
  | .ldd s rd rs1 imm => some (32, 0x00000131 + b2n s * 2 + rd.toNat * 1024 + rs1.toNat * 32768 + imm.toNat * 1048576)
  | .stb s rs2 rs1 imm => some (32, 0x00000141 + b2n s * 2 + rs2.toNat * 1024 + rs1.toNat * 32768 + imm.toNat * 1048576)
  | .sth s rs2 rs1 imm => some (32, 0x00000149 + b2n s * 2 + rs2.toNat * 1024 + rs1.toNat * 32768 + imm.toNat * 1048576)
  | .stw s rs2 rs1 imm => some (32, 0x00000151 + b2n s * 2 + rs2.toNat * 1024 + rs1.toNat * 32768 + imm.toNat * 1048576)
  | .std s rs2 rs1 imm => some (32, 0x00000159 + b2n s * 2 + rs2.toNat * 1024 + rs1.toNat * 32768 + imm.toNat * 1048576)
  | .rld s rd rs1 cls zx size => some (32, 0x00000181 + b2n s * 2 + rd.toNat * 1024 + rs1.toNat * 32768 + cls.toNat * 1048576 + b2n zx * 8388608 + size.toNat * 16777216)
  | .rst s rs1 rs2 cls size => some (32, 0x00000189 + b2n s * 2 + rs1.toNat * 32768 + rs2.toNat * 1048576 + cls.toNat * 33554432 + size.toNat * 536870912)
  | .sdef s n rs1 imm => some (32, 0x00000191 + b2n s * 2 + n.toNat * 1024 + rs1.toNat * 32768 + imm.toNat * 1048576)
  | .sgo s p q isW => some (32, 0x00000199 + b2n s * 2 + p.toNat * 1048576 + q.toNat * 4194304 + b2n isW * 16777216)
  | .shalt s p => some (32, 0x10000199 + b2n s * 2 + p.toNat * 1048576)
  | .sq s rd p => some (32, 0x20000199 + b2n s * 2 + rd.toNat * 1024 + p.toNat * 1048576)
  | .qpush s n rs1 fmt => some (32, 0x000001A1 + b2n s * 2 + n.toNat * 1024 + rs1.toNat * 32768 + fmt.toNat * 33554432)
  | .qpop s rd n => some (32, 0x000001A9 + b2n s * 2 + rd.toNat * 1024 + n.toNat * 32768)
  | .bind s n rs1 rs2 lg bar => some (32, 0x000001C1 + b2n s * 2 + n.toNat * 1024 + rs1.toNat * 32768 + rs2.toNat * 1048576 + lg.toNat * 33554432 + b2n bar * 2147483648)
  | .unbind s n => some (32, 0x000001C9 + b2n s * 2 + n.toNat * 1024)
  | .acq s rd rs1 scope => some (32, 0x000001D1 + b2n s * 2 + rd.toNat * 1024 + rs1.toNat * 32768 + scope.toNat * 1048576)
  | .rel s rs1 scope => some (32, 0x000001D9 + b2n s * 2 + rs1.toNat * 32768 + scope.toNat * 1048576)
  | .fence s scope => some (32, 0x000001E1 + b2n s * 2 + scope.toNat * 1048576)
  | .lbfence s => some (32, 0x000001E9 + b2n s * 2)
  | .aadd s rd rs1 rs2 size uns => some (32, 0x00000201 + b2n s * 2 + rd.toNat * 1024 + rs1.toNat * 32768 + rs2.toNat * 1048576 + size.toNat * 33554432 + b2n uns * 134217728)
  | .amin s rd rs1 rs2 size uns => some (32, 0x00000209 + b2n s * 2 + rd.toNat * 1024 + rs1.toNat * 32768 + rs2.toNat * 1048576 + size.toNat * 33554432 + b2n uns * 134217728)
  | .amax s rd rs1 rs2 size uns => some (32, 0x00000211 + b2n s * 2 + rd.toNat * 1024 + rs1.toNat * 32768 + rs2.toNat * 1048576 + size.toNat * 33554432 + b2n uns * 134217728)
  | .aand s rd rs1 rs2 size uns => some (32, 0x00000219 + b2n s * 2 + rd.toNat * 1024 + rs1.toNat * 32768 + rs2.toNat * 1048576 + size.toNat * 33554432 + b2n uns * 134217728)
  | .aor s rd rs1 rs2 size uns => some (32, 0x00000221 + b2n s * 2 + rd.toNat * 1024 + rs1.toNat * 32768 + rs2.toNat * 1048576 + size.toNat * 33554432 + b2n uns * 134217728)
  | .axor s rd rs1 rs2 size uns => some (32, 0x00000229 + b2n s * 2 + rd.toNat * 1024 + rs1.toNat * 32768 + rs2.toNat * 1048576 + size.toNat * 33554432 + b2n uns * 134217728)
  | .axchg s rd rs1 rs2 size uns => some (32, 0x00000231 + b2n s * 2 + rd.toNat * 1024 + rs1.toNat * 32768 + rs2.toNat * 1048576 + size.toNat * 33554432 + b2n uns * 134217728)
  | .acas s rd rs1 rs2 size uns => some (32, 0x00000239 + b2n s * 2 + rd.toNat * 1024 + rs1.toNat * 32768 + rs2.toNat * 1048576 + size.toNat * 33554432 + b2n uns * 134217728)
  | .cwait s rd rs1 rs2 nowait => some (32, 0x00000241 + b2n s * 2 + rd.toNat * 1024 + rs1.toNat * 32768 + rs2.toNat * 1048576 + b2n nowait * 33554432)
  | .cadd s rs1 rs2 scope => some (32, 0x00000249 + b2n s * 2 + rs1.toNat * 32768 + rs2.toNat * 1048576 + scope.toNat * 33554432)
  | .bari s rs1 n => some (32, 0x00000251 + b2n s * 2 + rs1.toNat * 32768 + n.toNat * 1048576)
  | .bara s rd n pz => some (32, 0x10000251 + b2n s * 2 + rd.toNat * 1024 + n.toNat * 1048576 + b2n pz * 67108864)
  | .barw s rd n => some (32, 0x20000251 + b2n s * 2 + rd.toNat * 1024 + n.toNat * 1048576)
  | .baraw s rd n pz => some (32, 0x30000251 + b2n s * 2 + rd.toNat * 1024 + n.toNat * 1048576 + b2n pz * 67108864)
  | .barq s rd n => some (32, 0x40000251 + b2n s * 2 + rd.toNat * 1024 + n.toNat * 1048576)
  | .talloc s n rs1 imm => some (32, 0x00000259 + b2n s * 2 + n.toNat * 1024 + rs1.toNat * 32768 + imm.toNat * 1048576)
  | .tfree s h => some (32, 0x00000261 + b2n s * 2 + h.toNat * 32768)
  | .tstat s rd h => some (32, 0x10000261 + b2n s * 2 + rd.toNat * 1024 + h.toNat * 32768)
  | .twait s h => some (32, 0x20000261 + b2n s * 2 + h.toNat * 32768)
  | .tset s h ready tag => some (32, 0x30000261 + b2n s * 2 + h.toNat * 32768 + b2n ready * 1048576 + tag.toNat * 16777216)
  | .cpstage s n => some (32, 0x00000269 + b2n s * 2 + n.toNat * 1048576)
  | .cpq s rd rs1 => some (32, 0x10000269 + b2n s * 2 + rd.toNat * 1024 + rs1.toNat * 32768)
  | .cpcancel s rs1 => some (32, 0x20000269 + b2n s * 2 + rs1.toNat * 32768)
  | .mxsub s rd rs1 imm => some (32, 0x00000271 + b2n s * 2 + rd.toNat * 1024 + rs1.toNat * 32768 + imm.toNat * 1048576)
  | .mxpoll s rd rs1 => some (32, 0x00000279 + b2n s * 2 + rd.toNat * 1024 + rs1.toNat * 32768)
  | .mxwait s rs1 => some (32, 0x10000279 + b2n s * 2 + rs1.toNat * 32768)
  | .puts s rs1 cls => some (32, 0x00000281 + b2n s * 2 + rs1.toNat * 32768 + cls.toNat * 33554432)
  | .get s rs1 cls => some (32, 0x00000289 + b2n s * 2 + rs1.toNat * 32768 + cls.toNat * 33554432)
  | .radd s rs1 cls => some (32, 0x00000291 + b2n s * 2 + rs1.toNat * 32768 + cls.toNat * 33554432)
  | .evwait s rd rs1 n => some (32, 0x00000299 + b2n s * 2 + rd.toNat * 1024 + rs1.toNat * 32768 + n.toNat * 1048576)
  | .kcmd s rd rs1 imm => some (32, 0x000002A1 + b2n s * 2 + rd.toNat * 1024 + rs1.toNat * 32768 + imm.toNat * 1048576)
  | .kfence s => some (32, 0x000002A9 + b2n s * 2)
  | .kpoll s rd rs1 => some (32, 0x100002A9 + b2n s * 2 + rd.toNat * 1024 + rs1.toNat * 32768)
  | .wseal s rd rs1 n => some (32, 0x000002B1 + b2n s * 2 + rd.toNat * 1024 + rs1.toNat * 32768 + n.toNat * 1048576)
  | .wq s rd n => some (32, 0x100002B1 + b2n s * 2 + rd.toNat * 1024 + n.toNat * 1048576)
  | .spawn s rd off => some (32, 0x000002C1 + b2n s * 2 + rd.toNat * 1024 + off.toNat * 32768)
  | .spawnc s rs1 side p8 off => some (32, 0x000002C9 + b2n s * 2 + rs1.toNat * 1024 + b2n side * 32768 + p8.toNat * 65536 + off.toNat * 16777216)
  | .cres s rs1 rs2 opn => some (32, 0x000002D1 + b2n s * 2 + rs1.toNat * 32768 + rs2.toNat * 1048576 + b2n opn * 33554432)
  | .cbr s rs1 op pred off => some (32, 0x000002E1 + b2n s * 2 + rs1.toNat * 1024 + op.toNat * 32768 + b2n pred * 131072 + off.toNat * 1048576)
  | .cvote s rd rs1 op => some (32, 0x000002E9 + b2n s * 2 + rd.toNat * 1024 + rs1.toNat * 32768 + op.toNat * 1048576)
  | .ssend s => some (32, 0x000002F1 + b2n s * 2)
  | .xend s rd => some (32, 0x100002F1 + b2n s * 2 + rd.toNat * 1024)
  | .xmit s len dir rs1 off slot => some (32, 0x000002F9 + b2n s * 2 + len.toNat * 1024 + dir.toNat * 4096 + rs1.toNat * 32768 + off.toNat * 1048576 + slot.toNat * 67108864)
  | .xsel s len dir rs1 off slot => some (32, 0x00000301 + b2n s * 2 + len.toNat * 1024 + dir.toNat * 4096 + rs1.toNat * 32768 + off.toNat * 1048576 + slot.toNat * 67108864)
  | .launch s rd rs1 imm => some (32, 0x00000321 + b2n s * 2 + rd.toNat * 1024 + rs1.toNat * 32768 + imm.toNat * 1048576)
  | .lcancel s rs1 kill => some (32, 0x00000329 + b2n s * 2 + rs1.toNat * 32768 + b2n kill * 1048576)
  | .lwait s rd rs1 => some (32, 0x00000331 + b2n s * 2 + rd.toNat * 1024 + rs1.toNat * 32768)
  | .cycb s rs1 set rel => some (32, 0x00000341 + b2n s * 2 + rs1.toNat * 32768 + set.toNat * 1048576 + b2n rel * 67108864)
  | .cycres s rs1 => some (32, 0x10000341 + b2n s * 2 + rs1.toNat * 32768)
  | .cyce s => some (32, 0x20000341 + b2n s * 2)
  | .cyct s pred off => some (32, 0x00000349 + b2n s * 2 + b2n pred * 32768 + off.toNat * 1048576)
  | .sysrd s rd sel => some (32, 0x00000381 + b2n s * 2 + rd.toNat * 1024 + sel.toNat * 1048576)
  | .syswr s rs1 sel => some (32, 0x00000389 + b2n s * 2 + rs1.toNat * 32768 + sel.toNat * 1048576)
  | .trap s rs1 code => some (32, 0x00000391 + b2n s * 2 + rs1.toNat * 32768 + code.toNat * 1048576)
  | .eret s mode => some (32, 0x00000399 + b2n s * 2 + mode.toNat * 1048576)
  | .brk s n => some (32, 0x10000399 + b2n s * 2 + n.toNat * 1048576)
  | .wdog s rd rs1 => some (32, 0x20000399 + b2n s * 2 + rd.toNat * 1024 + rs1.toNat * 32768)
  | .pwrhint s c => some (32, 0x30000399 + b2n s * 2 + c.toNat * 1048576)
  | .vmov s d a k z => some (32, 0x0000000D + b2n s * 2 + d.toNat * 1024 + a.toNat * 65536 + k.toNat * 268435456 + b2n z * 2147483648)
  | .vadd s d a b k z => some (32, 0x00000015 + b2n s * 2 + d.toNat * 1024 + a.toNat * 65536 + b.toNat * 4194304 + k.toNat * 268435456 + b2n z * 2147483648)
  | .vsub s d a b k z => some (32, 0x0000001D + b2n s * 2 + d.toNat * 1024 + a.toNat * 65536 + b.toNat * 4194304 + k.toNat * 268435456 + b2n z * 2147483648)
  | .vmul s d a b k z => some (32, 0x00000025 + b2n s * 2 + d.toNat * 1024 + a.toNat * 65536 + b.toNat * 4194304 + k.toNat * 268435456 + b2n z * 2147483648)
  | .vfma s d a b k z => some (32, 0x0000002D + b2n s * 2 + d.toNat * 1024 + a.toNat * 65536 + b.toNat * 4194304 + k.toNat * 268435456 + b2n z * 2147483648)
  | .vfms s d a b k z => some (32, 0x00000035 + b2n s * 2 + d.toNat * 1024 + a.toNat * 65536 + b.toNat * 4194304 + k.toNat * 268435456 + b2n z * 2147483648)
  | .vmax s d a b k z => some (32, 0x0000003D + b2n s * 2 + d.toNat * 1024 + a.toNat * 65536 + b.toNat * 4194304 + k.toNat * 268435456 + b2n z * 2147483648)
  | .vmin s d a b k z => some (32, 0x00000045 + b2n s * 2 + d.toNat * 1024 + a.toNat * 65536 + b.toNat * 4194304 + k.toNat * 268435456 + b2n z * 2147483648)
  | .vand s d a b k z => some (32, 0x0000004D + b2n s * 2 + d.toNat * 1024 + a.toNat * 65536 + b.toNat * 4194304 + k.toNat * 268435456 + b2n z * 2147483648)
  | .vor s d a b k z => some (32, 0x00000055 + b2n s * 2 + d.toNat * 1024 + a.toNat * 65536 + b.toNat * 4194304 + k.toNat * 268435456 + b2n z * 2147483648)
  | .vxor s d a b k z => some (32, 0x0000005D + b2n s * 2 + d.toNat * 1024 + a.toNat * 65536 + b.toNat * 4194304 + k.toNat * 268435456 + b2n z * 2147483648)
  | .vandn s d a b k z => some (32, 0x00000065 + b2n s * 2 + d.toNat * 1024 + a.toNat * 65536 + b.toNat * 4194304 + k.toNat * 268435456 + b2n z * 2147483648)
  | .vsll s d a b k z => some (32, 0x0000006D + b2n s * 2 + d.toNat * 1024 + a.toNat * 65536 + b.toNat * 4194304 + k.toNat * 268435456 + b2n z * 2147483648)
  | .vsrl s d a b k z => some (32, 0x00000075 + b2n s * 2 + d.toNat * 1024 + a.toNat * 65536 + b.toNat * 4194304 + k.toNat * 268435456 + b2n z * 2147483648)
  | .vsra s d a b k z => some (32, 0x0000007D + b2n s * 2 + d.toNat * 1024 + a.toNat * 65536 + b.toNat * 4194304 + k.toNat * 268435456 + b2n z * 2147483648)
  | .vabs s d a k z => some (32, 0x00000085 + b2n s * 2 + d.toNat * 1024 + a.toNat * 65536 + k.toNat * 268435456 + b2n z * 2147483648)
  | .vneg s d a k z => some (32, 0x0000008D + b2n s * 2 + d.toNat * 1024 + a.toNat * 65536 + k.toNat * 268435456 + b2n z * 2147483648)
  | .vmulh s d a b k z => some (32, 0x00000095 + b2n s * 2 + d.toNat * 1024 + a.toNat * 65536 + b.toNat * 4194304 + k.toNat * 268435456 + b2n z * 2147483648)
  | .vcmpeq s d a b k z => some (32, 0x000000A5 + b2n s * 2 + d.toNat * 1024 + a.toNat * 65536 + b.toNat * 4194304 + k.toNat * 268435456 + b2n z * 2147483648)
  | .vcmpne s d a b k z => some (32, 0x000000AD + b2n s * 2 + d.toNat * 1024 + a.toNat * 65536 + b.toNat * 4194304 + k.toNat * 268435456 + b2n z * 2147483648)
  | .vcmplt s d a b k z => some (32, 0x000000B5 + b2n s * 2 + d.toNat * 1024 + a.toNat * 65536 + b.toNat * 4194304 + k.toNat * 268435456 + b2n z * 2147483648)
  | .vcmple s d a b k z => some (32, 0x000000BD + b2n s * 2 + d.toNat * 1024 + a.toNat * 65536 + b.toNat * 4194304 + k.toNat * 268435456 + b2n z * 2147483648)
  | .kand s d a b k z => some (32, 0x000000C5 + b2n s * 2 + d.toNat * 1024 + a.toNat * 65536 + b.toNat * 4194304 + k.toNat * 268435456 + b2n z * 2147483648)
  | .kor s d a b k z => some (32, 0x000000CD + b2n s * 2 + d.toNat * 1024 + a.toNat * 65536 + b.toNat * 4194304 + k.toNat * 268435456 + b2n z * 2147483648)
  | .kxor s d a b k z => some (32, 0x000000D5 + b2n s * 2 + d.toNat * 1024 + a.toNat * 65536 + b.toNat * 4194304 + k.toNat * 268435456 + b2n z * 2147483648)
  | .kandn s d a b k z => some (32, 0x000000DD + b2n s * 2 + d.toNat * 1024 + a.toNat * 65536 + b.toNat * 4194304 + k.toNat * 268435456 + b2n z * 2147483648)
  | .vwhile s d a b esize => some (32, 0x000000E5 + b2n s * 2 + d.toNat * 1024 + a.toNat * 65536 + b.toNat * 4194304 + esize.toNat * 268435456)
  | .vaddi s d a imm k => some (32, 0x00000105 + b2n s * 2 + d.toNat * 1024 + a.toNat * 65536 + imm.toNat * 4194304 + k.toNat * 1073741824)
  | .vmovi s d imm k => some (32, 0x003F010D + b2n s * 2 + d.toNat * 1024 + imm.toNat * 4194304 + k.toNat * 1073741824)
  | .vslli s d a imm k => some (32, 0x00000115 + b2n s * 2 + d.toNat * 1024 + a.toNat * 65536 + imm.toNat * 4194304 + k.toNat * 1073741824)
  | .vsrli s d a imm k => some (32, 0x0000011D + b2n s * 2 + d.toNat * 1024 + a.toNat * 65536 + imm.toNat * 4194304 + k.toNat * 1073741824)
  | .vsrai s d a imm k => some (32, 0x00000125 + b2n s * 2 + d.toNat * 1024 + a.toNat * 65536 + imm.toNat * 4194304 + k.toNat * 1073741824)
  | .vrcpe s d a k z => some (32, 0x00000145 + b2n s * 2 + d.toNat * 1024 + a.toNat * 65536 + k.toNat * 268435456 + b2n z * 2147483648)
  | .vrsqe s d a k z => some (32, 0x00400145 + b2n s * 2 + d.toNat * 1024 + a.toNat * 65536 + k.toNat * 268435456 + b2n z * 2147483648)
  | .vsin s d a k z => some (32, 0x00800145 + b2n s * 2 + d.toNat * 1024 + a.toNat * 65536 + k.toNat * 268435456 + b2n z * 2147483648)
  | .vcos s d a k z => some (32, 0x00C00145 + b2n s * 2 + d.toNat * 1024 + a.toNat * 65536 + k.toNat * 268435456 + b2n z * 2147483648)
  | .vexp2 s d a k z => some (32, 0x01000145 + b2n s * 2 + d.toNat * 1024 + a.toNat * 65536 + k.toNat * 268435456 + b2n z * 2147483648)
  | .vlog2 s d a k z => some (32, 0x01400145 + b2n s * 2 + d.toNat * 1024 + a.toNat * 65536 + k.toNat * 268435456 + b2n z * 2147483648)
  | .vsqrt s d a k z => some (32, 0x01800145 + b2n s * 2 + d.toNat * 1024 + a.toNat * 65536 + k.toNat * 268435456 + b2n z * 2147483648)
  | .vrcps s d a b k z => some (32, 0x0000014D + b2n s * 2 + d.toNat * 1024 + a.toNat * 65536 + b.toNat * 4194304 + k.toNat * 268435456 + b2n z * 2147483648)
  | .vrsqs s d a b k z => some (32, 0x00000155 + b2n s * 2 + d.toNat * 1024 + a.toNat * 65536 + b.toNat * 4194304 + k.toNat * 268435456 + b2n z * 2147483648)
  | .vdiv s d a b k z => some (32, 0x0000015D + b2n s * 2 + d.toNat * 1024 + a.toNat * 65536 + b.toNat * 4194304 + k.toNat * 268435456 + b2n z * 2147483648)
  | .vcvt s d a fmt k z => some (32, 0x00000165 + b2n s * 2 + d.toNat * 1024 + a.toNat * 65536 + fmt.toNat * 4194304 + k.toNat * 268435456 + b2n z * 2147483648)
  | .vtag s d a fmt => some (32, 0x0000016D + b2n s * 2 + d.toNat * 1024 + a.toNat * 65536 + fmt.toNat * 4194304)
  | .vrq s d a tgt m k z => some (32, 0x00000175 + b2n s * 2 + d.toNat * 1024 + a.toNat * 65536 + tgt.toNat * 4194304 + m.toNat * 33554432 + k.toNat * 268435456 + b2n z * 2147483648)
  | .vperm s d a b k z => some (32, 0x00000185 + b2n s * 2 + d.toNat * 1024 + a.toNat * 65536 + b.toNat * 4194304 + k.toNat * 268435456 + b2n z * 2147483648)
  | .vbcast s d a lane k z => some (32, 0x0000018D + b2n s * 2 + d.toNat * 1024 + a.toNat * 65536 + lane.toNat * 4194304 + k.toNat * 268435456 + b2n z * 2147483648)
  | .vslide s d a imm k => some (32, 0x00000195 + b2n s * 2 + d.toNat * 1024 + a.toNat * 65536 + imm.toNat * 4194304 + k.toNat * 1073741824)
  | .vext s d a lane k z => some (32, 0x0000019D + b2n s * 2 + d.toNat * 1024 + a.toNat * 65536 + lane.toNat * 4194304 + k.toNat * 268435456 + b2n z * 2147483648)
  | .vins s d a lane k z => some (32, 0x000001A5 + b2n s * 2 + d.toNat * 1024 + a.toNat * 65536 + lane.toNat * 4194304 + k.toNat * 268435456 + b2n z * 2147483648)
  | .vzip2 s d a lane k z => some (32, 0x000001C5 + b2n s * 2 + d.toNat * 1024 + a.toNat * 65536 + lane.toNat * 4194304 + k.toNat * 268435456 + b2n z * 2147483648)
  | .vzip3 s d a lane k z => some (32, 0x000001CD + b2n s * 2 + d.toNat * 1024 + a.toNat * 65536 + lane.toNat * 4194304 + k.toNat * 268435456 + b2n z * 2147483648)
  | .vzip4 s d a lane k z => some (32, 0x000001D5 + b2n s * 2 + d.toNat * 1024 + a.toNat * 65536 + lane.toNat * 4194304 + k.toNat * 268435456 + b2n z * 2147483648)
  | .vunzip2 s d a lane k z => some (32, 0x000001DD + b2n s * 2 + d.toNat * 1024 + a.toNat * 65536 + lane.toNat * 4194304 + k.toNat * 268435456 + b2n z * 2147483648)
  | .vunzip3 s d a lane k z => some (32, 0x000001E5 + b2n s * 2 + d.toNat * 1024 + a.toNat * 65536 + lane.toNat * 4194304 + k.toNat * 268435456 + b2n z * 2147483648)
  | .vunzip4 s d a lane k z => some (32, 0x000001ED + b2n s * 2 + d.toNat * 1024 + a.toNat * 65536 + lane.toNat * 4194304 + k.toNat * 268435456 + b2n z * 2147483648)
  | .vrsum s d a k => some (32, 0x00000205 + b2n s * 2 + d.toNat * 1024 + a.toNat * 65536 + k.toNat * 268435456)
  | .vrmax s d a k => some (32, 0x00400205 + b2n s * 2 + d.toNat * 1024 + a.toNat * 65536 + k.toNat * 268435456)
  | .vrmin s d a k => some (32, 0x00800205 + b2n s * 2 + d.toNat * 1024 + a.toNat * 65536 + k.toNat * 268435456)
  | .vrand s d a k => some (32, 0x00C00205 + b2n s * 2 + d.toNat * 1024 + a.toNat * 65536 + k.toNat * 268435456)
  | .vror s d a k => some (32, 0x01000205 + b2n s * 2 + d.toNat * 1024 + a.toNat * 65536 + k.toNat * 268435456)
  | .vrxor s d a k => some (32, 0x01400205 + b2n s * 2 + d.toNat * 1024 + a.toNat * 65536 + k.toNat * 268435456)
  | .vld s d b fmt off k => some (32, 0x00000245 + b2n s * 2 + d.toNat * 1024 + b.toNat * 65536 + fmt.toNat * 2097152 + off.toNat * 33554432 + k.toNat * 1073741824)
  | .vst s d b fmt off k => some (32, 0x0000024D + b2n s * 2 + d.toNat * 1024 + b.toNat * 65536 + fmt.toNat * 2097152 + off.toNat * 33554432 + k.toNat * 1073741824)
  | .vgather s d b fmt vx k => some (32, 0x00000255 + b2n s * 2 + d.toNat * 1024 + b.toNat * 65536 + fmt.toNat * 2097152 + vx.toNat * 33554432 + k.toNat * 1073741824)
  | .vscatter s d b fmt vx k => some (32, 0x0000025D + b2n s * 2 + d.toNat * 1024 + b.toNat * 65536 + fmt.toNat * 2097152 + vx.toNat * 33554432 + k.toNat * 1073741824)
  | .vflrd s d => some (32, 0x003F0285 + b2n s * 2 + d.toNat * 1024)
  | .vflclr s a => some (32, 0x0040FE85 + b2n s * 2 + a.toNat * 65536)
  | .vmov16 s d vs => some (16, 0x0000 + b2n s * 2 + d.toNat * 64 + vs.toNat * 2048)
  | .vadd16 s d vs => some (16, 0x0004 + b2n s * 2 + d.toNat * 64 + vs.toNat * 2048)
  | .vsub16 s d vs => some (16, 0x0008 + b2n s * 2 + d.toNat * 64 + vs.toNat * 2048)
  | .vmul16 s d vs => some (16, 0x000C + b2n s * 2 + d.toNat * 64 + vs.toNat * 2048)
  | .vfmal s d vs => some (16, 0x0010 + b2n s * 2 + d.toNat * 64 + vs.toNat * 2048)
  | .vmax16 s d vs => some (16, 0x0014 + b2n s * 2 + d.toNat * 64 + vs.toNat * 2048)
  | .vmin16 s d vs => some (16, 0x0018 + b2n s * 2 + d.toNat * 64 + vs.toNat * 2048)
  | .vand16 s d vs => some (16, 0x001C + b2n s * 2 + d.toNat * 64 + vs.toNat * 2048)
  | .vor16 s d vs => some (16, 0x0020 + b2n s * 2 + d.toNat * 64 + vs.toNat * 2048)
  | .vxor16 s d vs => some (16, 0x0024 + b2n s * 2 + d.toNat * 64 + vs.toNat * 2048)
  | .vneg16 s d vs => some (16, 0x0028 + b2n s * 2 + d.toNat * 64 + vs.toNat * 2048)
  | .vabs16 s d vs => some (16, 0x002C + b2n s * 2 + d.toNat * 64 + vs.toNat * 2048)
  | .vsll16 s d vs => some (16, 0x0030 + b2n s * 2 + d.toNat * 64 + vs.toNat * 2048)
  | .vsrl16 s d vs => some (16, 0x0034 + b2n s * 2 + d.toNat * 64 + vs.toNat * 2048)
  | .vqpop s d n => some (16, 0x0038 + b2n s * 2 + d.toNat * 64 + n.toNat * 2048)
  | .vqpush s d n => some (16, 0x003C + b2n s * 2 + d.toNat * 64 + n.toNat * 2048)
  | .waitall => some (16, 0x0002)
  | .longResultReturn _ _ => none
  | .storeConfirmation _ => none
  | .waitSatisfied _ => none
  | .handlerDispatch _ => none
  | .handlerWatchdogExpiry _ => none
  | .watchdog _ => none
  | .quantumEnd _ => none
  | .contextLost _ => none
  | .gangStop _ => none
  | .checkpoint _ => none
  | .gangStopComplete _ => none
  | .gangResume _ => none
  | .remoteReissue _ => none
  | .mxJobStart _ _ => none
  | .mxJobComplete _ _ => none
  | .copyEntryPass _ _ _ => none
  | .copyIn _ _ => none
  | .copyOut _ _ => none
  | .multicast _ _ => none
  | .decode _ _ => none
  | .wbload _ _ => none
  | .copyEntryComplete _ _ => none
  | .decoderFrame _ _ => none
  | .rradd _ _ _ => none
  | .axpy _ _ _ => none
  | .fade _ _ _ => none
  | .kettleCopy _ _ _ => none
  | .kettleFill _ _ _ => none
  | .scale _ _ _ => none
  | .kettlePartEnd _ _ _ => none
  | .receiveAreaContribution _ _ _ => none
  | .remoteAddMessage _ => none
  | .putsTransfer _ _ => none
  | .getTransfer _ _ => none
  | .raddTransfer _ _ => none
  | .putsMessage _ => none
  | .oneSidedRetry _ => none
  | .oneSidedComplete _ _ => none
  | .remoteAccessArrival _ => none
  | .subByteMessage _ => none
  | .stationTranslation _ _ _ _ => none
  | .invalidation _ _ => none
  | .streamInputFill _ _ => none
  | .streamOutputDrain _ _ => none
  | .launchDependenceMet _ => none
  | .blockRangeRequest _ _ => none
  | .gangStart _ _ _ _ => none
  | .segmentTake _ => none
  | .conditionalNode _ _ => none
  | .whileNode _ _ => none
  | .launchComplete _ => none
  | .cancelAtDispatcher _ _ => none
  | .conditionOutcomeArrival _ _ _ => none
  | .collectiveResolve _ => none
  | .markerToken _ => none
  | .exchangeDelivery _ _ => none
  | .energyWindowEnd _ _ _ => none
  | .thermalLimit _ _ _ => none
  | .powerKill _ _ => none
  | .marginReplan _ _ => none
  | .hardwareCheckFailure _ _ => none
  | .spareReplacement _ => none
  | .levanterReplay _ _ => none
  | .levanterPortFailure _ _ => none
  | .powerStateEntry _ => none
  | .wakeEvent _ _ => none
  | .powerExitComplete _ => none
  | .hostWindowAccess _ _ _ _ => none
  | .hostDoorbell _ _ => none
  | .functionLevelReset _ => none
  | .identityRequest _ _ => none
  | .attestation _ _ _ => none
  | .firmwareDelivery _ _ _ => none
  | .telemetry _ _ => none
  | .managementReset _ _ => none
  | .keyEnrolment _ _ _ => none
  | .testMode _ _ _ => none
  | .moduleReset _ _ => none
  | .slotctlResume _ => none
  | .slotctlEnd _ => none
  | .tvecWrite _ _ => none
  | .streamReserve _ _ => none
  | .streamRelease _ _ => none
  | .wsetCreate _ _ => none
  | .wsetDelete _ _ => none
  | .systemWindowWrite _ _ => none
  | .operatingMode _ _ => none

/-- The bytes of an instruction as memory holds them. -/
def encodeBytes (i : Instr) : List Byte :=
  match encode i with
  | some (n, w) => leBytes (n / 8) w
  | none => []

end Sys2Proof
end

