-- ==== Sys2Proof/Machine/OneSided.lean ====
section
/-! DEFINITION. One-sided operations: the descriptor and its acceptance (R217, R219), the transfers of PUTS, GET and RADD by
messages of at most one packet (R219, R305), PUTS at its target with the signal counter (R202), exactly-once adds (R203),
resending (R219) and the event record (R218). -/

namespace Sys2Proof.Machine

/-! ## The descriptor (R217) -/

/-- An address form that `remote` and `signal` accept. -/
def formsRemote (f : Form) : Bool :=
  match f with
  | .virt _ => true
  | .remote .. => true
  | .glob _ _ _ _ region _ => region = 0 || region = 1 || region = 3
  | _ => false
/-- The descriptor of eight doublewords for operation `op` (0 PUTS, 1 GET, 2 RADD); none where a field other than the event
address breaks R217. -/
def osDescOf (op : Nat) : List Nat → Option OsDesc
  | [d0, d1, d2, d3, d4, d5, d6, d7] =>
    let w := BitVec.ofNat 64
    let fmt := bits d4 35 32
    let len := bits d4 31 0
    let genOn := d5.testBit 32
    let area := d6.testBit 16
    let rank := bits d6 15 0
    let rf := form (w d1)
    let inHbm := rf.isVirt || rf.isRemote
    let ok := d0 % 8 = 0 && ((form (w d0)).isPriv || (form (w d0)).isVirt) && d1 % 8 = 0 && formsRemote rf &&
      (if d2 = 0 then true else op = 0 && d2 % 8 = 0 && formsRemote (form (w d2))) &&
      bits d4 63 36 = 0 && (if op = 2 then fmt = 1 || fmt = 2 || fmt = 11 || fmt = 13 else fmt = 0) &&
      8 ≤ len && len ≤ 2 ^ 24 && len % 8 = 0 && bits d5 63 33 = 0 &&
      (!genOn || match rf with | .glob _ _ _ _ region _ => region = 0 || region = 3 | _ => false) &&
      bits d6 63 17 = 0 && (!area || (op = 2 && inHbm)) && (area || rank = 0) && d7 = 0
    if ok then some { op := op, loc := w d0, remote := w d1, signal := w d2, event := w d3, fmt := tagOf fmt, length := len,
                      gen := genOn, genVal := BitVec.ofNat 32 d5, area := area, rank := rank }
    else none
  | _ => none
/-- The check of the event record at acceptance (R217). -/
def eventCheck (s : State) (c : CtxId) (ev : DWord) : Option TrapInfo :=
  if ev.toNat % 8 ≠ 0 then some (trapInfo 0x0C2)
  else match form ev with
    | .priv off => if s.ownsPriv c off 32 then none else some (trapInfo 0x0C2)
    | .virt _ =>
      match (List.range 4).findSome? (fun i => match access s (s.whoIs c) (ev + BitVec.ofNat 64 (8 * i)) 8 .readWrite false with
          | .fault t => some t
          | _ => none) with
      | some t => some { t with eaddr := ev }
      | none => none
    | _ => some (trapInfo 0x0C2)
/-- The footprint of an operation (R219). -/
def osFoot (s : State) (c : CtxId) (d : OsDesc) : List Region :=
  spanRegions s c d.loc d.length (d.op = 1) ++ spanRegions s c d.remote d.length (d.op ≠ 1) ++ counterRegion s c d.signal ++
  spanRegions s c d.event 32 true
/-- PUTS, GET and RADD: the descriptor is checked, copied and accepted (R217, R219). -/
def oneSided (s : Bool) (rs1 : BitVec 5) (op : Nat) (st : State) : State :=
  issue { s := s, parks := true, a := [rs1] } st fun st =>
    let ea := st.cx.ra rs1
    if ea.toNat % 32 ≠ 0 || !(form ea).isPriv then st.raise (trapInfo 0x0C0)
    else match recordCheck st st.me ea 32 64 with
      | some t => st.raise t
      | none => match readDwords st st.me ea 8 with
        | .error (.fault t) => st.raise t
        | .error _ => st.park (.reissue [ea])
        | .ok ds => match osDescOf op ds with
          | none => st.raise (trapInfo 0x0C1)
          | some d => match eventCheck st st.me d.event with
            | some t => st.raise t
            | none =>
              let j := { newJob st st.me (.oneSided d) with foot := osFoot st st.me d, left := d.length }
              (foldCard (st.tick.acceptJob st.cur.cl j) st.me ea ds).finish
/-- R219. -/
def execPuts (s : Bool) (rs1 : BitVec 5) (_cls : BitVec 3) (st : State) : Out State := .next (oneSided s rs1 0 st)
/-- R219. -/
def execGet (s : Bool) (rs1 : BitVec 5) (_cls : BitVec 3) (st : State) : Out State := .next (oneSided s rs1 1 st)
/-- R219. -/
def execRadd (s : Bool) (rs1 : BitVec 5) (_cls : BitVec 3) (st : State) : Out State := .next (oneSided s rs1 2 st)

/-! ## The event record (R218) -/

/-- One counter of the event record incremented; an increment that is refused is not made, and the service cores count it. -/
def eventIncr (s : State) (j : EJob) (d : OsDesc) (n : Nat) : State :=
  match engineIncr s j (d.event + BitVec.ofNat 64 (8 * n)) with
  | .ok s => s
  | .retry | .held => s
  | .refused code => s.countError j.owner.core.cl.m code
/-- The ending status ORed into doubleword 3, with the discarded count added and saturating. -/
def eventStatus (s : State) (j : EJob) (d : OsDesc) : State :=
  let a := d.event + 24
  match engineAccess s j a 8 .readWrite with
  | .fault t => s.countError j.owner.core.cl.m t.code
  | .retry => s
  | .loc l => match s.homeRead l 8 with
    | none => s.countError j.owner.core.cl.m 0x050
    | some v =>
      let n := Nat.min (2 ^ 32 - 1) (v / 2 ^ 32 + j.discarded)
      s.write l 8 (n * 2 ^ 32 + (v % 2 ^ 32 ||| (j.flags.toNat <<< 8) ||| j.status.toNat))

/-! ## Transfers (R219) -/

def stSource : BitVec 4 := 8
def stTarget : BitVec 4 := 4
def stRetry : BitVec 4 := 2
def stStale : BitVec 4 := 1
/-- The bytes of the next message to an address: at most a packet (R305), within 256 aligned bytes and so within one inbox (assumption 28). -/
def chunk (left : Nat) (ra : DWord) : Nat := Nat.min left (256 - ra.toNat % 256)
/-- A message to a module in a power state is held, and begins the module's exit (R378). -/
def State.wake (s : State) (m : Nat) : State := s.modModule m (fun x => { x with waking := true })
/-- `n` doublewords read by an engine, as bytes; none where one cannot be read. -/
def engineBytes (s : State) (j : EJob) (a : DWord) : Nat → Option (List Byte)
  | 0 => some []
  | n + 1 => match engineRead s j a 8, engineBytes s j (a + 8) n with
    | .val v, some r => some (leBytes 8 v ++ r)
    | _, _ => none
/-- Bytes as a little-endian number (R5). -/
def ofBytes (l : List Byte) : Nat := l.foldr (fun b n => b.toNat + 256 * n) 0
/-- The module and the virtual address of an HBM address, as a context of a module names it. -/
def hbmVa (m : Nat) (a : DWord) : Option (Nat × Nat) :=
  match form a with | .virt va => some (m, va) | .remote m va => some (m, va) | _ => none
/-- The Kettle of an HBM location: that of its slice's stack (R20, R172). -/
def kettleOf (loc : Nat) : Nat := locPa loc / 4096 % 192 / 16
/-- What applies a RADD message at an address (R219); the cause where the address is refused on the way, none where its module is to be woken
first. -/
def ownerOf (s : State) (j : EJob) (a : DWord) : Except (Option (BitVec 9)) Owner :=
  match form a with
  | .glob m x y core _ _ => .ok (.core ⟨⟨m, x, y⟩, core⟩)
  | _ => match access s j.who a 8 .write with
    | .loc l => .ok (.kettle (locModule l) (kettleOf l))
    | .fault t => .error (some t.code)
    | .retry => .error none
/-- The sequences of a source that an owner has not acknowledged: of RADD messages and of the parts of Kettle commands (R203). -/
def State.unacked (s : State) (o : Owner) (c : CtxId) (g : DWord) : List (BitVec 32) :=
  (s.msgs.filter (fun m => m.isAdd && !m.acked && decide (m.owner = o ∧ m.src = c ∧ m.slotgen = g))).map (·.seq) ++
  (s.sent.filter (fun p => p.out && decide (o = .kettle p.m p.idx ∧ p.owner = c ∧ p.gen = g))).map (·.seq)
/-- Before of R203. -/
def seqBefore (x y : BitVec 32) : Bool := decide (2 ^ 31 ≤ (x - y).toNat)
/-- The low mark: the lowest unacknowledged sequence (R203). -/
def lowMark (next : BitVec 32) : List (BitVec 32) → BitVec 32
  | [] => next
  | m :: r => let l := lowMark next r; if seqBefore m l then m else l
/-- The window of a source at an owner. -/
def State.window (s : State) (o : Owner) (c : CtxId) (g : DWord) : Window := kget s.windows (o, c, g) ⟨0, false, []⟩
/-- The messages of a job that are not yet handled. -/
def State.pending (s : State) (uid : Nat) : Bool := s.msgs.any (fun m => m.job = uid && !m.acked)
/-- The status of an operation gains a bit. -/
def osStatus (s : State) (cl : ClusterId) (j : EJob) (b : BitVec 4) : State := s.setJob cl { j with status := j.status ||| b }
/-- The job `n` of a cluster where it is a one-sided operation of kind `op` that may go on: it has started, or has no edge. -/
def osReady (s : State) (cl : ClusterId) (n op : Nat) : Option (EJob × OsDesc) :=
  match (s.cluster cl).job n with
  | some j => match j.kind with
    | .oneSided d => if d.op = op && j.left ≠ 0 && (j.running || !s.blocked cl j) then some (j, d) else none
    | _ => none
  | none => none
/-- The source has been read to its end: counters 0 and 1 of a PUTS or RADD (R202). -/
def sourceRead (s : State) (j : EJob) (d : OsDesc) : State :=
  if j.left = 0 then eventIncr (eventIncr s j d 0) j d 1 else s
/-- PUTS: the next message is read and sent (R219). -/
def execPutsTransfer (cl : ClusterId) (n : Nat) (st : State) : Out State :=
  .next (match osReady st cl n 0 with
    | none => st
    | some (j, d) =>
      let pos := BitVec.ofNat 64 (d.length - j.left)
      let len := chunk j.left (d.remote + pos)
      let j' := { j with running := true, left := j.left - len }
      match engineBytes st j (d.loc + pos) (len / 8) with
      | none => sourceRead (osStatus st cl j' stSource) j' d
      | some b =>
        let m : Msg := { uid := st.fresh, src := j.owner, slotgen := j.gen, owner := .station cl.m, job := n,
                         jobCl := cl, isAdd := false, seq := 0, low := 0, addr := d.remote + pos, bytes := b, acked := false,
                         retry := false, tries := 0 }
        sourceRead ({ st.tick with msgs := st.msgs ++ [m] }.setJob cl j') j' d)
/-- RADD: the next message is read and sent with its sequence and the low mark, while at most 63 others to its owner are not
acknowledged (R203, R219). -/
def execRaddTransfer (cl : ClusterId) (n : Nat) (st : State) : Out State :=
  .next (match osReady st cl n 2 with
    | none => st
    | some (j, d) =>
      let pos := BitVec.ofNat 64 (d.length - j.left)
      let ra := d.remote + pos
      let len := chunk j.left ra
      let j' := { j with running := true, left := j.left - len }
      let g := j.gen
      match engineBytes st j (d.loc + pos) (len / 8), ownerOf st j ra with
      | none, _ => sourceRead (osStatus st cl j' stSource) j' d
      | some _, .error none => st.wake (moduleOf cl.m ra)
      | some _, .error (some _) => sourceRead (osStatus st cl j' stTarget) j' d
      | some b, .ok o =>
        let un := st.unacked o j.owner g
        if 64 ≤ un.length then st
        else
          let w := st.window o j.owner g
          let m : Msg := { uid := st.fresh, src := j.owner, slotgen := g, owner := o, job := n, jobCl := cl, isAdd := true,
                           seq := w.next, low := lowMark w.next un, addr := ra, bytes := b, acked := false, retry := false,
                           tries := 0 }
          let st := { st.tick with msgs := st.msgs ++ [m],
                                   windows := kset st.windows (o, j.owner, g) { w with next := w.next + 1 } }
          sourceRead (st.setJob cl j') j' d)
/-- Whether the generation of a message's target slot differs from the one expected (R217). -/
def genStale (s : State) (d : OsDesc) (a : DWord) : Bool :=
  d.gen && match form a with
    | .glob m x y core region off =>
      let t := if region = 0 then off / 0x2000 else off / 0x100
      (s.slot ⟨⟨⟨m, x, y⟩, core⟩, Fin.ofNat 5 t⟩).slotgen.setWidth 32 ≠ d.genVal
    | _ => false
/-- The status bit of a refusal at the target (R218). -/
def targetBit (code : BitVec 9) : BitVec 4 := if code = 0x052 then stStale else stTarget
/-- The doublewords of one message written by an engine, all of them or, where one is refused, none (R219); and whether they were. -/
def engineWrite (s : State) (j : EJob) (a : DWord) (ds : List Nat) : State × Bool :=
  let at_ := fun (i : Nat) => engineAccess s j (a + BitVec.ofNat 64 (8 * i)) 8 .write
  if (List.range ds.length).all (fun i => match at_ i with | .loc _ => true | _ => false)
  then ((ds.mapIdx (fun i d => (i, d))).foldl (fun s p => match at_ p.1 with | .loc l => s.write l 8 p.2 | _ => s) s, true)
  else (s, false)
/-- Bytes in doublewords. -/
def dwordsOf (v : Nat) : Nat → List Nat
  | 0 => []
  | n + 1 => v % 2 ^ 64 :: dwordsOf (v / 2 ^ 64) n
/-- The fetch of a GET goes on to its next message, and ends with counter 1 (R202). -/
def getNext (s : State) (cl : ClusterId) (j : EJob) (d : OsDesc) (len : Nat) (b : BitVec 4) (disc : Nat) : State :=
  let j' := { j with running := true, left := j.left - len, tries := 0, status := j.status ||| b, discarded := j.discarded + disc }
  let s := s.setJob cl j'
  if j'.left = 0 then eventIncr s j' d 1 else s
/-- GET: the next piece of the remote span is fetched and performed in the destination (R219); counter 0 counts at the first
request. A piece refused with RETRY is asked for again, 1,024 times. -/
def execGetTransfer (cl : ClusterId) (n : Nat) (st : State) : Out State :=
  .next (match osReady st cl n 1 with
    | none => st
    | some (j, d) =>
      let st := if j.running then st else eventIncr (st.setJob cl { j with running := true }) j d 0
      let j := { j with running := true }
      let pos := BitVec.ofNat 64 (d.length - j.left)
      let ra := d.remote + pos
      let len := chunk j.left ra
      if st.holds j.owner.core.cl.m ra then st.wake (moduleOf cl.m ra)
      else match access st j.who ra len .read with
        | .retry =>
          if retryLimit ≤ j.tries + 1 then getNext st cl j d len stRetry 0 else st.setJob cl { j with tries := j.tries + 1 }
        | .fault t => getNext st cl j d len (targetBit t.code) 0
        | .loc l =>
          if genStale st d ra then getNext st cl j d len stStale 1
          else match st.homeRead l len with
          | none => getNext st cl j d len stSource 0
          | some v =>
            let r := engineWrite st j (d.loc + pos) (dwordsOf v (len / 8))
            getNext r.1 cl j d len (if r.2 then 0 else stSource) 0)

/-! ## Messages at their targets (R202, R203) -/

/-- A message by its number, with its operation. -/
def State.msg (s : State) (uid : Nat) : Option (Msg × EJob × OsDesc) :=
  match s.msgs.find? (fun m => m.uid = uid) with
  | none => none
  | some m => match (s.cluster m.jobCl).job m.job with
    | some j => match j.kind with
      | .oneSided d => some (m, j, d)
      | _ => none
    | none => none
def State.setMsg (s : State) (m : Msg) : State := { s with msgs := s.msgs.map (fun x => if x.uid = m.uid then m else x) }
/-- Messages gone, with their entries of the Kettles' arrival areas (R222). -/
def State.dropMsgs (s : State) (p : Msg → Bool) : State :=
  let gone := (s.msgs.filter p).map (·.uid)
  { s with msgs := s.msgs.filter (fun m => !p m),
           kettles := s.kettles.map (fun k => (k.1, { k.2 with waiting := k.2.waiting.filter (fun u => !gone.contains u) })) }
def State.dropMsg (s : State) (uid : Nat) : State := s.dropMsgs (fun m => m.uid = uid)
/-- The place to which a message goes: the router of a local store's cluster, or the slice of an HBM address (R172, R305). -/
def msgDest (own : Nat) (a : DWord) : Nat × Nat × Nat × Nat :=
  match form a with
  | .glob m x y .. => (0, m, x, y)
  | .virt va => (1, own, stationOf va, 0)
  | .remote m va => (1, m, stationOf va, 0)
  | _ => (2, 0, 0, 0)
/-- A message arrives when those sent before it from its cluster to its destination have (R305): they are acknowledged, refused with RETRY, or
wait in an arrival area. -/
def State.arrives (s : State) (m : Msg) : Bool :=
  let dest := fun (x : Msg) => msgDest x.jobCl.m x.addr
  (s.msgs.takeWhile (fun x => x.uid ≠ m.uid)).all (fun x =>
    x.acked || x.retry || decide (x.jobCl ≠ m.jobCl) || decide (dest x ≠ dest m) || s.kettles.any (fun k => k.2.waiting.contains x.uid))
/-- A message that ends without effect, with the bit its operation reports. -/
def refuseMsg (s : State) (m : Msg) (j : EJob) (b : BitVec 4) (disc : Nat) : State :=
  (s.dropMsg m.uid).setJob m.jobCl { j with status := j.status ||| b, discarded := j.discarded + disc }
/-- How the signal counter is reached: an inbox, which is written only, by its owning core for the PUTS (R171, R202, R217). -/
def signalAccess (a : DWord) : Access := match form a with | .glob _ _ _ _ region _ => if region = 3 then .write else .readWrite | _ => .readWrite
/-- The last message of a PUTS has been performed: the signal counter counts if none faulted, in the overflow area where it stands in a stopping
gang's full inbox (R202, R219, R360); none where it is refused with RETRY. -/
def putsSignal (s : State) (m : Msg) (j : EJob) (d : OsDesc) : Option State :=
  if j.left ≠ 0 || s.pending j.uid || j.status ≠ 0 || d.signal = 0 then some s
  else match access s j.who d.signal 8 (signalAccess d.signal) with
    | .retry => none
    | .fault t => some (osStatus s m.jobCl j (targetBit t.code))
    | .loc l => match s.room l 8 with
      | .full => none
      | .area c g => some (s.overflow g ⟨⟨j.pid, j.lid, j.gen, false, d.signal, .write, 8, 1, 2 ^ 64 - 1⟩, some .int64, c, j.owner, none⟩)
      | .free => match s.homeRead l 8 with
        | none => some (osStatus s m.jobCl j stTarget)
        | some v => some (s.write l 8 ((v + 1) % 2 ^ 64))
/-- PUTS data performed at the target, and the signal counter incremented once every byte is in (R202, R219). -/
def execPutsMessage (n : Nat) (st : State) : Out State :=
  .next (match st.msg n with
    | none => st
    | some (m, j, d) =>
      if m.isAdd || m.retry || !st.arrives m then st
      else if st.holds j.owner.core.cl.m m.addr then st.wake (moduleOf j.owner.core.cl.m m.addr)
      else match access st j.who m.addr m.bytes.length .write with
        | .retry => st.setMsg { m with retry := true }
        | .fault t => refuseMsg st m j (targetBit t.code) 0
        | .loc l =>
          let n := m.bytes.length
          if genStale st d m.addr then refuseMsg st m j stStale 1
          else if st.room l n = .full then st.setMsg { m with retry := true }
          else match putsSignal ((st.homeWrite j.who m.addr l n (ofBytes m.bytes) (2 ^ (8 * n) - 1)).dropMsg m.uid) m j d with
          | some s => s
          | none => st.setMsg { m with retry := true })
/-- One element added (R219): FP with one rounding, integers wrapping. -/
def addElem (t : Tag) (old x : Nat) : Nat × FlagBits :=
  match t.ieee with
  | some f => fpAdd f old x
  | none => ((old + x) % 2 ^ t.ebits, 0)
/-- The elements of `n` bytes added to `n` bytes. -/
def addElems (t : Tag) (old x : Nat) : Nat → Nat × FlagBits
  | 0 => (0, 0)
  | k + 1 =>
    let w := t.ebits
    let r := addElem t (old % 2 ^ w) (x % 2 ^ w)
    let rest := addElems t (old / 2 ^ w) (x / 2 ^ w) k
    (r.1 + 2 ^ w * rest.1, r.2 ||| rest.2)
/-- A window without the sequences below the low mark (R203). -/
def Window.trim (w : Window) (low : BitVec 32) : Window := { w with applied := w.applied.filter (fun v => !seqBefore v low) }
/-- The window of a message's source after the owner has applied it (R203). -/
def Window.apply (w : Window) (seq low : BitVec 32) : Window := Window.trim { w with kept := true, applied := seq :: w.applied } low
/-- Whether the owner has already applied a message (R203). -/
def Window.holds (w : Window) (seq low : BitVec 32) : Bool := seqBefore seq low || w.applied.contains seq
/-- Whether an owner must refuse a message with RETRY, since its source is new and there is no room for another window (R203). -/
def State.noWindow (s : State) (o : Owner) (c : CtxId) (g : DWord) : Bool := s.noRoom.contains o && !(s.window o c g).kept
/-- The owner acknowledges a message and keeps its sequence (R203). -/
def ackMsg (s : State) (m : Msg) : State :=
  let key := (m.owner, m.src, m.slotgen)
  let w := s.window m.owner m.src m.slotgen
  { s.setMsg { m with acked := true } with windows := kset s.windows key (w.apply m.seq m.low) }
/-- The owner acknowledges a message that it has applied before (R203). -/
def ackAgain (s : State) (m : Msg) : State :=
  { s.setMsg { m with acked := true } with
    windows := kset s.windows (m.owner, m.src, m.slotgen) ((s.window m.owner m.src m.slotgen).trim m.low) }
/-- The area of R222 that covers a byte of a span, as an owner's Kettle holds it. -/
def areaAt (k : Kettle) (pid : BitVec 8) (va n : Nat) : Option Area :=
  k.areas.find? (fun a => a.pid = pid && decide (va < a.dst.toNat + a.bytes) && decide (a.dst.toNat < va + n))
/-- A plain add over an open area is refused (R219). -/
def areaRefuses (s : State) (m : Msg) (j : EJob) : Bool :=
  match m.owner, hbmVa j.owner.core.cl.m m.addr with
  | .kettle mo k, some (_, va) => (areaAt (s.kettle mo k) j.pid va m.bytes.length).isSome
  | _, _ => false
/-- A RADD message added into its target, or, where the inbox of a stopping gang is full, written to the gang's overflow area (R219, R360). -/
def addMessage (s : State) (m : Msg) (j : EJob) (d : OsDesc) (l v : Nat) : State :=
  let n := m.bytes.length
  match s.room l n with
  | .area c g =>
    let r : RemoteReq := ⟨j.pid, j.lid, j.gen, false, m.addr, .write, n, ofBytes m.bytes, 2 ^ (8 * n) - 1⟩
    ackMsg (s.overflow g ⟨r, some d.fmt, c, m.src, some m.seq⟩) m
  | _ =>
    let r := addElems d.fmt v (ofBytes m.bytes) (n * 8 / d.fmt.ebits)
    ackMsg ((s.write l n r.1).setJob m.jobCl { j with flags := j.flags ||| r.2.setWidth 6 }) m
/-- The message of a command's part is sent, with its sequence and the low mark, where at most 63 others of its source to the Kettle are not
acknowledged and none of them waits before it; a 65th waits (R203). -/
def kStamp (s : State) (p : KPart) : State :=
  let o := Owner.kettle p.m p.idx
  let un := s.unacked o p.owner p.gen
  let first := (s.sent.takeWhile (fun x => x.uid ≠ p.uid)).all (fun x => x.out || decide (x.m ≠ p.m) || decide (x.idx ≠ p.idx) || decide (x.owner ≠ p.owner))
  if 64 ≤ un.length || !first then s
  else
    let w := s.window o p.owner p.gen
    { s with sent := s.sent.map (fun x => if x.uid = p.uid then { x with out := true, seq := w.next, low := lowMark w.next un } else x),
             windows := kset s.windows (o, p.owner, p.gen) { w with next := w.next + 1 } }
/-- A part of a Kettle command is sent, or enters its Kettle's queue, once by its source and sequence, after those sent before it, while the queue of
256 has room; a new source that the Kettle has no window for is refused with RETRY and sends again (R21, R203, R223). -/
def kArrive (s : State) (p : KPart) : State :=
  let o := Owner.kettle p.m p.idx
  let k := s.kettle p.m p.idx
  let w := s.window o p.owner p.gen
  let gone := { s with sent := s.sent.filter (fun x => x.uid ≠ p.uid) }
  if !p.out then kStamp s p
  else if (s.sent.takeWhile (fun x => x.uid ≠ p.uid)).any (fun x => x.out && decide (x.m = p.m) && decide (x.idx = p.idx)) then s
  else if s.asleep p.owner.core.cl.m p.m then s.wake p.m
  else if w.holds p.seq p.low then { gone with windows := kset s.windows (o, p.owner, p.gen) (w.trim p.low) }
  else if s.noWindow o p.owner p.gen || decide (256 ≤ k.parts.length) then s
  else { gone.setKettle p.m p.idx { k with parts := k.parts ++ [p] } with
         windows := kset s.windows (o, p.owner, p.gen) (w.apply p.seq p.low) }
/-- The owner of a RADD message applies it exactly once, by its source and sequence, and acknowledges it (R203, R219); a Kettle takes a command's
part so. -/
def execRemoteAddMessage (n : Nat) (st : State) : Out State :=
  .next (match st.msg n with
    | none => match st.sent.find? (fun p => p.uid = n) with
      | some p => kArrive st p
      | none => st
    | some (m, j, d) =>
      if !m.isAdd || d.area || m.retry || m.acked || !st.arrives m then st
      else if st.holds j.owner.core.cl.m m.addr then st.wake (moduleOf j.owner.core.cl.m m.addr)
      else if (st.window m.owner m.src m.slotgen).holds m.seq m.low then ackAgain st m
      else if st.noWindow m.owner m.src m.slotgen then st.setMsg { m with retry := true }
      else match access st j.who m.addr m.bytes.length .write with
        | .retry => st.setMsg { m with retry := true }
        | .fault t => refuseMsg st m j (targetBit t.code) 0
        | .loc l =>
          if genStale st d m.addr then refuseMsg st m j stStale 1
          else if areaRefuses st m j then refuseMsg st m j stTarget 0
          else if st.room l m.bytes.length = .full then st.setMsg { m with retry := true }
          else match st.homeRead l m.bytes.length with
            | none => refuseMsg st m j stTarget 0
            | some v => addMessage st m j d l v)
/-- A message refused with RETRY is resent, after those sent since, or given up after 1,024 refusals (R219). -/
def execOneSidedRetry (n : Nat) (st : State) : Out State :=
  .next (match st.msg n with
    | none => st
    | some (m, j, _) =>
      if !m.retry then st
      else if retryLimit ≤ m.tries + 1 then refuseMsg st m j stRetry 0
      else { st with msgs := st.msgs.filter (fun x => x.uid ≠ m.uid) ++ [{ m with retry := false, tries := m.tries + 1 }] })
/-- An operation ends: its status is ORed into the event record, and then counter 2 counts (R202, R218). -/
def osEnd (s : State) (cl : ClusterId) (j : EJob) (d : OsDesc) : State :=
  let s := eventIncr (eventStatus s j d) j d 2
  (s.dropJob cl j.uid).dropMsgs (fun m => m.job = j.uid)
/-- A one-sided operation ends once its transfer has and no message of it is pending (R218). -/
def execOneSidedComplete (cl : ClusterId) (n : Nat) (st : State) : Out State :=
  .next (match (st.cluster cl).job n with
    | some j => match j.kind with
      | .oneSided d => if j.left ≠ 0 || st.pending n then st else osEnd st cl j d
      | _ => st
    | none => st)

end Sys2Proof.Machine
end

