-- ==== Sys2Proof/Machine/Ket.lean ====
section
/-! DEFINITION. The Kettles: the command card and its parts (R221), KCMD, KFENCE and KPOLL (R201, R223, R224), what each
operation does to the elements of its part (R222, R236), receive areas and their contributions (R222), and the end of a part
(R224). -/

namespace Sys2Proof.Machine

/-! ## The card (R221, R222) -/

/-- A Kettle command card's fields. -/
structure KCard where
  op : Nat
  fmt : Tag
  ctr : Bool
  ord : Bool
  dst : Nat
  m : Nat
  src : Nat
  s1 : BitVec 32
  s2 : BitVec 32
  count : Nat
  ctrOff : Nat
  deriving DecidableEq, Repr
/-- Whether an operation reads a source (R222). -/
def kReadsSrc (op : Nat) : Bool := op = 2 || op = 3 || op = 4
/-- Whether an operation accepts a format tag (R222). -/
def kAccepts (op fmt : Nat) : Bool :=
  match op with
  | 1 => fmt = 2 || fmt = 11
  | 2 | 3 | 6 => fmt = 2
  | 4 | 5 => 1 ≤ fmt && fmt ≤ 13 && fmt ≠ 6 && fmt ≠ 9
  | _ => false
/-- The card of four doublewords; none where a field breaks R221 or R222 by itself. -/
def kCardOf : List Nat → Option KCard
  | [d0, d1, d2, d3] =>
    let op := bits d0 63 58
    let fmt := bits d0 57 54
    let dst := bits d0 47 0
    let src := bits d1 47 0
    let n := (tagOf fmt).ebits / 8
    let count := bits d3 63 44
    let s1 := bits d2 63 32
    let ok := kAccepts op fmt && bits d0 51 48 = 0 && bits d1 53 48 = 0 && Config.userBase ≤ dst && dst % n = 0 &&
      (if kReadsSrc op then Config.userBase ≤ src && src % n = 0 else src = 0) && count ≠ 0 &&
      (op ≠ 1 || (1 ≤ s1 && s1 ≤ 65536))
    if ok then some { op := op, fmt := tagOf fmt, ctr := d0.testBit 53, ord := d0.testBit 52, dst := dst, m := bits d1 63 54,
                      src := src, s1 := BitVec.ofNat 32 s1, s2 := BitVec.ofNat 32 d2, count := count,
                      ctrOff := 8 * bits d3 43 32 }
    else none
  | _ => none

/-! ## KCMD, KFENCE, KPOLL (R201, R223, R224) -/

/-- The stack to whose part a destination element belongs (R221): that of its granule, or that of its page's station where the
page cannot be translated or forbids the access. -/
def kElemStack (s : State) (m : Nat) (pid : BitVec 8) (va n : Nat) : Nat :=
  match stationAccess s m pid va n .write 0 false with
  | .loc l => kettleOf l
  | _ => stationOf va / 16
/-- A command's part 0, with no elements. -/
def kBase (s : State) (c : CtxId) (k : KCard) : KPart :=
  let sl := s.slot c
  { uid := 0, cuid := s.fresh, owner := c, gang := sl.gang.getD 0, pid := sl.pid, lid := sl.lid, gen := sl.slotgen, m := k.m, op := k.op,
    fmt := k.fmt, ctr := k.ctr, ord := k.ord, dst := BitVec.ofNat 64 k.dst, src := BitVec.ofNat 64 k.src, s1 := k.s1, s2 := k.s2, count := k.count,
    ctrOff := k.ctrOff, idx := 0, elems := [], started := false, worked := false, kind := 0, flags := 0, out := false, seq := 0, low := 0, bad := [] }
/-- The parts of a command: one for each stack that holds destination elements. -/
def kParts (s : State) (c : CtxId) (k : KCard) : List KPart :=
  let n := k.fmt.ebits / 8
  let es := (List.range k.count).map (fun i => (i, kElemStack s k.m (s.slot c).pid (k.dst + i * n) n))
  (List.range 12).filterMap (fun t =>
    let mine := (es.filter (fun p => p.2 = t)).map (·.1)
    if mine.isEmpty then none else some { kBase s c k with uid := s.fresh + 1 + t, idx := t, elems := mine })
/-- Whether the fabric refuses a command: its module is none of the pod's, or does not answer (R312). -/
def kAway (s : State) (c : CtxId) (k : KCard) : Bool := decide (s.modCount ≤ k.m) || !s.reaches c.core.cl.m k.m
/-- A part goes to its Kettle, its message sent at once where it may be (R203). -/
def kSendOne (s : State) (p : KPart) : State := kStamp { s with sent := s.sent ++ [p] } p
/-- The parts sent to their Kettles. -/
def kSend (s : State) (ps : List KPart) : State := ps.foldl kSendOne s
/-- The command entry of a part changed. -/
def setCommand (s : State) (p : KPart) (f : KcEntry → KcEntry) : State :=
  s.modTables p.owner (fun c => { c with kcmds := c.kcmds.map (fun e => if e.uid = p.cuid then f e else e) })
/-- The status counter of a command whose last part has ended (R224); that of a killed gang's command is no longer its own (assumption 57). -/
def kCount (s : State) (p : KPart) : State :=
  if !p.ctr || !(s.gang p.gang).held.contains p.owner then s
  else
    let l := privLoc p.owner.core p.ctrOff
    match s.homeRead l 8 with
    | none => setCommand s p (fun e => { e with ctrLost := true })
    | some v => s.write l 8 ((v + 1) % 2 ^ 64)
/-- A part ends; with the last of them the command's counter and state are set (R224); until then the entry shows the kind, flags and count of the parts
that have ended (assumption 60). -/
def kEnd (s : State) (m kt : Nat) (p : KPart) : State :=
  let k := s.kettle m kt
  let s := s.setKettle m kt { k with parts := k.parts.filter (fun x => x.uid ≠ p.uid),
                                     areas := k.areas.filter (fun a => a.part ≠ p.uid) }
  let s := setCommand s p (fun e =>
    let firstBad := p.kind ≠ 0 && (match e.first with | none => true | some i => decide (p.idx < i))
    { e with parts := e.parts.filter (· ≠ p.uid), poisoned := e.poisoned + p.bad.length, flags := e.flags ||| p.flags,
             first := if firstBad then some p.idx else e.first, kind := if firstBad then p.kind else e.kind })
  let last := !s.allParts.any (fun x => x.cuid = p.cuid)
  if last then setCommand (kCount s p) p (fun e => { e with state := if e.first.isSome then .fault else .done }) else s
/-- The room in a command table (R223). -/
inductive KRoom where
  | ok (l : List KcEntry)
  | wait
  | full
  deriving DecidableEq, Repr
def kRoom (l : List KcEntry) : KRoom :=
  if l.length < 32 then .ok l
  else match l.find? (fun e => e.state = .done) with
    | some d =>
      let oldest := l.foldl (fun m e => if e.state = .done && e.id.ult m then e.id else m) d.id
      .ok (l.filter (fun e => e.id ≠ oldest))
    | none => if l.all (fun e => e.state = .fault) then .full else .wait
/-- KCMD (R223). -/
def execKcmd (s : Bool) (rd rs1 : BitVec 5) (imm : BitVec 12) (st : State) : Out State :=
  .next (issue { s := s, parks := true, a := [rs1] } st fun st =>
    let c := st.me
    let ea := st.cx.ra rs1 + imm.signExtend 64
    if ea.toNat % 32 ≠ 0 || !(form ea).isPriv then st.raise (trapInfo 0x0A0)
    else match recordCheck st c ea 32 32 with
      | some t => st.raise t
      | none => match readDwords st c ea 4 with
        | .error (.fault t) => st.raise t
        | .error _ => st.park (.reissue [ea])
        | .ok ds => match kCardOf ds with
          | none => st.raise (trapInfo 0x0A1)
          | some k =>
            if k.ctr && !st.ownsPriv c k.ctrOff 8 then st.raise (trapInfo 0x0A1)
            else match kRoom st.cx.kcmds with
              | .full => st.raise (trapInfo 0x0A2)
              | .wait => st.park .ketEntry
              | .ok l =>
                let cx := st.cx
                let ps := if kAway st c k then [] else kParts st c k
                let e : KcEntry := { id := cx.cid, uid := st.fresh, kind := 0, state := .queued, flags := 0, poisoned := 0,
                                     ctrLost := false, parts := ps.map (fun p => p.uid), first := none }
                let card := ds.mapIdx (fun i d => if i = 3 then d / 2 ^ 32 * 2 ^ 32 + cx.cid.toNat % 2 ^ 32 else d)
                let st' := { st.setCx { cx with kcmds := l ++ [e], cid := cx.cid + 1 } with fresh := st.fresh + 13 }
                let st := foldCard (if kAway st c k then kEnd st' k.m 0 { kBase st c k with kind := 4 } else kSend st' ps) c ea card
                st.done (st.cx.wa rd cx.cid))
/-- KFENCE waits until every earlier command of the issuer has completed (R201, R224). -/
def execKfence (s : Bool) (st : State) : Out State :=
  .next (issue { s := s } st fun st =>
    if st.cx.kcmds.all (fun e => e.state.ended) then st.finish else st.park .ketAll)
/-- The status word of R224. -/
def kcStatus : Option KcEntry → DWord
  | none => 0x600
  | some e =>
    BitVec.ofNat 64 (e.poisoned % 2 ^ 32 * 2 ^ 32 + e.kind.toNat * 2 ^ 24 + (if e.ctrLost then 2 ^ 11 else 0) + e.state.code * 2 ^ 8 +
      e.flags.toNat)
/-- KPOLL samples the entry, and frees one that is DONE or FAULT (R121, R224). -/
def execKpoll (s : Bool) (rd rs1 : BitVec 5) (st : State) : Out State :=
  .next (issue { s := s, long := true, a := [rs1] } st fun st =>
    let id := st.cx.ra rs1
    if id = 0 || !id.ult st.cx.cid then st.raise (trapInfo 0x0A3)
    else
      let e := st.cx.kcmds.find? (fun e => e.id = id)
      let c := st.cx.pushRb (.areg rd) (.scalar (kcStatus e))
      let ended := match e with | some e => e.state.ended | none => false
      st.done (if ended then { c with kcmds := c.kcmds.filter (fun x => x.id ≠ id) } else c))

/-! ## Parts (R222, R224) -/

/-- A part of a Kettle's queue by its number. -/
def Kettle.part (k : Kettle) (uid : Nat) : Option KPart := k.parts.find? (fun p => p.uid = uid)
/-- A part replaced. -/
def setPart (s : State) (m kt : Nat) (p : KPart) : State :=
  let k := s.kettle m kt
  s.setKettle m kt { k with parts := k.parts.map (fun x => if x.uid = p.uid then p else x) }
/-- Commands of one issuer to one Kettle execute in issue order (R201). -/
def Kettle.first (k : Kettle) (p : KPart) : Bool :=
  match k.parts.find? (fun x => x.owner = p.owner) with | some x => x.uid = p.uid | none => false
/-- The bytes of an element of a part, and the addresses of its elements. -/
def KPart.size (p : KPart) : Nat := p.fmt.ebits / 8
def KPart.dstVa (p : KPart) (i : Nat) : Nat := p.dst.toNat + i * p.size
def KPart.srcVa (p : KPart) (i : Nat) : Nat := p.src.toNat + i * p.size
/-- The fault kind of a cause met at a station (R224); REFUSED for a walk that meets a poisoned entry or a place beyond HBM (assumption 60). -/
def kKind (code : BitVec 9) : BitVec 8 :=
  if code = 0x048 then 1 else if code = 0x049 then 2 else if code = 0x162 then 5 else 4
/-- The check of one element: its destination for writing and on the Kettle's own stack, its source for reading and on the same stack (R21, R221,
R224); a destination that has come to lie on another stack since the command was split is CROSS_STACK (assumption 29). -/
def kElemFault (s : State) (kt : Nat) (p : KPart) (i : Nat) : Option (BitVec 8) :=
  match stationAccess s p.m p.pid (p.dstVa i) p.size .write 0 with
  | .fault t => some (kKind t.code)
  | .retry => some 4
  | .loc l =>
    if kettleOf l ≠ kt then some 3
    else if !kReadsSrc p.op then none
    else match stationAccess s p.m p.pid (p.srcVa i) p.size .read 0 with
      | .fault t => some (kKind t.code)
      | .retry => some 4
      | .loc l => if kettleOf l = kt then none else some 3
/-- The location of a checked element. -/
def kLoc (s : State) (p : KPart) (va : Nat) (acc : Access) : Nat :=
  match stationAccess s p.m p.pid va p.size acc 0 with | .loc l => l | _ => 0
/-- Consecutive elements gathered by the 64-byte unit of their addresses. -/
def byUnit (f : Nat → Nat) : List Nat → List (List Nat)
  | [] => []
  | i :: r => match byUnit f r with
    | [] => [[i]]
    | g :: gs => match g with
      | [] => [i] :: gs
      | j :: _ => if f i / 64 = f j / 64 then (i :: g) :: gs else [i] :: g :: gs
/-- A sum of signed exact products rounded once to FP32; NaNs in the order the formula names its operands (R69, R222). -/
def kSum (ops : List Nat) (a b : Option Num) : Nat × FlagBits :=
  let f := Ieee.mk 8 23
  match propagate f (ops.map f.num) with
  | some r => r
  | none => match a, b with
    | some x, some y => fpAddNum f x y
    | _, _ => invalid f
/-- The value an operation gives an element from its source and old value (R222); `c` is the constant of FADE. -/
def kElem (p : KPart) (c src old : Nat) : Nat × FlagBits :=
  let f := Ieee.mk 8 23
  let n := fun (x : Nat) => f.num x
  let s1 := p.s1.toNat
  match p.op with
  | 2 => kSum [s1, src, old] (mulNum (n s1) (n src)) (some (n old))
  | 3 => kSum [old, c, s1, src] (mulNum (n old) (n c)) ((mulNum (n s1) (n src)).map Num.negate)
  | 6 => match propagate f [n s1, n old] with
    | some r => r
    | none => match mulNum (n s1) (n old) with | some x => roundNum f x | none => invalid f
  | 4 => (src, 0)
  | _ => (if p.size = 8 then s1 * 2 ^ 32 + p.s2.toNat else s1 % 2 ^ p.fmt.ebits, 0)
/-- The constant of FADE with the exception bits of its rounding, formed once for the command (R222). -/
def kFadeC (p : KPart) : Nat × FlagBits :=
  let f := Ieee.mk 8 23
  if p.op = 3 then
    kSum [p.s1.toNat, p.s2.toNat] (some (f.num f.one)) ((mulNum (f.num p.s1.toNat) (f.num p.s2.toNat)).map Num.negate)
  else (0, 0)
/-- Units that an element's bytes touch and that are marked. -/
def State.markedAt (s : State) (l n : Nat) : List Nat := (s.poison.filter (fun u => u.1 < l + n && l < u.1 + 64)).map (·.1)
/-- Units added to those a part has met. -/
def KPart.meet (p : KPart) (us : List Nat) : KPart := { p with bad := us.foldl (fun l u => if l.contains u then l else l ++ [u]) p.bad }
/-- The work on one unit (R222, R236), its elements at the locations `d` and `src` of the part's checks: its elements updated; a unit with an
error among what is read or written is left as it was, and the marked units met are counted, each once; a COPY or FILL of all 64 bytes clears the
mark. -/
def kUnit (d src : Nat → Nat) (c : Nat) (acc : State × KPart) (els : List Nat) : State × KPart :=
  let (s, p) := acc
  let n := p.size
  let whole := els.length * n = 64
  let copies := p.op = 4 || p.op = 5
  let marked := (els.map (fun i =>
    (if kReadsSrc p.op then s.markedAt (src i) n else []) ++ (if copies && whole then [] else s.markedAt (d i) n))).flatten
  if !marked.isEmpty then (s, p.meet marked)
  else
    let r := els.foldl (fun (a : State × FlagBits) i =>
      let v := kElem p c (Memory.getN s.mem (src i) n) (Memory.getN s.mem (d i) n)
      (a.1.poke (d i) n v.1, a.2 ||| v.2)) (s, (0 : FlagBits))
    let u := unitOf (d (els.headD 0))
    let s' := if copies && whole then { r.1 with poison := r.1.poison.filter (fun x => x.1 ≠ u) } else r.1
    (s', { p with flags := p.flags ||| r.2.setWidth 6 })
/-- The part `n` of a Kettle where it is of operation `op` and its turn has come. -/
def kTurn (s : State) (m kt n op : Nat) : Option KPart :=
  match (s.kettle m kt).part n with
  | some p => if p.op = op && !p.started && (s.kettle m kt).first p && decide ((s.module m).power = .run) then some p else none
  | none => none
/-- A part starts with its checks, which translate its addresses once, and with none failed does its work, unit by unit (R222, R224); the exception
bits of FADE's constant enter with a part that does (assumption 60). -/
def kRun (s : State) (m kt n op : Nat) : State :=
  match kTurn s m kt n op with
  | none => s
  | some p =>
    let s := setCommand s p (fun e => { e with state := .running })
    match p.elems.findSome? (kElemFault s kt p) with
    | some k => setPart s m kt { p with started := true, worked := true, kind := k }
    | none =>
      let c := kFadeC p
      let p := { p with started := true, worked := true, flags := c.2.setWidth 6 }
      let d := fun (i : Nat) => kLoc s p (p.dstVa i) .write
      let src := fun (i : Nat) => kLoc s p (p.srcVa i) .read
      let r := (byUnit p.dstVa p.elems).foldl (kUnit d src c.1) (s, p)
      setPart r.1 m kt r.2
/-- R222. -/
def execAxpy (m kt n : Nat) (st : State) : Out State := .next (kRun st m kt n 2)
/-- R222. -/
def execFade (m kt n : Nat) (st : State) : Out State := .next (kRun st m kt n 3)
/-- R222. -/
def execKettleCopy (m kt n : Nat) (st : State) : Out State := .next (kRun st m kt n 4)
/-- R222. -/
def execKettleFill (m kt n : Nat) (st : State) : Out State := .next (kRun st m kt n 5)
/-- R222. -/
def execScale (m kt n : Nat) (st : State) : Out State := .next (kRun st m kt n 6)
/-- RRADD: a part opens its receive area (R222). -/
def execRradd (m kt n : Nat) (st : State) : Out State :=
  .next (match kTurn st m kt n 1 with
    | none => st
    | some p =>
      let st := setCommand st p (fun e => { e with state := .running })
      match p.elems.findSome? (kElemFault st kt p) with
      | some k => setPart st m kt { p with started := true, worked := true, kind := k }
      | none =>
        let a : Area := { part := n, pid := p.pid, dst := p.dst, bytes := p.count * p.size, here := p.elems.length * p.size,
                          fmt := p.fmt, need := p.s1.toNat, ord := p.ord, got := 0, partials := [] }
        let st := setPart st m kt { p with started := true }
        let k := st.kettle m kt
        st.setKettle m kt { k with areas := k.areas ++ [a] })
/-- KETTLE_PART_END: a part whose work is done, or whose area has all its contributions, ends (R222, R224). -/
def execKettlePartEnd (m kt n : Nat) (st : State) : Out State :=
  let k := st.kettle m kt
  .next (match k.part n with
    | none => st
    | some p =>
      let full := k.areas.any (fun a => a.part = n && decide (a.need ≤ a.got))
      if p.worked || full then kEnd st m kt p else st)

/-! ## Contributions (R222) -/

/-- The units of a contribution added into an area, each marked one left and counted in its part. -/
def addUnits (t : Tag) : Nat → State → Nat → Nat → List Byte → State × FlagBits × List Nat
  | 0, s, _, _, _ => (s, 0, [])
  | f + 1, s, l, n, b =>
    if n = 0 then (s, 0, [])
    else
      let k := Nat.min n (64 - l % 64)
      if s.poisoned l k then
        let r := addUnits t f s (l + k) (n - k) (b.drop k)
        (r.1, r.2.1, s.markedAt l k ++ r.2.2)
      else
        let v := addElems t (Memory.getN s.mem l k) (ofBytes (b.take k)) (k * 8 / t.ebits)
        let r := addUnits t f (s.poke l k v.1) (l + k) (n - k) (b.drop k)
        (r.1, v.2 ||| r.2.1, r.2.2)
/-- A contribution's message that cannot be applied yet takes an entry of the arrival area; a full one refuses it with RETRY. -/
def kWait (s : State) (m kt : Nat) (x : Msg) : State :=
  let k := s.kettle m kt
  if k.waiting.contains x.uid then s
  else if 256 ≤ k.waiting.length then s.setMsg { x with retry := true }
  else s.setKettle m kt { k with waiting := k.waiting ++ [x.uid] }
/-- A contribution's message, of bytes from `va`, added to its area; what a wider RADD holds beyond the area is added with it and counts for
nothing (R222; assumption 57). -/
def kAdd (s : State) (m kt : Nat) (x : Msg) (j : EJob) (a : Area) (l va : Nat) : State :=
  let n := x.bytes.length
  let inside := Nat.min (va + n) (a.dst.toNat + a.bytes) - Nat.max va a.dst.toNat
  let r := addUnits a.fmt 8 s l n x.bytes
  let k := r.1.kettle m kt
  let have_ := kget a.partials j.uid 0 + inside
  let a' := if a.here ≤ have_ then { a with got := a.got + 1, partials := kdel a.partials j.uid }
    else { a with partials := kset a.partials j.uid have_ }
  let fl : BitVec 6 := r.2.1.setWidth 6
  let s := r.1.setKettle m kt
    { parts := k.parts.map (fun p => if p.uid = a.part then { p.meet r.2.2 with flags := p.flags ||| fl } else p),
      areas := k.areas.map (fun b => if b.part = a.part then a' else b),
      waiting := k.waiting.filter (· ≠ x.uid) }
  ackMsg (s.setJob x.jobCl { j with flags := j.flags ||| fl }) x
/-- A RADD with AREA = 1 arrives at its Kettle: it is added once to the open area it covers whole, waits for its area or its rank,
or is refused (R203, R222). -/
def execReceiveAreaContribution (m kt n : Nat) (st : State) : Out State :=
  .next (match st.msg n with
    | none => st
    | some (x, j, d) =>
      if !x.isAdd || !d.area || x.retry || x.acked || x.owner ≠ .kettle m kt || !st.arrives x then st
      else if st.holds j.owner.core.cl.m x.addr then st.wake (moduleOf j.owner.core.cl.m x.addr)
      else if (st.window x.owner x.src x.slotgen).holds x.seq x.low then ackAgain st x
      else if st.noWindow x.owner x.src x.slotgen then st.setMsg { x with retry := true }
      else match access st j.who x.addr x.bytes.length .write, hbmVa j.owner.core.cl.m x.addr, hbmVa j.owner.core.cl.m d.remote with
        | .loc l, some (_, va), some (_, base) =>
          let k := st.kettle m kt
          match areaAt { k with areas := k.areas.filter (fun a => decide (a.got < a.need)) } j.pid va x.bytes.length with
          | none => kWait st m kt x
          | some a =>
            if a.dst.toNat < base || base + d.length < a.dst.toNat + a.bytes || d.fmt ≠ a.fmt then refuseMsg st x j stTarget 0
            else if a.ord && a.got < d.rank then kWait st m kt x
            else kAdd st m kt x j a l va
        | .retry, _, _ => st.setMsg { x with retry := true }
        | .fault t, _, _ => refuseMsg st x j (targetBit t.code) 0
        | _, _, _ => st)

end Sys2Proof.Machine
end

