-- ==== Sys2Proof/Machine/Seal.lean ====
section
/-! DEFINITION. Weight sets: WSEAL and WQ (R225, R226) and the commands that create and delete a set (R363). -/

namespace Sys2Proof.Machine

/-- Whether a gang of the process on the module has an open cycle sequence naming the set (R226, R363). -/
def State.cycleOpen (s : State) (m : Nat) (pid : BitVec 8) (n : BitVec 6) : Bool :=
  s.gangs.any (fun g => g.2.m = m && (s.launch g.2.launch).pid = pid && g.2.cyc.isOpen && g.2.cyc.set = n &&
    match g.2.status with | .killed => false | .retired => false | _ => true)
/-- Whether a Kettle part that has passed its check writes a copy of a set and has not ended (R225). -/
def State.partWrites (s : State) (m : Nat) (w : Wset) : Bool :=
  let meets := fun (p : KPart) (b : DWord) =>
    decide (p.dst.toNat < b.toNat + w.size) && decide (b.toNat < p.dst.toNat + p.count * p.size)
  s.kettles.any (fun k => k.1.1 = m && k.2.parts.any (fun p =>
    p.started && p.pid = w.pid && (meets p w.p0 || meets p w.p1)))
/-- A set changed. -/
def State.modWset (s : State) (m : Nat) (pid : BitVec 8) (n : BitVec 6) (f : Wset → Wset) : State :=
  s.modModule m (fun x => { x with wsets := x.wsets.map (fun w => if w.pid = pid && w.set = n then f w else w) })
/-- WSEAL (R226). -/
def execWseal (s : Bool) (rd rs1 : BitVec 5) (n : BitVec 6) (st : State) : Out State :=
  .next (issue { s := s, parks := true, a := [rs1] } st fun st =>
    let m := st.cur.cl.m
    let pid := st.self.pid
    match st.wset m pid n with
    | none => st.raise (trapInfo 0x160)
    | some w =>
      if st.cycleOpen m pid n then st.raise (trapInfo 0x161)
      else if !st.cx.rb.all (fun e => e.returned) then st.park .marker
      else if st.cx.ra rs1 ≠ w.c then st.done (st.cx.wa rd w.c)
      else if st.partWrites m w then st.park (.wsealParts n)
      else
        let st := st.modWset m pid n (fun w => { w with c := w.c + 1 })
        st.done (st.cx.wa rd (w.c + 1)))
/-- WQ (R226). -/
def execWq (s : Bool) (rd : BitVec 5) (n : BitVec 6) (st : State) : Out State :=
  .next (issue { s := s, long := true } st fun st =>
    match st.wset st.cur.cl.m st.self.pid n with
    | none => st.raise (trapInfo 0x160)
    | some w => st.done (st.cx.pushRb (.areg rd) (.scalar w.c)))

/-! ## Weight-set commands (R363) -/

/-- The answer in WSETST: 0 OK, 1 EXISTS, 2 UNKNOWN, 3 OPEN, 4 BAD (R362). -/
def answerWset (s : State) (k : CoreId) (v : DWord) : State := s.modCore k (fun c => { c with wsetSt := v })
/-- Whether the two copies of a set are wrong: a size that is no multiple of 8, a copy outside the user range, or an overlap
(R363). -/
def copiesBad (w : WsetCmd) : Bool :=
  let n := w.size.toNat
  let out := fun (p : DWord) => decide (p.toNat < Config.userBase) || decide (Config.userEnd < p.toNat + n)
  n % 8 ≠ 0 || out w.p0 || out w.p1 || (decide (w.p0.toNat < w.p1.toNat + n) && decide (w.p1.toNat < w.p0.toNat + n))
/-- A CREATE, or a command whose op or zero field is wrong (R363). -/
def execWsetCreate (k : CoreId) (w : WsetCmd) (st : State) : Out State :=
  let m := k.cl.m
  .next (
    if w.op = 1 then st
    else if w.op ≠ 0 || w.low ≠ 0 then answerWset st k 4
    else if (st.wset m w.pid w.set).isSome then answerWset st k 1
    else if copiesBad w then answerWset st k 4
    else answerWset (st.modModule m (fun x => { x with wsets := x.wsets ++ [⟨w.pid, w.set, w.p0, w.p1, w.size.toNat, 0⟩] })) k 0)
/-- A DELETE (R363). -/
def execWsetDelete (k : CoreId) (w : WsetCmd) (st : State) : Out State :=
  let m := k.cl.m
  .next (
    if w.op ≠ 1 then st
    else if w.low ≠ 0 then answerWset st k 4
    else if (st.wset m w.pid w.set).isNone then answerWset st k 2
    else if st.cycleOpen m w.pid w.set then answerWset st k 3
    else answerWset (st.modModule m (fun x => { x with wsets := x.wsets.filter (fun y => !(y.pid = w.pid && y.set = w.set)) })) k 0)

end Sys2Proof.Machine
end

