-- ==== Sys2Proof/Machine/Digest.lean ====
section
/-! DEFINITION. What the origin of a launch writes for it (R260, R261), and the digest of a block: formed, recorded or compared with its
table, and the end of a block of a launch that keeps one (R259, R368 to R371). -/

namespace Sys2Proof.Machine

/-- The identity with which the origin acts for a launch. -/
def Launch.who (l : Launch) : Who := ⟨l.pid, l.lid, 0, false, ⟨⟨⟨l.origin, 0, 0⟩, 0⟩, 4⟩⟩
/-- How a write for a launch by its origin ends. -/
inductive Put where
  | ok (s : State)
  | retry
  | refused (code : BitVec 9)
  deriving DecidableEq, Repr
/-- Doublewords written by an identity, all of them or none. -/
def whoWrite (s : State) (w : Who) (a : DWord) (ds : List Nat) : Put :=
  let at_ := fun (i : Nat) => access s w (a + BitVec.ofNat 64 (8 * i)) 8 .write
  match (List.range ds.length).findSome? (fun i => match at_ i with | .loc _ => none | x => some x) with
  | some (.fault t) => .refused t.code
  | some _ => .retry
  | none => .ok ((ds.mapIdx (fun i d => (i, d))).foldl (fun s p => match at_ p.1 with | .loc l => s.write l 8 p.2 | _ => s) s)
/-- A fault recorded in a launch's summary (R261, R262). -/
def recordFaultOf (s : State) (l : Nat) (f : FaultRec) : State :=
  s.modLaunch l (fun x => { x with faults := x.faults ++ [f], nfaults := Nat.min (2 ^ 32 - 1) (x.nfaults + 1) })

/-! ## The digest of a block (R370, R371) -/

/-- Digests in ascending TASKID order. -/
def insertDigest (p : DWord × DWord) : List (DWord × DWord) → List (DWord × DWord)
  | [] => [p]
  | q :: r => if p.1.ult q.1 then p :: q :: r else q :: insertDigest p r
/-- The digest of a block (R370). -/
def blockDigest (seed : DWord) (b : Nat) (l : List (DWord × DWord)) : DWord :=
  let d := l.foldl (fun d p => gen (d ^^^ p.2) p.1) (gen seed (BitVec.ofNat 64 b))
  if d = 0 then 1 else d
/-- The digest table of a launch, which follows its summary (R368). -/
def Launch.table (l : Launch) : DWord := l.rc.summary + 192
/-- What becomes of a block's digest: recorded or matched, a mismatch at a table entry, or an access that a switched-out gang refused with
RETRY (R361). -/
inductive Digest where
  | ok (s : State)
  | retry
  | mismatch (s : State) (a : DWord)
  deriving DecidableEq, Repr
/-- A table that is refused is counted and left (assumption 37). -/
def Digest.after (s : State) (l : Launch) : Put → Digest
  | .ok s => .ok s
  | .retry => .retry
  | .refused e => .ok (s.countError l.origin e)
/-- A block whose digest differs: SERIAL is set in the table, and the block counts as faulting, named by the task that retired last (R371). -/
def digestDiffers (s : State) (x : Gang) (h : Nat) (ent : DWord) (f : FaultRec) : Digest :=
  let l := s.launch x.launch
  let f := { f with block := x.block, eaddr := ent, einfo := einfoWord f.einfo (trapInfo 0x170 ent) false false, cause := 0x170 }
  match whoWrite s l.who l.table [h ||| 2] with
  | .retry => .retry
  | .ok s => .mismatch (recordFaultOf s x.launch f) ent
  | .refused e => .mismatch (recordFaultOf (s.countError l.origin e) x.launch f) ent
/-- The digest of a block recorded, or compared, as the table's CHECK bit says (R370, R371). -/
def digestBlock (s : State) (g : Nat) (ds : List (DWord × DWord)) (f : FaultRec) : Digest :=
  let x := s.gang g
  let l := s.launch x.launch
  let ent := l.table + BitVec.ofNat 64 (8 + 8 * x.block)
  let d := blockDigest l.rc.seed x.block (ds.foldr insertDigest [])
  match readMem s l.who l.table 8 with
  | .fault t => .ok (s.countError l.origin t.code)
  | .retry => .retry
  | .val h =>
    if !h.testBit 0 then Digest.after s l (whoWrite s l.who ent [d.toNat])
    else match readMem s l.who ent 8 with
      | .fault t => .ok (s.countError l.origin t.code)
      | .retry => .retry
      | .val v => if v = d.toNat then .ok s else digestDiffers s x h ent f
/-- The end of a block at the end of one of its nodes, or of its last segment: its digest is formed, where its last task has retired before,
and the block retires once nothing of its gang is left (R259, R370; assumption 57). -/
def endNode (s : State) (g : Nat) : State :=
  let x := s.gang g
  if !(s.launch x.launch).rc.digest || x.digested || !tasksDone s g then s.settle g
  else match x.last with
    | none => s
    | some f => match digestBlock s g x.digests f with
      | .retry => s
      | .ok s => (s.modGang g (fun x => { x with digested := true })).settle g
      | .mismatch s _ => (s.modGang g (fun x => { x with digested := true })).settle g

end Sys2Proof.Machine
end

