-- ==== Sys2Proof/Machine/Spec.lean ====
section
/-! DEFINITION. Conditions, chains and likelihoods (R264 to R268), the commit of drafts and pruning (R270 to R274), the ready
pools and the dispatch of a task into a slot (R247, R249, R251, R286, R337), the resident task graph (R248, R290, R291), and
SPAWN, SPAWNC and CRES (R287 to R289). -/

namespace Sys2Proof.Machine

/-! ## Chains (R266, R268) -/

/-- The predictor entry of an address (R268). -/
def predIndex (pc : DWord) : Nat := bits pc.toNat 9 1 ^^^ bits pc.toNat 18 10
/-- The side likelihood of a SPAWNC or node (R265). -/
def sideLike (c : Cluster) (lid : BitVec 32) (p8 idx : Nat) (side : Bool) : Nat :=
  if p8 ≠ 0 then (if side then p8 * 256 else 0x10000 - p8 * 256)
  else
    let e := kget c.predictor idx ⟨0x8000, 0, 0⟩
    if e.tag = lid.setWidth 16 && 2 ≤ e.count then
      (if side then e.p else if e.p = 0 then 0xFFFF else 0x10000 - e.p)
    else 0x8000
/-- The update of a predictor entry by an outcome (R268). -/
def PredEntry.update (e : PredEntry) (lid : BitVec 32) (o : Bool) : PredEntry :=
  let e := if e.tag = lid.setWidth 16 then e else ⟨0x8000, lid.setWidth 16, 0⟩
  let p := if o then e.p + (0x10000 - e.p) / 8 else e.p - e.p / 8
  ⟨p, e.tag, Nat.min 3 (e.count + 1)⟩
/-- A cluster's entry for a condition of a gang (R264). -/
def Cluster.cond (c : Cluster) (g loc : Nat) : Option Cond := c.conds.find? (fun x => x.gang = g && x.word = loc)
/-- The room of a condition table (R264). -/
def condRoom : Nat := 64
/-- An unresolved entry opened. -/
def openCond (s : State) (cl : ClusterId) (g loc : Nat) : State :=
  s.modCluster cl (fun c => if (c.cond g loc).isSome then c else { c with conds := c.conds ++ [⟨g, loc, none, []⟩] })
/-- A predictor entry noted for the update at resolution. -/
def notePred (s : State) (cl : ClusterId) (g loc idx : Nat) : State :=
  s.modCluster cl (fun c => { c with conds := c.conds.map (fun x =>
    if x.gang = g && x.word = loc && !x.preds.contains idx then { x with preds := idx :: x.preds } else x) })

/-! ## Certainty and pruning (R272 to R274) -/

/-- How the commit of drafts ends. -/
inductive Drafted where
  | done (s : State)
  | retry (s : State)
  | fault (s : State) (t : TrapInfo)
  deriving DecidableEq, Repr
/-- The first draft of a segment leaves the buffer. -/
def dropDraft (s : State) (cl : ClusterId) (uid : Nat) : State :=
  s.modCluster cl (fun c => { c with drafts := c.drafts.eraseP (fun d => d.owner = uid) })
/-- Every draft of a segment discarded. -/
def dropDrafts (s : State) (cl : ClusterId) (uid : Nat) : State :=
  s.modCluster cl (fun c => { c with drafts := c.drafts.filter (fun d => d.owner ≠ uid) })
/-- What a segment has done that folds before the draft of a number, or all of it, folded into the digest (R273, R369). -/
def Slot.foldLate (n : Option Nat) (sl : Slot) : Slot :=
  let due := fun (p : Nat × List StoreElem) => match n with | none => true | some n => p.1 ≤ n
  { sl with late := sl.late.filter (fun p => !due p),
            digest := (sl.late.filter due).foldl (fun d p => p.2.foldl foldElem d) sl.digest }
/-- A segment's drafts performed in program order, up to one that is refused (R273). -/
def commitDrafts (c : CtxId) : List Draft → State → Drafted
  | [], s => .done s
  | d :: r, s => match storeFault s (s.whoIs c) d.elems with
    | .loc _ => commitDrafts c r (dropDraft (performStore (s.modSlot c (Slot.foldLate (some d.n))) c d.elems) c.core.cl d.owner)
    | .retry => .retry s
    | .fault t => .fault (dropDrafts s c.core.cl d.owner) { t with dfr := true, opc := d.opc &&& 0xFFFFFFFFFFFFF }
/-- What a segment that is certain has done is in its digest: its cards and stores, and the tiles written meanwhile (R138, R369). -/
def Slot.foldAll (sl : Slot) : Slot :=
  let sl := sl.foldLate none
  let r := drainFolds sl.folds sl.digest
  { sl with folds := r.1, digest := r.2 }
/-- What parked until now becomes ready; a held trap is taken at the slot's next boundary, before its instruction (R271, R272, R349). -/
def Slot.certain (sl : Slot) : Slot :=
  if sl.held.isSome then { sl with wait := none }
  else match sl.wait with
    | some .certain => { sl with wait := none, wcount := 0 }
    | some .drafts => { sl with wait := none, wcount := 0 }
    | some (.collective _) => { sl with wait := none, wcount := 0 }
    | _ => sl
/-- A segment or run-ahead has become certain: its drafts are performed before it issues again, and what parked until now becomes ready (R271
to R273). -/
def becomeCertain (s : State) (c : CtxId) : State :=
  let sl := s.slot c
  match commitDrafts c ((s.cluster c.core.cl).drafts.filter (fun d => d.owner = sl.uid)) s with
  | .fault s t => takeTrap (s.modSlot c Slot.foldAll) c t false
  | .retry s => s.modSlot c (fun sl => { sl with wait := some .drafts })
  | .done s => s.modSlot c (fun sl => sl.foldAll.certain)
/-- A slot that holds no live task: its queues, tiles, bindings and tables are cleared (R233, R274, R285). -/
def Slot.clear (sl : Slot) : Slot :=
  { sl with phase := .idle, wait := none, held := none, gang := none, chain := [], parents := [], ck := none, stopped := false, dbg := .free,
            lost := false, inXchg := false, ssended := false, xended := false, voted := false, barawAt := none, folds := [], late := [],
            cx := { Ctxt.reset with a := sl.cx.a } }
/-- A segment pruned while it runs; its matrix jobs go on (R138, R274). -/
def pruneSlot (s : State) (c : CtxId) : State :=
  let s := dropDrafts (s.disown c) c.core.cl (s.slot c).uid
  let s := s.modCore c.core (fun k => { k with trapq := k.trapq.filter (· ≠ c.who) })
  s.modSlot c Slot.clear

/-! ## The resident task graph (R248, R291) -/

/-- An edge by which a predecessor completes toward a node: pruned or not, with the chain it is eligible under, the while node that guesses
its exit, the word of the conditional node that is not resolved yet, and whether the node is a successor of the losing side, which is never run
(R248). -/
structure Edge where
  dst : Nat
  pruned : Bool := false
  chain : List ChainEntry := []
  guess : Option Nat := none
  direct : Option Nat := none
  never : Bool := false
  deriving DecidableEq, Repr
/-- The edges of a node that completes, not pruned or pruned. -/
def Node.edges (n : Node) (pruned : Bool) : List Edge := (n.succT ++ n.succF).map (fun t => { dst := t, pruned := pruned })
/-- The one of some chains that holds every condition of the others, if one does. -/
def widestChain (l : List (List ChainEntry)) : Option (List ChainEntry) := l.find? (fun a => l.all (fun b => b.all a.contains))
/-- The chain of a node whose predecessors have completed. Every unresolved conditional node of one of whose sides it is a successor must win, since
a successor of the other side is never run (R248). With none, a predecessor that is certain makes it eligible, or the one chain that they
all give. While several conditions each make it eligible it waits for one of them (assumption 57). -/
def Node.eligible (n : Node) : Option (List ChainEntry) :=
  let must := n.ins.filter (fun e => e.direct.isSome)
  if n.left ≠ 0 then none
  else if !must.isEmpty then widestChain (must.map (fun e => e.chain))
  else match n.ins with
    | [] => none
    | i :: r => if n.ins.any (fun e => e.chain.isEmpty) then some [] else if r.all (fun e => e.chain = i.chain) then some i.chain else none
/-- A node after a change of what its predecessors gave: ready, in the place `k` where it was not, or not ready (R248). -/
def Node.refresh (k : Nat) (n : Node) : Node :=
  match n.eligible with
  | some ch => { n with chain := ch, ready := some (n.ready.getD k) }
  | none => { n with ready := none, entered := false }
/-- Whether the exit that a while node guessed is one of a node's predecessors. -/
def Node.guessedBy (n : Node) (w : Nat) : Bool := n.ins.any (fun e => e.guess = some w)
/-- The exit that a while node has guessed is taken back. -/
def Node.unguess (w : Nat) (n : Node) : Node :=
  if !n.guessedBy w then n
  else
    let gone := (n.ins.filter (fun e => e.guess = some w)).length
    Node.refresh 0 { n with ins := n.ins.filter (fun e => e.guess ≠ some w), left := n.left + gone }
/-- Edges followed: a node whose predecessors have all completed becomes ready, or completes as pruned where all of them were
pruned (R248). -/
def follow : Nat → List Edge → List Node × Nat → List Node × Nat
  | 0, _, x => x
  | _, [], x => x
  | f + 1, e :: r, (ns, k) =>
    match ns[e.dst]? with
    | none => follow f r (ns, k)
    | some n =>
      let n := { n with left := n.left - 1, ins := if e.pruned || e.never then n.ins else n.ins ++ [(⟨e.chain, e.guess, e.direct⟩ : InEdge)] }
      if n.fin then follow f r (ns, k)
      else if e.never || (n.left = 0 && n.ins.isEmpty) then
        follow f (n.edges true ++ r) ((ns.set e.dst { n with fin := true, pruned := true, guess := false }).map (Node.unguess e.dst), k)
      else follow f r (ns.set e.dst (n.refresh k), k + 1)
/-- The edges of a graph, enough to follow every one once. -/
def edgeCount (ns : List Node) : Nat := (ns.map (fun n => n.succT.length + n.succF.length)).sum
/-- An edge as the cluster of its node takes it, which may have taken an outcome that the edge's own cluster had not (R289). -/
def Edge.seen (s : State) (g : Nat) (x : Gang) (e : Edge) : Edge :=
  match x.nodes[e.dst]? with
  | none => e
  | some n =>
    let out := fun (w : Nat) => ((s.cluster (x.cluster n.cluster)).cond g w).bind (fun c => c.outcome)
    let lost := fun (c : ChainEntry) => decide (out c.word = some (!c.side))
    if e.chain.any (fun c => lost c && decide (e.direct = some c.word)) then { e with never := true }
    else if e.chain.any lost then { e with pruned := true }
    else { e with chain := e.chain.filter (fun c => (out c.word).isNone), direct := e.direct.filter (fun w => (out w).isNone) }
/-- Edges followed in a gang's graph. -/
def followIn (s : State) (g : Nat) (es : List Edge) : State :=
  let x := s.gang g
  let r := follow (edgeCount x.nodes + es.length + 1) (es.map (Edge.seen s g x)) (x.nodes, s.fresh)
  { s.setGang g { x with nodes := r.1 } with fresh := r.2 }
def modNode (s : State) (g n : Nat) (f : Node → Node) : State :=
  s.modGang g (fun x => { x with nodes := x.nodes.mapIdx (fun i y => if i = n then f y else y) })
/-- A node that never runs, with those that depend on nothing else (R248). -/
def pruneNode (s : State) (g n : Nat) : State := followIn s g [{ dst := n, never := true }]
/-- TASKID of a node in an iteration (R286). -/
def nodeTask (b iter n : Nat) : DWord := BitVec.ofNat 64 (2 ^ 62 + b % 2 ^ 30 * 2 ^ 32 + iter % 2 ^ 16 * 2 ^ 16 + n)
/-- The room of a ready pool (R249). -/
def poolRoom : Nat := 256
/-- A node of a gang put in its place in the order in which nodes became ready. -/
def insertReady (p : Nat × Nat × Node) : List (Nat × Nat × Node) → List (Nat × Nat × Node)
  | [] => [p]
  | q :: r => if p.2.2.ready.getD 0 < q.2.2.ready.getD 0 then p :: q :: r else q :: insertReady p r
/-- The ready task nodes that a cluster's walker holds, in the order in which they became ready. -/
def waitingNodes (s : State) (cl : ClusterId) : List (Nat × Nat × Node) :=
  let mine := fun (g : Nat × Gang) =>
    if g.2.status.onChip then (g.2.nodes.mapIdx (fun i n => (g.1, i, n))).filter (fun p =>
      p.2.2.kind = 0 && p.2.2.ready.isSome && !p.2.2.entered && !p.2.2.fin && decide (g.2.cluster p.2.2.cluster = cl)) else []
  (s.gangs.map mine).flatten.foldr insertReady []
/-- Ready nodes enter their cluster's pool while it has room (R249). -/
def feedPool (s : State) (cl : ClusterId) : State :=
  (waitingNodes s cl).foldl (fun s p =>
    if poolRoom ≤ (s.cluster cl).pool.length then s
    else
      let (g, i, n) := p
      let seg : Segment :=
        { uid := s.fresh, gang := g, entry := n.entry, taskId := nodeTask (s.gang g).block n.iter i, role := .node i n.iter,
          chain := n.chain, parents := [], eclass := n.eclass, capture := none }
      let s := s.tick.modCluster cl (fun c => { c with pool := c.pool ++ [seg] })
      modNode s g i (fun y => { y with entered := true })) s
/-- The same in every cluster of a gang. -/
def feedPools (s : State) (g : Nat) : State :=
  if (s.gang g).nodes.isEmpty then s else (s.gang g).clusters.foldl feedPool s
/-- A task node has retired: its successors, or the while node whose body it is (R248, R285). -/
def nodeRetired (s : State) (g n : Nat) : State :=
  match (s.gang g).nodes[n]? with
  | none => s
  | some x =>
    let s := modNode s g n (fun y => { y with fin := true })
    match x.parent with
    | some w => modNode s g w (fun y => { y with bodyLeft := y.bodyLeft - 1 })
    | none => feedPools (followIn s g (x.edges false)) g
/-- The location of a node's condition word, as the tasks of its cluster name it; the page must allow reading and writing (R333). -/
def nodeWord (s : State) (g : Nat) (n : Node) : Option Nat :=
  let x := s.gang g
  match access s (s.walkWho g (x.cluster n.cluster)) n.word 8 .readWrite false with
  | .loc l => some l
  | _ => none
/-- What a walker finds of a condition: none where a new entry has no room. -/
def joinCond (s : State) (cl : ClusterId) (g loc idx : Nat) : Option State :=
  if ((s.cluster cl).cond g loc).isNone && condRoom ≤ (s.cluster cl).conds.length then none
  else some (notePred (openCond s cl g loc) cl g loc idx)
/-- The predictor entry that a node's record selects (R291). -/
def nodePred (s : State) (g n : Nat) : Nat := predIndex ((s.launch (s.gang g).launch).rc.graph + BitVec.ofNat 64 (32 * n))
/-- Whether a node is a successor that a while node has only guessed to be one. -/
def Node.exitOf (n : Node) : Bool := n.ins.any (fun e => e.guess.isSome)
/-- The predecessors' side of a conditional node's edges: each successor of one of its two lists with the side's edge. -/
def Node.sides (n : Node) (f : Bool → Nat → Edge) : List Edge := n.succT.map (f true) ++ n.succF.map (f false)
/-- A conditional node that is ready takes the outcome of its condition, or makes both sides eligible under it (R248, R291). In a
serialised launch it waits for the outcome (R372). -/
def execConditionalNode (g n : Nat) (st : State) : Out State :=
  .next (match (st.gang g).nodes[n]? with
    | none => st
    | some x =>
      let gg := st.gang g
      let cl := gg.cluster x.cluster
      let both := fun (t : Nat) => x.succT.contains t && x.succF.contains t
      if x.kind ≠ 1 || x.ready.isNone || x.fin || x.exitOf || gg.status ≠ .running then st
      else match nodeWord st g x with
        | none => st
        | some loc =>
          let done := modNode st g n (fun y => { y with fin := true })
          match ((st.cluster cl).cond g loc).bind (fun e => e.outcome) with
          | some o =>
            endNode (feedPools (followIn done g (x.sides (fun side t =>
              { dst := t, pruned := side ≠ o, chain := x.chain, never := side ≠ o && !both t }))) g) g
          | none =>
            if 8 ≤ x.chain.length then st
            else match joinCond done cl g loc (nodePred st g n) with
              | none => st
              | some s =>
                if (st.launch gg.launch).serial then openCond st cl g loc
                else
                  let q := sideLike (st.cluster cl) (st.launch gg.launch).lid 0 (nodePred st g n)
                  endNode (feedPools (followIn s g (x.sides (fun side t =>
                    if both t then { dst := t, chain := x.chain }
                    else { dst := t, chain := x.chain ++ [⟨loc, side, q side⟩], direct := some loc }))) g) g)
/-- The body of a while node made eligible for its next iteration. -/
def startBody (s : State) (g n : Nat) (x : Node) (chain : List ChainEntry) : State :=
  let again := if x.entered then x.iter + 1 else x.iter
  let s := modNode s g n (fun y => { y with entered := true, iter := again, bodyLeft := x.succT.length })
  x.succT.foldl (fun s t =>
    modNode { s with fresh := s.fresh + 1 } g t (fun y =>
      { y with left := 0, ins := [⟨chain, none, none⟩], chain := chain, ready := some s.fresh, entered := false, fin := false, iter := again })) s
/-- A while node leaves: its body has ended or never runs, and its exit successors become eligible (R248). -/
def leaveWhile (s : State) (g n : Nat) (x : Node) : State :=
  let s := x.succT.foldl (fun s t => modNode s g t (fun y => if y.fin then y else { y with fin := true, pruned := true })) s
  let s := modNode s g n (fun y => { y with fin := true, guess := false })
  endNode (feedPools (followIn s g (x.succF.map (fun t => { dst := t, chain := x.chain }))) g) g
/-- A while node reads its word: it runs its body again, leaves, or runs both ways ahead of the first outcome (R248, R291). -/
def execWhileNode (g n : Nat) (st : State) : Out State :=
  .next (match (st.gang g).nodes[n]? with
    | none => st
    | some x =>
      let gg := st.gang g
      let cl := gg.cluster x.cluster
      if x.kind ≠ 2 || x.ready.isNone || x.fin || x.exitOf || x.guess || x.stale || gg.status ≠ .running ||
        (x.entered && x.bodyLeft ≠ 0) then st
      else match nodeWord st g x with
        | none => st
        | some loc => match ((st.cluster cl).cond g loc).bind (fun e => e.outcome) with
          | some true => feedPools (modNode (startBody st g n x x.chain) g n (fun y => { y with stale := true })) g
          | some false => leaveWhile st g n x
          | none =>
            if x.entered || 8 ≤ x.chain.length then st
            else match joinCond st cl g loc (nodePred st g n) with
              | none => st
              | some s =>
                if (st.launch gg.launch).serial then openCond st cl g loc
                else
                  let q := sideLike (st.cluster cl) (st.launch gg.launch).lid 0 (nodePred st g n)
                  let s := startBody s g n x (x.chain ++ [⟨loc, true, q true⟩])
                  let s := modNode s g n (fun y => { y with guess := true })
                  feedPools (followIn s g (x.succF.map (fun t =>
                    { dst := t, chain := x.chain ++ [⟨loc, false, q false⟩], guess := some n }))) g)
/-- A while node that ran ahead meets its outcome: the guessed exit is taken back, or the body never runs and the guess stands. -/
def settleWhile (s : State) (g n : Nat) (x : Node) (o : Bool) : State :=
  if o then
    let s := s.modGang g (fun y => { y with nodes := y.nodes.map (Node.unguess n) })
    modNode s g n (fun y => { y with guess := false, stale := true })
  else
    let s := x.succT.foldl (fun s t => modNode s g t (fun y => { y with fin := true, pruned := true })) s
    let left := x.succF.filter (fun t => match (s.gang g).nodes[t]? with | some y => !y.guessedBy n | none => false)
    let stands := fun (y : Node) => { y with ins := y.ins.map (fun (e : InEdge) => if e.guess = some n then { e with guess := none } else e) }
    let s := s.modGang g (fun y => { y with nodes := y.nodes.map stands })
    followIn (modNode s g n (fun y => { y with fin := true, guess := false })) g (left.map (fun t => { dst := t, chain := x.chain }))

/-! ## The outcome of a condition (R268, R274, R289) -/

/-- Whether a chain holds a side of a condition. -/
def onSide (ch : List ChainEntry) (loc : Nat) (side : Bool) : Bool := ch.any (fun e => e.word = loc && e.side = side)
/-- A chain without a condition. -/
def offChain (ch : List ChainEntry) (loc : Nat) : List ChainEntry := ch.filter (fun e => e.word ≠ loc)
/-- A node of a cluster that takes an outcome (R248, R274): a successor of the losing side is never run; what depended on the losing side is gone,
a guessed exit being taken back; and the rest loses the condition. -/
def nodeOutcome (g loc : Nat) (o : Bool) (s : State) (i : Nat) : State :=
  match (s.gang g).nodes[i]? with
  | none => s
  | some n =>
    let lost : List InEdge := n.ins.filter (fun e => onSide e.chain loc (!o))
    let direct := lost.any (fun e => decide (e.direct = some loc))
    if n.fin || !n.ins.any (fun e => e.chain.any (fun c => c.word = loc)) then s
    else
      let ins := (n.ins.filter (fun e => !onSide e.chain loc (!o))).map (fun (e : InEdge) =>
        { e with chain := offChain e.chain loc, direct := e.direct.filter (· ≠ loc) })
      let n := { n with ins := ins, left := n.left + (lost.filter (fun (e : InEdge) => e.guess.isSome)).length,
                        entered := n.entered && !(n.kind = 0 && onSide n.chain loc (!o)) }
      if direct || (n.left = 0 && ins.isEmpty) then pruneNode s g i else modNode s.tick g i (fun _ => n.refresh s.fresh)
/-- The contexts of a cluster that hold tasks of a gang. -/
def tasksIn (s : State) (g : Nat) (cl : ClusterId) : List CtxId :=
  (s.gang g).held.filter (fun c => decide (c.core.cl = cl) && decide ((s.slot c).gang = some g))
/-- The predictor entries of a resolved condition updated, each once (R268). -/
def updatePreds (s : State) (cl : ClusterId) (lid : BitVec 32) (l : List Nat) (o : Bool) : State :=
  l.foldl (fun s i => s.modCluster cl (fun c =>
    { c with predictor := kset c.predictor i ((kget c.predictor i ⟨0x8000, 0, 0⟩).update lid o) })) s
/-- The nodes of a role. -/
def Role.node? : Role → Option Nat | .node n _ => some n | _ => none
/-- An outcome taken by a cluster: losers are pruned, winners' chains lose the condition, and what is certain goes on (R273,
R274). -/
def takeOutcome (s : State) (cl : ClusterId) (g loc : Nat) (o : Bool) : State :=
  let lid := (s.launch (s.gang g).launch).lid
  let preds := match (s.cluster cl).cond g loc with | some e => e.preds | none => []
  let s := updatePreds (openCond s cl g loc) cl lid preds o
  let s := s.modCluster cl (fun c => { c with conds := c.conds.map (fun x =>
    if x.gang = g && x.word = loc then { x with outcome := some o, preds := [] } else x) })
  let mine := fun (i : Nat) => match (s.gang g).nodes[i]? with
    | some n => decide ((s.gang g).cluster n.cluster = cl) | none => false
  let ns := (List.range (s.gang g).nodes.length).filter mine
  -- losing segments, running and waiting
  let s := (tasksIn s g cl).foldl (fun s c => if onSide (s.slot c).chain loc (!o) then pruneSlot s c else s) s
  let s := s.modCluster cl (fun c => { c with pool := c.pool.filter (fun p => !(p.gang = g && onSide p.chain loc (!o))) })
  -- guesses of while nodes, then losing nodes
  let s := ns.foldl (fun s i => match (s.gang g).nodes[i]? with
    | some n => if n.kind = 2 && n.guess && nodeWord s g n = some loc then settleWhile s g i n o else s
    | none => s) s
  let s := ns.foldl (nodeOutcome g loc o) s
  -- winners
  let s := s.modCluster cl (fun c => { c with pool := c.pool.map (fun p =>
    if p.gang = g then { p with chain := offChain p.chain loc } else p) })
  let s := (tasksIn s g cl).foldl (fun s c =>
    let sl := s.slot c
    if onSide sl.chain loc o then
      let s := s.setSlot c { sl with chain := offChain sl.chain loc }
      if (offChain sl.chain loc).isEmpty then becomeCertain s c else s
    else s) s
  endNode (feedPools s g) g
/-- A resolved outcome reaches a cluster (R289). -/
def execConditionOutcomeArrival (cl : ClusterId) (g word : Nat) (st : State) : Out State :=
  .next (match (st.gang g).claims.find? (fun x => x.word = word && !x.freed) with
    | none => st
    | some x => match x.outcome with
      | none => st
      | some o =>
        let taken := match (st.cluster cl).cond g word with | some e => e.outcome.isSome | none => false
        if taken || !(st.gang g).covers cl || (st.gang g).status ≠ .running then st else takeOutcome st cl g word o)

/-! ## Dispatch into a slot (R247, R249, R251, R337) -/

/-- What a slot is dispatched with. -/
structure Task where
  taskId : DWord
  entry : DWord
  role : Role
  chain : List ChainEntry := []
  parents : List (Nat × Nat) := []
  eclass : BitVec 2 := 0
  uid : Nat
  capture : Option (List DWord) := none
  deriving DecidableEq, Repr
/-- A range of local store set to zero, its error marks cleared (R337, R346). -/
def clearBytes (s : State) (loc n : Nat) : State :=
  { s with mem := Memory.clear s.mem loc n, poison := s.poison.filter (fun u => u.1 + 64 ≤ loc || loc + n ≤ u.1) }
/-- a0 to a31 of a task whose slot last held a task of the same process: each is zero or what the slot held, and which is a free value
(R28, R247, R337, assumption 8). -/
def startRegs (old : Slot) (n : Nat) : Vector DWord 32 := old.cx.a.mapIdx (fun i _ => old.cx.ra ((Config.freeValue (n + i)).setWidth 5))
/-- Bytes written one after another. -/
def State.writeBytes (s : State) (loc : Nat) (bs : List Byte) : State :=
  (bs.mapIdx (fun i b => (i, b))).foldl (fun s p => s.write (loc + p.1) 1 p.2.toNat) s
/-- The `.data` of the object that a launch runs, at most 8 KiB (R29, R382). -/
def State.dataOf (s : State) (l : Launch) : List Byte :=
  match l.img with
  | some k => match s.loaded.find? (fun x => x.1 = k) with | some x => x.2.data.take 0x2000 | none => []
  | none => []
/-- A task dispatched into a slot of a gang; at the start of an entry task's slot region stands a copy of the object's `.data` (R29, R382). -/
def dispatch (s : State) (c : CtxId) (g : Nat) (t : Task) : State :=
  let l := s.launch (s.gang g).launch
  let k := s.core c.core
  let old := s.slot c
  let same := old.lastPid = some l.pid
  let base := 0x2000 * c.who.val
  let s := if same then s else
    clearBytes (clearBytes s (privLoc c.core base) 0x2000) (inboxLoc c.core (0x100 * c.who.val)) 0x100
  let a := if same then startRegs old (s.fresh + 1) else Vector.replicate 32 0
  let cx := ({ Ctxt.reset with pc := t.entry, a := a } : Ctxt).putA 1 (BitVec.ofNat 64 base) none
  let sl : Slot := { Slot.reset with
    phase := .live, cx := cx, taskId := t.taskId, gens := old.gens + 1, slotgen := old.gens + 1, lid := l.lid, pid := l.pid,
    seed := l.rc.seed, nbv := l.rc.nbv, role := t.role, entry := t.entry, capture := t.capture, gang := some g, lastPid := some l.pid, quantum := k.qdefault,
    wlimit := k.wdefault.toNat, chain := t.chain, parents := t.parents, eclass := t.eclass, uid := t.uid,
    digest := if l.rc.digest then gen l.rc.seed t.taskId else Config.freeValue s.fresh }
  let s := { s with fresh := s.fresh + 33 }.setSlot c sl
  let s := if t.role = .entry then s.writeBytes (privLoc c.core base) (s.dataOf l) else s
  match t.capture with
  | none => s
  | some ds => (ds.mapIdx (fun i d => (i, d))).foldl (fun s p => s.write (privLoc c.core (base + 8 * p.1)) 8 p.2.toNat) s
/-- STATE of the quadrant's PWRBUD: SHORT or CRITICAL (R254). -/
def State.shortOf (s : State) (cl : ClusterId) : Bool :=
  let w := ((s.module cl.m).pwrbud.toList.getD (quadrantOf cl) 0).toNat
  bits w 33 32 ≠ 0
/-- The better of two segments, the earlier one on equal rank (R249). -/
def betterSegment (short : Bool) (a b : Segment) : Bool :=
  let ka := if short then a.eclass.toNat else 0
  let kb := if short then b.eclass.toNat else 0
  decide (ka < kb) || (ka = kb && (decide (like b.chain < like a.chain) || (like a.chain = like b.chain && a.taskId.ult b.taskId)))
/-- The slot of its cluster to which a segment is bound in deterministic mode (R251). -/
def boundSlot (s : State) (g : Nat) (cl : ClusterId) (id : DWord) : Option CtxId :=
  let l := (s.gang g).held.filter (fun c => decide (c.core.cl = cl))
  l[(gen (s.launch (s.gang g).launch).rc.seed id).toNat % l.length]?
/-- The segments a slot may take, and the best of them (R249, R251, R269). -/
def segmentFor (s : State) (c : CtxId) : Option Segment :=
  let cl := c.core.cl
  let ok := fun (p : Segment) =>
    let x := s.gang p.gang
    let l := s.launch x.launch
    x.status = .running && x.held.contains c && (!l.rc.det || boundSlot s p.gang cl p.taskId = some c) &&
      (!l.serial || p.chain.isEmpty)
  (((s.cluster cl).pool).filter ok).foldl (fun (b : Option Segment) p => match b with
    | none => some p
    | some q => if betterSegment (s.shortOf cl) p q then some p else some q) none
/-- An idle slot takes the best-ranked segment (R249). -/
def execSegmentTake (c : CtxId) (st : State) : Out State :=
  .next (if (st.slot c).phase ≠ .idle || c.who = 4 then st
    else match segmentFor st c with
      | none => st
      | some p =>
        let st := st.modCluster c.core.cl (fun k => { k with pool := k.pool.filter (fun q => q.uid ≠ p.uid) })
        let st := dispatch st c p.gang { taskId := p.taskId, entry := p.entry, role := p.role, chain := p.chain,
                                         parents := p.parents, eclass := p.eclass, uid := p.uid, capture := p.capture }
        feedPool st c.core.cl)

/-! ## SPAWN, SPAWNC, CRES (R287 to R289) -/

/-- A child of the issuing task: its index, its chain, and its lines of descent. -/
def childOf (s : State) (target : DWord) (chain : List ChainEntry) : Segment :=
  let sl := s.self
  { uid := s.fresh, gang := s.myGang, entry := target,
    taskId := BitVec.ofNat 64 (2 ^ 63) + (gen sl.taskId (BitVec.ofNat 64 sl.cx.spawn) >>> 1), role := .segment, chain := chain,
    parents := if sl.chain.isEmpty then [] else (sl.uid, sl.made) :: sl.parents, eclass := sl.eclass,
    capture := some ([2, 3, 4, 5].map (fun r => sl.cx.ra r)) }
/-- The child enters the pool of the issuing core's cluster. -/
def enqueueChild (s : State) (p : Segment) : State :=
  s.tick.modCluster s.cur.cl (fun c => { c with pool := c.pool ++ [p] })
/-- The registers a spawn reads as sources. -/
def captureRegs : List (BitVec 5) := [2, 3, 4, 5]
/-- SPAWN (R287); `s` counts as set, since it acts as a switch marker. -/
def execSpawn (_s : Bool) (rd : BitVec 5) (off : BitVec 17) (st : State) : Out State :=
  .next (issue { s := true, a := captureRegs } st fun st =>
    if st.self.ck.isSome then st.park .certain
    else if poolRoom ≤ (st.cluster st.cur.cl).pool.length then st.park .poolRoom
    else
      let p := childOf st (st.cx.pc + halfwords off) st.self.chain
      let st := enqueueChild st p
      st.done ({ st.cx with spawn := st.cx.spawn + 1 }.wa rd p.taskId))
/-- The location of a condition word, whose page must allow reading and writing (R333); `wr` tells whether the access writes it. -/
def condLoc (s : State) (ea : DWord) (wr : Bool) : Acc := access s (s.whoIs s.me) ea 8 .readWrite wr
/-- SPAWNC (R288). -/
def execSpawnc (_s : Bool) (rs1 : BitVec 5) (side : Bool) (p8 : BitVec 8) (off : BitVec 8) (st : State) : Out State :=
  .next (issue { s := true, a := rs1 :: captureRegs } st fun st =>
    let ea := st.cx.ra rs1
    let sl := st.self
    let g := st.myGang
    let cl := st.cur.cl
    if sl.ck.isSome then st.park .certain
    else match issueCheck st st.me ea 8 .readWrite formsAll with
      | some t => st.raise t
      | none => match condLoc st ea false with
        | .fault t => st.raise t
        | .retry => st.park (.reissue [ea])
        | .loc loc =>
          let e := (st.cluster cl).cond g loc
          let target := st.cx.pc + halfwords off
          let counted := fun (st : State) => st.done { st.cx with spawn := st.cx.spawn + 1 }
          match e.bind (fun x => x.outcome) with
          | some o =>
            if o ≠ side then counted st
            else if poolRoom ≤ (st.cluster cl).pool.length then st.park .poolRoom
            else counted (enqueueChild st (childOf st target sl.chain))
          | none =>
            let idx := predIndex st.cx.pc
            let q := sideLike (st.cluster cl) sl.lid p8.toNat idx side
            if e.isNone && condRoom ≤ (st.cluster cl).conds.length then st.park (.condRoom loc)
            else if 8 ≤ sl.chain.length then st.park .chainRoom
            else if poolRoom ≤ (st.cluster cl).pool.length then st.park .poolRoom
            else
              let st := openCond st cl g loc
              let st := if p8 = 0 then notePred st cl g loc idx else st
              counted (enqueueChild st (childOf st target (sl.chain ++ [⟨loc, side, q⟩]))))
/-- Regions 2 to 4 of the global local-store form, which CRES refuses (R289). -/
def condRegion (f : Form) : Bool := match f with | .glob _ _ _ _ region _ => 2 ≤ region | _ => false
/-- The entries of a gang for a condition, by cluster. -/
def gangConds (s : State) (g loc : Nat) : List (Option Cond) := (s.gang g).clusters.map (fun cl => (s.cluster cl).cond g loc)
/-- CRES with OPEN: the resolved entry is freed in every cluster, and a CRES that has resolved it and has not completed is at its end (R289). -/
def condFree (s : State) (g loc : Nat) : State :=
  let s := { s with clusters := s.clusters.map (fun p =>
    (p.1, { p.2 with conds := p.2.conds.filter (fun c => !(c.gang = g && c.word = loc)) })) }
  let fresh := fun (n : Node) => if n.kind = 2 && nodeWord s g n = some loc then { n with stale := false } else n
  s.modGang g (fun x => { x with nodes := x.nodes.map fresh,
                                 claims := x.claims.map (fun z => if z.word = loc && z.outcome.isSome then { z with freed := true } else z) })
/-- The end of a CRES that every cluster has taken. -/
def condDone (st : State) (g loc : Nat) : State :=
  (st.modGang g (fun y => { y with claims := y.claims.filter (fun z => !(z.word = loc && z.by_ = st.me)) })).finish
/-- The steps of a CRES that has claimed its condition: room in every table, the word, and the outcome taken everywhere (R289). -/
def condResolve (st : State) (x : Claim) (ea : DWord) (g loc v : Nat) : State :=
  let full := fun (cl : ClusterId) => ((st.cluster cl).cond g loc).isNone && decide (condRoom ≤ (st.cluster cl).conds.length)
  match x.outcome with
  | some _ =>
    if x.freed || (gangConds st g loc).all (fun c => match c with | some c => c.outcome.isSome | none => false) then condDone st g loc
    else st.park (.condTaken loc)
  | none =>
    if (st.gang g).clusters.any full then st.park (.condTables loc)
    else
      let st := (st.write loc 8 v).foldDigest st.me [wholeElem ea 8 v]
      let st := (st.gang g).clusters.foldl (fun s cl => openCond s cl g loc) st
      let st := st.modGang g (fun y => { y with claims := y.claims.map (fun z =>
        if z = x then { z with outcome := some (decide (v ≠ 0)) } else z) })
      st.park (.condTaken loc)
/-- CRES (R289). -/
def execCres (s : Bool) (rs1 rs2 : BitVec 5) (opn : Bool) (st : State) : Out State :=
  .next (issue { s := s, parks := true, a := [rs1, rs2] } st fun st =>
    let ea := st.cx.ra rs1
    match issueCheck st st.me ea 8 .readWrite formsAll with
    | some t => st.raise t
    | none =>
      if condRegion (form ea) then st.raise (trapInfo 0x049 ea 2)
      else match condLoc st ea (!opn) with
        | .fault t => st.raise t
        | .retry => st.park (.reissue [ea])
        | .loc loc =>
          let g := st.myGang
          let es := gangConds st g loc
          if opn then
            if es.any (fun c => match c with | some c => c.outcome.isNone | none => false) then st.raise (trapInfo 0x151)
            else (condFree st g loc).finish
          else match (st.gang g).claims.find? (fun x => x.word = loc && decide (x.by_ = st.me)) with
            | some x => condResolve st x ea g loc (st.cx.ra rs2).toNat
            | none =>
              if (st.gang g).claims.any (fun x => x.word = loc && !x.freed) ||
                es.any (fun c => match c with | some c => c.outcome.isSome | none => false) then st.raise (trapInfo 0x150)
              else
                let x : Claim := ⟨loc, st.me, none, false⟩
                condResolve (st.modGang g (fun y => { y with claims := x :: y.claims })) x ea g loc (st.cx.ra rs2).toNat)

end Sys2Proof.Machine
end

