-- ==== Sys2Proof/Machine/Exchange.lean ====
section
/-! DEFINITION. What the tasks of a gang or of a RESIDENT launch decide together: supersteps and the exchange phase (R252, R253,
R294 to R296, R364), gang votes (R292), collective branches (R276 to R283, R293), and layer-parallel cycles (R300 to R302). -/

namespace Sys2Proof.Machine

/-- Whether the issuing task is an entry task. -/
def State.isEntry (s : State) : Bool := decide (s.self.role = .entry)
/-- Whether the issuing context's launch is RESIDENT. -/
def State.isResident (s : State) : Bool := (s.launchOf s.me).rc.resident

/-! ## Supersteps (R252, R364) -/

/-- A gang is at a cut: every live entry task has arrived, and every core has its markers (R252, R364). -/
def atCut (s : State) (g : Nat) : Bool :=
  let es := liveEntries s g
  !es.isEmpty && es.all (fun c => (s.slot c).ssended) && (s.gang g).held.all (fun c => (s.core c.core).markers.contains g)
/-- The exchange phase of a gang at a cut begins, unless a checkpoint is to be taken there (R252, R365): SSEND completes for every
live entry task. -/
def beginExchange (s : State) (g : Nat) : State :=
  let x := s.gang g
  if x.status = .running && !x.atCut && atCut s g then
    let es := liveEntries s g
    let s := s.setGang g { x with xops := [] }
    let s := { s with cores := s.cores.map (fun p => (p.1, { p.2 with markers := p.2.markers.filter (· ≠ g) })) }
    es.foldl (fun s c =>
      (s.modSlot c (fun sl => { sl with wait := none, wcount := 0, ssended := false, inXchg := true, xended := false })).finishAt c 4) s
  else s
/-- SSEND: the task enters the gang barrier (R252, R294); `s` counts as set, since it acts as a switch marker. -/
def execSsend (_s : Bool) (st : State) : Out State :=
  .next (issue { s := true } st fun st =>
    if !st.isEntry then st.raise (trapInfo 0x0D0)
    else if st.self.speculative then st.park .certain
    else (st.setSelf { st.self with ssended := true }).park .ssend)
/-- The last marker token comes in on a core, once every live entry task of its gang has arrived (R252). -/
def execMarkerToken (k : CoreId) (st : State) : Out State :=
  let due := fun (g : Nat × Gang) =>
    g.2.held.any (fun c => decide (c.core = k)) && (g.2.status = .running || g.2.status = .stopping) &&
    !(liveEntries st g.1).isEmpty && (liveEntries st g.1).all (fun c => (st.slot c).ssended) && !(st.core k).markers.contains g.1
  .next ((st.gangs.filter due).foldl (fun s g =>
    beginExchange (s.modCore k (fun c => { c with markers := g.1 :: c.markers })) g.1) st)

/-! ## XMIT, XSEL, XEND (R294 to R296) -/

/-- The neighbour that a direction names, where it lies in the gang (R295, R304). -/
def neighbour (g : Gang) (cl : ClusterId) (dir : Nat) : Option ClusterId :=
  let n : Option ClusterId :=
    match dir with
    | 0 => if cl.y = 0 then none else some { cl with y := cl.y - 1 }
    | 1 => some { cl with x := cl.x + 1 }
    | 2 => some { cl with y := cl.y + 1 }
    | 3 => if cl.x = 0 then none else some { cl with x := cl.x - 1 }
    | 4 => some { cl with x := cl.x + 4 }
    | _ => if cl.x < 4 then none else some { cl with x := cl.x - 4 }
  n.filter g.covers
/-- The direction opposite another. -/
def opposite (dir : Nat) : Nat := match dir with | 0 => 2 | 1 => 3 | 2 => 0 | 3 => 1 | 4 => 5 | _ => 4
/-- What XMIT and XSEL check and do alike (R295). -/
def exchangeOp (s recv : Bool) (len : BitVec 2) (dir : BitVec 3) (rs1 : BitVec 5) (off slot : BitVec 6) (st : State) : State :=
  issue { s := s, xOk := true, a := [rs1] } st fun st =>
    let ea := st.cx.ra rs1 + BitVec.ofNat 64 (32 * off.toNat)
    let n := 32 * 2 ^ len.toNat
    let g := st.gang st.myGang
    let cl := st.cur.cl
    let acc : BitVec 2 := if recv then 1 else 0
    if !st.self.inXchg then st.raise (trapInfo 0x0D0)
    else if ea.toNat % 32 ≠ 0 then st.raise (trapInfo 0x040 ea acc)
    else match form ea with
      | .priv o =>
        if !st.ownsPriv st.me o n then st.raise (trapInfo 0x041 ea acc)
        else if recv && st.guarded st.cur o n then st.raise (trapInfo 0x088 ea acc)
        else if (neighbour g cl dir.toNat).isNone then st.raise (trapInfo 0x0D2)
        else if g.xops.any (fun x => x.isRecv = recv && decide (x.owner.core.cl = cl) && x.dir = dir.toNat && x.slot = slot.toNat)
        then st.raise (trapInfo 0x0D1)
        else
          let loc := privLoc st.cur o
          if !recv && st.poisoned loc n then st.raise (trapInfo 0x050 ea acc)
          else
            let op : XOp := { owner := st.me, isRecv := recv, dir := dir.toNat, slot := slot.toNat, off := o, len := n,
                              bytes := if recv then [] else Memory.bytes st.mem loc n, result := 0 }
            (st.modGang st.myGang (fun x => { x with xops := x.xops ++ [op] })).finish
      | _ => st.raise (trapInfo 0x041 ea acc)
/-- XMIT takes its bytes when it issues (R295, R296). -/
def execXmit (s : Bool) (len : BitVec 2) (dir : BitVec 3) (rs1 : BitVec 5) (off slot : BitVec 6) (st : State) : Out State :=
  .next (exchangeOp s false len dir rs1 off slot st)
/-- XSEL (R295, R296). -/
def execXsel (s : Bool) (len : BitVec 2) (dir : BitVec 3) (rs1 : BitVec 5) (off slot : BitVec 6) (st : State) : Out State :=
  .next (exchangeOp s true len dir rs1 off slot st)
/-- Whether two transfers pair (R296). -/
def XOp.pairs (g : Gang) (x y : XOp) : Bool :=
  x.isRecv ≠ y.isRecv && x.slot = y.slot && y.dir = opposite x.dir && neighbour g x.owner.core.cl x.dir = some y.owner.core.cl
/-- Transfer `n` of the phase, an XSEL, receives its partner's bytes, the shorter length carried (R296). -/
def execExchangeDelivery (g n : Nat) (st : State) : Out State :=
  let x := st.gang g
  .next (match x.xops[n]? with
    | none => st
    | some r =>
      if !r.isRecv || r.result ≠ 0 then st
      else match x.xops.findIdx? (fun t => t.result = 0 && t.pairs x r) with
        | none => st
        | some k =>
          let t := x.xops.getD k r
          let len := Nat.min r.len t.len
          let res := if r.len = t.len then 1 else 3
          let st := (List.range (len / 32)).foldl (fun s i =>
            s.write (privLoc r.owner.core (r.off + 32 * i)) 32 (ofBytes ((t.bytes.drop (32 * i)).take 32))) st
          st.modGang g (fun y => { y with xops := y.xops.mapIdx (fun i z => if i = n || i = k then { z with result := res } else z) }))
/-- Whether every live entry task of a cluster has executed XEND in the phase (R296). -/
def clusterEnded (s : State) (g : Nat) (cl : ClusterId) : Bool :=
  (liveEntries s g).all (fun c => decide (c.core.cl ≠ cl) || !(s.slot c).inXchg || (s.slot c).xended)
/-- The transfers of a context that have found no partner and can find none (R296). -/
def settleOps (s : State) (g : Nat) (c : CtxId) : State :=
  let x := s.gang g
  let settle := fun (t : XOp) =>
    if t.owner = c && t.result = 0 && !x.xops.any (fun y => t.pairs x y) then
      match neighbour x c.core.cl t.dir with
      | some b => if clusterEnded s g b then { t with result := 2 } else t
      | none => t
    else t
  s.setGang g { x with xops := x.xops.map settle }
/-- The status of XEND from a task's transfers (R296). -/
def xendStatus (l : List XOp) : DWord :=
  let b := fun (p : Bool) (v : Nat) => if p then v else 0
  BitVec.ofNat 64 (b (l.any (fun t => t.result = 3)) 4 + b (l.any (fun t => t.isRecv && t.result = 2)) 2 +
    b (l.any (fun t => !t.isRecv && t.result = 2)) 1)
/-- XEND (R294, R296). -/
def execXend (s : Bool) (rd : BitVec 5) (st : State) : Out State :=
  .next (issue { s := s, xOk := true } st fun st =>
    if !st.self.inXchg then st.raise (trapInfo 0x0D0)
    else
      let g := st.myGang
      let st := settleOps (st.setSelf { st.self with xended := true }) g st.me
      let mine := (st.gang g).xops.filter (fun t => decide (t.owner = st.me))
      if mine.any (fun t => t.result = 0) then st.park .xend
      else
        let st := st.setSelf { st.self with inXchg := false, xended := false }
        st.done (st.cx.wa rd (xendStatus mine)))

/-! ## Votes (R292) -/

/-- The reduction of a vote or collective: 0 AND, 1 OR, 2 OR AND NOT AND (R278, R292). -/
def reduceVotes (op : BitVec 2) (l : List Bool) : Bool :=
  if op = 0 then l.all id else if op = 1 then l.any id else l.any id && !l.all id
/-- The vote of a gang with this number. -/
def Gang.vote (g : Gang) (k : Nat) : Vote := (g.votes.find? (fun v => v.k = k)).getD ⟨k, [], none⟩
def Gang.setVote (g : Gang) (v : Vote) : Gang := { g with votes := v :: g.votes.filter (fun x => x.k ≠ v.k) }
/-- A vote closes once every live entry task has offered (R292). -/
def closeVote (s : State) (g k : Nat) : State :=
  let v := (s.gang g).vote k
  let es := liveEntries s g
  if v.result.isNone && !v.offers.isEmpty && es.all (fun c => v.offers.any (fun o => decide (o.1 = c))) then
    let op := match v.offers with | o :: _ => o.2.1 | [] => 0
    let r := if v.offers.all (fun o => o.2.1 = op) then some (reduceVotes op (v.offers.map (fun o => o.2.2))) else none
    s.modGang g (fun x => x.setVote { v with result := some r })
  else s
/-- CVOTE (R292). -/
def execCvote (s : Bool) (rd rs1 : BitVec 5) (op : BitVec 2) (st : State) : Out State :=
  .next (issue { s := s, xOk := true, parks := true, a := [rs1] } st fun st =>
    if !st.isEntry then st.raise (trapInfo 0x0DC)
    else
      let g := st.myGang
      let k := st.self.votes
      let st := if st.self.voted then st else
        let v := (st.gang g).vote k
        let st := st.modGang g (fun x => x.setVote { v with offers := v.offers ++ [(st.me, op, decide (st.cx.ra rs1 ≠ 0))] })
        closeVote (st.setSelf { st.self with voted := true }) g k
      match ((st.gang g).vote k).result with
      | none => st.park (.vote k)
      | some r =>
        let st := st.setSelf { st.self with voted := false, votes := k + 1 }
        match r with
        | none => st.raise (trapInfo 0x0DB)
        | some b => st.done (st.cx.wa rd (if b then 1 else 0)))

/-! ## Cycles (R300 to R302) -/

/-- Whether an FP32 value is a NaN or below zero; -0 is neither. -/
def cycBad (v : BitVec 32) : Bool := 0x7F800000 < v.toNat && v ≠ 0x80000000
/-- -0 taken as +0. -/
def cycVal (v : BitVec 32) : BitVec 32 := if v = 0x80000000 then 0 else v
/-- A non-negative FP32 value in units of 2^-149; none for infinity. -/
def cycNat (v : BitVec 32) : Option Nat :=
  let e := v.toNat / 2 ^ 23
  let m := v.toNat % 2 ^ 23
  if 255 ≤ e then none else if e = 0 then some m else some ((2 ^ 23 + m) * 2 ^ (e - 1))
/-- The test of R302, exact in relative mode. -/
def cycConv (rel : Bool) (resid tol resid0 : BitVec 32) : Bool :=
  if !rel then resid.toNat ≤ tol.toNat
  else match cycNat tol, cycNat resid0 with
    | some t, some z => match cycNat resid with
      | some r => r * 2 ^ 149 ≤ t * z
      | none => false
    | _, _ => if tol = 0 || resid0 = 0 then resid = 0 else true
/-- CYCB (R301). -/
def execCycb (s : Bool) (rs1 : BitVec 5) (set : BitVec 6) (rel : Bool) (st : State) : Out State :=
  .next (issue { s := s, a := [rs1] } st fun st =>
    let v := st.cx.ra rs1
    let tol : BitVec 32 := v.setWidth 32
    let max : BitVec 32 := (v >>> 32).setWidth 32
    let g := st.myGang
    let c := (st.gang g).cyc
    let k := st.self.cycs
    if !st.isResident then st.raise (trapInfo 0x0D8)
    else if !st.isEntry then st.raise (trapInfo 0x0DA)
    else if st.self.cycOwn then st.raise (trapInfo 0x168)
    else if cycBad tol then st.raise (trapInfo 0x169)
    else if (st.wset st.cur.cl.m st.self.pid set).isNone then st.raise (trapInfo 0x160)
    else if st.self.speculative then st.park .certain
    else if c.closed < k then st.park (.cycSeq k)
    else
      let join := fun (st : State) => (st.setSelf { st.self with cycOwn := true, cycs := k + 1 }).finish
      if c.opened ≤ k then
        join (st.modGang g (fun x => { x with cyc :=
          { c with tol := cycVal tol, max := max, rel := rel, set := set, cnt := 0, converged := false, exhausted := false, isOpen := true,
                   pend := 0, opened := k + 1, enders := [] } }))
      else if c.tol ≠ cycVal tol || c.max ≠ max || c.rel ≠ rel || c.set ≠ set then st.raise (trapInfo 0x16A)
      else join st)
/-- The run-ahead of a task begins at the delay slot of its branch, in which a CYCRES of the task's own cycle stands (R321, R322). -/
def Slot.aheadAtDelay (sl : Slot) (d : Delay) (r : CollRef) : Slot :=
  let r := { r with fall := sl.cx.pc + 4 }
  let side := fun (b : Bool) => { d with coll := none, target := some (if b then r.taken else r.fall) }
  { sl with cx := { sl.cx with delay := some (side r.pred) },
            ck := some ⟨{ sl.cx with delay := some (side r.pred) }, r, d.branch, sl.quantum, sl.qend, sl.wlimit, sl.eclass, sl.einfo⟩ }
/-- A CYCRES in the delay slot of the task's own CYCT: its effect belongs to the next cycle, so the task offers and parks there (R322). -/
def ownCycle (st : State) : Option State :=
  st.cx.delay.bind (fun d => d.coll.bind (fun r =>
    if r.op ≠ 3 then none
    else
      let st := (st.setSelf (st.self.aheadAtDelay d r)).offered st.me r.k
      some (switchPoint (st.setSelf { st.self with wait := some (st.self.wait.getD .certain) }) st.cur)))
/-- CYCRES (R301). -/
def execCycres (s : Bool) (rs1 : BitVec 5) (st : State) : Out State :=
  .next (issue { s := s, parks := true, a := [rs1] } st fun st =>
    let v : BitVec 32 := (st.cx.ra rs1).setWidth 32
    let g := st.myGang
    let c := (st.gang g).cyc
    if !c.isOpen then st.raise (trapInfo 0x168)
    else if cycBad v then st.raise (trapInfo 0x169)
    else match ownCycle st with
      | some st => st
      | none => (st.modGang g (fun x => { x with cyc := { c with pend := if c.pend.ult (cycVal v) then cycVal v else c.pend } })).finish)
/-- A sequence closes once every live entry task has executed CYCE (R301). -/
def closeCyc (s : State) (g : Nat) : State :=
  let c := (s.gang g).cyc
  if c.isOpen && !c.enders.isEmpty && (liveEntries s g).all (fun x => c.enders.contains x) then
    s.modGang g (fun x => { x with cyc := { c with isOpen := false, closed := c.closed + 1 } })
  else s
/-- CYCE (R301). -/
def execCyce (s : Bool) (st : State) : Out State :=
  .next (issue { s := s } st fun st =>
    let g := st.myGang
    if !st.isEntry then st.raise (trapInfo 0x0DA)
    else if !st.self.cycOwn then st.raise (trapInfo 0x168)
    else if st.self.speculative then st.park .certain
    else
      let st := st.setSelf { st.self with cycOwn := false }
      let st := st.modGang g (fun x => { x with cyc := { x.cyc with enders := st.me :: x.cyc.enders } })
      (closeCyc st g).finish)

/-! ## Collective branches (R278 to R283, R293, R302) -/

/-- A collective branch executes: its delay slot is next, and its offer is made with it (R51, R246, R278). -/
def collBranch (st : State) (off : BitVec 12) (op : BitVec 2) (val pred : Bool) : State :=
  let c := st.cx
  let k := (st.launchOf st.me).closed
  st.branch c none (some { k := k, op := op, val := val, taken := c.pc + halfwords off, fall := c.pc + 8, pred := pred })
/-- CBR (R293). -/
def execCbr (s : Bool) (rs1 : BitVec 5) (op : BitVec 2) (pred : Bool) (off : BitVec 12) (st : State) : Out State :=
  .next (issue { s := s, control := true, parks := true, a := [rs1] } st fun st =>
    if !st.isResident then st.raise (trapInfo 0x0D8)
    else if !st.isEntry then st.raise (trapInfo 0x0DA)
    else collBranch st off op (decide (st.cx.ra rs1 ≠ 0)) pred)
/-- CYCT (R302): with it the last live entry task makes its gang's offer (R322). -/
def execCyct (s : Bool) (pred : Bool) (off : BitVec 12) (st : State) : Out State :=
  .next (issue { s := s, control := true, parks := true } st fun st =>
    if !st.isResident then st.raise (trapInfo 0x0D8)
    else if !st.isEntry then st.raise (trapInfo 0x0DA)
    else if !(st.gang st.myGang).cyc.isOpen then st.raise (trapInfo 0x168)
    else offerGang (collBranch st off 3 false pred) st.myGang)
/-- CBRSTAT (R277). -/
def cbrStatus (seq count : Nat) (mismatch lost mispred taken : Bool) : DWord :=
  let b := fun (p : Bool) (v : Nat) => if p then v else 0
  BitVec.ofNat 64 (seq % 2 ^ 32 * 2 ^ 32 + Nat.min 65535 count * 2 ^ 16 + b mismatch 8 + b lost 4 + b mispred 2 + b taken 1)
/-- A task back at its checkpoint, with a context: its run-ahead's drafts, results and held trap are discarded, and what it waited for is abandoned,
but for the close of the collective (R245, R280). -/
def backTo (s : State) (c : CtxId) (k : Checkpoint) (x : Ctxt) : State :=
  let s := dropDrafts s c.core.cl (s.slot c).uid
  s.modSlot c (fun sl =>
    let met := match sl.wait with | some (.collective _) => true | _ => false
    { sl with cx := x, ck := none, held := none, wait := none, reissued := false, late := [], wcount := if met then 0 else sl.wcount,
              quantum := k.quantum, qend := k.qend, wlimit := k.wlimit, eclass := k.eclass, einfo := k.einfo })
/-- A closed collective reaches a task: it goes on if its prediction was right, and otherwise resumes on the other side; on a mismatch
it traps at its branch (R278 to R280). -/
def closeTask (seq count : Nat) (lost : Bool) (out : Except (BitVec 9) Bool) (s : State) (c : CtxId) : State :=
  match (s.slot c).ck with
  | none => s
  | some k => match out with
    | .error code =>
      let s := backTo s c k { k.at_ k.branch with pc := k.branch, delay := none }
      takeTrap (s.modSlot c (fun sl => { sl with cbrstat := cbrStatus seq count true lost false false })) c (trapInfo code) false
    | .ok t =>
      let st := cbrStatus seq count false lost (k.coll.pred ≠ t) t
      if k.coll.pred = t then becomeCertain (s.modSlot c (fun sl => { sl with ck := none, cbrstat := st })) c
      else (backTo s c k (k.at_ (if t then k.coll.taken else k.coll.fall))).modSlot c (fun sl => { sl with cbrstat := st })
/-- The collective branches that the live entry tasks of a gang stand at. -/
def gangRefs (s : State) (g : Nat) : List CollRef := (liveEntries s g).filterMap (fun c => (s.slot c).ck.map (fun k => k.coll))
/-- The cycle state after a closed CYCT with the residual RESID, and whether it is taken (R302). -/
def cycStep (c : CycState) (resid : BitVec 32) : CycState × Bool :=
  let cnt := c.cnt + 1
  let r0 := if cnt = 1 then resid else c.resid0
  let conv := cycConv c.rel resid c.tol r0
  let taken := conv || c.max.ule cnt
  ({ c with resid := resid, cnt := cnt, resid0 := r0, converged := if taken then conv else c.converged,
            exhausted := if taken then !conv else c.exhausted }, taken)
/-- The open collective of a RESIDENT launch closes once every live member has offered (R278, R279, R302). -/
def execCollectiveResolve (l : Nat) (st : State) : Out State :=
  let x := st.launch l
  let ms := members st l
  .next (
    if !x.rc.resident || ms.isEmpty || !ms.all (fun g => (st.gang g).status = .running && gangOffers st g x.closed) then st
    else
      let refs := ms.map (gangRefs st)
      let all := refs.flatten
      let op := match all with | r :: _ => r.op | [] => 0
      let vals := refs.filterMap (fun r => (r.head?).map (fun y => y.val))
      let same := all.all (fun r => r.op = op) &&
        refs.all (fun r => match r with | [] => true | y :: t => t.all (fun z => z.val = y.val))
      let offers := ms.filterMap (fun g => (st.gang g).offer)
      let resid := offers.foldl (fun m o => if m.ult o.resid then o.resid else m) (0 : BitVec 32)
      let cycSame := match offers with
        | [] => true
        | o :: t => t.all (fun p => p.tol = o.tol && p.max = o.max && p.rel = o.rel && p.set = o.set)
      let step := cycStep (st.gang (ms.headD 0)).cyc resid
      let out : Except (BitVec 9) Bool :=
        if !same then .error 0x0D9 else if op = 3 then (if cycSame then .ok step.2 else .error 0x16A) else .ok (reduceVotes op vals)
      let takes := op = 3 && same && cycSame
      let tasks := (ms.map (liveEntries st)).flatten
      let st := ms.foldl (fun s g => s.modGang g (fun y =>
        { y with offer := none, cyc := if takes then (cycStep y.cyc resid).1 else y.cyc })) st
      let st := st.modLaunch l (fun y => { y with closed := y.closed + 1, lost := false })
      tasks.foldl (closeTask (x.closed + 1) ms.length x.lost out) st)

/-- An entry task has left the count of live entry tasks: what waited for it completes without it (R252, R278, R292, R301). -/
def entryLeft (s : State) (g : Nat) : State :=
  let s := (s.gang g).votes.foldl (fun s v => closeVote s g v.k) s
  let s := offerGang (closeCyc s g) g
  beginExchange s g

end Sys2Proof.Machine
end

