-- ==== Sys2Proof/Machine/Launch.lean ====
section
/-! DEFINITION. Launches: the record and its checks (R242, R290, R291, R297, R298), LAUNCH, LCANCEL and LWAIT (R298, R299), the
dispatcher tree (R256, R257), placement and gang start (R250, R251, R258, R306, R325, R326), task faults and kills (R138, R229,
R262), cancels (R263), completion (R260, R261), and RETIRE (R285). -/

namespace Sys2Proof

/-! ## The dispatcher tree (R256) -/

/-- The area of a dispatcher: column, row, width and height (R256). -/
def DispNode.area : DispNode → Nat × Nat × Nat × Nat
  | .root _ | .module _ => (0, 0, 192, 168)
  | .quadrant _ q => (96 * (q % 2), 84 * (q / 2), 96, 84)
  | .band _ q b => (96 * (q % 2), 84 * (q / 2) + 7 * b, 96, 7)
def DispNode.mod : DispNode → Nat | .root m => m | .module m => m | .quadrant m _ => m | .band m _ _ => m
def DispNode.level : DispNode → Nat | .root _ => 0 | .module _ => 1 | .quadrant .. => 2 | .band .. => 3
/-- The parent of a dispatcher for a launch, and the number of the parent's children. -/
def DispNode.parent (d : DispNode) (l : Machine.Launch) : Option (DispNode × Nat) :=
  match d with
  | .root _ => none
  | .module _ => some (.root l.origin, l.rc.mods)
  | .quadrant m _ => some (.module m, 4)
  | .band m q _ => some (.quadrant m q, 12)
/-- A dispatcher and those above it. -/
def DispNode.path (d : DispNode) (l : Machine.Launch) : List DispNode :=
  match d with
  | .root m => [.root m]
  | .module m => [.module m, .root l.origin]
  | .quadrant m q => [.quadrant m q, .module m, .root l.origin]
  | .band m q b => [.band m q b, .quadrant m q, .module m, .root l.origin]

end Sys2Proof

namespace Sys2Proof.Machine

/-! ## The record (R297) -/

/-- The needs word exceeds the share of R241 (R242). -/
def needsExceed (d : Nat) : Bool :=
  32 < bits d 63 58 || 8 < bits d 57 54 || 32 < bits d 53 48 || 8 < bits d 47 44 || 16 < bits d 43 39 || 8 < bits d 38 35 ||
  32 < bits d 34 29 || 8 < bits d 28 25
/-- The record of 32 doublewords, and whether its fields keep their rules. -/
def launchRecOf (ds : List Nat) (origin : Nat) : LaunchRec × Bool :=
  let d := fun (i : Nat) => ds.getD i 0
  let w := fun (i : Nat) => BitVec.ofNat 64 (d i)
  let mods := bits (d 11) 53 43
  let r : LaunchRec :=
    { entry := BitVec.ofNat 64 (bits (d 0) 51 0), grid := bits (d 1) 63 24, nbv := BitVec.ofNat 8 (d 1 / 2 ^ 16),
      det := (d 1).testBit 15, resident := (d 1).testBit 14, noguard := (d 1).testBit 13, digest := (d 1).testBit 12,
      policy := (d 1).testBit 11, wd := bits (d 2) 63 56, ht := bits (d 2) 55 48, c := bits (d 2) 47 44, s := bits (d 2) 43 41,
      n := bits (d 2) 40 38, needs := [d 3], seed := w 4, sched := w 5, schedLen := bits (d 6) 31 0, graph := w 7,
      nodes := bits (d 8) 15 0, counter := w 9, summary := w 10, m0 := if mods = 0 then origin else bits (d 11) 63 54,
      mods := if mods = 0 then 1 else mods,
      deps := ((List.range 8).map (fun j => (w (12 + 2 * j), w (13 + 2 * j)))).filter (fun p => p.1 ≠ 0) }
  let aligned := fun (a : DWord) (n : Nat) => a = 0 || (a.toNat % n = 0 && formsSync (form a))
  let ok := bits (d 0) 63 52 = 0 && r.entry.toNat % 2 = 0 && Config.userBase ≤ r.entry.toNat && bits (d 1) 10 0 = 0 &&
    bits (d 2) 37 0 = 0 && bits (d 3) 24 0 = 0 && 1 ≤ r.wd && r.wd ≤ 192 && 1 ≤ r.ht && r.ht ≤ 168 && 1 ≤ r.c && r.c ≤ 8 &&
    1 ≤ r.s && r.s ≤ 4 && 1 ≤ r.n && r.n ≤ r.s && (r.sched = 0 || (r.sched.toNat % 64 = 0 && (form r.sched).isVirt)) &&
    bits (d 6) 63 32 = 0 && (r.graph = 0 || (r.graph.toNat % 32 = 0 && (form r.graph).isVirt && r.nodes ≠ 0)) &&
    bits (d 8) 63 16 = 0 && aligned r.counter 8 && aligned r.summary 64 && bits (d 11) 42 0 = 0 &&
    r.deps.all (fun p => aligned p.1 8) && [28, 29, 30, 31].all (fun i => d i = 0) && (!r.digest || (r.det && r.summary ≠ 0))
  (r, ok)
/-- Whether every byte of a span may be accessed by an identity (R298, R333), page by page. -/
def spanAllowed (s : State) (w : Who) (acc : Access) : Nat → DWord → Nat → Option TrapInfo
  | 0, _, _ => none
  | f + 1, a, n =>
    if n = 0 then none
    else
      let len := Nat.min n (65536 - a.toNat % 65536)
      match access s w a (Nat.min len 8) acc with
      | .fault t => some t
      | _ => spanAllowed s w acc f (a + BitVec.ofNat 64 len) (n - len)
/-- The address checks that LAUNCH makes (R298). -/
def recordAddresses (s : State) (w : Who) (r : LaunchRec) : Bool :=
  let ok := fun (a : DWord) (n : Nat) (acc : Access) => a = 0 || (spanAllowed s w acc (n / 65536 + 2) a n).isNone
  r.deps.all (fun p => ok p.1 8 .read) && ok r.counter 8 .readWrite &&
  ok r.summary (if r.digest then 200 + 8 * r.grid else 192) .readWrite

/-! ## The graph (R290, R291) -/

/-- 16-bit numbers read by an identity. -/
def whoHalves (s : State) (w : Who) (a : DWord) : Nat → Except Load (List Nat)
  | 0 => .ok []
  | n + 1 => match readMem s w a 2 with
    | .val v => match whoHalves s w (a + 2) n with
      | .ok l => .ok (v :: l)
      | e => e
    | r => .error r
/-- A node's record and its successors; none where a field breaks R290. -/
def nodeOf (r : LaunchRec) (ds : List Nat) (tab : Nat → Nat → List Nat) : Option Node :=
  let d := fun (i : Nat) => ds.getD i 0
  let kind := bits (d 0) 63 62
  let off := sgn 32 (d 0)
  let first := bits (d 2) 63 32
  let nt := bits (d 2) 31 16
  let nf := bits (d 2) 15 0
  let ok := kind ≠ 3 && bits (d 0) 36 32 = 0 && bits (d 0) 51 37 < r.wd * r.ht && d 3 = 0 && d 0 % 2 = 0 &&
    (if kind = 0 then d 1 = 0 && nf = 0 else bits (d 0) 31 0 = 0 && d 1 % 8 = 0 && !(form (BitVec.ofNat 64 (d 1))).isNone)
  if ok then some { kind := kind, eclass := BitVec.ofNat 2 (d 0 / 2 ^ 60), cluster := bits (d 0) 51 37,
                    entry := r.entry + BitVec.ofInt 64 off, word := BitVec.ofNat 64 (d 1), succT := tab first nt,
                    succF := tab (first + nt) nf, parent := none, left := bits (d 0) 59 52, ins := [], chain := [], ready := none,
                    entered := false, fin := false, pruned := false, iter := 0, bodyLeft := 0, stale := false, guess := false }
  else none
/-- The reads a graph's records and successor table take: `none` where one cannot be read. -/
def graphNodes (s : State) (w : Who) (r : LaunchRec) : Except Load (List (Option Node)) :=
  (List.range r.nodes).foldl (fun acc n => match acc with
    | .error e => .error e
    | .ok l => match whoDwords s w (r.graph + BitVec.ofNat 64 (32 * n)) 4 with
      | .error e => .error e
      | .ok ds =>
        let base := fun (i : Nat) => r.graph + BitVec.ofNat 64 (32 * r.nodes + 2 * i)
        let nd := ds.getD 2 0
        match whoHalves s w (base (bits nd 63 32)) (bits nd 31 16 + bits nd 15 0) with
        | .error e => .error e
        | .ok hs => .ok (l ++ [nodeOf r ds (fun i n => (hs.drop (i - bits nd 63 32)).take n)])) (.ok [])
/-- Whether a graph keeps the rules that tie its nodes together (R291). -/
def graphOk (ns : List Node) : Bool :=
  let names := (ns.map (fun n => n.succT ++ n.succF)).flatten
  names.all (fun t => decide (t < ns.length)) &&
  (ns.mapIdx (fun i n => decide (n.left = names.count i))).all id &&
  ns.all (fun n => n.kind ≠ 2 || n.succT.all (fun t => match ns[t]? with
    | some b => b.kind = 0 && b.left = 1 && b.succT.isEmpty
    | none => false))
/-- The bodies of while nodes know their while node. -/
def withParents (ns : List Node) : List Node :=
  ns.mapIdx (fun i n => { n with parent := ns.findIdx? (fun p => p.kind = 2 && p.succT.contains i) })

/-! ## Placement (R250, R256, R258) -/

/-- The level that places a launch's gangs: the root where it is RESIDENT (R256, R258). -/
def LaunchRec.level (r : LaunchRec) : Nat :=
  if r.resident then 0 else if r.ht ≤ 7 && r.wd ≤ 96 then 3 else if r.ht ≤ 84 && r.wd ≤ 96 then 2 else 1
/-- The areas of a module in which a gang of this size may lie (R256). -/
def LaunchRec.areas (r : LaunchRec) (m : Nat) : List DispNode :=
  if r.ht ≤ 7 && r.wd ≤ 96 then (List.range 48).map (fun i => .band m (i / 12) (i % 12))
  else if r.ht ≤ 84 && r.wd ≤ 96 then (List.range 4).map (fun q => .quadrant m q)
  else [.module m]
/-- A dispatcher that exists in the pod. -/
def nodeExists (s : State) (d : DispNode) : Bool :=
  d.mod < s.modCount && match d with | .quadrant _ q => q < 4 | .band _ q b => q < 4 && b < 12 | _ => true
/-- The slots of a core that no placed gang holds. -/
def freeSlots (s : State) (k : CoreId) : List CtxId :=
  (slotIds k).filter (fun c => !s.gangs.any (fun g => g.2.status.onChip && g.2.held.contains c))
/-- Whether a placed gang of another process holds a cluster (R258, R337). -/
def otherProcess (s : State) (cl : ClusterId) (pid : BitVec 8) : Bool :=
  s.gangs.any (fun g => g.2.status.onChip && g.2.covers cl && (s.launch g.2.launch).pid ≠ pid)
/-- The slots a gang takes in a cluster: `s` on each of `c` cores, the emptiest cores first (R250). -/
def clusterSlots (s : State) (cl : ClusterId) (pid : BitVec 8) (c n : Nat) : Option (List CtxId) :=
  if (s.cluster cl).fenced || otherProcess s cl pid then none
  else
    let free := (List.range 8).map (fun i => (i, freeSlots s ⟨cl, i⟩))
    let byRoom := ([4, 3, 2, 1].map (fun t => free.filter (fun p => p.2.length = t))).flatten
    let cores := ((byRoom.filter (fun p => n ≤ p.2.length)).take c).map (·.1)
    if cores.length < c then none
    else some ((free.filter (fun p => cores.contains p.1)).map (fun p => p.2.take n)).flatten
/-- The slots of a gang at a place of a module, by cluster in row-major order and then by core and slot. -/
def placeAt (s : State) (r : LaunchRec) (pid : BitVec 8) (m x y : Nat) : Option (List CtxId) :=
  (List.range (r.wd * r.ht)).foldl (fun acc i => match acc with
    | none => none
    | some l => (clusterSlots s ⟨m, x + i % r.wd, y + i / r.wd⟩ pid r.c r.s).map (fun t => l ++ t)) (some [])
/-- Whether a rectangle lies in an area. -/
def fitsArea (r : LaunchRec) (d : DispNode) (x y : Nat) : Bool :=
  let (x0, y0, w, h) := d.area
  x0 ≤ x && y0 ≤ y && x + r.wd ≤ x0 + w && y + r.ht ≤ y0 + h
/-- Whether a module can take gangs. -/
def State.answers (s : State) (m : Nat) : Bool := m < s.modCount && (s.module m).clustersOn
/-- The first place of a module at which a gang fits. -/
def findPlace (s : State) (r : LaunchRec) (pid : BitVec 8) (m : Nat) : Option (Nat × Nat × List CtxId) :=
  if !s.answers m then none
  else (r.areas m).findSome? (fun d =>
    let (x0, y0, w, h) := d.area
    (List.range (h + 1 - r.ht)).findSome? (fun j => (List.range (w + 1 - r.wd)).findSome? (fun i =>
      (placeAt s r pid m (x0 + i) (y0 + j)).map (fun l => (x0 + i, y0 + j, l)))))
/-- The modules on which a block may run: one by R251 in deterministic mode, any of the launch's otherwise. -/
def LaunchRec.modulesOf (r : LaunchRec) (b : Nat) : List Nat :=
  if r.det then [r.m0 + b * r.mods / r.grid] else (List.range r.mods).map (fun i => r.m0 + i)
/-- A gang's record, with its room reserved. -/
def reserve (s : State) (l b : Nat) (by_ : DispNode) (m x y : Nat) (held : List CtxId) : State :=
  let r := (s.launch l).rc
  let entries := held.mapIdx (fun i c => (i, c))
  let g : Gang := { Gang.reset with launch := l, block := b, by_ := by_, m := m, x := x, y := y, wd := r.wd, ht := r.ht, held := held,
                                    entries := (entries.filter (fun p => p.1 % r.s < r.n)).map (·.2), status := .running,
                                    nodes := (s.launch l).nodes }
  s.tick.setGang s.fresh g
/-- Every gang of a RESIDENT launch reserved at one moment, block by block, each at the first place (R258). -/
def reserveAll (l : Nat) : Nat → State → Option State
  | 0, s => some s
  | n + 1, s =>
    let x := s.launch l
    let b := x.rc.grid - (n + 1)
    match (x.rc.modulesOf b).findSome? (fun m => (findPlace s x.rc x.pid m).map (fun p => (m, p))) with
    | none => none
    | some (m, a, c, held) => reserveAll l n (reserve s l b (.root x.origin) m a c held)
/-- The same at any places, which are tried in order. -/
def reserveAny (l : Nat) : Nat → State → Option State
  | 0, s => some s
  | n + 1, s =>
    let x := s.launch l
    let b := x.rc.grid - (n + 1)
    (x.rc.modulesOf b).findSome? (fun m => (x.rc.areas m).findSome? (fun d =>
      let (x0, y0, w, h) := d.area
      (List.range (h + 1 - x.rc.ht)).findSome? (fun j => (List.range (w + 1 - x.rc.wd)).findSome? (fun i =>
        if !s.answers m then none
        else (placeAt s x.rc x.pid m (x0 + i) (y0 + j)).bind (fun held =>
          reserveAny l n (reserve s l b (.root x.origin) m (x0 + i) (y0 + j) held))))))
/-- Whether the modules of a launch are whole and empty, so that taking each first place finds room for as many gangs as there is room for. -/
def evenRoom (s : State) (r : LaunchRec) : Bool :=
  let mine := fun (m : Nat) => decide (r.m0 ≤ m) && decide (m < r.m0 + r.mods)
  s.gangs.all (fun g => !(g.2.status.onChip && mine g.2.m)) && s.clusters.all (fun c => !(c.2.fenced && mine c.1.m))
/-- Room for every gang of a RESIDENT launch, if there is any (R258). -/
def reserveGangs (s : State) (l : Nat) : Option State :=
  let r := (s.launch l).rc
  match reserveAll l r.grid s with
  | some t => some t
  | none => if evenRoom s r then none else reserveAny l r.grid s
/-- The blocks of a launch that deterministic mode ties to its `k`-th module, from the first to the one after the last (R251). -/
def LaunchRec.blocksOf (r : LaunchRec) (k : Nat) : Nat × Nat := ((k * r.grid + r.mods - 1) / r.mods, ((k + 1) * r.grid + r.mods - 1) / r.mods)
/-- NO_FIT (R258): gangs that could not be placed on modules otherwise empty, each on one on which its block may run (R251). -/
def noFit (s : State) (x : Launch) : Bool :=
  let e := { s with gangs := [] }
  let fits := fun (k : Nat) => (findPlace e x.rc x.pid (x.rc.m0 + k)).isSome
  let ms := List.range x.rc.mods
  let one := if x.rc.det then ms.all (fun k => (x.rc.blocksOf k).1 = (x.rc.blocksOf k).2 || fits k) else x.rc.grid = 0 || ms.any fits
  !one || (x.rc.resident && (reserveGangs (e.setLaunch s.fresh x) s.fresh).isNone)
/-- The first place in a dispatcher's area at which a gang of a launch can start. -/
def placeIn (s : State) (x : Launch) (d : DispNode) : Option (Nat × Nat) :=
  let (x0, y0, w, h) := d.area
  (List.range (h + 1 - x.rc.ht)).findSome? (fun j => (List.range (w + 1 - x.rc.wd)).findSome? (fun i =>
    (placeAt s x.rc x.pid d.mod (x0 + i) (y0 + j)).map (fun _ => (x0 + i, y0 + j))))
/-- Whether a module answers another: it does, and can be reached (R298, R312). -/
def State.answersTo (s : State) (own m : Nat) : Bool := s.answers m && s.reaches own m
/-- Whether a module may start gangs of a launch: it answers the origin and is in no power state (R26, R378). -/
def State.starts (s : State) (own m : Nat) : Bool := s.answersTo own m && decide ((s.module m).power = .run)
/-- Whether a dispatcher has room for a gang of a launch, in the area of one of those that place its gangs (R256). -/
def hasRoom (s : State) (x : Launch) (d : DispNode) : Bool :=
  s.starts x.origin d.mod && (x.rc.areas d.mod).any (fun a => (a.path x).contains d && (placeIn s x a).isSome)

/-! ## LAUNCH, LCANCEL, LWAIT (R298, R299) -/

/-- Whether an uncompleted launch has a LAUNCHID. -/
def lidTaken (s : State) (v : BitVec 32) : Bool := s.launches.any (fun l => !l.2.fin && l.2.lid = v)
/-- A LAUNCHID that no uncompleted launch of the pod has (R240): the first such among free values (assumption 8), or, should each of those be
taken, the least. -/
def newLid (s : State) : Nat → Nat → BitVec 32
  | 0, _ => (((List.range (s.launches.length + 1)).map (BitVec.ofNat 32)).find? (fun v => !lidTaken s v)).getD 0
  | f + 1, n =>
    let v : BitVec 32 := (Config.freeValue n).setWidth 32
    if lidTaken s v then newLid s f (n + 1) else v
/-- The status LAUNCH finds for a record (R298): 0 where it is accepted. -/
def launchStatus (s : State) (w : Who) (x : Launch) (ok : Bool) (ns : List (Option Node)) : Nat :=
  let r := x.rc
  if !ok || !recordAddresses s w r || ns.any Option.isNone || !graphOk (ns.filterMap id) then 4
  else if !Config.nbvSet.contains r.nbv.toNat then 3
  else if !(List.range r.mods).all (fun i => s.answersTo x.origin (r.m0 + i)) then 5
  else if needsExceed (r.needs.headD 0) then 1
  else if noFit s x then 2 else 0
/-- A launch record admitted from a module, or not: the state then, and LAUNCH's result (R298); none where the graph cannot be read. -/
def admitRecord (s : State) (w : Who) (m : Nat) (img : Option Nat) (ds : List Nat) : Except Load (State × DWord) :=
  let (r, ok) := launchRecOf ds m
  let graph := if ok && r.graph ≠ 0 then graphNodes s w r else .ok []
  match graph with
  | .error e => .error e
  | .ok ns =>
    let x : Launch := { Launch.reset with lid := newLid s (s.launches.length + 1) s.fresh, pid := w.pid, origin := m, rc := r,
                                          nodes := withParents (ns.filterMap id), img := img, fin := false }
    let code := launchStatus s w x ok ns
    if code ≠ 0 then .ok (s, BitVec.ofNat 64 (code * 2 ^ 56))
    else
      let s := { s with fresh := s.fresh + s.launches.length + 2 }.setLaunch s.fresh x
      let started := fun (s : State) (i : Nat) => s.modModule (r.m0 + i) (fun y => { y with started := true })
      .ok ((List.range r.mods).foldl started s, x.lid.setWidth 64)
/-- LAUNCH, its record read (R298). -/
def launchWith (st : State) (rd : BitVec 5) (ds : List Nat) : State :=
  let m := st.me.core.cl.m
  match admitRecord st (st.whoIs st.me) m (st.launchOf st.me).img ds with
  | .error (.fault t) => st.raise t
  | .error _ => st.park (.reissue [(launchRecOf ds m).1.graph])
  | .ok (t, v) => t.done (t.cx.wa rd v)
/-- LAUNCH (R298). -/
def execLaunch (s : Bool) (rd rs1 : BitVec 5) (imm : BitVec 12) (st : State) : Out State :=
  .next (issue { s := s, parks := true, a := [rs1] } st fun st =>
    let ea := st.cx.ra rs1 + imm.signExtend 64
    let fm := form ea
    if ea.toNat % 64 ≠ 0 then st.raise (trapInfo 0x040 ea)
    else if !fm.isPriv && !fm.isVirt then st.raise (trapInfo 0x041 ea)
    else match (if fm.isPriv then recordCheck st st.me ea 64 256 else none) with
      | some t => st.raise t
      | none => match readDwords st st.me ea 32 with
        | .error (.fault t) => st.raise t
        | .error _ => st.park (.reissue [ea])
        | .ok ds => if st.cx.rb.all (fun e => e.returned) then launchWith st rd ds else st.park .marker)
/-- The uncompleted launch that an id names for a process, among those `p` accepts. -/
def findLaunch (s : State) (pid : BitVec 8) (lid : BitVec 32) (p : Launch → Bool) : Option Nat :=
  (s.launches.find? (fun l => !l.2.fin && l.2.lid = lid && l.2.pid = pid && p l.2)).map (·.1)
/-- LCANCEL (R299): the cancel goes to the launch's origin, and is refused where that cannot be reached (R206, R312; assumption 59). -/
def execLcancel (s : Bool) (rs1 : BitVec 5) (kill : Bool) (st : State) : Out State :=
  .next (issue { s := s, parks := true, a := [rs1] } st fun st =>
    match findLaunch st st.self.pid ((st.cx.ra rs1).setWidth 32) (fun l => l.cancel.isNone) with
    | none => st.finish
    | some l =>
      if st.reaches st.cur.cl.m (st.launch l).origin then (st.modLaunch l (fun x => { x with cancel := some kill })).finish
      else st.raise (trapInfo 0x051))
/-- LWAIT (R299). -/
def execLwait (s : Bool) (rd rs1 : BitVec 5) (st : State) : Out State :=
  .next (issue { s := s, a := [rs1] } st fun st =>
    let m := st.cur.cl.m
    let lid : BitVec 32 := (st.cx.ra rs1).setWidth 32
    match findLaunch st st.self.pid lid (fun l => l.origin = m) with
    | some _ => st.park (.launchEnd lid)
    | none => match (st.module m).kept.find? (fun k => k.1 = st.self.pid && k.2.1 = lid) with
      | some k => st.done (st.cx.wa rd k.2.2)
      | none => st.raise (trapInfo 0x0E0))

/-! ## The dispatchers (R256, R257) -/

/-- The dependence that stops a launch: its counter cannot be read, or has not reached its target. -/
inductive Deps where
  | met
  | waits
  | refused (code : BitVec 9) (a : DWord)
  deriving DecidableEq, Repr
def depsOf (s : State) (l : Launch) : List (DWord × DWord) → Deps
  | [] => .met
  | (a, t) :: r => match readMem s l.who a 8 with
    | .fault f => .refused f.code a
    | .retry => .waits
    | .val v => if v < t.toNat then .waits else depsOf s l r
/-- Bit SERIAL of a launch's digest table (R368); none while its read is refused with RETRY (R361). -/
def serialBit (s : State) (l : Launch) : Option Bool :=
  if !l.rc.digest then some false
  else match readMem s l.who l.table 8 with | .val v => some (v.testBit 1) | .retry => none | .fault _ => some false
/-- The ranges a launch enters the queues with: all at the root, or by module in deterministic mode (R251, R256). -/
def firstRanges (l : Launch) : List (DispNode × List (Nat × Nat)) :=
  let n := l.rc.grid
  if n = 0 then []
  else if l.rc.det && !l.rc.resident then
    (List.range l.rc.mods).map (fun k =>
      (.module (l.rc.m0 + k), [l.rc.blocksOf k]))
  else [(.root l.origin, [(0, n)])]
/-- Whether a launch issued earlier at the same origin has its dependences met and is still to enter the queues (R257). -/
def issuedBefore (s : State) (l : Nat) : Bool :=
  (s.launches.takeWhile (fun y => y.1 ≠ l)).any (fun y =>
    y.2.origin = (s.launch l).origin && !y.2.fin && y.2.queued.isNone && match depsOf s y.2 y.2.rc.deps with | .waits => false | _ => true)
/-- A launch's dependences are met: it enters the dispatchers' queues, in issue order, or completes with every block withdrawn where it is
cancelled or a counter is refused (R257, R263). -/
def execLaunchDependenceMet (l : Nat) (st : State) : Out State :=
  let x := st.launch l
  .next (
    if x.fin || x.queued.isSome || issuedBefore st l then st
    else match depsOf st x x.rc.deps with
      | .waits => st
      | .refused code a => st.tick.setLaunch l { x with queued := some st.fresh, withdrawn := x.rc.grid, depFault := some (code, a),
                                                        endCause := code :: x.endCause }
      | .met =>
        if x.cancel.isSome then st.tick.setLaunch l { x with queued := some st.fresh, withdrawn := x.rc.grid }
        else match serialBit st x with
          | none => st
          | some b => st.tick.setLaunch l { x with queued := some st.fresh, ranges := firstRanges x, serial := b })
/-- Whether a dispatcher takes part in a launch. -/
def nodeServes (s : State) (l : Launch) (d : DispNode) : Bool :=
  nodeExists s d && d.level ≤ l.rc.level && match d with
    | .root m => m = l.origin
    | _ => l.rc.m0 ≤ d.mod && d.mod < l.rc.m0 + l.rc.mods
/-- The blocks a dispatcher holds unstarted. -/
def Launch.blocksAt (l : Launch) (d : DispNode) : Nat := ((kget l.ranges d []).map (fun r => r.2 - r.1)).sum
/-- The first `n` blocks of ascending ranges, and what is left. -/
def takeBlocks : Nat → List (Nat × Nat) → List (Nat × Nat) × List (Nat × Nat)
  | _, [] => ([], [])
  | n, (a, b) :: r =>
    if n = 0 then ([], (a, b) :: r)
    else if b - a ≤ n then let t := takeBlocks (n - (b - a)) r; ((a, b) :: t.1, t.2)
    else ([(a, a + n)], (a + n, b) :: r)
/-- A child dispatcher that has room asks for more, and is dealt the next sub-range (R256). -/
def execBlockRangeRequest (node : DispNode) (l : Nat) (st : State) : Out State :=
  let x := st.launch l
  .next (match node.parent x with
    | none => st
    | some (p, kids) =>
      if x.fin || x.queued.isNone || !nodeServes st x node || x.handled.contains node || x.handled.contains p || !hasRoom st x node ||
        x.blocksAt p = 0 then st
      else
        let n := Nat.max 1 ((x.blocksAt p + 2 * kids - 1) / (2 * kids))
        let t := takeBlocks n (kget x.ranges p [])
        st.setLaunch l { x with ranges := kset (kset x.ranges p t.2) node (kget x.ranges node [] ++ t.1) })
/-- Whether a launch names a module. -/
def LaunchRec.names (r : LaunchRec) (m : Nat) : Bool := decide (r.m0 ≤ m) && decide (m < r.m0 + r.mods)
/-- Whether a launch still holds unstarted blocks that keep a later launch's from starting at a module: at the dispatcher `d`, or, where the later
launch is RESIDENT and starts on the whole module, at any (R257, R258). -/
def holdsAhead (s : State) (d : Option DispNode) (m : Nat) (y : Launch) : Bool :=
  !y.fin && y.rc.names m &&
  if y.rc.resident then y.ranges.any (fun r => !r.2.isEmpty)
  else match d with
    | some d => nodeServes s y d && (d.path y).any (fun p => y.blocksAt p ≠ 0)
    | none => y.ranges.any (fun r => !r.2.isEmpty && match r.1 with | .root _ => true | p => p.mod = m)
/-- Whether no earlier launch of a dispatcher's queue, or, for a RESIDENT launch, of the queues of its modules, holds an unstarted block. -/
def inTurn (s : State) (d : DispNode) (l : Nat) : Bool :=
  let x := s.launch l
  match x.queued with
  | none => false
  | some q =>
    let ahead := fun (y : Launch) =>
      if x.rc.resident then (List.range x.rc.mods).any (fun i => holdsAhead s none (x.rc.m0 + i) y) else holdsAhead s (some d) d.mod y
    s.launches.all (fun y => y.1 = l || match y.2.queued with
      | some r => q ≤ r || !ahead y.2
      | none => true)

/-! ## Gang start (R258, R325, R326, R337) -/

/-- A cluster taken by a process: where its last gang's was another, its weight buffer is zeroed and its buffers are emptied
(R337). -/
def takeCluster (s : State) (cl : ClusterId) (pid : BitVec 8) : State :=
  let c := s.cluster cl
  if c.lastPid = some pid then s
  else
    let s := clearBytes s (wbufLoc cl 0) 0x10000
    s.setCluster cl { c with lastPid := some pid, drafts := [], pool := [], conds := [] }
/-- Stream reservations on outputs that join two clusters of a gang give way to EXCH (R306). -/
def takeOutputs (s : State) (g : Gang) : State :=
  s.modModule g.m (fun m => { m with slotTab := m.slotTab.filter (fun e =>
    !(g.covers e.1.1 && (neighbour g e.1.1 e.1.2.1).isSome)) })
/-- A reserved gang starts: its clusters are taken, its walkers begin, and its entry tasks are dispatched in index order (R240, R247,
R291). -/
def openGang (s : State) (g : Nat) : State :=
  let x := s.gang g
  let l := s.launch x.launch
  let s := takeOutputs (x.clusters.foldl (fun s cl => takeCluster s cl l.pid) s) x
  let s := if l.rc.sched = 0 then s else
    x.clusters.foldl (fun s cl => s.modCluster cl (fun c => { c with walk := kset c.walk g (walkInit s g) })) s
  let e := l.rc.wd * l.rc.ht * l.rc.c * l.rc.n
  let s := (x.entries.mapIdx (fun i c => (i, c))).foldl (fun s p =>
    dispatch s.tick p.2 g { taskId := BitVec.ofNat 64 (x.block * e + p.1), entry := l.rc.entry, role := .entry, uid := s.fresh }) s
  let s := (List.range x.nodes.length).foldl (fun s i =>
    modNode s.tick g i (fun n => if n.left = 0 then { n with ready := some s.fresh, ins := [⟨[], none, none⟩] } else n)) s
  feedPools s g
/-- Whether a serialised launch has a block running (R372). -/
def blockRuns (s : State) (l : Nat) : Bool :=
  s.gangs.any (fun g => g.2.launch = l && match g.2.status with | .killed => false | .retired => false | _ => true)
/-- Whether a block below `a` is still to start: a serialised launch starts its blocks in ascending order (R372). -/
def Launch.startsBefore (l : Launch) (a : Nat) : Bool := l.ranges.any (fun p => p.2.any (fun r => decide (r.1 < a) && decide (r.1 < r.2)))
/-- A dispatcher starts the next block of a launch at a place that is free, or every gang of a RESIDENT launch at once (R258,
R326). -/
def execGangStart (node : DispNode) (l x y : Nat) (st : State) : Out State :=
  let r := st.launch l
  .next (
    if r.fin || !nodeServes st r node || node.level ≠ r.rc.level || r.handled.contains node || !inTurn st node l then st
    else match kget r.ranges node [] with
      | [] => st
      | (a, b) :: rest =>
        if r.rc.resident then
          if !(List.range r.rc.mods).all (fun i => st.starts r.origin (r.rc.m0 + i)) then st
          else match reserveGangs (st.setLaunch l { r with ranges := [] }) l with
          | none => st
          | some s => (List.range (s.fresh - st.fresh)).foldl (fun s i => openGang s (st.fresh + i)) s
        else if (r.serial && (blockRuns st l || r.startsBefore a)) || !fitsArea r.rc node x y || !st.starts r.origin node.mod then st
        else match placeAt st r.rc r.pid node.mod x y with
          | none => st
          | some held =>
            let left := if a + 1 < b then (a + 1, b) :: rest else rest
            openGang (reserve (st.setLaunch l { r with ranges := kset r.ranges node left }) l a node node.mod x y held) st.fresh)

/-! ## Kills and task faults (R138, R229, R262, R281) -/

/-- An engine job ended by a kill of its gang (R138, R229): a copy entry whose transfer is made completes, and one that is not has not started
(assumption 57). -/
def killJob (s : State) (cl : ClusterId) (uid : Nat) : State :=
  match (s.cluster cl).job uid with
  | none => s
  | some j => match j.kind with
    | .matrix _ d _ _ => mxFail s cl j d 6
    | .copy i e =>
      if j.worked then (match execCopyEntryComplete cl uid s with | .next t => t | _ => s) else copyFail s cl j i e 3 0
    | .oneSided d => osEnd s cl { j with status := j.status ||| stTarget } d
/-- A part of a Kettle command that a kill ends, where the command has not begun (R229). -/
def killPart (s : State) (p : KPart) : State :=
  if (s.slot p.owner).cx.kcmds.any (fun e => e.uid = p.cuid && e.state = .queued) then
    kEnd { s with sent := s.sent.filter (fun x => x.uid ≠ p.uid) } p.m p.idx { p with kind := 6 }
  else s
/-- A gang killed: its engine work ends, its tasks stop, and its block is counted as killed; its launch loses a member (R262,
R281). -/
def killGang (s : State) (g : Nat) : State :=
  let x := s.gang g
  match x.status with
  | .killed => s
  | .retired => s
  | _ =>
    let open_ := (members s x.launch).any (fun h => (liveEntries s h).any (fun c =>
      match (s.slot c).atColl with | some r => r.k = (s.launch x.launch).closed | none => false))
    let s := s.modGang g (fun y => { y with status := .killed })
    let s := ((s.jobs.filter (fun p => p.2.gang = g)).map (fun p => (p.1, p.2.uid))).foldl (fun s p => killJob s p.1 p.2) s
    let s := (s.allParts.filter (fun p => p.gang = g)).foldl killPart s
    let mine := x.held.filter (fun c => decide ((s.slot c).gang = some g))
    let s := mine.foldl pruneSlot s
    let s := freeGang s g
    let s := s.modGang g (fun y => { y with overflow := [] })
    s.modLaunch x.launch (fun l =>
      { l with killed := l.killed + 1, cmgen := l.cmgen + (if l.rc.resident then 1 else 0), lost := l.lost || open_ })
/-- A task fault: the record, the kill of the gang, and under policy LAUNCH the cancel of the launch (R262). -/
def taskFault (s : State) (c : CtxId) : State :=
  let sl := s.slot c
  match sl.gang with
  | none => s
  | some g =>
    let l := (s.gang g).launch
    let f : FaultRec := { block := (s.gang g).block, taskId := sl.taskId, epc := sl.epc, eaddr := sl.eaddr, einfo := sl.einfo, ctx := c,
                          cause := sl.cause.setWidth 9 }
    let s := if sl.digestSeen && f.cause = 0x170 then s else recordFaultOf s l f
    let s := killGang s g
    if (s.launch l).rc.policy then
      s.modLaunch l (fun x => { x with cancel := match x.cancel with | none => some true | some v => some v })
    else s
/-- A dispatcher handles a cancel, after the one above it: what it holds is withdrawn, and under KILL the gangs it started are
killed (R263). -/
def execCancelAtDispatcher (node : DispNode) (l : Nat) (st : State) : Out State :=
  let x := st.launch l
  .next (match x.cancel with
    | none => st
    | some kill =>
      let above := match node.parent x with | none => true | some p => x.handled.contains p.1
      if x.fin || x.queued.isNone || !nodeServes st x node || x.handled.contains node || !above then st
      else
        let s := st.setLaunch l { x with handled := node :: x.handled, withdrawn := x.withdrawn + x.blocksAt node,
                                         ranges := kset x.ranges node [] }
        if kill then
          (s.gangs.filter (fun g => g.2.launch = l && g.2.by_ = node)).foldl (fun s g => killGang s g.1) s
        else s)

/-! ## Completion (R260, R261) -/

/-- Doubleword 20 of a summary. -/
def faultWord (f : FaultRec) : Nat :=
  f.ctx.core.cl.m * 2 ^ 54 + f.ctx.core.cl.y * 2 ^ 46 + f.ctx.core.cl.x * 2 ^ 38 + f.ctx.core.n * 2 ^ 35 + f.ctx.who.val * 2 ^ 33 +
  f.cause.toNat
/-- The earlier of two fault records by block and TASKID. -/
def earlierFault (f h : FaultRec) : Bool := decide (f.block < h.block) || (f.block = h.block && f.taskId.ult h.taskId)
/-- The least element of a list under an order. -/
def leastBy {α : Type} (lt : α → α → Bool) : List α → Option α
  | [] => none
  | a :: r => match leastBy lt r with
    | none => some a
    | some b => if lt b a then some b else some a
/-- The first fault record; of a refused dependence the manual names only TASKID, EADDR and the cause, and the rest are free values
(assumption 8). -/
def firstFault (s : State) (l : Launch) : List Nat :=
  let ones := 2 ^ 64 - 1
  match l.depFault, leastBy earlierFault l.faults with
  | some (code, a), _ =>
    let free := fun (i : Nat) => (Config.freeValue (s.fresh + i)).toNat
    [ones, free 0, a.toNat, free 1, free 2 / 2 ^ 33 * 2 ^ 33 + code.toNat]
  | none, some f => [f.taskId.toNat, f.epc.toNat, f.eaddr.toNat, f.einfo.toNat, faultWord f]
  | none, none => [ones, ones, ones, ones, ones]
/-- The completion status: 0 DONE, 1 FAULTED, 2 CANCELLED (R260). -/
def Launch.status (l : Launch) : Nat :=
  if l.cancel.isSome then 2 else if l.nfaults ≠ 0 || !l.endCause.isEmpty then 1 else 0
/-- Doubleword 0 of a summary. -/
def Launch.word (l : Launch) : Nat := l.status * 2 ^ 62 + l.nfaults
/-- The summary (R261). -/
def summaryOf (s : State) (l : Launch) : List Nat :=
  let causes := l.faults.map (fun f => f.cause.toNat) ++ l.endCause.map (fun c => c.toNat)
  let set := (List.range 6).map (fun g => (causes.filter (fun c => c / 64 = g)).foldl (fun a c => a ||| 2 ^ (c % 64)) 0)
  let low := (List.range 6).map (fun g =>
    match leastBy (fun a b => decide (a.block < b.block)) (l.faults.filter (fun f => f.cause.toNat / 64 = g)) with
    | some f => f.ctx.core.cl.m * 2 ^ 54 + f.block
    | none => 2 ^ 64 - 1)
  [l.word, l.retired, l.withdrawn, l.killed] ++ set ++ low ++ firstFault s l ++ [0, 0, 0]
/-- A counter incremented by an identity. -/
def whoIncr (s : State) (w : Who) (a : DWord) : Put :=
  match access s w a 8 .readWrite with
  | .fault t => .refused t.code
  | .retry => .retry
  | .loc l => match s.homeRead l 8 with
    | none => .refused 0x050
    | some v => .ok (s.write l 8 ((v + 1) % 2 ^ 64))
/-- The summary written; one that reaches a poisoned unit is not (R260). -/
def summaryPut (s : State) (w : Who) (a : DWord) (ds : List Nat) : Put :=
  match whoWrite s w a ds with
  | .ok t =>
    let marked := fun (i : Nat) => match access s w (a + BitVec.ofNat 64 (8 * i)) 8 .write with | .loc l => s.poisoned l 8 | _ => false
    if (List.range ds.length).any marked then .refused 0x050 else .ok t
  | x => x
/-- A refusal at completion joins the cause set, and the service cores count it (R260). -/
def completionRefused (s : State) (l : Nat) (code : BitVec 9) : State :=
  (s.modLaunch l (fun x => { x with endCause := code :: x.endCause })).countError (s.launch l).origin code
/-- The final doubleword 0 kept for LWAIT, of the 1,024 most recent of each process, each counted (R299). -/
def keepWord (m : Module) (pid : BitVec 8) (lid : BitVec 32) (v : DWord) : Module :=
  let mine := ((pid, lid, v) :: m.kept.filter (fun k => k.1 = pid)).take 1024
  { m with kept := mine ++ m.kept.filter (fun k => k.1 ≠ pid) }
/-- The blocks of a launch whose digest waits for its table (R361, R370). -/
def formDigests (s : State) (l : Nat) : State :=
  (s.gangs.filter (fun g => g.2.launch = l && !g.2.digested)).foldl (fun s g => endNode s g.1) s
/-- Every block has ended: the summary, the completion counter, and the end of the launch (R260). -/
def execLaunchComplete (l : Nat) (st : State) : Out State :=
  let x := st.launch l
  .next (
    if x.fin || x.queued.isNone then st
    else if x.retired + x.withdrawn + x.killed ≠ x.rc.grid then (if x.rc.digest then formDigests st l else st)
    else
      let one := if x.rc.summary = 0 then Put.ok st else summaryPut st x.who x.rc.summary (summaryOf st x)
      match one with
      | .retry => st
      | _ =>
        let s := match one with | .ok s => { s with fresh := s.fresh + 3 } | .refused c => completionRefused st l c | .retry => st
        let two := if x.rc.counter = 0 then Put.ok s else whoIncr s x.who x.rc.counter
        match two with
        | .retry => st
        | _ =>
          let s := match two with | .ok s => s | .refused c => completionRefused s l c | .retry => s
          let y := s.launch l
          (s.setLaunch l { y with fin := true }).modModule y.origin (fun m =>
            keepWord m y.pid y.lid (BitVec.ofNat 64 y.word)))

/-! ## RETIRE (R285) -/

/-- Whether a task's engine work is not at an end: a job that it submitted, or that names a tile of its slot, or a part of one of its Kettle
commands (R285). -/
def workPending (s : State) (c : CtxId) : Bool :=
  s.jobs.any (fun p => p.2.owner = c || p.2.tiles.any (fun t => t.1 = c)) || s.allParts.any (fun p => p.owner = c)
/-- Whether a context is the last of its gang's tasks, nodes and segments to retire. -/
def lastOfGang (s : State) (g : Nat) (c : CtxId) : Bool :=
  let x := s.gang g
  let mine := match (s.slot c).role with | .node n _ => some n | _ => none
  x.held.all (fun d => decide (d = c) || decide ((s.slot d).gang ≠ some g)) &&
  s.clusters.all (fun k => k.2.pool.all (fun p => p.gang ≠ g)) &&
  (x.nodes.mapIdx (fun i n => n.fin || mine = some i)).all id
/-- A task at its RETIRE as a fault of its block would name it (R261, R371). -/
def Slot.asFault (sl : Slot) (c : CtxId) : FaultRec :=
  { block := 0, taskId := sl.taskId, epc := sl.cx.pc, eaddr := 0, einfo := sl.einfo, ctx := c, cause := 0 }
/-- A task has retired: its node completes, its slot is empty, and its gang goes on without it (R233, R252, R285). -/
def retireSlot (s : State) (c : CtxId) (g : Nat) : State :=
  let sl := s.slot c
  let s := s.modGang g (fun x => { x with digests := (sl.taskId, sl.digest) :: x.digests, last := some (sl.asFault c) })
  let s := s.setSlot c sl.clear
  let s := match sl.role with | .node n _ => nodeRetired s g n | .entry => entryLeft s g | .segment => s
  s.settle g
/-- RETIRE (R285): it acts as a switch marker, whatever its S bit. Running patterns are halted before the check that may trap with DIGEST_MISMATCH
(R371), and stay halted if it does (assumption 60). -/
def execRetire (_s : Bool) (st : State) : Out State :=
  .next (issue { s := true, control := true, parks := true } st fun st =>
    let c := st.me
    let g := st.myGang
    let sl := st.self
    if st.isEntry && sl.cycOwn then st.raise (trapInfo 0x168)
    else
      let halt := fun (p : Pattern) => if p.state = .running then { p with state := .defined, pos := 0, flt := none } else p
      let st := st.setCx { st.cx with pats := st.cx.pats.map halt }
      if workPending st c then st.park .work
      else
        let retire := fun (s : State) => switchPoint (retireSlot s c g) s.cur
        let digested := fun (s : State) => s.modGang g (fun x => { x with digested := true })
        if (st.launchOf c).rc.digest && !(st.gang g).digested && lastOfGang st g c then
          match digestBlock st g ((sl.taskId, sl.digest) :: (st.gang g).digests) (sl.asFault c) with
          | .ok s => retire (digested s)
          | .retry => st.park (.reissue [])
          | .mismatch s a => ((digested s).setSelf { s.self with digestSeen := true }).raise (trapInfo 0x170 a)
        else retire st)

end Sys2Proof.Machine
end

