-- ==== Sys2Proof/Machine/System.lean ====
section
/-! DEFINITION. The system group (R353 to R357), what the handler context and the service cores do with a trapped slot (R348,
R351, R352, R362), the traps that arise between instructions (R245, R246, R346, R349), and the returns that an instruction waits
for (R47, R106, R243, R361). -/

namespace Sys2Proof.Machine

/-! ## SYSRD and SYSWR (R353 to R355) -/

/-- The slot that the handler context of a core works for, while its task is the one that trapped (R350, R352). -/
def State.mirror (s : State) (k : CoreId) : Option CtxId :=
  let c : CtxId := ⟨k, Fin.ofNat 5 (s.core k).hslot.val⟩
  if (s.slot c).uid = (s.core k).huid && decide ((s.slot c).phase ≠ .idle) then some c else none
/-- A register by its selector, as the handler context reads it. -/
def selectorRead (s : State) (k : CoreId) (sel : Nat) : DWord :=
  let x := s.core k
  if sel < 0x20 then sysRead s ⟨k, 4⟩ sel
  else if sel = 0x20 then x.tvec
  else if sel = 0x21 then BitVec.ofNat 64 x.hslot.val
  else if sel = 0x22 then x.tscr0
  else if sel = 0x23 then x.tscr1
  else match s.mirror k with
    | none => 0
    | some c => if sel < 0x120 then sysRead s c (sel - 0x100) else (s.slot c).cx.ra (BitVec.ofNat 5 (sel - 0x140))
/-- SYSRD (R354, R355): always a switch marker. -/
def execSysrd (_s : Bool) (rd : BitVec 5) (sel : BitVec 12) (st : State) : Out State :=
  .next (issue { s := true, hOk := true, xOk := true } st fun st =>
    if st.me.who = 4 then st.done (st.cx.wa rd (selectorRead st st.cur sel.toNat))
    else if sel.toNat < 0x20 then st.done (st.cx.wa rd (sysRead st st.me sel.toNat))
    else st.raise (trapInfo 0x018))
/-- The selectors that the handler context writes (R354). -/
def handlerWrites (sel : Nat) : Bool :=
  if sel < 0x20 then sysWritable sel
  else if sel < 0x100 then 0x20 ≤ sel && sel ≤ 0x23
  else if sel < 0x120 then sysWritable (sel - 0x100)
  else 0x140 ≤ sel && sel < 0x160
/-- A register written by its selector in the handler context. -/
def selectorWrite (s : State) (k : CoreId) (sel : Nat) (v : DWord) : State :=
  if sel < 0x20 then sysWrite s ⟨k, 4⟩ sel v
  else if sel = 0x20 then s.modCore k (fun x => { x with tvec := v })
  else if sel = 0x21 then
    let h := Fin.ofNat 4 v.toNat
    s.modCore k (fun x => { x with hslot := h, huid := (s.slot ⟨k, Fin.ofNat 5 h.val⟩).uid })
  else if sel = 0x22 then s.modCore k (fun x => { x with tscr0 := v })
  else if sel = 0x23 then s.modCore k (fun x => { x with tscr1 := v })
  else match s.mirror k with
    | none => s
    | some c =>
      if sel < 0x120 then sysWrite s c (sel - 0x100) v
      else s.modCx c (fun cx => cx.putA (BitVec.ofNat 5 (sel - 0x140)) v none)
/-- SYSWR (R354, R355): always a switch marker. -/
def execSyswr (_s : Bool) (rs1 : BitVec 5) (sel : BitVec 12) (st : State) : Out State :=
  .next (issue { s := true, hOk := true, a := [rs1] } st fun st =>
    let v := st.cx.ra rs1
    let n := sel.toNat
    if st.me.who = 4 then
      if handlerWrites n then (noteReserved (selectorWrite st st.cur n v) st.me (n % 0x100) v).finish
      else st.raise (trapInfo 0x019)
    else if n = 0x0E then (noteReserved (sysWrite st st.me n v) st.me n v).finish
    else if n < 0x20 then st.raise (trapInfo 0x019)
    else st.raise (trapInfo 0x018))

/-! ## TRAP, BRK, WDOG, PWRHINT, ERET (R352, R356, R357) -/

/-- TRAP (R356). -/
def execTrap (s : Bool) (rs1 : BitVec 5) (code : BitVec 12) (st : State) : Out State :=
  .next (issue { s := s, control := true, a := [rs1] } st fun st =>
    st.raise { trapInfo (code.setWidth 9) (st.cx.ra rs1) with sw := true })
/-- BRK (R357). -/
def execBrk (s : Bool) (n : BitVec 8) (st : State) : Out State :=
  .next (issue { s := s } st fun st => st.raise (trapInfo 0x148 (n.setWidth 64)))
/-- WDOG: rs1 = a0 leaves the limit (R357). -/
def execWdog (s : Bool) (rd rs1 : BitVec 5) (st : State) : Out State :=
  .next (issue { s := s, a := [rs1] } st fun st =>
    let sl := st.self
    let left := sl.wlimit - sl.wcount
    let limit := if rs1 = 0 then sl.wlimit else Nat.min sl.wlimit (st.cx.ra rs1).toNat
    let st := st.setSelf { sl with wlimit := limit }
    st.done (st.cx.wa rd (BitVec.ofNat 64 left)))
/-- PWRHINT (R357). -/
def execPwrhint (s : Bool) (c : BitVec 8) (st : State) : Out State :=
  .next (issue { s := s } st fun st => (st.setSelf { st.self with eclass := c.setWidth 2 }).finish)
/-- A slot goes on at its EPC with its watchdog count 0 (R352); the second half of a BARAW is kept only where EPC still names it
(R212). -/
def Slot.resume (sl : Slot) : Slot :=
  { sl with phase := .live, wait := none, wcount := 0, barawAt := if sl.epc = (trapPc sl.cx).1 then sl.barawAt else none,
            cx := { sl.cx with pc := sl.epc, delay := none } }
/-- What ERET's mode does to a slot: 0 RESUME, 1 END, 2 FORWARD (R352). -/
def endTrap (s : State) (c : CtxId) (mode : BitVec 2) : State :=
  if mode = 0 then s.modSlot c Slot.resume
  else if mode = 1 then taskFault s c
  else s.modSlot c (fun sl => { sl with phase := .forwarded })
/-- ERET (R352, R357): it has no effect on a slot whose task has been killed. -/
def execEret (s : Bool) (mode : BitVec 2) (st : State) : Out State :=
  .next (issue { s := s, control := true, hOk := true } st fun st =>
    if st.me.who ≠ 4 then st.raise (trapInfo 0x018)
    else
      let k := st.cur
      let s := match st.mirror k with
        | some c => if (st.slot c).phase = Phase.trapped then endTrap st c mode else st
        | none => st
      switchPoint (s.modSlot ⟨k, 4⟩ (fun sl => { sl with phase := .idle, wcount := 0 })) k)

/-! ## The handler context and the service cores (R348, R351, R362) -/

/-- An idle handler context takes the head of the trap queue (R348). -/
def execHandlerDispatch (k : CoreId) (st : State) : Out State :=
  let c := st.core k
  .next (match c.trapq with
    | [] => st
    | w :: r =>
      if (st.slot ⟨k, 4⟩).phase ≠ .idle || c.halted then st
      else
        let st := st.modCore k (fun x => { x with trapq := r, hslot := Fin.ofNat 4 w.val, huid := (st.slot ⟨k, w⟩).uid })
        st.modSlot ⟨k, 4⟩ (fun sl => { sl with phase := .live, wait := none, wcount := 0,
                                               cx := { sl.cx with pc := c.tvec, delay := none } }))
/-- The watchdog of the handler context expires (R351). -/
def execHandlerWatchdogExpiry (k : CoreId) (st : State) : Out State :=
  let sl := st.slot ⟨k, 4⟩
  .next (if sl.phase = .live && decide ((st.core k).hwdog.toNat ≤ sl.wcount) then doubleTrap st k (trapInfo 0x140) else st)
/-- A service core writes TVEC, which also releases a halted handler context (R351). -/
def execTvecWrite (k : CoreId) (va : DWord) (st : State) : Out State :=
  .next (st.modCore k (fun x => { x with tvec := va, halted := false }))
/-- A service core resumes a FORWARDED slot (R362). -/
def execSlotctlResume (c : CtxId) (st : State) : Out State :=
  .next (if c.who ≠ 4 && (st.slot c).phase = .forwarded then endTrap st c 0 else st)
/-- A service core ends a FORWARDED slot's task (R362). -/
def execSlotctlEnd (c : CtxId) (st : State) : Out State :=
  .next (if c.who ≠ 4 && (st.slot c).phase = .forwarded then endTrap st c 1 else st)
/-- A register of a slot's image written while the slot is FORWARDED, by the handler context of a core or by a service core; a nonzero write to
its reserved bits is remembered (R8, R354, R362). -/
def imageWrite (s : State) (by_ : Option CoreId) (c : CtxId) (n : Nat) (v : DWord) : State :=
  if (s.slot c).phase ≠ .forwarded then s
  else if n < 32 then
    (if sysWritable n then noteReserved (sysWrite s c n v) (match by_ with | some k => ⟨k, 4⟩ | none => c) n v else s)
  else if n < 64 then s.modCx c (fun cx => cx.putA (BitVec.ofNat 5 (n - 32)) v none)
  else s
/-- A register with no behaviour of its own written by a service core or the host (R330, R338, R362, R377). -/
def setRegister (r : SysReg) (v : DWord) (st : State) : State :=
  match r with
  | .hwdog k => st.modCore k (fun x => { x with hwdog := v })
  | .qdefault k => st.modCore k (fun x => { x with qdefault := v })
  | .wdefault k => st.modCore k (fun x => { x with wdefault := v })
  | .slotImage c n => imageWrite st none c n v
  | .pidEntry m pid => st.modModule m (fun x => { x with pids := kset x.pids pid v })
  | .lattol m => setLattol st m v
  | .pwrbud m q => setBudget st m q.toNat v
  | .windowBase m => st.modModule m (fun x => { x with wbase := v })
  | .windowPid m => st.modModule m (fun x => { x with wpid := v.setWidth 8 })
  | .mailbox m n => st.modModule m (fun x => { x with mailboxes := kset x.mailboxes n v })
  | .msix m n w => st.modModule m (fun x => { x with msix := kset x.msix (n, w) (v.setWidth 32) })
/-- The module whose BAR 0 holds a register (R338). -/
def bar0Of : SysReg → Option Nat | .lattol m => some m | .mailbox m _ => some m | .msix m _ _ => some m | _ => none
/-- Whether a module is in a power state that it must leave for a request. -/
def sleeps (s : State) (m : Nat) : Bool := decide ((s.module m).power ≠ .run)
/-- A request is held by a module in a power state, which begins its exit where the request wakes it (R378). -/
def holdRequest (s : State) (m : Nat) (h : HeldReq) (wakes : Bool := true) : State :=
  s.modModule m (fun x => { x with waking := x.waking || wakes, heldReqs := x.heldReqs ++ [h] })
/-- A write of a register; a host write of BAR 0 wakes a module in a power state, and is held until then (R378). -/
def execSystemWindowWrite (r : SysReg) (v : DWord) (st : State) : Out State :=
  .next (match bar0Of r with
    | some m => if sleeps st m then holdRequest st m (.bar0 r v) else setRegister r v st
    | none => setRegister r v st)

/-! ## Traps between instructions (R245, R246, R346) -/

/-- A slot's watchdog fires: a wait is abandoned, and under speculation the trap is held (R206, R245, R272). -/
def execWatchdog (c : CtxId) (st : State) : Out State :=
  let sl := st.slot c
  .next (if c.who ≠ 4 && sl.phase = .live && sl.mayTrap 0x140 && decide (sl.wlimit ≤ sl.wcount) then st.raiseAt c (trapInfo 0x140) else st)
/-- QUANTUM has reached 0 (R246). -/
def execQuantumEnd (c : CtxId) (st : State) : Out State :=
  let sl := st.slot c
  .next (if c.who ≠ 4 && sl.phase = .live && sl.mayTrap 0x141 && sl.qend && sl.cx.delay.isNone then
      (st.modSlot c (fun sl => { sl with qend := false })).raiseAt c (trapInfo 0x141) else st)
/-- CONTEXT_LOST of a slot whose state is lost: taken or held at its next boundary, which for one that is trapped or stopped comes when it goes on
(R346, R349). -/
def takeLost (s : State) (c : CtxId) : State :=
  let sl := s.slot c
  if !sl.lost || sl.phase ≠ .live || sl.stopped || !sl.mayTrap 0x109 then s
  else (s.modSlot c (fun sl => { sl with lost := false })).raiseAt c (trapInfo 0x109)
/-- An uncorrectable error in the state of a core: each is counted, and a slot that holds a task, whose state it is, traps (R346, R376). -/
def execContextLost (c : CtxId) (st : State) : Out State :=
  let s := st.countError c.core.cl.m 0x109
  .next (if c.who = 4 || (st.slot c).phase = .idle then s else takeLost (s.modSlot c (fun sl => { sl with lost := true })) c)
/-- A long-class result returns to its entry (R47), which the checkpoint of a run-ahead may hold too (R280); `n` is the
instruction's place in program order. -/
def execLongResultReturn (c : CtxId) (n : Nat) (st : State) : Out State :=
  .next (st.modTables c (fun cx => { cx with rb := cx.rb.map (fun e => if e.order = n then { e with returned := true } else e) }))
/-- A store's confirmation (R106, R150, R154). -/
def execStoreConfirmation (c : CtxId) (st : State) : Out State := .next (confirmStore st c)
/-- Whether what a context waits for has come, so that its instruction, executed again, goes on or traps. -/
def waitMet (s : State) (c : CtxId) : WaitReason → Bool
  | .marker => (s.slot c).cx.rb.all (fun e => e.returned)
  | .confirm _ => false
  | .qPop n => !((s.slot c).cx.qOf n).isEmpty
  | .qPush n => ((s.slot c).cx.qOf n).length < queueRoom
  | .wPop n => !((s.slot c).cx.wOf n).isEmpty
  | .wPush n => ((s.slot c).cx.wOf n).length < queueRoom
  | .counter a t => match readMem s (s.whoIs c) a 8 with
    | .val v => t.toNat ≤ v
    | .fault _ => true
    | .retry => false
  | .barrier n => ((s.slot c).cx.bar n).done
  | .tileIdle h => !s.tileBusy c h
  | .tileReady h => let t := (s.slot c).cx.tile h; !t.alloc || t.state = .ready
  | .mxRoom => (s.cluster c.core.cl).mxCount < 16
  | .mxEntry => match jobRoom (s.slot c).cx.jobs with | .wait => false | _ => true
  | .mxJob id => match (s.slot c).cx.job id with | some e => e.state.ended | none => true
  | .ketEntry => match kRoom (s.slot c).cx.kcmds with | .wait => false | _ => true
  | .ketAll => (s.slot c).cx.kcmds.all (fun e => e.state.ended)
  | .certain => !(s.slot c).speculative
  | .poolRoom => (s.cluster c.core.cl).pool.length < poolRoom
  | .condRoom loc =>
    ((s.cluster c.core.cl).cond ((s.slot c).gang.getD 0) loc).isSome || (s.cluster c.core.cl).conds.length < condRoom
  | .chainRoom => (s.slot c).chain.length < 8
  | .condTables loc => !(s.gangOf c).clusters.any (fun cl =>
      ((s.cluster cl).cond ((s.slot c).gang.getD 0) loc).isNone && decide (condRoom ≤ (s.cluster cl).conds.length))
  | .condTaken loc => (s.gangOf c).claims.any (fun x => x.word = loc && x.by_ = c && x.freed) || (gangConds s ((s.slot c).gang.getD 0) loc).all (fun x => match x with
    | some x => x.outcome.isSome | none => false)
  | .vote k => ((s.gangOf c).vote k).result.isSome
  | .collective _ => false
  | .ssend => false
  | .xend =>
    let g := (s.slot c).gang.getD 0
    !((settleOps s g c).gang g).xops.any (fun t => decide (t.owner = c) && t.result = 0)
  | .cycSeq k => k ≤ (s.gangOf c).cyc.closed
  | .launchEnd lid => (findLaunch s (s.slot c).pid lid (fun l => l.origin = c.core.cl.m)).isNone
  | .work => !workPending s c
  | .wsealParts n => match s.wset c.core.cl.m (s.slot c).pid n with
    | some w => !s.partWrites c.core.cl.m w
    | none => true
  | .drafts => false
  | .reissue _ => false
/-- A wait is met: the watchdog count is 0 and the slot is ready (R243, R245). -/
def execWaitSatisfied (c : CtxId) (st : State) : Out State :=
  .next (match (st.slot c).wait with
    | none => st
    | some w => if waitMet st c w then st.modSlot c (fun sl => { sl with wait := none, wcount := 0 }) else st)
/-- An access refused with RETRY is issued again (R361); so are the drafts of a segment that is certain (R273). -/
def execRemoteReissue (c : CtxId) (st : State) : Out State :=
  .next (match (st.slot c).wait with
    | some (.reissue _) => st.modSlot c (fun sl => { sl with wait := none, reissued := true })
    | some .drafts => becomeCertain st c
    | _ => if (st.slot c).speculative then st else becomeCertain st c)

end Sys2Proof.Machine
end

