-- ==== Sys2Proof/Machine/Stop.lean ====
section
/-! DEFINITION. Gang-stop, checkpoint, the save image and resume (R275, R282, R358 to R361, R364 to R366). -/

namespace Sys2Proof.Machine

/-- The gangs that stop and resume together with a gang: every member of a RESIDENT launch (R258, R358). -/
def together (s : State) (g : Nat) : List Nat :=
  let l := (s.gang g).launch
  if (s.launch l).rc.resident then members s l else [g]
/-- The contexts that hold tasks of a gang. -/
def gangTasks (s : State) (g : Nat) : List CtxId :=
  (s.gang g).held.filter (fun c => decide ((s.slot c).phase ≠ .idle) && decide ((s.slot c).gang = some g))
/-- Whether an exchange phase of the gang is open (R358, step 1). -/
def gangInXchg (s : State) (g : Nat) : Bool := (s.gang g).entries.any (fun c => (s.slot c).inXchg)

/-! ## The stop (R358, R365) -/

/-- Whether a slot waits for a store, its own or a draft's, which a gang-stop lets end first (R109, R168). -/
def Slot.storing (sl : Slot) : Bool := match sl.wait with | some (.confirm _) => true | some .drafts => true | _ => false
/-- A slot stops at its instruction boundary, never between a branch and its delay slot; a wait is abandoned (R206, R358). At a cut the
tasks stay in their SSEND. -/
def Slot.stop (cut : Bool) (sl : Slot) : Slot :=
  let inSsend := cut && sl.ssended
  if sl.phase = .live && !sl.stopped && !sl.storing && sl.cx.delay.isNone then
    { sl with stopped := true, wait := if inSsend then sl.wait else none, ssended := inSsend }
  else sl
/-- The slots of a stopping gang stop, once no exchange phase of it is open. -/
def stopGang (s : State) (g : Nat) : State :=
  let x := s.gang g
  if x.status ≠ .stopping || gangInXchg s g then s
  else
    let cut := x.atCut && atCut s g
    let s := if cut then s else { s with cores := s.cores.map (fun p => (p.1, { p.2 with markers := p.2.markers.filter (· ≠ g) })) }
    (gangTasks s g).foldl (fun s c => s.modSlot c (Slot.stop cut)) s
/-- A gang begins to stop; `a` is the location named for its image. -/
def beginStop (a : Nat) (s : State) (g : Nat) : State :=
  stopGang (s.modGang g (fun x => if x.status = .running then { x with status := .stopping, imageAt := a } else x)) g
/-- A gang, or every member of a RESIDENT launch, begins to stop; what has come to its boundary since stops too. -/
def requestStop (s : State) (g a : Nat) : State :=
  if (s.gang g).status.onChip then ((together s g).filter (fun h => (s.gang h).status.onChip)).foldl (beginStop a) s else s
/-- System software asks for a stop and names the HBM in which the image shall lie (R358, R359). -/
def execGangStop (r : ImageReq) (st : State) : Out State := .next (requestStop st r.gang r.image)
/-- A stop AT_CUT: it begins at each gang's next cut, before the exchange phase (R365). -/
def execCheckpoint (r : ImageReq) (st : State) : Out State :=
  let gs := (together st r.gang).filter (fun h => (st.gang h).status = .running)
  .next (if (st.gang r.gang).status = .running then
      gs.foldl (fun s h =>
        let s := s.modGang h (fun x => { x with cutAt := some r.image })
        if atCut s h then beginStop r.image s h else s) st
    else st)

/-! ## The save image (R359) -/

/-- The bytes of local store that a gang's image holds: its slot regions and inboxes, and each cluster's weight buffer. -/
def Gang.ranges (g : Gang) : List (Nat × Nat) :=
  (g.held.map (fun c => [(privLoc c.core (0x2000 * c.who.val), 0x2000), (inboxLoc c.core (0x100 * c.who.val), 0x100)])).flatten ++
  g.clusters.map (fun cl => (wbufLoc cl 0, 0x10000))
/-- Whether a location lies in one of some ranges. -/
def inRanges (rs : List (Nat × Nat)) (a : Nat) : Bool := rs.any (fun r => decide (r.1 ≤ a) && decide (a < r.1 + r.2))
/-- Whether a core runs its handler for a context. -/
def handlerRuns (s : State) (c : CtxId) : Bool :=
  decide ((s.slot ⟨c.core, 4⟩).phase = .live) && decide (s.mirror c.core = some c)
/-- Whether an address names local store of a gang's, which an owning core of it answers for. -/
def Gang.owns (x : Gang) (a : DWord) : Bool :=
  match form a with
  | .glob m x' y core region off =>
    let size := if region = 3 then 0x100 else 0x2000
    x.held.any (fun c => decide (c.core.cl = ⟨m, x', y⟩) && (region = 1 || (c.core.n = core && (region = 2 || c.who.val = off / size))))
  | _ => false
/-- A message on its way to a gang, which lands before a stop of the gang completes (R358). -/
def landing (s : State) (g : Nat) : Bool := s.msgs.any (fun m => !m.acked && !m.retry && (s.gang g).owns m.addr)
/-- Steps 1 to 4 and 6 of R358 are at an end for a gang: its slots have stopped, no handler runs for one, its engine work has ended, and what was in
flight to it has landed. -/
def drained (s : State) (g : Nat) : Bool :=
  decide ((s.gang g).status = .stopping) && !gangInXchg s g &&
  (gangTasks s g).all (fun c =>
    (decide ((s.slot c).phase ≠ .live) || (s.slot c).stopped) && !(s.slot c).storing && !handlerRuns s c) &&
  s.jobs.all (fun p => p.2.gang ≠ g) && s.allParts.all (fun p => p.gang ≠ g) && !landing s g
/-- A run-ahead is discarded to its checkpoint, from which the task will run ahead again (R282); in a serialised launch it waits there
(R372). -/
def runAheadBack (s : State) (c : CtxId) : State :=
  match (s.slot c).ck with
  | none => s
  | some k =>
    let serial := (s.serialOf (s.slot c)).isSome
    let s := backTo s c k (k.at_ (if k.coll.pred then k.coll.taken else k.coll.fall))
    s.modSlot c (fun sl => { sl with ck := some { k with cx := k.cx.undone }, wait := if serial then some (.collective k.coll.k) else none })
/-- Results in flight land in the return buffer (R50). -/
def landResults (s : State) (c : CtxId) : State :=
  s.modTables c (fun x => { x with rb := x.rb.map (fun e => { e with returned := true }) })
/-- A speculative segment as it goes back to its pool (R275). -/
def Slot.withdrawn (sl : Slot) (g : Nat) : Segment :=
  { uid := sl.uid, gang := g, entry := sl.entry, taskId := sl.taskId, role := sl.role, chain := sl.chain, parents := sl.parents,
    eclass := sl.eclass, capture := sl.capture }
/-- Whether a segment was spawned by one of some segments, or by their children. -/
def spawnedBy (us : List Nat) (ps : List (Nat × Nat)) : Bool := ps.any (fun p => us.contains p.1)
/-- The most bytes of a gang's image: 64 KiB for each core and 192 KiB for each cluster (R359). -/
def Gang.imageRoom (g : Gang) (cores : Nat) : Nat := g.clusters.length * (65536 * cores + 196608)
/-- Bytes of memory in place of what stood there. -/
def setBytes : List Host.Cell → Nat → List Byte → List Host.Cell
  | m, _, [] => m
  | m, l, b :: r => setBytes (Memory.set m l b) (l + 1) r
/-- The image of a gang as its state stands (R359). -/
def imageOf (s : State) (g : Nat) (ts : List CtxId) (pool : ClusterId → List Segment) : Image :=
  let x := s.gang g
  let l := s.launch x.launch
  { cut := x.atCut && atCut s g, held := x.held, slots := ts.map (fun c => (c, { s.slot c with stopped := false })),
    mem := s.mem.filter (fun c => inRanges x.ranges c.1), marks := s.poison.filter (fun u => inRanges x.ranges u.1),
    pools := x.clusters.map (fun cl => (cl, pool cl)),
    conds := x.clusters.map (fun cl => (cl, (s.cluster cl).conds.filter (fun d => d.gang = g))),
    walks := x.clusters.map (fun cl => (cl, kget (s.cluster cl).walk g [])),
    stages := (x.held.map (fun c => c.core)).eraseDups.map (fun k => (k, kget (s.core k).stages g 0)),
    bars := x.bars, votes := x.votes, claims := x.claims, xops := x.xops, cyc := x.cyc, offer := x.offer, nodes := x.nodes,
    digests := x.digests, last := x.last, digested := x.digested, overflow := x.overflow, closed := l.closed, lost := l.lost }
/-- The gang with an image kept at the location named for it, the checkpoint it was taken for no longer asked. -/
def Gang.keep (x : Gang) (i : Image) : Gang :=
  { x with status := .stopped, overflow := [], cutAt := if i.cut then none else x.cutAt,
           images := (x.imageAt, i) :: x.images.filter (fun p => p.1 ≠ x.imageAt) }
/-- Step 5 to 7 of R358: drafts are discarded, speculative segments withdrawn and what they spawned dropped (R275), run-aheads go back
(R282), and the image is saved, its bytes in HBM from the location named on, member after member (R359; assumption 57); the gang's room is free. -/
def saveGang (s : State) (p : Nat × Nat) : State :=
  let (n, g) := p
  let x := s.gang g
  let us := ((gangTasks s g).filter (fun c => !(s.slot c).chain.isEmpty)).map (fun c => (s.slot c).uid)
  let s := { s with clusters := s.clusters.map (fun p => (p.1, { p.2 with drafts := p.2.drafts.filter (fun d => d.gang ≠ g) })) }
  let ts := gangTasks s g
  let s := ts.foldl (fun s c => landResults (runAheadBack s c) c) s
  let back := ts.filter (fun c => !(s.slot c).chain.isEmpty && !spawnedBy us (s.slot c).parents)
  let pool := fun (cl : ClusterId) =>
    (s.cluster cl).pool.filter (fun p => p.gang = g && !spawnedBy us p.parents) ++
    (back.filter (fun c => c.core.cl = cl)).map (fun c => (s.slot c).withdrawn g)
  let image := imageOf s g (ts.filter (fun c => (s.slot c).chain.isEmpty)) pool
  let room := x.imageRoom (s.launch x.launch).rc.c
  let s := { s with mem := setBytes s.mem (x.imageAt + n * room) ((Config.imageBytes s.fresh).take room) }
  let s := { s.tick.setGang g ((s.gang g).keep image) with clusters := s.clusters.map (fun p =>
    (p.1, { p.2 with pool := p.2.pool.filter (fun q => q.gang ≠ g), conds := p.2.conds.filter (fun d => d.gang ≠ g) })) }
  ts.foldl (fun s c =>
    (s.modCore c.core (fun k => { k with trapq := k.trapq.filter (· ≠ c.who), markers := k.markers.filter (· ≠ g) })).modSlot c
      Slot.clear) s
/-- The stop completes, for every member at once (R258, R358). -/
def execGangStopComplete (g : Nat) (st : State) : Out State :=
  let gs := together st g
  .next (if gs.contains g && gs.all (drained st) then (gs.mapIdx (fun i h => (i, h))).foldl saveGang st else st)

/-! ## Resume (R359, R360, R366) -/

/-- The image of a gang at a location. -/
def Gang.image (x : Gang) (a : Nat) : Option Image := (x.images.find? (fun p => p.1 = a)).map (·.2)
/-- Whether a gang may resume from its image at a location: it is switched out, or has been killed while its launch is not complete (R374), and its
cores and slots are free with room in the pools and tables of its clusters (R249, R264, R359; assumption 57). -/
def canResume (s : State) (a g : Nat) : Bool :=
  let x := s.gang g
  let held := match x.image a with | none => [] | some i => i.held
  (decide (x.status = .stopped) || (decide (x.status = .killed) && !(s.launch x.launch).fin)) && (x.image a).isSome &&
  s.answers x.m && decide ((s.module x.m).power = .run) &&
  held.all (fun c => !s.gangs.any (fun h => h.2.status.onChip && h.2.held.contains c)) &&
  x.clusters.all (fun cl => !(s.cluster cl).fenced && !otherProcess s cl (s.launch x.launch).pid) &&
  match x.image a with
  | none => false
  | some i => i.pools.all (fun p => (s.cluster p.1).pool.length + p.2.length ≤ poolRoom) &&
      i.conds.all (fun p => (s.cluster p.1).conds.length + p.2.length ≤ condRoom)
/-- A slot as it was saved; one saved TRAPPED enters the trap queue again, or is FORWARDED where its core has no handler (R348, R359). -/
def restoreSlot (pid : BitVec 8) (s : State) (p : CtxId × Slot) : State :=
  let (c, v) := p
  let k := s.core c.core
  let none_ := k.tvec = 0 || k.halted
  let v := { v with gens := (s.slot c).gens, lastPid := some pid, phase := if v.phase = .trapped && none_ then .forwarded else v.phase }
  let s := s.setSlot c v
  if v.phase = .trapped then s.modCore c.core (fun k => { k with trapq := k.trapq ++ [c.who] }) else s
/-- A message of the overflow area delivered: a write, or the add of its elements (R360). -/
def deliver (s : State) (o : Overflow) : State :=
  let r := o.req
  let w : Who := ⟨r.pid, r.lid, r.gen, r.sys, o.src⟩
  match access s w r.addr r.size .write with
  | .loc l => match o.add with
    | none => s.homeWrite w r.addr l r.size r.data r.mask
    | some t => match s.homeRead l r.size with
      | some v => s.write l r.size (addElems t v r.data (8 * r.size / t.ebits)).1
      | none => s
  | _ => s
/-- A gang's shared state as an image holds it; a checkpoint that was asked for and not taken stays asked (R365). -/
def Gang.restore (x : Gang) (i : Image) : Gang :=
  { x with status := .running, held := i.held, bars := i.bars, votes := i.votes, claims := i.claims,
           xops := i.xops, cyc := i.cyc, offer := i.offer, nodes := i.nodes, digests := i.digests, last := i.last, digested := i.digested,
           overflow := [] }
/-- A launch as it was when an image of a member was saved: the collectives closed, and a killed block that is back (R277, R374). -/
def Launch.restore (l : Launch) (i : Image) (killed : Bool) : Launch :=
  { l with closed := i.closed, lost := i.lost || (decide (l.closed = i.closed) && l.lost),
           killed := if killed then l.killed - 1 else l.killed }
/-- A gang restored from an image: its clusters, local stores, pools, tables and slots; then its overflowed messages, in the order
written; and a gang saved at a cut begins its exchange phase (R359, R360, R366). -/
def restoreGang (a : Nat) (s : State) (g : Nat) : State :=
  let x := s.gang g
  match x.image a with
  | none => s
  | some i =>
    let pid := (s.launch x.launch).pid
    let s := s.modLaunch x.launch (fun l => l.restore i (decide (x.status = .killed)))
    let s := takeOutputs (x.clusters.foldl (fun s cl => takeCluster s cl pid) s) x
    let s := (x.restore i).ranges.foldl (fun s r => clearBytes s r.1 r.2) s
    let s := { s with mem := i.mem.foldl (fun m c => Memory.set m c.1 c.2) s.mem, poison := i.marks ++ s.poison }
    let s := i.pools.foldl (fun s p => s.modCluster p.1 (fun c => { c with pool := c.pool ++ p.2 })) s
    let s := i.conds.foldl (fun s p => s.modCluster p.1 (fun c => { c with conds := c.conds ++ p.2 })) s
    let s := i.walks.foldl (fun s p => if p.2.isEmpty then s else s.modCluster p.1 (fun c => { c with walk := kset c.walk g p.2 })) s
    let s := i.stages.foldl (fun s p => s.modCore p.1 (fun k => { k with stages := kset k.stages g p.2 })) s
    let s := i.slots.foldl (restoreSlot pid) s
    let s := s.setGang g (x.restore i)
    let s := i.overflow.foldl deliver s
    if i.cut then
      let s := i.held.foldl (fun s c =>
        s.modCore c.core (fun k => if k.markers.contains g then k else { k with markers := g :: k.markers })) s
      beginExchange s g
    else s
/-- The gangs that resume from images at a location together with a gang: of a RESIDENT launch, those that hold one (R258, R359). -/
def resumeSet (s : State) (g a : Nat) : List Nat :=
  let l := (s.gang g).launch
  if (s.launch l).rc.resident then
    (s.gangs.filter (fun h => h.2.launch = l && decide (h.2.status ≠ .retired) && (decide (h.2.status ≠ .killed) || (h.2.image a).isSome))).map (·.1)
  else [g]
/-- Gangs resume from images at a location where all of them can, in one step (R258, R359). -/
def resumeGangs (s : State) (g a : Nat) : State :=
  let gs := resumeSet s g a
  if gs.all (canResume s a) then gs.foldl (restoreGang a) s else s
/-- A gang resumes with every other member from the image that system software names (R359, R366). -/
def execGangResume (r : ImageReq) (st : State) : Out State := .next (resumeGangs st r.gang r.image)

end Sys2Proof.Machine
end

