-- ==== Sys2Proof/Machine/Fabric.lean ====
section
/-! DEFINITION. What comes in over the fabric and what the fabric keeps: requests at owning cores and stations (R153, R175, R329,
R333 to R336), stream reservations in the slot tables (R306, R309, R310), and the Levanter ports (R312). -/

namespace Sys2Proof.Machine

/-! ## Requests (R153, R175) -/

/-- The identity a request carries; it has come over the fabric to the module it names. -/
def reqWho (r : RemoteReq) : Who := ⟨r.pid, r.lid, r.gen, r.sys, ⟨⟨⟨moduleOf 0 r.addr, 0, 0⟩, 0⟩, 4⟩⟩
/-- Whether an address names a place in a module by itself, as a request of another agent does. -/
def formsRequest (a : DWord) : Bool := (form a).isGlob || (form a).isRemote
/-- The reply to a request: its value, or the cause with which it was refused. -/
def reply (s : State) (r : RemoteReq) (v : Option Nat) (code : BitVec 9) : State := { s with replies := s.replies ++ [(r, v, code)] }
/-- A request performed, or refused, at its owner (R153, R171, R333, R336). One that reads and writes is a single indivisible step that
answers the old value and changes the bits its mask selects. A refusal with RETRY is not answered: the sender reissues it. -/
def performRequest (s : State) (r : RemoteReq) : State :=
  match access s (reqWho r) r.addr r.size r.acc with
  | .fault t => reply s r none t.code
  | .retry => s
  | .loc l =>
    match r.acc with
    | .write =>
      if slotctlRefuses l r.data then reply s r none 0x051
      else if s.room l r.size = .full then s
      else reply (s.homeWrite { reqWho r with sys := false } r.addr l r.size r.data (2 ^ (8 * r.size) - 1)) r (some 0) 0
    | .readWrite => match s.homeRead l r.size with
      | none => reply s r none 0x050
      | some v => reply (s.write l r.size ((v &&& (2 ^ (8 * r.size) - 1 - r.mask)) ||| (r.data &&& r.mask))) r (some v) 0
    | _ => match s.homeRead l r.size with
      | none => reply s r none 0x050
      | some v => reply s r (some v) 0
/-- An access of another agent arrives (R153). -/
def execRemoteAccessArrival (r : RemoteReq) (st : State) : Out State :=
  let m := moduleOf 0 r.addr
  .next (if !formsRequest r.addr then st else if sleeps st m then holdRequest st m (.remote r) else performRequest st r)
/-- A sub-byte message performed, its bytes checked one by one where it carries a three-byte group: its owner changes the bits of the mask as
one indivisible read-modify-write (R175). A mark on the unit stays (R236). -/
def performBits (s : State) (r : RemoteReq) : State :=
  let e : StoreElem := ⟨r.addr, r.size, r.data, r.mask⟩
  match storeFault s (reqWho r) [e] with
  | .fault t => reply s r none t.code
  | .retry => s
  | .loc _ => reply (writeElem (reqWho r) s e) r (some 0) 0
/-- A sub-byte message comes in (R175); a module in a power state holds it (R378). -/
def execSubByteMessage (r : RemoteReq) (st : State) : Out State :=
  let m := moduleOf 0 r.addr
  .next (if !formsRequest r.addr then st else if sleeps st m then holdRequest st m (.bits r) else performBits st r)

/-! ## Stations (R333 to R335) -/

/-- The leaf translations a station keeps (R334). -/
def stationRoom : Nat := 4096
/-- A station translates a request: the leaf of a walk is kept, tagged with its PID, in place of another where the station is full; what
the request itself meets is the requester's (R333, R334). -/
def execStationTranslation (m : Nat) (pid : BitVec 8) (va : DWord) (_acc : Access) (st : State) : Out State :=
  .next (
    if st.modCount ≤ m || !(form va).isVirt || (cached st m pid va.toNat).isSome then st
    else match pageWalk st m pid va.toNat with
      | .fault .. => st
      | .leaf e =>
        let here := fun (x : TlbEntry) => x.m = m && x.station = e.station
        let mine := st.tlb.filter here
        let kept := if stationRoom ≤ mine.length then mine.dropLast else mine
        { st with tlb := e :: kept ++ st.tlb.filter (fun x => !here x) })
/-- An invalidation: every station of the module drops the translations that overlap its range, or all of the PID's (R335). No walk
and no translated request is under way between steps. -/
def execInvalidation (m : Nat) (req : DWord) (st : State) : Out State :=
  let v := req.toNat
  let pid := BitVec.ofNat 8 (bits v 63 56)
  let pages := bits v 55 40
  let va := bits v 39 4 * 65536
  let drops := fun (e : TlbEntry) =>
    e.m = m && e.pid = pid && (pages = 0 || (decide (e.va < va + pages * 65536) && decide (va < e.va + e.size)))
  .next (if bits v 3 0 ≠ 0 then st else { st with tlb := st.tlb.filter (fun e => !drops e) })

/-! ## Slot tables (R306, R309, R310) -/

/-- The outputs along a row or column: single hops, and skip links while four or more columns remain (R305). -/
def routeX (m y : Nat) : Nat → Nat → Nat → List (ClusterId × Nat)
  | 0, _, _ => []
  | f + 1, x, xd =>
    if x + 4 ≤ xd then (⟨m, x, y⟩, 4) :: routeX m y f (x + 4) xd
    else if x < xd then (⟨m, x, y⟩, 1) :: routeX m y f (x + 1) xd
    else if xd + 4 ≤ x then (⟨m, x, y⟩, 5) :: routeX m y f (x - 4) xd
    else if xd < x then (⟨m, x, y⟩, 3) :: routeX m y f (x - 1) xd
    else []
def routeY (m x : Nat) : Nat → Nat → Nat → List (ClusterId × Nat)
  | 0, _, _ => []
  | f + 1, y, yd =>
    if y < yd then (⟨m, x, y⟩, 2) :: routeY m x f (y + 1) yd
    else if yd < y then (⟨m, x, y⟩, 0) :: routeY m x f (y - 1) yd
    else []
/-- The outputs of the route from a source to a destination of a module, with the Local output at its end (R304, R305). -/
def route (m xs ys xd yd : Nat) : List (ClusterId × Nat) :=
  routeX m ys 192 xs xd ++ routeY m xd 168 ys yd ++ [(⟨m, xd, yd⟩, 6)]
/-- The port by which a packet that left by an output enters the next router: the opposite one. -/
def inputs : Nat → List (ClusterId × Nat) → List ((ClusterId × Nat) × Nat)
  | _, [] => []
  | i, (c, d) :: r => ((c, d), i) :: inputs (opposite d) r
/-- Whether an output's entries are EXCH: it joins two clusters of a placed gang (R306). -/
def outputExch (s : State) (cl : ClusterId) (d : Nat) : Bool :=
  d < 6 && s.gangs.any (fun g => g.2.status.onChip && g.2.covers cl && (neighbour g.2 cl d).isSome)
/-- The entry of a slot of an output (R306). -/
def slotEntry (s : State) (cl : ClusterId) (d n : Nat) : BitVec 16 :=
  if outputExch s cl d then 0x4000 else ((s.module cl.m).slotTab.find? (fun e => e.1 = (cl, d, n))).elim 0 (fun e => e.2.1)
/-- A request's path with the inputs, or none where it leaves the quadrant of the core's allocator or a field is out of range. -/
def requestPath (k : CoreId) (req : DWord) : Option (List ((ClusterId × Nat) × Nat)) :=
  let v := req.toNat
  let m := k.cl.m
  let (ys, xs, yd, xd) := (bits v 63 56, bits v 55 48, bits v 47 40, bits v 39 32)
  let p := route m xs ys xd yd
  if 168 ≤ ys || 168 ≤ yd || 192 ≤ xs || 192 ≤ xd || bits v 24 0 ≠ 0 || p.any (fun o => quadrantOf o.1 ≠ quadrantOf k.cl) then none
  else some (inputs 6 p)
/-- The allocator's answer in ALLOCST: 0 GRANTED, 1 BUSY, 2 OUTSIDE (R310, R362). -/
def answerAlloc (s : State) (k : CoreId) (req : DWord) (status : BitVec 3) : State :=
  s.modCore k (fun c => { c with allocReq := req, allocSt := 4 ||| status })
/-- A reservation made along a path, or refused (R310). -/
def execStreamReserve (k : CoreId) (req : DWord) (st : State) : Out State :=
  let n := bits req.toNat 31 26
  let path : DWord := req >>> 32
  .next (
    if req.getLsbD 25 then st
    else match requestPath k req with
      | none => answerAlloc st k req 2
      | some p =>
        if p.any (fun o => slotEntry st o.1.1 o.1.2 n ≠ 0) then answerAlloc st k req 1
        else
          let new := p.map (fun o => ((o.1.1, o.1.2, n), BitVec.ofNat 16 (0x8000 + o.2 * 2 ^ 11), path))
          answerAlloc (st.modModule k.cl.m (fun x => { x with slotTab := x.slotTab ++ new })) k req 0)
/-- A reservation released: the entries that were written for this path are FREE again (R310). -/
def execStreamRelease (k : CoreId) (req : DWord) (st : State) : Out State :=
  let n := bits req.toNat 31 26
  .next (
    if !req.getLsbD 25 then st
    else match requestPath k req with
      | none => answerAlloc st k req 2
      | some p =>
        let mine := fun (e : (ClusterId × Nat × Nat) × BitVec 16 × DWord) =>
          decide (e.2.2 = req >>> 32) && p.any (fun o => decide (e.1 = (o.1.1, o.1.2, n)))
        answerAlloc (st.modModule k.cl.m (fun x => { x with slotTab := x.slotTab.filter (fun e => !mine e) })) k req 0)

/-! ## Levanter (R312, R346) -/

/-- A flit that fails its check is resent from the replay buffer and counted; nothing else changes (R312, R373). -/
def execLevanterReplay (m : Nat) (_port : BitVec 4) (st : State) : Out State := .next (st.countError m 0x122)
/-- A port fails: the record DEGRADED is counted, and traffic goes by the other port of its direction or the other way round (R312,
R373). -/
def execLevanterPortFailure (m : Nat) (port : BitVec 4) (st : State) : Out State :=
  .next (
    if !st.portUp m port.toNat then st
    else (st.modModule m (fun x => { x with ports := x.ports.set port.toNat false })).countError m 0x125)

end Sys2Proof.Machine
end

