-- ==== Sys2Proof/Machine/Crypto.lean ====
section
/-! DEFINITION. The two functions of public standards that the management port and the boot ROM use (R340 to R342): SHA-256 (FIPS 180-4) and
the verification of an ECDSA signature on P-256 (FIPS 186-5). The manual names them and gives neither; PRESUMED from the standards (assumption 6). -/

namespace Sys2Proof.Machine

/-! ## SHA-256 -/

/-- The primes below 312, of which there are 64. -/
def shaPrimes : List Nat := (List.range 312).filter (fun p => 2 ≤ p && (List.range 18).all (fun d => d < 2 || p ≤ d || p % d ≠ 0))
/-- The largest `r` above `r0` whose `n`-th power does not pass `x`, its low `k` bits found one by one. -/
def rootFrom (n x : Nat) : Nat → Nat → Nat
  | 0, r => r
  | k + 1, r => rootFrom n x k (if (r + 2 ^ k) ^ n ≤ x then r + 2 ^ k else r)
/-- The first 32 bits of the fraction of the `n`-th root of a prime. -/
def rootFraction (n p : Nat) : BitVec 32 := BitVec.ofNat 32 (rootFrom n (p * 2 ^ (32 * n)) 35 0)
/-- The initial value: square roots of the first eight primes, the first of them at the top. -/
def shaStart : BitVec 256 := ((shaPrimes.take 8).map (rootFraction 2)).foldl (fun s x => s <<< 32 ||| x.setWidth 256) 0
/-- The constants of the rounds: cube roots of the 64 primes. -/
def shaConstants : List (BitVec 32) := shaPrimes.map (rootFraction 3)
/-- Word `i` of a value, word 0 at the bottom. -/
def wordAt {n : Nat} (s : BitVec n) (i : Nat) : BitVec 32 := s.extractLsb' (32 * i) 32
/-- The exclusive or of rotations of a word. -/
def mixRot (rs : List Nat) (x : BitVec 32) : BitVec 32 := rs.foldl (fun y r => y ^^^ x.rotateRight r) 0
/-- One round on the eight working words, of which the last is word 0, and on the 16 words of the schedule to come, of which the first is at
the top: the words move down by one, a sum is added to the fifth and another takes the first place. -/
def shaRound (p : BitVec 256 × BitVec 512) (k : BitVec 32) : BitVec 256 × BitVec 512 :=
  let (s, w) := p
  let choice := wordAt s 1 ^^^ (wordAt s 3 &&& (wordAt s 2 ^^^ wordAt s 1))
  let major := (wordAt s 7 &&& (wordAt s 6 ||| wordAt s 5)) ||| (wordAt s 6 &&& wordAt s 5)
  let sum := wordAt s 0 + mixRot [6, 11, 25] (wordAt s 3) + choice + k + wordAt w 15
  let top := sum + mixRot [2, 13, 22] (wordAt s 7) + major
  let moved := s >>> 32 &&& ~~~(0xffffffff#256 <<< 96) ||| (wordAt s 4 + sum).setWidth 256 <<< 96
  let next := wordAt w 15 + (mixRot [7, 18] (wordAt w 14) ^^^ wordAt w 14 >>> 3) + wordAt w 6 +
    (mixRot [17, 19] (wordAt w 1) ^^^ wordAt w 1 >>> 10)
  (moved ||| top.setWidth 256 <<< 224, w <<< 32 ||| next.setWidth 512)
/-- One block of 512 bits: each word of the result of its rounds is added to that word of the value before. -/
def shaBlock (s : BitVec 256) (w : BitVec 512) : BitVec 256 :=
  let t := (shaConstants.foldl shaRound (s, w)).1
  ([7, 6, 5, 4, 3, 2, 1, 0] : List Nat).foldl (fun r i => r <<< 32 ||| (wordAt s i + wordAt t i).setWidth 256) 0
/-- The bits of a byte string, its first byte the most significant, and how many there are. -/
def stringBits (l : List Byte) : Nat × Nat := l.foldl (fun p b => (p.1 * 256 + b.toNat, p.2 + 8)) (0, 0)
/-- SHA-256 of a byte string, its first byte the most significant: the string, a bit 1, zeros and its length in 64 bits fill whole blocks. -/
def sha256 (l : List Byte) : BitVec 256 :=
  let (v, n) := stringBits l
  let blocks := (n + 65 + 511) / 512
  let m := (2 * v + 1) * 2 ^ (512 * blocks - n - 1) + n
  (List.range blocks).foldl (fun s i => shaBlock s (BitVec.ofNat 512 (m / 2 ^ (512 * (blocks - 1 - i))))) shaStart

/-! ## ECDSA on P-256 -/

/-- The prime of the field, the order of the base point, and the constant of the curve y^2 = x^3 - 3x + b. -/
def p256P : Nat := 2 ^ 256 - 2 ^ 224 + 2 ^ 192 + 2 ^ 96 - 1
def p256N : Nat := 0xffffffff00000000ffffffffffffffffbce6faada7179e84f3b9cac2fc632551
def p256B : Nat := 0x5ac635d8aa3a93e7b3ebbd55769886bc651d06b0cc53b0f63bce3c3e27d2604b
/-- A point as (x / z^2, y / z^3); the point at infinity has z = 0. -/
structure EcPoint where
  x : Nat
  y : Nat
  z : Nat
  deriving DecidableEq, Repr
def EcPoint.zero : EcPoint := ⟨1, 1, 0⟩
def p256G : EcPoint :=
  ⟨0x6b17d1f2e12c4247f8bce6e563a440f277037d812deb33a0f4a13945d898c296,
   0x4fe342e2fe1a7f9b8ee7eb4a7c0f9e162bce33576b315ececbb6406837bf51f5, 1⟩
/-- Arithmetic of the field. -/
def gfMul (a b : Nat) : Nat := a * b % p256P
def gfAdd (a b : Nat) : Nat := (a + b) % p256P
def gfSub (a b : Nat) : Nat := (a + (p256P - b % p256P)) % p256P
/-- A point doubled. -/
def EcPoint.double (p : EcPoint) : EcPoint :=
  let d := gfMul p.z p.z
  let g := gfMul p.y p.y
  let b := gfMul p.x g
  let a := gfMul 3 (gfMul (gfSub p.x d) (gfAdd p.x d))
  let x := gfSub (gfMul a a) (gfMul 8 b)
  ⟨x, gfSub (gfMul a (gfSub (gfMul 4 b) x)) (gfMul 8 (gfMul g g)), gfMul 2 (gfMul p.y p.z)⟩
/-- The sum of two points. -/
def EcPoint.add (p q : EcPoint) : EcPoint :=
  if p.z = 0 then q
  else if q.z = 0 then p
  else
    let zp := gfMul p.z p.z
    let zq := gfMul q.z q.z
    let u := gfMul p.x zq
    let h := gfSub (gfMul q.x zp) u
    let s := gfMul p.y (gfMul q.z zq)
    let r := gfSub (gfMul q.y (gfMul p.z zp)) s
    if h = 0 then (if r = 0 then p.double else EcPoint.zero)
    else
      let h2 := gfMul h h
      let h3 := gfMul h h2
      let v := gfMul u h2
      let x := gfSub (gfSub (gfMul r r) h3) (gfMul 2 v)
      ⟨x, gfSub (gfMul r (gfSub v x)) (gfMul s h3), gfMul h (gfMul p.z q.z)⟩
/-- `k` times a point, over the `n` low bits of `k`. -/
def EcPoint.times (p : EcPoint) (k : Nat) : Nat → EcPoint
  | 0 => EcPoint.zero
  | n + 1 =>
    let q := ((p.times (k / 2) n)).double
    if k % 2 = 1 then q.add p else q
/-- A power modulo `m`, over the `n` low bits of the exponent. -/
def powMod (m a e : Nat) : Nat → Nat
  | 0 => 1
  | n + 1 =>
    let q := powMod m a (e / 2) n
    if e % 2 = 1 then q * q % m * a % m else q * q % m
/-- Whether a public key, x then y, is a point of the curve. -/
def onCurve (x y : Nat) : Bool :=
  decide (x < p256P) && decide (y < p256P) && gfMul y y = gfAdd (gfSub (gfMul x (gfMul x x)) (gfMul 3 x)) p256B
/-- Whether a signature, r then s, of a hash verifies under a public key, x then y. -/
def ecdsaVerify (key : BitVec 512) (hash : BitVec 256) (sig : BitVec 512) : Bool :=
  let x := key.toNat / 2 ^ 256
  let y := key.toNat % 2 ^ 256
  let r := sig.toNat / 2 ^ 256
  let s := sig.toNat % 2 ^ 256
  let w := powMod p256N s (p256N - 2) 256
  let t := (p256G.times (hash.toNat * w % p256N) 256).add ((EcPoint.mk x y 1).times (r * w % p256N) 256)
  let z := gfMul t.z t.z
  onCurve x y && decide (0 < r) && decide (r < p256N) && decide (0 < s) && decide (s < p256N) && decide (t.z ≠ 0) &&
    (decide (t.x = gfMul r z) || (decide (r + p256N < p256P) && decide (t.x = gfMul (r + p256N) z)))

end Sys2Proof.Machine
end

