-- ==== Sys2Proof/Machine/Recover.lean ====
section
/-! DEFINITION. The energy budget and its emergencies (R254, R375), hardware checks, fences and spares (R346, R373, R374), and error
records (R376). -/

namespace Sys2Proof.Machine

/-! ## The budget (R254, R375) -/

/-- STATE for the next window from the measured energy and BUDGET (R254). -/
def budgetState (b e : Nat) : Nat := if b = 0 || e ≤ b then 0 else if 4 * e ≤ 5 * b then 1 else 2
/-- The end of a budget window; it is counted once a limit has been passed (R254, R375). -/
def execEnergyWindowEnd (m : Nat) (q : BitVec 2) (e : Nat) (st : State) : Out State :=
  .next (st.modModule m (fun x => { x with
    pwrbud := x.pwrbud.mapIdx (fun i w =>
      if i = q.toNat then BitVec.ofNat 64 (budgetState (w.toNat % 2 ^ 32) e * 2 ^ 32 + w.toNat % 2 ^ 32) else w),
    overWin := x.overWin.mapIdx (fun i n => if i = q.toNat && n ≠ 0 then n + 1 else n) }))
/-- A temperature or current limit is passed: firmware lowers PWRBUD, and the windows are counted from then (R375). A budget that is no
lower is not written. -/
def execThermalLimit (m : Nat) (q : BitVec 2) (budget : BitVec 32) (st : State) : Out State :=
  let old := ((st.module m).pwrbud.toList.getD q.toNat 0).toNat % 2 ^ 32
  let lower := budget.toNat ≠ 0 && (old = 0 || decide (budget.toNat < old))
  let st := if lower then setBudget st m q.toNat (budget.setWidth 64) else st
  .next (st.modModule m (fun x => { x with overWin := x.overWin.mapIdx (fun i n => if i = q.toNat && n = 0 then 1 else n) }))
/-- A limit stops holding: its windows are no longer counted (R375). -/
def limitEnds (m : Nat) (q : BitVec 2) (s : State) : State :=
  s.modModule m (fun x => { x with overWin := x.overWin.mapIdx (fun i n => if i = q.toNat then 0 else n) })
/-- A fault that no task took, recorded for a gang; what the manual does not say of its record is a free value (R374, R375,
assumption 8). -/
def deviceFault (s : State) (g : Nat) (c : Option CtxId) (code : BitVec 9) : State :=
  let x := s.gang g
  let f := fun (i : Nat) => Config.freeValue (s.fresh + i)
  let any := x.held.getD ((f 0).toNat % Nat.max 1 x.held.length) ⟨⟨⟨x.m, x.x, x.y⟩, 0⟩, 0⟩
  let r : FaultRec := { block := x.block, taskId := (match c with | some c => (s.slot c).taskId | none => f 1), epc := f 2, eaddr := f 3,
                        einfo := f 4, ctx := c.getD any, cause := code }
  recordFaultOf { s with fresh := s.fresh + 5 } x.launch r
/-- The gangs on chip that `p` accepts. -/
def gangsWhere (s : State) (p : Gang → Bool) : List Nat := (s.gangs.filter (fun g => g.2.status.onChip && p g.2)).map (·.1)
/-- A limit still holds after 16 budget windows: the gangs of the quadrant are killed, each recorded with POWER_KILL (R375). -/
def execPowerKill (m : Nat) (q : BitVec 2) (st : State) : Out State :=
  let n := (st.module m).overWin.toList.getD q.toNat 0
  .next (
    if n ≤ 16 then st
    else
      let st := limitEnds m q st
      (gangsWhere st (fun g => g.m = m && g.held.any (fun c => quadrantOf c.core.cl = q.toNat))).foldl
        (fun s g => killGang (deviceFault s g none 0x178) g) st)
/-- Firmware re-plans a quadrant's margins: a MARGIN record, and no change of any result (R375). -/
def execMarginReplan (m : Nat) (_q : BitVec 2) (st : State) : Out State := .next (st.countError m 0x13C)

/-! ## Hardware checks (R346, R373, R374) -/

/-- The source of a unit's records (R346). -/
def hwSource : HwUnit → Nat
  | .coreSram _ => 0 | .coreState _ => 1 | .clusterSram _ => 2 | .router _ => 3 | .levanter .. => 4 | .hbm _ => 5 | .slice .. => 6
  | .monitor _ => 7
/-- The module of a unit. -/
def hwModule : HwUnit → Nat
  | .coreSram l => locModule l | .coreState c => c.core.cl.m | .clusterSram l => locModule l | .router cl => cl.m | .levanter m _ => m
  | .hbm l => locModule l | .slice m _ => m | .monitor cl => cl.m
/-- The code of a record: kinds 2 TRANSIENT, 3 LASTING, 5 DEGRADED (R346). -/
def hwCode (source kind : Nat) : BitVec 9 := BitVec.ofNat 9 (0x100 + 8 * source + kind)
/-- The cluster that a lasting fault of a unit fences (R374, R375). -/
def hwCluster : HwUnit → Option ClusterId
  | .coreSram l => some (locCluster l) | .coreState c => some c.core.cl | .clusterSram l => some (locCluster l) | .router cl => some cl
  | .monitor cl => some cl | _ => none
/-- The context whose state lies at a location of a core's SRAM. -/
def sramOwner (l : Nat) : CtxId :=
  let off := bits l 14 0
  ⟨locCore l, Fin.ofNat 5 ((if locRegion l = 0 then off / 0x2000 else off / 256) % 4)⟩
/-- The context whose state a unit holds, and the gangs whose state it holds (R374). -/
def hwContext : HwUnit → Option CtxId | .coreSram l => some (sramOwner l) | .coreState c => some c | _ => none
def hwLost (s : State) (u : HwUnit) : List Nat :=
  match u with
  | .clusterSram l => gangsWhere s (fun g => g.covers (locCluster l))
  | _ => match hwContext u with
    | some c => gangsWhere s (fun g => g.held.contains c)
    | none => []
/-- A unit of 64 bytes marked (R236, R346). -/
def markUnit (s : State) (l : Nat) : State :=
  let u := unitOf l
  if s.poison.any (fun p => p.1 = u) then s else { s with poison := (u, 0) :: s.poison }
/-- A gang killed with a hardware-error code as a task fault (R262, R374). -/
def hardwareKill (c : Option CtxId) (code : BitVec 9) (s : State) (g : Nat) : State :=
  let l := (s.gang g).launch
  let s := killGang (deviceFault s g (c.filter (fun d => (s.slot d).gang = some g)) code) g
  if (s.launch l).rc.policy then s.modLaunch l (fun x => { x with cancel := match x.cancel with | none => some true | some v => some v })
  else s
/-- A cluster fenced, the service cores naming the HBM for the images (assumption 8): gangs whose state lay in the failed unit are killed, and the others that hold the cluster are stopped (R374). -/
def fenceCluster (s : State) (u : HwUnit) (cl : ClusterId) : State :=
  let s := (hwLost s u).foldl (hardwareKill (hwContext u) (hwCode (hwSource u) 3)) s
  let s := s.modCluster cl (fun c => { c with fenced := true, fenceSrc := hwSource u })
  (gangsWhere s (fun g => g.covers cl)).foldl (fun s g => requestStop s.tick g (hbmLoc cl.m ((Config.freeValue s.fresh).toNat % hbmSize))) s
/-- A lasting fault of HBM: the data of the failed row is marked, and a spare row is mapped when one is free, which the manual leaves open
(R374, assumption 8). -/
def failRow (s : State) (l : Nat) : State :=
  let s := (Config.rowUnits (locModule l) l).foldl (fun s u => markUnit s (hbmLoc (locModule l) (u * 64))) (markUnit s l)
  if (Config.freeValue s.fresh).getLsbD 0 then s.tick.countError (locModule l) (hwCode 5 5) else s.tick
/-- An operation fails a hardware check and is retried once: TRANSIENT, or LASTING with the data of a failed read marked and the unit
fenced (R373, R374). -/
def execHardwareCheckFailure (u : HwUnit) (retryOk : Bool) (st : State) : Out State :=
  let m := hwModule u
  match u with
  | .levanter m p => if retryOk then execLevanterReplay m (BitVec.ofNat 4 p) st else execLevanterPortFailure m (BitVec.ofNat 4 p) st
  | _ =>
    .next (
      if retryOk then st.countError m (hwCode (hwSource u) 2)
      else
        let s := st.countError m (hwCode (hwSource u) 3)
        let s := match u with
          | .coreSram l => markUnit s l
          | .clusterSram l => markUnit s l
          | .hbm l => failRow s l
          | .slice _ l => markUnit s l
          | _ => s
        match hwCluster u with
        | some cl => fenceCluster s u cl
        | none => s)
/-- The unit of memory in which an event lies. -/
def hwUnit : HwUnit → Option Nat
  | .coreSram l => some l | .clusterSram l => some l | .hbm l => some l | .slice _ l => some l | _ => none
/-- A hardware event without a retry: CORRECTED on a read, or UNCORRECTABLE, data being lost (R346). It is counted, a unit of memory whose data is
lost is marked, and a context whose state is lost traps at its next boundary. -/
def hardwareEvent (u : HwUnit) (lost : Bool) (s : State) : Out State :=
  match u, lost with
  | .coreState c, true => execContextLost c s
  | _, _ =>
    let s := s.countError (hwModule u) (hwCode (hwSource u) (if lost then 1 else 0))
    .next (match hwUnit u, lost with | some l, true => markUnit s l | _, _ => s)
/-- The local stores of a cluster as a location tells them. -/
def inCluster (cl : ClusterId) (l : Nat) : Bool := !isHbm l && decide (locCluster l = cl)
/-- A spare takes a fenced cluster's place, with nothing in it but what the coordinates themselves hold: the counts of tasks received, and
what saved gangs keep with their walkers and stages. -/
def freshCluster (s : State) (cl : ClusterId) : State :=
  let s := s.modCluster cl (fun c => { Cluster.reset with walk := c.walk })
  let s := { s with mem := s.mem.filter (fun c => !inCluster cl c.1), poison := s.poison.filter (fun u => !inCluster cl u.1) }
  (coreIds cl).foldl (fun s k => s.modCore k (fun c =>
    { Core.reset with stages := c.stages, slots := c.slots.map (fun sl => { Slot.reset with gens := sl.gens }) })) s
/-- A spare cluster of the same die takes a fenced cluster's coordinates, once its gangs have stopped, and they resume there; with no spare
left a DEGRADED record is sent (R374). -/
def execSpareReplacement (cl : ClusterId) (st : State) : Out State :=
  let q := quadrantOf cl
  let left := (st.module cl.m).spares.toList.getD q 0
  .next (
    if !(st.cluster cl).fenced || !(gangsWhere st (fun g => g.covers cl)).isEmpty then st
    else if left = 0 then st.countError cl.m (hwCode (st.cluster cl).fenceSrc 5)
    else
      let s := st.modModule cl.m (fun x => { x with spares := x.spares.mapIdx (fun i n => if i = q then n - 1 else n) })
      let s := freshCluster s cl
      let back := (s.gangs.filter (fun g => g.2.status = .stopped && g.2.covers cl)).map (·.1)
      back.foldl (fun s g => if (s.gang g).status = .stopped then resumeGangs s g (s.gang g).imageAt else s) s)

end Sys2Proof.Machine
end

