-- ==== Sys2Proof/Machine/Port.lean ====
section
/-! DEFINITION. Power states (R26, R377, R378), the host port (R338, R339), the management port, boot and attestation (R340 to R343,
R376), and operating modes (R367). -/

namespace Sys2Proof.Machine

/-! ## Power states (R26, R378) -/

/-- Whether a request on its way over Levanter goes to a module: a message, or a part of a Kettle command (R378). -/
def inFlight (s : State) (m : Nat) : Bool :=
  s.msgs.any (fun x => !x.acked && (moduleOf x.jobCl.m x.addr = m)) || s.sent.any (fun p => p.m = m)
/-- Whether a module is idle: no gang placed, no launch queued, no engine, Kettle, decoder or walker work pending, and no request in flight
(R378). -/
def moduleIdle (s : State) (m : Nat) : Bool :=
  s.gangs.all (fun g => !(g.2.status.onChip && g.2.m = m)) &&
  s.launches.all (fun l => l.2.fin || !(l.2.origin = m || (l.2.rc.m0 ≤ m && m < l.2.rc.m0 + l.2.rc.mods))) &&
  s.clusters.all (fun c => c.1.m ≠ m || c.2.jobs.isEmpty) && s.kettles.all (fun k => k.1.1 ≠ m || k.2.parts.isEmpty) &&
  s.decoders.all (fun d => d.1.1 ≠ m || d.2.job.isNone) && !inFlight s m && (s.module m).heldReqs.isEmpty
/-- The lowest state whose exit time is at most TOL (R26, R377). -/
def lowestPower (tol : Nat) : Power :=
  if tol = 0xFFFFFFFF || Power.calm.exitTime ≤ tol then .calm
  else if Power.lull.exitTime ≤ tol then .lull else if Power.doze.exitTime ≤ tol then .doze else .run
/-- A module that has been idle for 10 microseconds enters a power state (R378). -/
def execPowerStateEntry (m : Nat) (st : State) : Out State :=
  .next (if moduleIdle st m && (st.module m).power = .run then
      st.modModule m (fun x => { x with power := lowestPower (x.lattol.toNat % 2 ^ 32) }) else st)
/-- A host write, a Levanter message or a management request begins the exit and is held (R378). -/
def execWakeEvent (m req : Nat) (st : State) : Out State := .next (if sleeps st m then holdRequest st m (.other req) else st)

/-! ## The host port (R338) -/

/-- A BAR 2 access as a request: the virtual address WBASE + offset under the window's PID. -/
def windowReq (s : State) (m off size : Nat) (wdata : Option Nat) : RemoteReq :=
  let x := s.module m
  { pid := x.wpid, lid := 0, gen := 0, sys := false, addr := x.wbase + BitVec.ofNat 64 off, acc := if wdata.isSome then .write else .read,
    size := size, data := wdata.getD 0, mask := 2 ^ (8 * size) - 1 }
/-- One request of a BAR 2 access performed: with PID 0 in the window register it completes as an Unsupported Request, with no value and cause
0. -/
def windowRequest (s : State) (m off size : Nat) (wdata : Option Nat) : State :=
  let r := windowReq s m off size wdata
  if r.pid = 0 then reply s r none 0
  else if !(form r.addr).isVirt then reply s r none 0x041
  else match stationAccess s m r.pid r.addr.toNat size r.acc r.addr with
    | .fault t => reply s r none t.code
    | .retry => s
    | .loc l => match wdata with
      | some v => reply (s.write l size v) r (some 0) 0
      | none => match s.homeRead l size with
        | some v => reply s r (some v) 0
        | none => reply s r none 0x050
/-- A BAR 2 access performed, each page that it reaches by a request of its own. -/
def windowPieces (m : Nat) : Nat → Nat → Nat → Option Nat → State → State
  | 0, _, _, _, s => s
  | f + 1, off, size, w, s =>
    if size = 0 then s
    else
      let va := (windowReq s m off size w).addr.toNat
      let n := Nat.min size (65536 - va % 65536)
      windowPieces m f (off + n) (size - n) (w.map (fun v => v / 2 ^ (8 * n))) (windowRequest s m off n (w.map (fun v => v % 2 ^ (8 * n))))
/-- The size of BAR 2 (R338). -/
def bar2 : Nat := 2 ^ 36
def windowAccess (s : State) (m off size : Nat) (wdata : Option Nat) : State := windowPieces m (size / 65536 + 2) off size wdata s
/-- A BAR 2 access, in posted order; a write to a module in a power state begins its exit and is held, and what comes after it waits its
turn, as does a read, which begins no exit (R338, R378; assumption 57). -/
def execHostWindowAccess (m off size : Nat) (wdata : Option Nat) (st : State) : Out State :=
  .next (if bar2 < off + size then st
    else if sleeps st m then holdRequest st m (.window off size wdata) wdata.isSome else windowAccess st m off size wdata)
/-- A doorbell of BAR 0, performed after every BAR 2 write posted before it (R338). -/
def ringDoorbell (s : State) (m n : Nat) : State := s.modModule m (fun x => { x with doorbells := x.doorbells ++ [n] })
def execHostDoorbell (m n : Nat) (st : State) : Out State :=
  .next (if sleeps st m then holdRequest st m (.doorbell n) else ringDoorbell st m n)
/-- A location in the local stores of a module. -/
def inModule (m l : Nat) : Bool := !isHbm l && decide (locModule l = m)
/-- Every slot and cluster of a module cleared as R337 states. -/
def clearModule (s : State) (m : Nat) : State :=
  let clear := fun (sl : Slot) => { sl.clear with cx := Ctxt.reset, lastPid := none }
  let cores := s.cores.map (fun p => if p.1.cl.m = m then
    (p.1, { p.2 with trapq := [], slots := p.2.slots.mapIdx (fun i sl => if i = 4 then sl else clear sl) }) else p)
  let clusters := s.clusters.map (fun p => if p.1.m = m then
    (p.1, { p.2 with drafts := [], pool := [], conds := [], lastPid := none }) else p)
  { s with cores := cores, clusters := clusters, mem := s.mem.filter (fun c => !inModule m c.1),
           poison := s.poison.filter (fun u => !inModule m u.1) }
/-- The gangs of a module killed, each counted as killed in its own launch. -/
def killModule (s : State) (m : Nat) : State := ((s.gangs.filter (fun g => g.2.m = m)).map (·.1)).foldl killGang s
/-- A Function Level Reset (R339): launches that originated here are cancelled as by LCANCEL with KILL, every gang of the module is killed,
and every slot and cluster is cleared; HBM, the tables and the firmware are kept. -/
def execFunctionLevelReset (m : Nat) (st : State) : Out State :=
  let s := { st with launches := st.launches.map (fun l =>
    if l.2.origin = m && !l.2.fin && l.2.cancel.isNone then (l.1, { l.2 with cancel := some true }) else l) }
  .next (clearModule (killModule s m) m)

/-! ## Boot (R341) -/

/-- The bytes of a bit vector, the most significant first. -/
def beBytes (n v : Nat) : List Byte := (leBytes n v).reverse
end Sys2Proof.Machine

namespace Sys2Proof

/-- A field of an image, first byte lowest (R5), and one that the manual gives most significant byte first (R341). -/
def FwImage.le (i : FwImage) (at_ n : Nat) : Nat := Machine.ofBytes ((i.bytes.drop at_).take n)
def FwImage.be (i : FwImage) (at_ n : Nat) : Nat := Machine.ofBytes ((i.bytes.drop at_).take n).reverse
/-- The body of an image: as many bytes after the header as its length field says. -/
def FwImage.body (i : FwImage) : List Byte := (i.bytes.drop 128).take (i.le 8 8)
/-- The rollback version of an image, and its digest. -/
def FwImage.version (i : FwImage) : BitVec 32 := BitVec.ofNat 32 (i.le 4 4)
def FwImage.digest (i : FwImage) : BitVec 256 := BitVec.ofNat 256 (i.be 16 32)

end Sys2Proof

namespace Sys2Proof.Machine

/-- Whether the ROM accepts an image (R341). -/
def imageOk (rollback : BitVec 32) (i : FwImage) : Bool :=
  128 ≤ i.bytes.length && i.le 0 4 = 0x4C585246 && i.le 48 16 = 0 && !i.version.ult rollback && sha256 i.body = i.digest &&
  sha256 (beBytes 64 i.key.toNat) = Config.fusedKeyHash && ecdsaVerify i.key (sha256 (i.bytes.take 64)) (BitVec.ofNat 512 (i.be 64 64))
/-- A module at reset (R341, R376): its gangs are gone with the launches that originated on it, its cores, clusters, Kettles and decoders
are as after reset, and what fuses and counts hold is kept; until an image is accepted no cluster is powered. -/
def resetModule (s : State) (m : Nat) : State :=
  let s := killModule s m
  let s := { s with launches := s.launches.map (fun l => if l.2.origin = m then (l.1, { l.2 with fin := true }) else l) }
  let s := clearModule s m
  let s := { s with
    cores := s.cores.filter (fun p => p.1.cl.m ≠ m), clusters := s.clusters.filter (fun p => p.1.m ≠ m),
    kettles := s.kettles.filter (fun k => k.1.1 ≠ m), decoders := s.decoders.filter (fun d => d.1.1 ≠ m),
    tlb := s.tlb.filter (fun e => e.m ≠ m), msgs := s.msgs.filter (fun x => x.jobCl.m ≠ m) }
  s.modModule m (fun x => { Module.reset with
    errors := x.errors, mgmtCounter := x.mgmtCounter, keys := x.keys, rollback := x.rollback, delivered := x.delivered, spares := x.spares, replies := x.replies,
    clustersOn := false })
/-- A reset: the ROM fetches the image from the source that the fuses select, what fabric storage holds being `img`, takes it if every check holds
and raises the rollback count, and stays in the ROM otherwise (R25, R341). -/
def execModuleReset (m : Nat) (img : FwImage) (st : State) : Out State :=
  let s := resetModule st m
  .next (match (if Config.firmwareFromNetwork then (s.module m).delivered else some img) with
    | none => s
    | some i =>
      if imageOk (s.module m).rollback i then
        s.modModule m (fun x => { x with clustersOn := true, firmware := some i.digest,
                                         rollback := if x.rollback.ult i.version then i.version else x.rollback })
      else s)

/-! ## The management port (R340, R342, R343, R376) -/

/-- Whether an operator key is enrolled: the one of the module's manufacture, or one enrolled since. -/
def Module.enrolled (x : Module) (k : BitVec 512) : Bool := x.keys.contains k || k = Config.operatorKey
/-- Whether a request is taken: its key is enrolled, its counter is above the last one accepted, and its signature verifies (R340). -/
def mgmtOk (s : State) (m : Nat) (r : MgmtReq) : Bool :=
  let x := s.module m
  x.enrolled r.key && x.mgmtCounter.ult r.counter && ecdsaVerify r.key (sha256 r.bytes) r.sig
/-- A reply signed with the identity key (R343); the counter of the request is the last one accepted. -/
def mgmtReply (s : State) (m : Nat) (r : MgmtReq) (b : List Byte) : State :=
  s.modModule m (fun x => { x with mgmtCounter := r.counter, replies := x.replies ++ [(b, Config.identitySign (sha256 b))] })
/-- The part number, the stepping and the NBV set {1} (R15, R342). -/
def identityBytes : List Byte :=
  let l := Config.steppingLetter.val
  [0x41, 0x4D, 0x4B, 0x2D, 0x46, 0x58, 0x39, 0x31, BitVec.ofNat 8 (if l < 26 then 0x41 + l else 0x61 + (l - 26)),
    BitVec.ofNat 8 (0x30 + Config.steppingDigit.val), 0x02, 0x00]
/-- The hash of the running image; in the ROM there is none, and the field is a free value (assumption 8). -/
def firmwareHash (s : State) (m : Nat) : Nat :=
  match (s.module m).firmware with
  | some h => h.toNat
  | none => if (s.module m).clustersOn then Config.bootFirmware.toNat else (List.range 4).foldl (fun a i => a * 2 ^ 64 + (Config.freeValue (s.fresh + i)).toNat) 0
/-- The attestation record (R342). -/
def attestationRecord (s : State) (m : Nat) (nonce : BitVec 256) : List Byte :=
  let b := identityBytes ++ leBytes 4 (s.module m).rollback.toNat ++ beBytes 32 (firmwareHash s m) ++ beBytes 32 nonce.toNat ++
    beBytes 64 Config.identityKey.toNat
  b ++ beBytes 64 (Config.identitySign (sha256 b)).toNat
/-- The counts of the error records, by code: two bytes of code and eight of count, the form being the model's (R376). -/
def telemetryBytes (m : Module) : List Byte := (m.errors.map (fun e => leBytes 2 e.1.toNat ++ leBytes 8 e.2)).flatten
/-- An acknowledgement, whose content the manual does not give: a free value (assumption 8). -/
def acknowledge (s : State) (m : Nat) (r : MgmtReq) : State := mgmtReply s.tick m r (leBytes 8 (Config.freeValue s.fresh).toNat)
/-- TEST set or ended by a management request (R367). -/
def setTest (s : State) (m : Nat) (on : Bool) : State :=
  s.modModule m (fun x =>
    { x with test := on })
/-- A request taken; in the ROM only firmware delivery is served (R341). -/
def serve (s : State) (m : Nat) (k : MgmtKind) (r : MgmtReq) : State :=
  if !mgmtOk s m r then s
  else match k with
    | .firmware img => acknowledge (s.modModule m (fun x => { x with delivered := some img })) m r
    | k =>
      if !(s.module m).clustersOn then s
      else match k with
        | .telemetry => mgmtReply s m r (telemetryBytes (s.module m))
        | .reset => resetModule (acknowledge s m r) m
        | .enrol key => acknowledge (s.modModule m (fun x => { x with keys := if x.keys.contains key then x.keys else x.keys ++ [key] })) m r
        | .test on => acknowledge (setTest s m on) m r
        | .firmware _ => s
/-- A request other than identity and attestation: it wakes the module, and is held until then (R378). -/
def mgmt (s : State) (m : Nat) (k : MgmtKind) (r : MgmtReq) : State := if sleeps s m then holdRequest s m (.mgmt k r) else serve s m k r
/-- R340. -/
def execFirmwareDelivery (m : Nat) (r : MgmtReq) (img : FwImage) (st : State) : Out State := .next (mgmt st m (.firmware img) r)
/-- R340, R376. -/
def execTelemetry (m : Nat) (r : MgmtReq) (st : State) : Out State := .next (mgmt st m .telemetry r)
/-- R340. -/
def execManagementReset (m : Nat) (r : MgmtReq) (st : State) : Out State := .next (mgmt st m .reset r)
/-- R340. -/
def execKeyEnrolment (m : Nat) (r : MgmtReq) (key : BitVec 512) (st : State) : Out State := .next (mgmt st m (.enrol key) r)
/-- R367. -/
def execTestMode (m : Nat) (r : MgmtReq) (on : Bool) (st : State) : Out State := .next (mgmt st m (.test on) r)
/-- A request for the module's identity, answered in every power state (R15, R340). -/
def execIdentityRequest (m : Nat) (r : MgmtReq) (st : State) : Out State :=
  .next (if mgmtOk st m r then mgmtReply st m r identityBytes else st)
/-- A nonce is answered with the attestation record, in every power state (R342). -/
def execAttestation (m : Nat) (r : MgmtReq) (nonce : BitVec 256) (st : State) : Out State :=
  .next (if mgmtOk st m r then mgmtReply { st with fresh := st.fresh + 4 } m r (attestationRecord st m nonce) else st)
/-- What a held request does once the exit is complete (R378). -/
def proceed (m : Nat) (s : State) (h : HeldReq) : State :=
  match h with
  | .window off size w => windowAccess s m off size w
  | .doorbell n => ringDoorbell s m n
  | .bar0 r v => setRegister r v s
  | .mgmt k r => serve s m k r
  | .remote r => performRequest s r
  | .bits r => performBits s r
  | .other _ => s
/-- The exit is complete: the module is in Run and the held requests proceed in their order (R26, R378). -/
def execPowerExitComplete (m : Nat) (st : State) : Out State :=
  .next (if !(st.module m).waking then st
    else
      let s := st.modModule m (fun x => { x with power := .run, waking := false, heldReqs := [] })
      (st.module m).heldReqs.foldl (proceed m) s)

/-! ## Operating modes (R367) -/

/-- The service cores enter RECOVERY, or leave it; STARTUP and TEST are not set this way (R367). -/
def execOperatingMode (m : Nat) (mode : OpMode) (st : State) : Out State :=
  .next (st.modModule m (fun x =>
    match mode with
    | .recovery => { x with recovery := true }
    | .test => x
    | _ => { x with recovery := false }))

end Sys2Proof.Machine
end

