-- ==== Sys2Proof/Machine/Scalar.lean ====
section
/-! DEFINITION. The integer and logic operations, address making, branches and jumps of the chapter "Address-Stream
Instructions" (R139 to R148), and NOP and YIELD (R284). -/

namespace Sys2Proof.Machine

/-- A short-class integer operation on two registers (R139, R140). -/
def rr (s : Bool) (rd rs1 rs2 : BitVec 5) (f : DWord → DWord → DWord) (st : State) : State :=
  issue { s := s, hOk := true, xOk := true, a := [rs1, rs2] } st fun st =>
    st.done (st.cx.wa rd (f (st.cx.ra rs1) (st.cx.ra rs2)))
/-- An integer operation on one register (R140, R142). -/
def r1 (s : Bool) (rd rs1 : BitVec 5) (f : DWord → DWord) (st : State) : State :=
  issue { s := s, hOk := true, xOk := true, a := [rs1] } st fun st => st.done (st.cx.wa rd (f (st.cx.ra rs1)))
/-- A long-class division, whose result waits in the return buffer (R141). -/
def rrLong (s : Bool) (rd rs1 rs2 : BitVec 5) (f : DWord → DWord → DWord) (st : State) : State :=
  issue { s := s, long := true, hOk := true, xOk := true, a := [rs1, rs2] } st fun st =>
    st.done (st.cx.pushRb (.areg rd) (.scalar (f (st.cx.ra rs1) (st.cx.ra rs2))))
/-- Sext(Trunc(32, value)): a W result (R140). -/
def wres (v : DWord) : DWord := (v.setWidth 32).signExtend 64
/-- Sext of an immediate (R142). -/
def sx {w : Nat} (i : BitVec w) : DWord := i.signExtend 64
/-- One bits of the low `n` bits. -/
def popCount (v : Nat) : Nat → Nat
  | 0 => 0
  | n + 1 => (if v.testBit n then 1 else 0) + popCount v n
/-- Trailing zeros of the low `n` bits from bit `i`. -/
def trailing (v : Nat) : Nat → Nat → Nat
  | 0, i => i
  | n + 1, i => if v.testBit i then i else trailing v n (i + 1)
def clz64 (x : DWord) : DWord := BitVec.ofNat 64 (64 - bitLen x.toNat)
def ctz64 (x : DWord) : DWord := BitVec.ofNat 64 (trailing x.toNat 64 0)
/-- DIV, DIVU, REM and REMU with the edge cases of R141. -/
def divS (x y : DWord) : DWord := if y = 0 then BitVec.allOnes 64 else BitVec.ofInt 64 (x.toInt.tdiv y.toInt)
def divU (x y : DWord) : DWord := if y = 0 then BitVec.allOnes 64 else x / y
def remS (x y : DWord) : DWord := if y = 0 then x else BitVec.ofInt 64 (x.toInt.tmod y.toInt)
def remU (x y : DWord) : DWord := if y = 0 then x else x % y
def ofBit (b : Bool) : DWord := if b then 1 else 0

/-- R140. -/
def execAdd (s : Bool) (rd rs1 rs2 : BitVec 5) (st : State) : Out State :=
  .next (rr s rd rs1 rs2 (· + ·) st)
/-- R140. -/
def execSub (s : Bool) (rd rs1 rs2 : BitVec 5) (st : State) : Out State :=
  .next (rr s rd rs1 rs2 (· - ·) st)
/-- R140. -/
def execAnd (s : Bool) (rd rs1 rs2 : BitVec 5) (st : State) : Out State :=
  .next (rr s rd rs1 rs2 (· &&& ·) st)
/-- R140. -/
def execOr (s : Bool) (rd rs1 rs2 : BitVec 5) (st : State) : Out State :=
  .next (rr s rd rs1 rs2 (· ||| ·) st)
/-- R140. -/
def execXor (s : Bool) (rd rs1 rs2 : BitVec 5) (st : State) : Out State :=
  .next (rr s rd rs1 rs2 (· ^^^ ·) st)
/-- R140. -/
def execAndn (s : Bool) (rd rs1 rs2 : BitVec 5) (st : State) : Out State :=
  .next (rr s rd rs1 rs2 (fun x y => x &&& ~~~y) st)
/-- R140. -/
def execSll (s : Bool) (rd rs1 rs2 : BitVec 5) (st : State) : Out State :=
  .next (rr s rd rs1 rs2 (fun x y => x <<< (y.toNat % 64)) st)
/-- R140. -/
def execSrl (s : Bool) (rd rs1 rs2 : BitVec 5) (st : State) : Out State :=
  .next (rr s rd rs1 rs2 (fun x y => x >>> (y.toNat % 64)) st)
/-- R140. -/
def execSra (s : Bool) (rd rs1 rs2 : BitVec 5) (st : State) : Out State :=
  .next (rr s rd rs1 rs2 (fun x y => x.sshiftRight (y.toNat % 64)) st)
/-- R140. -/
def execSlt (s : Bool) (rd rs1 rs2 : BitVec 5) (st : State) : Out State :=
  .next (rr s rd rs1 rs2 (fun x y => ofBit (x.slt y)) st)
/-- R140. -/
def execSltu (s : Bool) (rd rs1 rs2 : BitVec 5) (st : State) : Out State :=
  .next (rr s rd rs1 rs2 (fun x y => ofBit (x.ult y)) st)
/-- R140. -/
def execMin (s : Bool) (rd rs1 rs2 : BitVec 5) (st : State) : Out State :=
  .next (rr s rd rs1 rs2 (fun x y => if x.slt y then x else y) st)
/-- R140. -/
def execMax (s : Bool) (rd rs1 rs2 : BitVec 5) (st : State) : Out State :=
  .next (rr s rd rs1 rs2 (fun x y => if x.slt y then y else x) st)
/-- R140. -/
def execMinu (s : Bool) (rd rs1 rs2 : BitVec 5) (st : State) : Out State :=
  .next (rr s rd rs1 rs2 (fun x y => if x.ult y then x else y) st)
/-- R140. -/
def execMaxu (s : Bool) (rd rs1 rs2 : BitVec 5) (st : State) : Out State :=
  .next (rr s rd rs1 rs2 (fun x y => if x.ult y then y else x) st)
/-- R140. -/
def execMul (s : Bool) (rd rs1 rs2 : BitVec 5) (st : State) : Out State :=
  .next (rr s rd rs1 rs2 (· * ·) st)
/-- R140. -/
def execMulh (s : Bool) (rd rs1 rs2 : BitVec 5) (st : State) : Out State :=
  .next (rr s rd rs1 rs2 (fun x y => BitVec.ofInt 64 (x.toInt * y.toInt / 2 ^ 64)) st)
/-- R140. -/
def execMulhu (s : Bool) (rd rs1 rs2 : BitVec 5) (st : State) : Out State :=
  .next (rr s rd rs1 rs2 (fun x y => BitVec.ofNat 64 (x.toNat * y.toNat / 2 ^ 64)) st)
/-- R140. -/
def execAddw (s : Bool) (rd rs1 rs2 : BitVec 5) (st : State) : Out State :=
  .next (rr s rd rs1 rs2 (fun x y => wres (x + y)) st)
/-- R140. -/
def execSubw (s : Bool) (rd rs1 rs2 : BitVec 5) (st : State) : Out State :=
  .next (rr s rd rs1 rs2 (fun x y => wres (x - y)) st)
/-- R140. -/
def execMulw (s : Bool) (rd rs1 rs2 : BitVec 5) (st : State) : Out State :=
  .next (rr s rd rs1 rs2 (fun x y => wres (x * y)) st)
/-- R140. -/
def execSllw (s : Bool) (rd rs1 rs2 : BitVec 5) (st : State) : Out State :=
  .next (rr s rd rs1 rs2 (fun x y => wres (x <<< (y.toNat % 32))) st)
/-- R140. -/
def execSrlw (s : Bool) (rd rs1 rs2 : BitVec 5) (st : State) : Out State :=
  .next (rr s rd rs1 rs2 (fun x y => wres (x.setWidth 32 >>> (y.toNat % 32) |>.setWidth 64)) st)
/-- R140. -/
def execSraw (s : Bool) (rd rs1 rs2 : BitVec 5) (st : State) : Out State :=
  .next (rr s rd rs1 rs2 (fun x y => ((x.setWidth 32).sshiftRight (y.toNat % 32)).signExtend 64) st)
/-- R141. -/
def execDiv (s : Bool) (rd rs1 rs2 : BitVec 5) (st : State) : Out State :=
  .next (rrLong s rd rs1 rs2 divS st)
/-- R141. -/
def execDivu (s : Bool) (rd rs1 rs2 : BitVec 5) (st : State) : Out State :=
  .next (rrLong s rd rs1 rs2 divU st)
/-- R141. -/
def execRem (s : Bool) (rd rs1 rs2 : BitVec 5) (st : State) : Out State :=
  .next (rrLong s rd rs1 rs2 remS st)
/-- R141. -/
def execRemu (s : Bool) (rd rs1 rs2 : BitVec 5) (st : State) : Out State :=
  .next (rrLong s rd rs1 rs2 remU st)
/-- R140. -/
def execClz (s : Bool) (rd rs1 : BitVec 5) (st : State) : Out State :=
  .next (r1 s rd rs1 clz64 st)
/-- R140. -/
def execCtz (s : Bool) (rd rs1 : BitVec 5) (st : State) : Out State :=
  .next (r1 s rd rs1 ctz64 st)
/-- R140. -/
def execPopc (s : Bool) (rd rs1 : BitVec 5) (st : State) : Out State :=
  .next (r1 s rd rs1 (fun x => BitVec.ofNat 64 (popCount x.toNat 64)) st)
/-- R142. -/
def execAddi (s : Bool) (rd rs1 : BitVec 5) (imm : BitVec 12) (st : State) : Out State :=
  .next (r1 s rd rs1 (· + sx imm) st)
/-- R142. -/
def execAndi (s : Bool) (rd rs1 : BitVec 5) (imm : BitVec 12) (st : State) : Out State :=
  .next (r1 s rd rs1 (· &&& sx imm) st)
/-- R142. -/
def execOri (s : Bool) (rd rs1 : BitVec 5) (imm : BitVec 12) (st : State) : Out State :=
  .next (r1 s rd rs1 (· ||| sx imm) st)
/-- R142. -/
def execXori (s : Bool) (rd rs1 : BitVec 5) (imm : BitVec 12) (st : State) : Out State :=
  .next (r1 s rd rs1 (· ^^^ sx imm) st)
/-- R142. -/
def execSlti (s : Bool) (rd rs1 : BitVec 5) (imm : BitVec 12) (st : State) : Out State :=
  .next (r1 s rd rs1 (fun x => ofBit (x.slt (sx imm))) st)
/-- R142. -/
def execSltiu (s : Bool) (rd rs1 : BitVec 5) (imm : BitVec 12) (st : State) : Out State :=
  .next (r1 s rd rs1 (fun x => ofBit (x.ult (sx imm))) st)
/-- R142. -/
def execAddiw (s : Bool) (rd rs1 : BitVec 5) (imm : BitVec 12) (st : State) : Out State :=
  .next (r1 s rd rs1 (fun x => wres (x + sx imm)) st)
/-- R142. -/
def execSlli (s : Bool) (rd rs1 : BitVec 5) (imm : BitVec 6) (st : State) : Out State :=
  .next (r1 s rd rs1 (fun x => x <<< imm.toNat) st)
/-- R142. -/
def execSrli (s : Bool) (rd rs1 : BitVec 5) (imm : BitVec 6) (st : State) : Out State :=
  .next (r1 s rd rs1 (fun x => x >>> imm.toNat) st)
/-- R142. -/
def execSrai (s : Bool) (rd rs1 : BitVec 5) (imm : BitVec 6) (st : State) : Out State :=
  .next (r1 s rd rs1 (fun x => x.sshiftRight imm.toNat) st)
/-- MKHI (R143). -/
def execMkhi (s : Bool) (rd : BitVec 5) (imm : BitVec 17) (st : State) : Out State :=
  .next (issue { s := s, hOk := true, xOk := true } st fun st => st.done (st.cx.wa rd (imm.setWidth 64 <<< 47)))

/-! ## Making addresses -/

/-- The address MKGA makes, or none for a bad locator or offset (R144). -/
def makeGlobal (loc off : DWord) (region : Nat) : Option DWord :=
  let l := loc.toNat
  let o := off.toNat
  if l / 2 ^ 30 ≠ 0 || l.testBit 3 || 191 < bits l 11 4 || 167 < bits l 19 12 then none
  else if (region = 1 && 0xFFFF < o) || (region ≠ 1 && 0x7FFF < o) then none
  else
    let c := if region = 1 then bits l 2 1 * 2 + bits o 15 15 else bits l 2 0
    some (BitVec.ofNat 64 (globLoc (bits l 29 20) (bits l 11 4) (bits l 19 12) c region (o % 2 ^ 15)))
/-- MKGA (R144). -/
def execMkga (s : Bool) (rd rs1 rs2 : BitVec 5) (region : BitVec 7) (st : State) : Out State :=
  .next (issue { s := s, a := [rs1, rs2] } st fun st =>
    match makeGlobal (st.cx.ra rs1) (st.cx.ra rs2) region.toNat with
    | some v => st.done (st.cx.wa rd v)
    | none => st.raise (trapInfo 0x042))
/-- PEERA: the address of a byte in the scratchpad of the core at a ring distance (R145). -/
def execPeera (s : Bool) (rd rs1 : BitVec 5) (imm : BitVec 12) (st : State) : Out State :=
  .next (issue { s := s, a := [rs1] } st fun st =>
    let off := (st.cx.ra rs1).toNat
    if 0x7FFF < off then st.raise (trapInfo 0x041 (st.cx.ra rs1))
    else
      let core := (((st.cur.n : Int) + imm.toInt) % 8).toNat
      st.done (st.cx.wa rd (BitVec.ofNat 64 (privLoc ⟨st.cur.cl, core⟩ off))))

/-! ## Branches and jumps -/

/-- A conditional branch: the target counts from the branch, and the transfer follows the delay slot (R51, R146). -/
def bcc (s : Bool) (rs1 rs2 : BitVec 5) (off : BitVec 12) (p : DWord → DWord → Bool) (st : State) : State :=
  issue { s := s, control := true, hOk := true, xOk := true, a := [rs1, rs2] } st fun st =>
    let c := st.cx
    st.branch c (if p (c.ra rs1) (c.ra rs2) then some (c.pc + halfwords off) else none)

/-- R146. -/
def execBeq (s : Bool) (rs1 rs2 : BitVec 5) (off : BitVec 12) (st : State) : Out State :=
  .next (bcc s rs1 rs2 off (· == ·) st)
/-- R146. -/
def execBne (s : Bool) (rs1 rs2 : BitVec 5) (off : BitVec 12) (st : State) : Out State :=
  .next (bcc s rs1 rs2 off (· != ·) st)
/-- R146. -/
def execBlt (s : Bool) (rs1 rs2 : BitVec 5) (off : BitVec 12) (st : State) : Out State :=
  .next (bcc s rs1 rs2 off BitVec.slt st)
/-- R146. -/
def execBge (s : Bool) (rs1 rs2 : BitVec 5) (off : BitVec 12) (st : State) : Out State :=
  .next (bcc s rs1 rs2 off (fun x y => !x.slt y) st)
/-- R146. -/
def execBltu (s : Bool) (rs1 rs2 : BitVec 5) (off : BitVec 12) (st : State) : Out State :=
  .next (bcc s rs1 rs2 off BitVec.ult st)
/-- R146. -/
def execBgeu (s : Bool) (rs1 rs2 : BitVec 5) (off : BitVec 12) (st : State) : Out State :=
  .next (bcc s rs1 rs2 off (fun x y => !x.ult y) st)
/-- LOOP: the delay slot reads the decremented value (R147). -/
def execLoop (s : Bool) (rs1 : BitVec 5) (off : BitVec 12) (st : State) : Out State :=
  .next (issue { s := s, control := true, hOk := true, xOk := true, a := [rs1] } st fun st =>
    let c := st.cx
    let v := c.ra rs1 - 1
    st.branch (c.wa rs1 v) (if v ≠ 0 then some (c.pc + halfwords off) else none))
/-- The address of the first halfword after the delay-slot instruction of a jump at the pc (R148). -/
def linkAddress (s : State) : DWord :=
  let pc := s.cx.pc
  match fetchHalf s s.me (pc + 4) (pc + 4) with
  | .ok h => pc + (if h % 2 = 0 then 6 else 8)
  | .error _ => pc + 8
/-- JAL (R148). -/
def execJal (s : Bool) (rd : BitVec 5) (off : BitVec 17) (st : State) : Out State :=
  .next (issue { s := s, control := true, hOk := true, xOk := true } st fun st =>
    let c := st.cx
    st.branch (c.wa rd (linkAddress st)) (some (c.pc + halfwords off)))
/-- JR: an odd target traps precisely (R148). -/
def execJr (s : Bool) (rd rs1 : BitVec 5) (imm : BitVec 12) (st : State) : Out State :=
  .next (issue { s := s, control := true, hOk := true, xOk := true, a := [rs1] } st fun st =>
    let c := st.cx
    let t := c.ra rs1 + sx imm
    if t.toNat % 2 = 1 then st.raise (trapInfo 0x010) else st.branch (c.wa rd (linkAddress st)) (some t))

/-- NOP (R284). -/
def execNop (s : Bool) (st : State) : Out State :=
  .next (issue { s := s, hOk := true, xOk := true } st (fun st => st.finish))
/-- YIELD: the watchdog count starts again and the core takes the next ready slot (R243 to R245, R284). -/
def execYield (s : Bool) (st : State) : Out State :=
  .next (issue { s := s } st fun st =>
    let st := st.finish
    switchPoint (st.setSelf { st.self with wcount := 0 }) st.cur)

end Sys2Proof.Machine
end

