-- ==== Sys2Proof/Machine/Transc.lean ====
section
/-! DEFINITION. The correctly rounded VSIN, VCOS, VEXP2 and VLOG2 (R110, R114). Apart from the exact cases the values are
irrational; each is brought to 320 fraction bits in fixed point and rounded once, which decides the rounding of the
three formats these functions have (assumption 11). -/

namespace Sys2Proof.Machine

/-- Fraction bits of the fixed point. -/
def fixP : Nat := 320
/-- π and ln 2 in fixed point. -/
def fixPi : Nat := 0x3243f6a8885a308d313198a2e03707344a4093822299f31d0082efa98ec4e6c89452821e638d01377
def fixLn2 : Nat := 0xb17217f7d1cf79abc9e3b39803f2f6af40f343267298b62d8a0d175b8baafa2be7b876206debac98
/-- The alternating series with first term `t` of degree `k` in `r`, `r2` = r². -/
def altSeries (r2 : Nat) : Nat → Nat → Nat → Bool → Nat → Nat → Nat
  | 0, _, _, _, pos, neg => pos - neg
  | n + 1, t, k, s, pos, neg =>
    altSeries r2 n (((t * r2) >>> fixP) / ((k + 1) * (k + 2))) (k + 2) (!s) (if s then pos else pos + t)
      (if s then neg + t else neg)
/-- The sum of `t·y^j / (k·(k+1)···)`. -/
def expSeries (y : Nat) : Nat → Nat → Nat → Nat → Nat
  | 0, _, _, acc => acc
  | n + 1, t, k, acc => expSeries y n (((t * y) >>> fixP) / k) (k + 1) (acc + t)
/-- The sum of `t·z2^j / (k + 2j)`. -/
def atanhSeries (z2 : Nat) : Nat → Nat → Nat → Nat → Nat
  | 0, _, _, acc => acc
  | n + 1, t, k, acc => atanhSeries z2 n ((t * z2) >>> fixP) (k + 2) (acc + t / k)

/-- The range NaN: quiet, sign 0, payload 1, with RANGE alone (R114). -/
def rangeNan (f : Ieee) : Nat × FlagBits := (f.dnan + 1, fRange)
/-- sin, or cos, of a nonzero finite number of magnitude at most 2^16. -/
def sinCos (f : Ieee) (cos neg : Bool) (m : Nat) (e : Int) : Nat × FlagBits :=
  if bitLen m + e < -60 then
    if cos then roundIeee f false ⟨2 ^ 64 - 1, -64, true⟩ else roundIeee f neg ⟨m * 2 ^ 64 - 1, e - 64, true⟩
  else
    let x := m * 2 ^ (fixP + e).natAbs
    let half := fixPi / 2
    let k := x / half + (if cos then 1 else 0)
    let r := x % half
    let r2 := (r * r) >>> fixP
    let v := if k % 2 = 0 then altSeries r2 48 r 1 false 0 0 else altSeries r2 48 (2 ^ fixP) 0 false 0 0
    roundIeee f ((!cos && neg) != decide (2 ≤ k % 4)) ⟨v, -fixP, true⟩
/-- Whether a dyadic magnitude exceeds 2^16. -/
def beyondRange (m : Nat) (e : Int) : Bool := !dyLe m e 1 16
def fpSin (f : Ieee) (a : Nat) : Nat × FlagBits :=
  (propagate f [f.num a]).getD
    (match f.num a with
    | .fin n m e => if m = 0 then (a, 0) else if beyondRange m e then rangeNan f else sinCos f false n m e
    | _ => rangeNan f)
def fpCos (f : Ieee) (a : Nat) : Nat × FlagBits :=
  (propagate f [f.num a]).getD
    (match f.num a with
    | .fin n m e => if m = 0 then (f.one, 0) else if beyondRange m e then rangeNan f else sinCos f true n m e
    | _ => rangeNan f)
/-- An exponent brought within bounds that every format overflows or underflows at. -/
def clampExp (n : Int) : Int := max (-4000) (min 4000 n)
def fpExp2 (f : Ieee) (a : Nat) : Nat × FlagBits :=
  (propagate f [f.num a]).getD
    (match f.num a with
    | .inf n => (if n then f.zero false else f.inf false, 0)
    | .fin n m e =>
      if m = 0 then (f.one, 0)
      else if e ≥ 0 || m % 2 ^ e.natAbs = 0 then
        let v := if e ≥ 0 then m * 2 ^ (min e.natAbs 200) else m / 2 ^ e.natAbs
        roundIeee f false ⟨1, clampExp (if n then -(v : Int) else v), false⟩
      else
        let x : Int := (m * 2 ^ (fixP + e).natAbs : Nat)
        let x := if n then -x else x
        let y := ((x % (2 ^ fixP : Nat)).toNat * fixLn2) >>> fixP
        roundIeee f false ⟨expSeries y 90 (2 ^ fixP) 1 0, clampExp (x / (2 ^ fixP : Nat)) - fixP, true⟩
    | _ => invalid f)
def fpLog2 (f : Ieee) (a : Nat) : Nat × FlagBits :=
  (propagate f [f.num a]).getD
    (match f.num a with
    | .inf n => if n then invalid f else (f.inf false, 0)
    | .fin n m e =>
      if m = 0 then (f.inf true, fDivzero) else if n then invalid f
      else
        let l := bitLen m - 1
        let ex : Int := e + l
        if m = 2 ^ l then roundIeee f (decide (ex < 0)) ⟨ex.natAbs, 0, false⟩
        else
          let z := ((m - 2 ^ l) * 2 ^ fixP) / (m + 2 ^ l)
          let s := 2 * atanhSeries ((z * z) >>> fixP) 104 z 1 0
          let v : Int := ex * (2 ^ fixP : Nat) + ((s * 2 ^ fixP / fixLn2 : Nat) : Int)
          roundIeee f (decide (v < 0)) ⟨v.natAbs, -fixP, true⟩
    | _ => invalid f)

end Sys2Proof.Machine
end

