-- ==== Sys2Proof/Machine/Vector.lean ====
section
/-! DEFINITION. The vector lane instructions of both lengths, the predicate logic, permutes, zips, ordered reductions and
FLAGS access (chapter "Vector Lane Instructions"), the special functions, conversion, retagging and requantisation
(chapter "Special Functions, Conversion and Requantisation"), and VLQ. -/

namespace Sys2Proof.Machine

/-- A two-source lane operation of the VR format (R86, R115). -/
def vr2 (s : Bool) (d a b : BitVec 6) (k : BitVec 3) (z : Bool) (ok : Tag → Bool) (op : Tag → Nat → Nat → Nat × FlagBits)
    (long : Bool) (st : State) : State :=
  laneIssue { s := s, d := d, srcs := [a, b], long := long } k z ok
    (fun t vs i => op t (arg t vs 0 i) (arg t vs 1 i)) st
/-- A one-source lane operation. -/
def vr1 (s : Bool) (d a : BitVec 6) (k : BitVec 3) (z : Bool) (ok : Tag → Bool) (op : Tag → Nat → Nat × FlagBits)
    (long : Bool) (st : State) : State :=
  laneIssue { s := s, d := d, srcs := [a], long := long } k z ok (fun t vs i => op t (arg t vs 0 i)) st
/-- VFMA and VFMS: d is the third source and the destination (R86). -/
def vr3 (s : Bool) (d a b : BitVec 6) (k : BitVec 3) (z sub : Bool) (st : State) : State :=
  laneIssue { s := s, d := d, srcs := [a, b, d] } k z tyFp
    (fun t vs i => laneFma t sub (arg t vs 0 i) (arg t vs 1 i) (arg t vs 2 i)) st
/-- A 16-bit form: vd is the first source and the destination, under k0 (R91). -/
def v16 (s : Bool) (d vs : BitVec 5) (ok : Tag → Bool) (op : Tag → Nat → Nat → Nat × FlagBits) (st : State) : State :=
  laneIssue { s := s, len := 2, d := spec5 d, srcs := [spec5 d, spec5 vs] } 0 false ok
    (fun t os i => op t (arg t os 0 i) (arg t os 1 i)) st
/-- A 16-bit form of one source, vs (R91). -/
def v16u (s : Bool) (d vs : BitVec 5) (ok : Tag → Bool) (op : Tag → Nat → Nat × FlagBits) (st : State) : State :=
  laneIssue { s := s, len := 2, d := spec5 d, srcs := [spec5 vs] } 0 false ok (fun t os i => op t (arg t os 0 i)) st

def lAnd (t : Tag) (a b : Nat) : Nat × FlagBits := (fixElem t (a &&& b), 0)
def lOr (t : Tag) (a b : Nat) : Nat × FlagBits := (fixElem t (a ||| b), 0)
def lXor (t : Tag) (a b : Nat) : Nat × FlagBits := (fixElem t (a ^^^ b), 0)
def lAndn (t : Tag) (a b : Nat) : Nat × FlagBits := (fixElem t (a &&& (2 ^ t.ebits - 1 - b)), 0)
/-- An FP operation of one or two operands by tag, for types whose set holds only FP tags. -/
def fp1 (g : Ieee → Nat → Nat × FlagBits) (t : Tag) (a : Nat) : Nat × FlagBits := byType t (fun f => g f a) 0
def fp2 (g : Ieee → Nat → Nat → Nat × FlagBits) (t : Tag) (a b : Nat) : Nat × FlagBits := byType t (fun f => g f a b) 0

/-- The amount of a shift: lane 0 of b read unsigned, or the low e bits of a broadcast register (R89). -/
def shiftAmount (t : Tag) (o : Opnd) : Nat :=
  match o with
  | .bcast v => v.toNat % 2 ^ t.ebits
  | o => readLane t (o.bits t) 0
/-- The shift forms (R89). -/
def vshift (q : VIss) (k : BitVec 3) (z : Bool) (op : Tag → Nat → Nat → Nat) (st : State) : State :=
  vecIssue q st (fun c os => typeOf c os q.d tyInt) fun c t os =>
    applyLanes t (c.rk k.toNat) z (oldOf c q.d) fun i =>
      (op t (readLane t ((os.getD 0 .zero).bits t) i) (shiftAmount t (os.getD 1 .zero)), 0)
/-- The immediate shift forms (R90). -/
def vshifti (s : Bool) (d a : BitVec 6) (n : BitVec 8) (k : BitVec 2) (op : Tag → Nat → Nat → Nat) (st : State) : State :=
  laneIssue { s := s, d := d, srcs := [a] } (k.setWidth 3) false tyInt (fun t vs i => (op t (arg t vs 0 i) n.toNat, 0)) st

/-! ## Lane arithmetic, logic and shifts (R86 to R89) -/

/-- R86, R92: a copy of the bits. -/
def execVmov (s : Bool) (d a : BitVec 6) (k : BitVec 3) (z : Bool) (st : State) : Out State :=
  .next (laneIssue { s := s, d := d, srcs := [a] } k z tyAny (fun t vs i => (laneOf t.ebits (vs.getD 0 0) i, 0)) st)
/-- R86 to R88. -/
def execVadd (s : Bool) (d a b : BitVec 6) (k : BitVec 3) (z : Bool) (st : State) : Out State :=
  .next (vr2 s d a b k z tyFpInt laneAdd false st)
/-- R86 to R88. -/
def execVsub (s : Bool) (d a b : BitVec 6) (k : BitVec 3) (z : Bool) (st : State) : Out State :=
  .next (vr2 s d a b k z tyFpInt laneSub false st)
/-- R86 to R88. -/
def execVmul (s : Bool) (d a b : BitVec 6) (k : BitVec 3) (z : Bool) (st : State) : Out State :=
  .next (vr2 s d a b k z tyFpInt laneMul false st)
/-- R86 to R88. -/
def execVmax (s : Bool) (d a b : BitVec 6) (k : BitVec 3) (z : Bool) (st : State) : Out State :=
  .next (vr2 s d a b k z tyFpInt laneMax false st)
/-- R86 to R88. -/
def execVmin (s : Bool) (d a b : BitVec 6) (k : BitVec 3) (z : Bool) (st : State) : Out State :=
  .next (vr2 s d a b k z tyFpInt laneMin false st)
/-- R86, R87. -/
def execVfma (s : Bool) (d a b : BitVec 6) (k : BitVec 3) (z : Bool) (st : State) : Out State :=
  .next (vr3 s d a b k z false st)
/-- R86, R87. -/
def execVfms (s : Bool) (d a b : BitVec 6) (k : BitVec 3) (z : Bool) (st : State) : Out State :=
  .next (vr3 s d a b k z true st)
/-- R86. -/
def execVand (s : Bool) (d a b : BitVec 6) (k : BitVec 3) (z : Bool) (st : State) : Out State :=
  .next (vr2 s d a b k z tyAny lAnd false st)
/-- R86. -/
def execVor (s : Bool) (d a b : BitVec 6) (k : BitVec 3) (z : Bool) (st : State) : Out State :=
  .next (vr2 s d a b k z tyAny lOr false st)
/-- R86. -/
def execVxor (s : Bool) (d a b : BitVec 6) (k : BitVec 3) (z : Bool) (st : State) : Out State :=
  .next (vr2 s d a b k z tyAny lXor false st)
/-- R86. -/
def execVandn (s : Bool) (d a b : BitVec 6) (k : BitVec 3) (z : Bool) (st : State) : Out State :=
  .next (vr2 s d a b k z tyAny lAndn false st)
/-- R89. -/
def execVsll (s : Bool) (d a b : BitVec 6) (k : BitVec 3) (z : Bool) (st : State) : Out State :=
  .next (vshift { s := s, d := d, srcs := [a, b] } k z laneSll st)
/-- R89. -/
def execVsrl (s : Bool) (d a b : BitVec 6) (k : BitVec 3) (z : Bool) (st : State) : Out State :=
  .next (vshift { s := s, d := d, srcs := [a, b] } k z laneSrl st)
/-- R89. -/
def execVsra (s : Bool) (d a b : BitVec 6) (k : BitVec 3) (z : Bool) (st : State) : Out State :=
  .next (vshift { s := s, d := d, srcs := [a, b] } k z laneSra st)
/-- R86 to R88. -/
def execVabs (s : Bool) (d a : BitVec 6) (k : BitVec 3) (z : Bool) (st : State) : Out State :=
  .next (vr1 s d a k z tyFpInt laneAbs false st)
/-- R86 to R88. -/
def execVneg (s : Bool) (d a : BitVec 6) (k : BitVec 3) (z : Bool) (st : State) : Out State :=
  .next (vr1 s d a k z tyFpInt laneNeg false st)
/-- R88. -/
def execVmulh (s : Bool) (d a b : BitVec 6) (k : BitVec 3) (z : Bool) (st : State) : Out State :=
  .next (vr2 s d a b k z tyInt (fun t x y => (laneMulh t x y, 0)) false st)

/-! ## Immediate forms (R90) -/

/-- An immediate converted to T (R90); a negative one wraps into UINT8 or UINT32 from its sign extension (assumption 56). -/
def immElem (t : Tag) (imm : BitVec 8) : Nat :=
  match t.ieee with
  | some f => (roundIeee f (decide (imm.toInt < 0)) ⟨imm.toInt.natAbs, 0, false⟩).1
  | none => wrapInt t imm.toInt

/-- R90. -/
def execVaddi (s : Bool) (d a : BitVec 6) (imm : BitVec 8) (k : BitVec 2) (st : State) : Out State :=
  .next (laneIssue { s := s, d := d, srcs := [a] } (k.setWidth 3) false tyInt
    (fun t vs i => (wrapInt t (intVal t (arg t vs 0 i) + imm.toInt), 0)) st)
/-- R90: T is the tag of the destination. -/
def execVmovi (s : Bool) (d : BitVec 6) (imm : BitVec 8) (k : BitVec 2) (st : State) : Out State :=
  .next (laneIssue { s := s, d := d, srcs := [] } (k.setWidth 3) false tyFpInt (fun t _ _ => (immElem t imm, 0)) st)
/-- R90. -/
def execVslli (s : Bool) (d a : BitVec 6) (imm : BitVec 8) (k : BitVec 2) (st : State) : Out State :=
  .next (vshifti s d a imm k laneSll st)
/-- R90. -/
def execVsrli (s : Bool) (d a : BitVec 6) (imm : BitVec 8) (k : BitVec 2) (st : State) : Out State :=
  .next (vshifti s d a imm k laneSrl st)
/-- R90. -/
def execVsrai (s : Bool) (d a : BitVec 6) (imm : BitVec 8) (k : BitVec 2) (st : State) : Out State :=
  .next (vshifti s d a imm k laneSra st)

/-! ## The 16-bit forms (R91) -/

/-- R91. -/
def execVmov16 (s : Bool) (d vs : BitVec 5) (st : State) : Out State :=
  .next (laneIssue { s := s, len := 2, d := spec5 d, srcs := [spec5 vs] } 0 false tyAny (fun t os i => (laneOf t.ebits (os.getD 0 0) i, 0)) st)
/-- R91. -/
def execVadd16 (s : Bool) (d vs : BitVec 5) (st : State) : Out State :=
  .next (v16 s d vs tyFpInt laneAdd st)
/-- R91. -/
def execVsub16 (s : Bool) (d vs : BitVec 5) (st : State) : Out State :=
  .next (v16 s d vs tyFpInt laneSub st)
/-- R91. -/
def execVmul16 (s : Bool) (d vs : BitVec 5) (st : State) : Out State :=
  .next (v16 s d vs tyFpInt laneMul st)
/-- R91. -/
def execVmax16 (s : Bool) (d vs : BitVec 5) (st : State) : Out State :=
  .next (v16 s d vs tyFpInt laneMax st)
/-- R91. -/
def execVmin16 (s : Bool) (d vs : BitVec 5) (st : State) : Out State :=
  .next (v16 s d vs tyFpInt laneMin st)
/-- R91. -/
def execVand16 (s : Bool) (d vs : BitVec 5) (st : State) : Out State :=
  .next (v16 s d vs tyAny lAnd st)
/-- R91. -/
def execVor16 (s : Bool) (d vs : BitVec 5) (st : State) : Out State :=
  .next (v16 s d vs tyAny lOr st)
/-- R91. -/
def execVxor16 (s : Bool) (d vs : BitVec 5) (st : State) : Out State :=
  .next (v16 s d vs tyAny lXor st)
/-- R91: vd + vs · l0 with one rounding; the NaN order is vd, vs, l0. -/
def execVfmal (s : Bool) (d vs : BitVec 5) (st : State) : Out State :=
  .next (laneIssue { s := s, len := 2, d := spec5 d, srcs := [spec5 d, spec5 vs, 40] } 0 false tyFp
    (fun t os i => laneFmal t (arg t os 0 i) (arg t os 1 i) (arg t os 2 i)) st)
/-- R91. -/
def execVneg16 (s : Bool) (d vs : BitVec 5) (st : State) : Out State :=
  .next (v16u s d vs tyFpInt laneNeg st)
/-- R91. -/
def execVabs16 (s : Bool) (d vs : BitVec 5) (st : State) : Out State :=
  .next (v16u s d vs tyFpInt laneAbs st)
/-- R89, R91. -/
def execVsll16 (s : Bool) (d vs : BitVec 5) (st : State) : Out State :=
  .next (vshift { s := s, len := 2, d := spec5 d, srcs := [spec5 d, spec5 vs] } 0 false laneSll st)
/-- R89, R91. -/
def execVsrl16 (s : Bool) (d vs : BitVec 5) (st : State) : Out State :=
  .next (vshift { s := s, len := 2, d := spec5 d, srcs := [spec5 d, spec5 vs] } 0 false laneSrl st)

/-- VQPOP: the entry's bits and tag at commit (R91). -/
def execVqpop (s : Bool) (d n : BitVec 5) (st : State) : Out State :=
  .next (vecIssue { s := s, len := 2, d := spec5 d, srcs := [BitVec.ofNat 6 (44 + n.toNat)], long := true } st
    (fun _ os => match os with | [.ent e] => .ok e.tag | _ => .ok .none)
    (fun _ t os => ((os.getD 0 .zero).bits t, 0)))
/-- VQPUSH: vd with its tag (R91). -/
def execVqpush (s : Bool) (d n : BitVec 5) (st : State) : Out State :=
  .next (vecIssue { s := s, len := 2, d := BitVec.ofNat 6 (48 + n.toNat), srcs := [spec5 d], l := false } st
    (fun _ os => sourceType os .none) (fun _ t os => ((os.getD 0 .zero).bits t, 0)))
/-- WAITALL: a switch marker and nothing else (R35). -/
def execWaitall (st : State) : Out State := .next (issue { s := true, len := 2 } st (fun s => s.finish 2))
/-- VLQ: VLEN in bits (R85). -/
def execVlq (s : Bool) (rd : BitVec 5) (st : State) : Out State :=
  .next (issue { s := s } st (fun st => st.done (st.cx.wa rd (BitVec.ofNat 64 Config.vlen))))

/-! ## Compares and predicates (R93 to R95) -/

/-- A compare: long-class where a source names a queue (R93). -/
def vcompare (s : Bool) (d a b : BitVec 6) (k : BitVec 3) (z : Bool) (op : Nat) (st : State) : State :=
  let q : VIss := { s := s, d := 63, srcs := [a, b], l := false }
  issue q.iss st fun st =>
    let c := st.cx
    match operands c [] q.srcs with
    | none => st.park (.qPop (shortQueue c q.srcs))
    | some os =>
      match firstMark (os.filterMap Opnd.mark?) with
      | some m => st.done ((popAll c q.srcs).pushRb (.pred d) (.fault m))
      | none => match typeOf c os 63 tyFpInt with
        | .error e => st.raise (trapInfo e)
        | .ok t =>
          let vs := os.map (fun o => o.bits t)
          let kk := c.rk k.toNat
          let old := c.rk d.toNat
          let rs := (List.range t.lanes).map (fun i =>
            if active t kk i then laneCmp t op (arg t vs 0 i) (arg t vs 1 i) else (false, 0))
          let eb := t.ebits / 8
          let mask := ofActive eb (fun i => active t kk i)
          let new := (ofActive eb (fun i => (rs.getD i (false, 0)).1)) &&& mask
          let r := if z then new else new ||| (old &&& ~~~mask)
          let f := orAll (rs.map (·.2))
          let c := popAll c q.srcs
          if q.isLong then st.done (c.pushRb (.pred d) (.pred r) f) else st.done ((c.wk d r).orFlags f)

/-- R93. -/
def execVcmpeq (s : Bool) (d a b : BitVec 6) (k : BitVec 3) (z : Bool) (st : State) : Out State :=
  .next (vcompare s d a b k z 0 st)
/-- R93. -/
def execVcmpne (s : Bool) (d a b : BitVec 6) (k : BitVec 3) (z : Bool) (st : State) : Out State :=
  .next (vcompare s d a b k z 1 st)
/-- R93. -/
def execVcmplt (s : Bool) (d a b : BitVec 6) (k : BitVec 3) (z : Bool) (st : State) : Out State :=
  .next (vcompare s d a b k z 2 st)
/-- R93. -/
def execVcmple (s : Bool) (d a b : BitVec 6) (k : BitVec 3) (z : Bool) (st : State) : Out State :=
  .next (vcompare s d a b k z 3 st)

/-- Predicate logic, bit by bit (R94). -/
def kop (s : Bool) (d a b : BitVec 6) (k : BitVec 3) (z : Bool) (op : PBits → PBits → PBits) (st : State) : State :=
  issue { s := s } st fun st =>
    let c := st.cx
    let m := c.rk k.toNat
    let r := op (c.rk a.toNat) (c.rk b.toNat) &&& m
    st.done (c.wk d (if z then r else r ||| (c.rk d.toNat &&& ~~~m)))

/-- R94. -/
def execKand (s : Bool) (d a b : BitVec 6) (k : BitVec 3) (z : Bool) (st : State) : Out State :=
  .next (kop s d a b k z (· &&& ·) st)
/-- R94. -/
def execKor (s : Bool) (d a b : BitVec 6) (k : BitVec 3) (z : Bool) (st : State) : Out State :=
  .next (kop s d a b k z (· ||| ·) st)
/-- R94. -/
def execKxor (s : Bool) (d a b : BitVec 6) (k : BitVec 3) (z : Bool) (st : State) : Out State :=
  .next (kop s d a b k z (· ^^^ ·) st)
/-- R94. -/
def execKandn (s : Bool) (d a b : BitVec 6) (k : BitVec 3) (z : Bool) (st : State) : Out State :=
  .next (kop s d a b k z (fun x y => x &&& ~~~y) st)
/-- VWHILE: lane j of the predicate is I + j < N, exactly (R95). -/
def execVwhile (s : Bool) (d a b : BitVec 6) (esize : BitVec 3) (st : State) : Out State :=
  .next (issue { s := s, v := [a, b] } st fun st =>
    let c := st.cx
    let i := (c.ra (specA a)).toInt
    let n := (c.ra (specA b)).toInt
    st.done (c.wk d (ofActive (2 ^ esize.toNat) (fun j => decide (i + j < n)))))

/-! ## Permutes (R96 to R98) -/

/-- Whether an index tag suits data of a tag: an integer tag of the same register element size (R96, R104). -/
def indexOk (ix t : Tag) : Bool := ix.isInt && decide (ix.ebits = t.ebits)
/-- VPERM: the type is that of a, or the destination's where a is a broadcast or vz (R64; assumption 56); b is checked as an index source
(R96). -/
def execVperm (s : Bool) (d a b : BitVec 6) (k : BitVec 3) (z : Bool) (st : State) : Out State :=
  .next (vecIssue { s := s, d := d, srcs := [a, b] } st
    (fun c os => do
      let t ← typeOf c (os.take 1) d tyAny
      match (os.getD 1 .zero).tag? with
      | none => .ok t
      | some u => if u = .none then .error 0x009 else if indexOk u t then .ok t else .error 0x008)
    (fun c t os =>
      let o := os.getD 1 .zero
      let x : Nat → Int := fun i => match o with
        | .bcast v => sgn t.ebits v.toNat
        | .zero => 0
        | o => match o.tag? with
          | some u => intVal u (laneOf u.ebits (o.bits u) i)
          | none => 0
      let v := (os.getD 0 .zero).bits t
      applyLanes t (c.rk k.toNat) z (oldOf c d) (fun i =>
        if x i < 0 || x i ≥ t.lanes then (0, 0) else (readLane t v (x i).toNat, 0))))
/-- A permute of the VF format whose sel6 is a lane number: a lane of L or more traps with RESERVED_FIELD (R59, R97); a lane that only the operand's tag
puts out of range does so after the marker, the queue's wait and the tag checks (assumption 60). -/
def vlane (q : VIss) (k : BitVec 3) (z : Bool) (lane : BitVec 6) (op : Tag → VBits → VBits → Nat → Nat) (extra : Ctxt → Tag → Except (BitVec 9) Tag)
    (st : State) : State :=
  vecIssue q st
    (fun c os => do
      let t ← typeOf c (os.take 1) q.d tyAny
      if t.lanes ≤ lane.toNat then .error 0x005 else extra c t)
    (fun c t os => applyLanes t (c.rk k.toNat) z (oldOf c q.d) (fun i =>
      (op t ((os.getD 0 .zero).bits t) (oldOf c q.d) i, 0)))

/-- R97. -/
def execVbcast (s : Bool) (d a lane : BitVec 6) (k : BitVec 3) (z : Bool) (st : State) : Out State :=
  .next (vlane { s := s, d := d, srcs := [a] } k z lane (fun t v _ _ => readLane t v lane.toNat) (fun _ t => .ok t) st)
/-- R97. -/
def execVext (s : Bool) (d a lane : BitVec 6) (k : BitVec 3) (z : Bool) (st : State) : Out State :=
  .next (vlane { s := s, d := d, srcs := [a] } k z lane
    (fun t v _ i => if i = 0 then readLane t v lane.toNat else 0) (fun _ t => .ok t) st)
/-- R97: d is also a source, whose tag must be NONE or that of a. -/
def execVins (s : Bool) (d a lane : BitVec 6) (k : BitVec 3) (z : Bool) (st : State) : Out State :=
  .next (vlane { s := s, d := d, srcs := if d = 63 then [a] else [a, d] } k z lane
    (fun t v old i => if i = lane.toNat then readLane t v 0 else readLane t old i)
    (fun c t => let u := destTag c d; if u = .none || u = t then .ok t else .error 0x008) st)
/-- R98. -/
def execVslide (s : Bool) (d a : BitVec 6) (imm : BitVec 8) (k : BitVec 2) (st : State) : Out State :=
  .next (laneIssue { s := s, d := d, srcs := [a] } (k.setWidth 3) false tyAny
    (fun t vs i => let j : Int := (i : Int) - imm.toInt
      if 0 ≤ j && j < t.lanes then (arg t vs 0 j.toNat, 0) else (0, 0)) st)

/-! ## Zips and unzips (R99) -/

/-- The n consecutive v-registers from `a`. -/
def zipSrcs (a : BitVec 6) (n : Nat) : List (BitVec 6) := (List.range n).map (fun i => a + BitVec.ofNat 6 i)
/-- VZIPn: element j of source s becomes element j·n + s. -/
def vzip (s : Bool) (d a part : BitVec 6) (n : Nat) (k : BitVec 3) (z : Bool) (st : State) : State :=
  laneIssue { s := s, d := d, srcs := zipSrcs a n } k z tyAny
    (fun t vs i => let x := part.toNat * t.lanes + i; (arg t vs (x % n) (x / n), 0)) st
/-- VUNZIPn: element i·n + p of the registers end to end. -/
def vunzip (s : Bool) (d a part : BitVec 6) (n : Nat) (k : BitVec 3) (z : Bool) (st : State) : State :=
  laneIssue { s := s, d := d, srcs := zipSrcs a n } k z tyAny
    (fun t vs i => let x := i * n + part.toNat; (arg t vs (x / t.lanes) (x % t.lanes), 0)) st

/-- R99. -/
def execVzip2 (s : Bool) (d a lane : BitVec 6) (k : BitVec 3) (z : Bool) (st : State) : Out State :=
  .next (vzip s d a lane 2 k z st)
/-- R99. -/
def execVzip3 (s : Bool) (d a lane : BitVec 6) (k : BitVec 3) (z : Bool) (st : State) : Out State :=
  .next (vzip s d a lane 3 k z st)
/-- R99. -/
def execVzip4 (s : Bool) (d a lane : BitVec 6) (k : BitVec 3) (z : Bool) (st : State) : Out State :=
  .next (vzip s d a lane 4 k z st)
/-- R99. -/
def execVunzip2 (s : Bool) (d a lane : BitVec 6) (k : BitVec 3) (z : Bool) (st : State) : Out State :=
  .next (vunzip s d a lane 2 k z st)
/-- R99. -/
def execVunzip3 (s : Bool) (d a lane : BitVec 6) (k : BitVec 3) (z : Bool) (st : State) : Out State :=
  .next (vunzip s d a lane 3 k z st)
/-- R99. -/
def execVunzip4 (s : Bool) (d a lane : BitVec 6) (k : BitVec 3) (z : Bool) (st : State) : Out State :=
  .next (vunzip s d a lane 4 k z st)

/-! ## Ordered reductions (R100, R101) -/

/-- The largest payload of a format: all ones (R69). -/
def maxPayload (f : Ieee) : Nat := 2 ^ (f.fb - 1) - 1
/-- A reduction over the lanes in ascending order, each step rounded; a NaN lane gives the NaN of its rank (R69, R100). -/
def reduce (t : Tag) (id : Nat) (op : Nat → Nat → Nat × FlagBits) (lanes : List (Nat × Nat)) : Nat × FlagBits :=
  let r := match lanes with
    | [] => (id, (0 : FlagBits))
    | x :: r => r.foldl (fun (acc : Nat × FlagBits) y => let v := op acc.1 y.2; (v.1, acc.2 ||| v.2)) (x.2, 0)
  match t.ieee with
  | none => r
  | some f =>
    let sig := if lanes.any (fun x => (f.num x.2).isSig) then fInvalid else 0
    match lanes.find? (fun x => (f.num x.2).isNan) with
    | some x => (f.nan false (min x.1 (maxPayload f)), r.2 ||| sig)
    | none => (r.1, r.2)
/-- The ordered reductions: the result in lane 0 and 0 elsewhere (R100). -/
def vreduce (s : Bool) (d a : BitVec 6) (k : BitVec 3) (ok : Tag → Bool) (id : Tag → Nat)
    (op : Tag → Nat → Nat → Nat × FlagBits) (st : State) : State :=
  vecIssue { s := s, d := d, srcs := [a] } st (fun c os => typeOf c os d ok) fun c t os =>
    let v := (os.getD 0 .zero).bits t
    let ls := ((List.range t.lanes).filter (fun i => active t (c.rk k.toNat) i)).map (fun i => (i, readLane t v i))
    let r := reduce t (id t) (op t) ls
    (ofLanes t.ebits [r.1], r.2)
/-- Identity(op, T) of R101. -/
def idMax (t : Tag) : Nat := match t.ieee with | some f => f.inf true | none => wrapInt t (intMin t)
def idMin (t : Tag) : Nat := match t.ieee with | some f => f.inf false | none => wrapInt t (intMax t)

/-- R100, R101. -/
def execVrsum (s : Bool) (d a : BitVec 6) (k : BitVec 3) (st : State) : Out State :=
  .next (vreduce s d a k tyFpInt (fun _ => 0) laneAdd st)
/-- R100, R101. -/
def execVrmax (s : Bool) (d a : BitVec 6) (k : BitVec 3) (st : State) : Out State :=
  .next (vreduce s d a k tyFpInt idMax laneMax st)
/-- R100, R101. -/
def execVrmin (s : Bool) (d a : BitVec 6) (k : BitVec 3) (st : State) : Out State :=
  .next (vreduce s d a k tyFpInt idMin laneMin st)
/-- R100, R101. -/
def execVrand (s : Bool) (d a : BitVec 6) (k : BitVec 3) (st : State) : Out State :=
  .next (vreduce s d a k tyInt (fun t => wrapInt t (-1)) lAnd st)
/-- R100, R101. -/
def execVror (s : Bool) (d a : BitVec 6) (k : BitVec 3) (st : State) : Out State :=
  .next (vreduce s d a k tyInt (fun _ => 0) lOr st)
/-- R100, R101. -/
def execVrxor (s : Bool) (d a : BitVec 6) (k : BitVec 3) (st : State) : Out State :=
  .next (vreduce s d a k tyInt (fun _ => 0) lXor st)

/-! ## Special functions (R110 to R115) -/

/-- R110, R111, R114. -/
def execVrcpe (s : Bool) (d a : BitVec 6) (k : BitVec 3) (z : Bool) (st : State) : Out State :=
  .next (vr1 s d a k z tyFp3 (fp1 fpRcpe) true st)
/-- R110, R111, R114. -/
def execVrsqe (s : Bool) (d a : BitVec 6) (k : BitVec 3) (z : Bool) (st : State) : Out State :=
  .next (vr1 s d a k z tyFp3 (fp1 fpRsqe) true st)
/-- R110, R111, R114. -/
def execVsin (s : Bool) (d a : BitVec 6) (k : BitVec 3) (z : Bool) (st : State) : Out State :=
  .next (vr1 s d a k z tyFp3 (fp1 fpSin) true st)
/-- R110, R111, R114. -/
def execVcos (s : Bool) (d a : BitVec 6) (k : BitVec 3) (z : Bool) (st : State) : Out State :=
  .next (vr1 s d a k z tyFp3 (fp1 fpCos) true st)
/-- R110, R111, R114. -/
def execVexp2 (s : Bool) (d a : BitVec 6) (k : BitVec 3) (z : Bool) (st : State) : Out State :=
  .next (vr1 s d a k z tyFp3 (fp1 fpExp2) true st)
/-- R110, R111, R114. -/
def execVlog2 (s : Bool) (d a : BitVec 6) (k : BitVec 3) (z : Bool) (st : State) : Out State :=
  .next (vr1 s d a k z tyFp3 (fp1 fpLog2) true st)
/-- R110, R111, R114. -/
def execVsqrt (s : Bool) (d a : BitVec 6) (k : BitVec 3) (z : Bool) (st : State) : Out State :=
  .next (vr1 s d a k z tyFp (fp1 fpSqrt) true st)
/-- R115. -/
def execVrcps (s : Bool) (d a b : BitVec 6) (k : BitVec 3) (z : Bool) (st : State) : Out State :=
  .next (vr2 s d a b k z tyFp3 (fp2 fpRcps) true st)
/-- R115. -/
def execVrsqs (s : Bool) (d a b : BitVec 6) (k : BitVec 3) (z : Bool) (st : State) : Out State :=
  .next (vr2 s d a b k z tyFp3 (fp2 fpRsqs) true st)
/-- R115. -/
def execVdiv (s : Bool) (d a b : BitVec 6) (k : BitVec 3) (z : Bool) (st : State) : Out State :=
  .next (vr2 s d a b k z tyFp (fp2 fpDiv) true st)

/-! ## Conversion, retagging, requantisation (R116 to R118) -/

/-- VCVT (R116): S is the tag of the source, INT64 of a broadcast, the target of vz. -/
def execVcvt (s : Bool) (d a fmt : BitVec 6) (k : BitVec 3) (z : Bool) (st : State) : Out State :=
  .next (vecIssue { s := s, d := d, srcs := [a] } st
    (fun _ os => match (os.getD 0 .zero).tag? with
      | some .none => .error 0x009
      | _ => .ok (tagOf fmt.toNat))
    (fun c t os =>
      let o := os.getD 0 .zero
      let src := match o with | .bcast _ => Tag.int64 | .zero => t | o => o.tag?.getD .none
      let v := o.bits src
      applyLanes t (c.rk k.toNat) z (oldOf c d) (fun i =>
        if i < src.lanes then convert src t (readLane src v i) else (0, 0))))
/-- VTAG: the bits unchanged under a new tag, NONE included (R117). -/
def execVtag (s : Bool) (d a fmt : BitVec 6) (st : State) : Out State :=
  .next (vecIssue { s := s, d := d, srcs := [a] } st (fun _ _ => .ok (tagOf fmt.toNat))
    (fun _ t os => ((os.getD 0 .zero).bits t, 0)))
/-- One element requantised (R118). -/
def requant (t : Tag) (x mq : Int) (sh : Nat) (z0 : Int) : Nat × FlagBits :=
  let h := (x * mq) / 2 ^ 31
  let r := if sh = 0 then h
    else
      let q : Int := (h.natAbs + 2 ^ (sh - 1)) / 2 ^ sh
      if h < 0 then -q else q
  match satInt t (r + z0) with
  | (b, true) => (b, fSat)
  | (b, false) => (b, 0)
/-- VRQ (R118): the tags of a, then of oM, oM+1 and oM+2, are checked in order. -/
def execVrq (s : Bool) (d a : BitVec 6) (tgt m : BitVec 3) (k : BitVec 3) (z : Bool) (st : State) : Out State :=
  let o := fun (j : Nat) => BitVec.ofNat 6 (32 + m.toNat + j)
  .next (vecIssue { s := s, d := d, srcs := [a, o 0, o 1, o 2] } st
    (fun _ os => do
      let t : Tag := if tgt = 0 then .int8 else .int4
      match (os.getD 0 .zero).tag? with
      | some .none => .error 0x009
      | some u => if u ≠ .int32 then .error 0x00A else pure ()
      | none => pure ()
      match (os.drop 1).find? (fun o => decide (o.tag? ≠ some Tag.int32)) with
      | some o => if o.tag? = some Tag.none then .error 0x009 else .error 0x008
      | none => .ok t)
    (fun c t os =>
      let v := fun (j : Nat) (i : Nat) => laneOf 32 ((os.getD j .zero).bits .int32) i
      applyLanes t (c.rk k.toNat) z (oldOf c d) (fun i =>
        if i < 8 then requant t (sgn 32 (v 0 i)) (sgn 32 (v 1 i)) (v 2 i % 64) (sgn 32 (v 3 i)) else (0, 0))))

/-! ## Sticky-flag access (R108) -/

/-- VFLRD: an INT64 vector with FLAGS in lane 0; no last-result write. -/
def execVflrd (s : Bool) (d : BitVec 6) (st : State) : Out State :=
  .next (issue { s := s } st (fun st => st.done (st.cx.wv d (ofLanes 64 [st.cx.flags.toNat]) .int64)))
/-- VFLCLR: FLAGS without the bits of aM[6:0]. -/
def execVflclr (s : Bool) (a : BitVec 6) (st : State) : Out State :=
  .next (issue { s := s, v := [a] } st (fun st =>
    st.done { st.cx with flags := st.cx.flags &&& ~~~(st.cx.ra (specA a) &&& 0x7F) }))

end Sys2Proof.Machine
end

