-- ==== Sys2Proof/Machine/Dispatch.lean ====
section
/-! DEFINITION. The dispatch of every row of the opcode table to its meaning. -/

namespace Sys2Proof.Machine

/-- One row of the opcode table carried out by the context that issues, or by the agent the row's operands name. -/
def exec (i : Instr) (s : State) : Host.Outcome State Fault Refusal :=
  match i with
  | .add x1 x2 x3 x4 => Sys2Proof.Machine.execAdd x1 x2 x3 x4 s
  | .sub x1 x2 x3 x4 => Sys2Proof.Machine.execSub x1 x2 x3 x4 s
  | .and x1 x2 x3 x4 => Sys2Proof.Machine.execAnd x1 x2 x3 x4 s
  | .or x1 x2 x3 x4 => Sys2Proof.Machine.execOr x1 x2 x3 x4 s
  | .xor x1 x2 x3 x4 => Sys2Proof.Machine.execXor x1 x2 x3 x4 s
  | .andn x1 x2 x3 x4 => Sys2Proof.Machine.execAndn x1 x2 x3 x4 s
  | .sll x1 x2 x3 x4 => Sys2Proof.Machine.execSll x1 x2 x3 x4 s
  | .srl x1 x2 x3 x4 => Sys2Proof.Machine.execSrl x1 x2 x3 x4 s
  | .sra x1 x2 x3 x4 => Sys2Proof.Machine.execSra x1 x2 x3 x4 s
  | .slt x1 x2 x3 x4 => Sys2Proof.Machine.execSlt x1 x2 x3 x4 s
  | .sltu x1 x2 x3 x4 => Sys2Proof.Machine.execSltu x1 x2 x3 x4 s
  | .min x1 x2 x3 x4 => Sys2Proof.Machine.execMin x1 x2 x3 x4 s
  | .max x1 x2 x3 x4 => Sys2Proof.Machine.execMax x1 x2 x3 x4 s
  | .minu x1 x2 x3 x4 => Sys2Proof.Machine.execMinu x1 x2 x3 x4 s
  | .maxu x1 x2 x3 x4 => Sys2Proof.Machine.execMaxu x1 x2 x3 x4 s
  | .mul x1 x2 x3 x4 => Sys2Proof.Machine.execMul x1 x2 x3 x4 s
  | .mulh x1 x2 x3 x4 => Sys2Proof.Machine.execMulh x1 x2 x3 x4 s
  | .mulhu x1 x2 x3 x4 => Sys2Proof.Machine.execMulhu x1 x2 x3 x4 s
  | .div x1 x2 x3 x4 => Sys2Proof.Machine.execDiv x1 x2 x3 x4 s
  | .divu x1 x2 x3 x4 => Sys2Proof.Machine.execDivu x1 x2 x3 x4 s
  | .rem x1 x2 x3 x4 => Sys2Proof.Machine.execRem x1 x2 x3 x4 s
  | .remu x1 x2 x3 x4 => Sys2Proof.Machine.execRemu x1 x2 x3 x4 s
  | .clz x1 x2 x3 => Sys2Proof.Machine.execClz x1 x2 x3 s
  | .ctz x1 x2 x3 => Sys2Proof.Machine.execCtz x1 x2 x3 s
  | .popc x1 x2 x3 => Sys2Proof.Machine.execPopc x1 x2 x3 s
  | .addw x1 x2 x3 x4 => Sys2Proof.Machine.execAddw x1 x2 x3 x4 s
  | .subw x1 x2 x3 x4 => Sys2Proof.Machine.execSubw x1 x2 x3 x4 s
  | .mulw x1 x2 x3 x4 => Sys2Proof.Machine.execMulw x1 x2 x3 x4 s
  | .sllw x1 x2 x3 x4 => Sys2Proof.Machine.execSllw x1 x2 x3 x4 s
  | .srlw x1 x2 x3 x4 => Sys2Proof.Machine.execSrlw x1 x2 x3 x4 s
  | .sraw x1 x2 x3 x4 => Sys2Proof.Machine.execSraw x1 x2 x3 x4 s
  | .addi x1 x2 x3 x4 => Sys2Proof.Machine.execAddi x1 x2 x3 x4 s
  | .andi x1 x2 x3 x4 => Sys2Proof.Machine.execAndi x1 x2 x3 x4 s
  | .ori x1 x2 x3 x4 => Sys2Proof.Machine.execOri x1 x2 x3 x4 s
  | .xori x1 x2 x3 x4 => Sys2Proof.Machine.execXori x1 x2 x3 x4 s
  | .slti x1 x2 x3 x4 => Sys2Proof.Machine.execSlti x1 x2 x3 x4 s
  | .sltiu x1 x2 x3 x4 => Sys2Proof.Machine.execSltiu x1 x2 x3 x4 s
  | .slli x1 x2 x3 x4 => Sys2Proof.Machine.execSlli x1 x2 x3 x4 s
  | .srli x1 x2 x3 x4 => Sys2Proof.Machine.execSrli x1 x2 x3 x4 s
  | .srai x1 x2 x3 x4 => Sys2Proof.Machine.execSrai x1 x2 x3 x4 s
  | .addiw x1 x2 x3 x4 => Sys2Proof.Machine.execAddiw x1 x2 x3 x4 s
  | .mkhi x1 x2 x3 => Sys2Proof.Machine.execMkhi x1 x2 x3 s
  | .mkga x1 x2 x3 x4 x5 => Sys2Proof.Machine.execMkga x1 x2 x3 x4 x5 s
  | .peera x1 x2 x3 x4 => Sys2Proof.Machine.execPeera x1 x2 x3 x4 s
  | .beq x1 x2 x3 x4 => Sys2Proof.Machine.execBeq x1 x2 x3 x4 s
  | .bne x1 x2 x3 x4 => Sys2Proof.Machine.execBne x1 x2 x3 x4 s
  | .blt x1 x2 x3 x4 => Sys2Proof.Machine.execBlt x1 x2 x3 x4 s
  | .bge x1 x2 x3 x4 => Sys2Proof.Machine.execBge x1 x2 x3 x4 s
  | .bltu x1 x2 x3 x4 => Sys2Proof.Machine.execBltu x1 x2 x3 x4 s
  | .bgeu x1 x2 x3 x4 => Sys2Proof.Machine.execBgeu x1 x2 x3 x4 s
  | .loop x1 x2 x3 => Sys2Proof.Machine.execLoop x1 x2 x3 s
  | .jal x1 x2 x3 => Sys2Proof.Machine.execJal x1 x2 x3 s
  | .jr x1 x2 x3 x4 => Sys2Proof.Machine.execJr x1 x2 x3 x4 s
  | .nop x1 => Sys2Proof.Machine.execNop x1 s
  | .yield x1 => Sys2Proof.Machine.execYield x1 s
  | .retire x1 => Sys2Proof.Machine.execRetire x1 s
  | .vlq x1 x2 => Sys2Proof.Machine.execVlq x1 x2 s
  | .ldb x1 x2 x3 x4 => Sys2Proof.Machine.execLdb x1 x2 x3 x4 s
  | .ldbz x1 x2 x3 x4 => Sys2Proof.Machine.execLdbz x1 x2 x3 x4 s
  | .ldh x1 x2 x3 x4 => Sys2Proof.Machine.execLdh x1 x2 x3 x4 s
  | .ldhz x1 x2 x3 x4 => Sys2Proof.Machine.execLdhz x1 x2 x3 x4 s
  | .ldw x1 x2 x3 x4 => Sys2Proof.Machine.execLdw x1 x2 x3 x4 s
  | .ldwz x1 x2 x3 x4 => Sys2Proof.Machine.execLdwz x1 x2 x3 x4 s
  | .ldd x1 x2 x3 x4 => Sys2Proof.Machine.execLdd x1 x2 x3 x4 s
  | .stb x1 x2 x3 x4 => Sys2Proof.Machine.execStb x1 x2 x3 x4 s
  | .sth x1 x2 x3 x4 => Sys2Proof.Machine.execSth x1 x2 x3 x4 s
  | .stw x1 x2 x3 x4 => Sys2Proof.Machine.execStw x1 x2 x3 x4 s
  | .std x1 x2 x3 x4 => Sys2Proof.Machine.execStd x1 x2 x3 x4 s
  | .rld x1 x2 x3 x4 x5 x6 => Sys2Proof.Machine.execRld x1 x2 x3 x4 x5 x6 s
  | .rst x1 x2 x3 x4 x5 => Sys2Proof.Machine.execRst x1 x2 x3 x4 x5 s
  | .sdef x1 x2 x3 x4 => Sys2Proof.Machine.execSdef x1 x2 x3 x4 s
  | .sgo x1 x2 x3 x4 => Sys2Proof.Machine.execSgo x1 x2 x3 x4 s
  | .shalt x1 x2 => Sys2Proof.Machine.execShalt x1 x2 s
  | .sq x1 x2 x3 => Sys2Proof.Machine.execSq x1 x2 x3 s
  | .qpush x1 x2 x3 x4 => Sys2Proof.Machine.execQpush x1 x2 x3 x4 s
  | .qpop x1 x2 x3 => Sys2Proof.Machine.execQpop x1 x2 x3 s
  | .bind x1 x2 x3 x4 x5 x6 => Sys2Proof.Machine.execBind x1 x2 x3 x4 x5 x6 s
  | .unbind x1 x2 => Sys2Proof.Machine.execUnbind x1 x2 s
  | .acq x1 x2 x3 x4 => Sys2Proof.Machine.execAcq x1 x2 x3 x4 s
  | .rel x1 x2 x3 => Sys2Proof.Machine.execRel x1 x2 x3 s
  | .fence x1 x2 => Sys2Proof.Machine.execFence x1 x2 s
  | .lbfence x1 => Sys2Proof.Machine.execLbfence x1 s
  | .aadd x1 x2 x3 x4 x5 x6 => Sys2Proof.Machine.execAadd x1 x2 x3 x4 x5 x6 s
  | .amin x1 x2 x3 x4 x5 x6 => Sys2Proof.Machine.execAmin x1 x2 x3 x4 x5 x6 s
  | .amax x1 x2 x3 x4 x5 x6 => Sys2Proof.Machine.execAmax x1 x2 x3 x4 x5 x6 s
  | .aand x1 x2 x3 x4 x5 x6 => Sys2Proof.Machine.execAand x1 x2 x3 x4 x5 x6 s
  | .aor x1 x2 x3 x4 x5 x6 => Sys2Proof.Machine.execAor x1 x2 x3 x4 x5 x6 s
  | .axor x1 x2 x3 x4 x5 x6 => Sys2Proof.Machine.execAxor x1 x2 x3 x4 x5 x6 s
  | .axchg x1 x2 x3 x4 x5 x6 => Sys2Proof.Machine.execAxchg x1 x2 x3 x4 x5 x6 s
  | .acas x1 x2 x3 x4 x5 x6 => Sys2Proof.Machine.execAcas x1 x2 x3 x4 x5 x6 s
  | .cwait x1 x2 x3 x4 x5 => Sys2Proof.Machine.execCwait x1 x2 x3 x4 x5 s
  | .cadd x1 x2 x3 x4 => Sys2Proof.Machine.execCadd x1 x2 x3 x4 s
  | .bari x1 x2 x3 => Sys2Proof.Machine.execBari x1 x2 x3 s
  | .bara x1 x2 x3 x4 => Sys2Proof.Machine.execBara x1 x2 x3 x4 s
  | .barw x1 x2 x3 => Sys2Proof.Machine.execBarw x1 x2 x3 s
  | .baraw x1 x2 x3 x4 => Sys2Proof.Machine.execBaraw x1 x2 x3 x4 s
  | .barq x1 x2 x3 => Sys2Proof.Machine.execBarq x1 x2 x3 s
  | .talloc x1 x2 x3 x4 => Sys2Proof.Machine.execTalloc x1 x2 x3 x4 s
  | .tfree x1 x2 => Sys2Proof.Machine.execTfree x1 x2 s
  | .tstat x1 x2 x3 => Sys2Proof.Machine.execTstat x1 x2 x3 s
  | .twait x1 x2 => Sys2Proof.Machine.execTwait x1 x2 s
  | .tset x1 x2 x3 x4 => Sys2Proof.Machine.execTset x1 x2 x3 x4 s
  | .cpstage x1 x2 => Sys2Proof.Machine.execCpstage x1 x2 s
  | .cpq x1 x2 x3 => Sys2Proof.Machine.execCpq x1 x2 x3 s
  | .cpcancel x1 x2 => Sys2Proof.Machine.execCpcancel x1 x2 s
  | .mxsub x1 x2 x3 x4 => Sys2Proof.Machine.execMxsub x1 x2 x3 x4 s
  | .mxpoll x1 x2 x3 => Sys2Proof.Machine.execMxpoll x1 x2 x3 s
  | .mxwait x1 x2 => Sys2Proof.Machine.execMxwait x1 x2 s
  | .puts x1 x2 x3 => Sys2Proof.Machine.execPuts x1 x2 x3 s
  | .get x1 x2 x3 => Sys2Proof.Machine.execGet x1 x2 x3 s
  | .radd x1 x2 x3 => Sys2Proof.Machine.execRadd x1 x2 x3 s
  | .evwait x1 x2 x3 x4 => Sys2Proof.Machine.execEvwait x1 x2 x3 x4 s
  | .kcmd x1 x2 x3 x4 => Sys2Proof.Machine.execKcmd x1 x2 x3 x4 s
  | .kfence x1 => Sys2Proof.Machine.execKfence x1 s
  | .kpoll x1 x2 x3 => Sys2Proof.Machine.execKpoll x1 x2 x3 s
  | .wseal x1 x2 x3 x4 => Sys2Proof.Machine.execWseal x1 x2 x3 x4 s
  | .wq x1 x2 x3 => Sys2Proof.Machine.execWq x1 x2 x3 s
  | .spawn x1 x2 x3 => Sys2Proof.Machine.execSpawn x1 x2 x3 s
  | .spawnc x1 x2 x3 x4 x5 => Sys2Proof.Machine.execSpawnc x1 x2 x3 x4 x5 s
  | .cres x1 x2 x3 x4 => Sys2Proof.Machine.execCres x1 x2 x3 x4 s
  | .cbr x1 x2 x3 x4 x5 => Sys2Proof.Machine.execCbr x1 x2 x3 x4 x5 s
  | .cvote x1 x2 x3 x4 => Sys2Proof.Machine.execCvote x1 x2 x3 x4 s
  | .ssend x1 => Sys2Proof.Machine.execSsend x1 s
  | .xend x1 x2 => Sys2Proof.Machine.execXend x1 x2 s
  | .xmit x1 x2 x3 x4 x5 x6 => Sys2Proof.Machine.execXmit x1 x2 x3 x4 x5 x6 s
  | .xsel x1 x2 x3 x4 x5 x6 => Sys2Proof.Machine.execXsel x1 x2 x3 x4 x5 x6 s
  | .launch x1 x2 x3 x4 => Sys2Proof.Machine.execLaunch x1 x2 x3 x4 s
  | .lcancel x1 x2 x3 => Sys2Proof.Machine.execLcancel x1 x2 x3 s
  | .lwait x1 x2 x3 => Sys2Proof.Machine.execLwait x1 x2 x3 s
  | .cycb x1 x2 x3 x4 => Sys2Proof.Machine.execCycb x1 x2 x3 x4 s
  | .cycres x1 x2 => Sys2Proof.Machine.execCycres x1 x2 s
  | .cyce x1 => Sys2Proof.Machine.execCyce x1 s
  | .cyct x1 x2 x3 => Sys2Proof.Machine.execCyct x1 x2 x3 s
  | .sysrd x1 x2 x3 => Sys2Proof.Machine.execSysrd x1 x2 x3 s
  | .syswr x1 x2 x3 => Sys2Proof.Machine.execSyswr x1 x2 x3 s
  | .trap x1 x2 x3 => Sys2Proof.Machine.execTrap x1 x2 x3 s
  | .eret x1 x2 => Sys2Proof.Machine.execEret x1 x2 s
  | .brk x1 x2 => Sys2Proof.Machine.execBrk x1 x2 s
  | .wdog x1 x2 x3 => Sys2Proof.Machine.execWdog x1 x2 x3 s
  | .pwrhint x1 x2 => Sys2Proof.Machine.execPwrhint x1 x2 s
  | .vmov x1 x2 x3 x4 x5 => Sys2Proof.Machine.execVmov x1 x2 x3 x4 x5 s
  | .vadd x1 x2 x3 x4 x5 x6 => Sys2Proof.Machine.execVadd x1 x2 x3 x4 x5 x6 s
  | .vsub x1 x2 x3 x4 x5 x6 => Sys2Proof.Machine.execVsub x1 x2 x3 x4 x5 x6 s
  | .vmul x1 x2 x3 x4 x5 x6 => Sys2Proof.Machine.execVmul x1 x2 x3 x4 x5 x6 s
  | .vfma x1 x2 x3 x4 x5 x6 => Sys2Proof.Machine.execVfma x1 x2 x3 x4 x5 x6 s
  | .vfms x1 x2 x3 x4 x5 x6 => Sys2Proof.Machine.execVfms x1 x2 x3 x4 x5 x6 s
  | .vmax x1 x2 x3 x4 x5 x6 => Sys2Proof.Machine.execVmax x1 x2 x3 x4 x5 x6 s
  | .vmin x1 x2 x3 x4 x5 x6 => Sys2Proof.Machine.execVmin x1 x2 x3 x4 x5 x6 s
  | .vand x1 x2 x3 x4 x5 x6 => Sys2Proof.Machine.execVand x1 x2 x3 x4 x5 x6 s
  | .vor x1 x2 x3 x4 x5 x6 => Sys2Proof.Machine.execVor x1 x2 x3 x4 x5 x6 s
  | .vxor x1 x2 x3 x4 x5 x6 => Sys2Proof.Machine.execVxor x1 x2 x3 x4 x5 x6 s
  | .vandn x1 x2 x3 x4 x5 x6 => Sys2Proof.Machine.execVandn x1 x2 x3 x4 x5 x6 s
  | .vsll x1 x2 x3 x4 x5 x6 => Sys2Proof.Machine.execVsll x1 x2 x3 x4 x5 x6 s
  | .vsrl x1 x2 x3 x4 x5 x6 => Sys2Proof.Machine.execVsrl x1 x2 x3 x4 x5 x6 s
  | .vsra x1 x2 x3 x4 x5 x6 => Sys2Proof.Machine.execVsra x1 x2 x3 x4 x5 x6 s
  | .vabs x1 x2 x3 x4 x5 => Sys2Proof.Machine.execVabs x1 x2 x3 x4 x5 s
  | .vneg x1 x2 x3 x4 x5 => Sys2Proof.Machine.execVneg x1 x2 x3 x4 x5 s
  | .vmulh x1 x2 x3 x4 x5 x6 => Sys2Proof.Machine.execVmulh x1 x2 x3 x4 x5 x6 s
  | .vcmpeq x1 x2 x3 x4 x5 x6 => Sys2Proof.Machine.execVcmpeq x1 x2 x3 x4 x5 x6 s
  | .vcmpne x1 x2 x3 x4 x5 x6 => Sys2Proof.Machine.execVcmpne x1 x2 x3 x4 x5 x6 s
  | .vcmplt x1 x2 x3 x4 x5 x6 => Sys2Proof.Machine.execVcmplt x1 x2 x3 x4 x5 x6 s
  | .vcmple x1 x2 x3 x4 x5 x6 => Sys2Proof.Machine.execVcmple x1 x2 x3 x4 x5 x6 s
  | .kand x1 x2 x3 x4 x5 x6 => Sys2Proof.Machine.execKand x1 x2 x3 x4 x5 x6 s
  | .kor x1 x2 x3 x4 x5 x6 => Sys2Proof.Machine.execKor x1 x2 x3 x4 x5 x6 s
  | .kxor x1 x2 x3 x4 x5 x6 => Sys2Proof.Machine.execKxor x1 x2 x3 x4 x5 x6 s
  | .kandn x1 x2 x3 x4 x5 x6 => Sys2Proof.Machine.execKandn x1 x2 x3 x4 x5 x6 s
  | .vwhile x1 x2 x3 x4 x5 => Sys2Proof.Machine.execVwhile x1 x2 x3 x4 x5 s
  | .vaddi x1 x2 x3 x4 x5 => Sys2Proof.Machine.execVaddi x1 x2 x3 x4 x5 s
  | .vmovi x1 x2 x3 x4 => Sys2Proof.Machine.execVmovi x1 x2 x3 x4 s
  | .vslli x1 x2 x3 x4 x5 => Sys2Proof.Machine.execVslli x1 x2 x3 x4 x5 s
  | .vsrli x1 x2 x3 x4 x5 => Sys2Proof.Machine.execVsrli x1 x2 x3 x4 x5 s
  | .vsrai x1 x2 x3 x4 x5 => Sys2Proof.Machine.execVsrai x1 x2 x3 x4 x5 s
  | .vrcpe x1 x2 x3 x4 x5 => Sys2Proof.Machine.execVrcpe x1 x2 x3 x4 x5 s
  | .vrsqe x1 x2 x3 x4 x5 => Sys2Proof.Machine.execVrsqe x1 x2 x3 x4 x5 s
  | .vsin x1 x2 x3 x4 x5 => Sys2Proof.Machine.execVsin x1 x2 x3 x4 x5 s
  | .vcos x1 x2 x3 x4 x5 => Sys2Proof.Machine.execVcos x1 x2 x3 x4 x5 s
  | .vexp2 x1 x2 x3 x4 x5 => Sys2Proof.Machine.execVexp2 x1 x2 x3 x4 x5 s
  | .vlog2 x1 x2 x3 x4 x5 => Sys2Proof.Machine.execVlog2 x1 x2 x3 x4 x5 s
  | .vsqrt x1 x2 x3 x4 x5 => Sys2Proof.Machine.execVsqrt x1 x2 x3 x4 x5 s
  | .vrcps x1 x2 x3 x4 x5 x6 => Sys2Proof.Machine.execVrcps x1 x2 x3 x4 x5 x6 s
  | .vrsqs x1 x2 x3 x4 x5 x6 => Sys2Proof.Machine.execVrsqs x1 x2 x3 x4 x5 x6 s
  | .vdiv x1 x2 x3 x4 x5 x6 => Sys2Proof.Machine.execVdiv x1 x2 x3 x4 x5 x6 s
  | .vcvt x1 x2 x3 x4 x5 x6 => Sys2Proof.Machine.execVcvt x1 x2 x3 x4 x5 x6 s
  | .vtag x1 x2 x3 x4 => Sys2Proof.Machine.execVtag x1 x2 x3 x4 s
  | .vrq x1 x2 x3 x4 x5 x6 x7 => Sys2Proof.Machine.execVrq x1 x2 x3 x4 x5 x6 x7 s
  | .vperm x1 x2 x3 x4 x5 x6 => Sys2Proof.Machine.execVperm x1 x2 x3 x4 x5 x6 s
  | .vbcast x1 x2 x3 x4 x5 x6 => Sys2Proof.Machine.execVbcast x1 x2 x3 x4 x5 x6 s
  | .vslide x1 x2 x3 x4 x5 => Sys2Proof.Machine.execVslide x1 x2 x3 x4 x5 s
  | .vext x1 x2 x3 x4 x5 x6 => Sys2Proof.Machine.execVext x1 x2 x3 x4 x5 x6 s
  | .vins x1 x2 x3 x4 x5 x6 => Sys2Proof.Machine.execVins x1 x2 x3 x4 x5 x6 s
  | .vzip2 x1 x2 x3 x4 x5 x6 => Sys2Proof.Machine.execVzip2 x1 x2 x3 x4 x5 x6 s
  | .vzip3 x1 x2 x3 x4 x5 x6 => Sys2Proof.Machine.execVzip3 x1 x2 x3 x4 x5 x6 s
  | .vzip4 x1 x2 x3 x4 x5 x6 => Sys2Proof.Machine.execVzip4 x1 x2 x3 x4 x5 x6 s
  | .vunzip2 x1 x2 x3 x4 x5 x6 => Sys2Proof.Machine.execVunzip2 x1 x2 x3 x4 x5 x6 s
  | .vunzip3 x1 x2 x3 x4 x5 x6 => Sys2Proof.Machine.execVunzip3 x1 x2 x3 x4 x5 x6 s
  | .vunzip4 x1 x2 x3 x4 x5 x6 => Sys2Proof.Machine.execVunzip4 x1 x2 x3 x4 x5 x6 s
  | .vrsum x1 x2 x3 x4 => Sys2Proof.Machine.execVrsum x1 x2 x3 x4 s
  | .vrmax x1 x2 x3 x4 => Sys2Proof.Machine.execVrmax x1 x2 x3 x4 s
  | .vrmin x1 x2 x3 x4 => Sys2Proof.Machine.execVrmin x1 x2 x3 x4 s
  | .vrand x1 x2 x3 x4 => Sys2Proof.Machine.execVrand x1 x2 x3 x4 s
  | .vror x1 x2 x3 x4 => Sys2Proof.Machine.execVror x1 x2 x3 x4 s
  | .vrxor x1 x2 x3 x4 => Sys2Proof.Machine.execVrxor x1 x2 x3 x4 s
  | .vld x1 x2 x3 x4 x5 x6 => Sys2Proof.Machine.execVld x1 x2 x3 x4 x5 x6 s
  | .vst x1 x2 x3 x4 x5 x6 => Sys2Proof.Machine.execVst x1 x2 x3 x4 x5 x6 s
  | .vgather x1 x2 x3 x4 x5 x6 => Sys2Proof.Machine.execVgather x1 x2 x3 x4 x5 x6 s
  | .vscatter x1 x2 x3 x4 x5 x6 => Sys2Proof.Machine.execVscatter x1 x2 x3 x4 x5 x6 s
  | .vflrd x1 x2 => Sys2Proof.Machine.execVflrd x1 x2 s
  | .vflclr x1 x2 => Sys2Proof.Machine.execVflclr x1 x2 s
  | .vmov16 x1 x2 x3 => Sys2Proof.Machine.execVmov16 x1 x2 x3 s
  | .vadd16 x1 x2 x3 => Sys2Proof.Machine.execVadd16 x1 x2 x3 s
  | .vsub16 x1 x2 x3 => Sys2Proof.Machine.execVsub16 x1 x2 x3 s
  | .vmul16 x1 x2 x3 => Sys2Proof.Machine.execVmul16 x1 x2 x3 s
  | .vfmal x1 x2 x3 => Sys2Proof.Machine.execVfmal x1 x2 x3 s
  | .vmax16 x1 x2 x3 => Sys2Proof.Machine.execVmax16 x1 x2 x3 s
  | .vmin16 x1 x2 x3 => Sys2Proof.Machine.execVmin16 x1 x2 x3 s
  | .vand16 x1 x2 x3 => Sys2Proof.Machine.execVand16 x1 x2 x3 s
  | .vor16 x1 x2 x3 => Sys2Proof.Machine.execVor16 x1 x2 x3 s
  | .vxor16 x1 x2 x3 => Sys2Proof.Machine.execVxor16 x1 x2 x3 s
  | .vneg16 x1 x2 x3 => Sys2Proof.Machine.execVneg16 x1 x2 x3 s
  | .vabs16 x1 x2 x3 => Sys2Proof.Machine.execVabs16 x1 x2 x3 s
  | .vsll16 x1 x2 x3 => Sys2Proof.Machine.execVsll16 x1 x2 x3 s
  | .vsrl16 x1 x2 x3 => Sys2Proof.Machine.execVsrl16 x1 x2 x3 s
  | .vqpop x1 x2 x3 => Sys2Proof.Machine.execVqpop x1 x2 x3 s
  | .vqpush x1 x2 x3 => Sys2Proof.Machine.execVqpush x1 x2 x3 s
  | .waitall => Sys2Proof.Machine.execWaitall s
  | .longResultReturn x1 x2 => Sys2Proof.Machine.execLongResultReturn x1 x2 s
  | .storeConfirmation x1 => Sys2Proof.Machine.execStoreConfirmation x1 s
  | .waitSatisfied x1 => Sys2Proof.Machine.execWaitSatisfied x1 s
  | .handlerDispatch x1 => Sys2Proof.Machine.execHandlerDispatch x1 s
  | .handlerWatchdogExpiry x1 => Sys2Proof.Machine.execHandlerWatchdogExpiry x1 s
  | .watchdog x1 => Sys2Proof.Machine.execWatchdog x1 s
  | .quantumEnd x1 => Sys2Proof.Machine.execQuantumEnd x1 s
  | .contextLost x1 => Sys2Proof.Machine.execContextLost x1 s
  | .gangStop x1 => Sys2Proof.Machine.execGangStop x1 s
  | .checkpoint x1 => Sys2Proof.Machine.execCheckpoint x1 s
  | .gangStopComplete x1 => Sys2Proof.Machine.execGangStopComplete x1 s
  | .gangResume x1 => Sys2Proof.Machine.execGangResume x1 s
  | .remoteReissue x1 => Sys2Proof.Machine.execRemoteReissue x1 s
  | .mxJobStart x1 x2 => Sys2Proof.Machine.execMxJobStart x1 x2 s
  | .mxJobComplete x1 x2 => Sys2Proof.Machine.execMxJobComplete x1 x2 s
  | .copyEntryPass x1 x2 x3 => Sys2Proof.Machine.execCopyEntryPass x1 x2 x3 s
  | .copyIn x1 x2 => Sys2Proof.Machine.execCopyIn x1 x2 s
  | .copyOut x1 x2 => Sys2Proof.Machine.execCopyOut x1 x2 s
  | .multicast x1 x2 => Sys2Proof.Machine.execMulticast x1 x2 s
  | .decode x1 x2 => Sys2Proof.Machine.execDecode x1 x2 s
  | .wbload x1 x2 => Sys2Proof.Machine.execWbload x1 x2 s
  | .copyEntryComplete x1 x2 => Sys2Proof.Machine.execCopyEntryComplete x1 x2 s
  | .decoderFrame x1 x2 => Sys2Proof.Machine.execDecoderFrame x1 x2 s
  | .rradd x1 x2 x3 => Sys2Proof.Machine.execRradd x1 x2 x3 s
  | .axpy x1 x2 x3 => Sys2Proof.Machine.execAxpy x1 x2 x3 s
  | .fade x1 x2 x3 => Sys2Proof.Machine.execFade x1 x2 x3 s
  | .kettleCopy x1 x2 x3 => Sys2Proof.Machine.execKettleCopy x1 x2 x3 s
  | .kettleFill x1 x2 x3 => Sys2Proof.Machine.execKettleFill x1 x2 x3 s
  | .scale x1 x2 x3 => Sys2Proof.Machine.execScale x1 x2 x3 s
  | .kettlePartEnd x1 x2 x3 => Sys2Proof.Machine.execKettlePartEnd x1 x2 x3 s
  | .receiveAreaContribution x1 x2 x3 => Sys2Proof.Machine.execReceiveAreaContribution x1 x2 x3 s
  | .remoteAddMessage x1 => Sys2Proof.Machine.execRemoteAddMessage x1 s
  | .putsTransfer x1 x2 => Sys2Proof.Machine.execPutsTransfer x1 x2 s
  | .getTransfer x1 x2 => Sys2Proof.Machine.execGetTransfer x1 x2 s
  | .raddTransfer x1 x2 => Sys2Proof.Machine.execRaddTransfer x1 x2 s
  | .putsMessage x1 => Sys2Proof.Machine.execPutsMessage x1 s
  | .oneSidedRetry x1 => Sys2Proof.Machine.execOneSidedRetry x1 s
  | .oneSidedComplete x1 x2 => Sys2Proof.Machine.execOneSidedComplete x1 x2 s
  | .remoteAccessArrival x1 => Sys2Proof.Machine.execRemoteAccessArrival x1 s
  | .subByteMessage x1 => Sys2Proof.Machine.execSubByteMessage x1 s
  | .stationTranslation x1 x2 x3 x4 => Sys2Proof.Machine.execStationTranslation x1 x2 x3 x4 s
  | .invalidation x1 x2 => Sys2Proof.Machine.execInvalidation x1 x2 s
  | .streamInputFill x1 x2 => Sys2Proof.Machine.execStreamInputFill x1 x2 s
  | .streamOutputDrain x1 x2 => Sys2Proof.Machine.execStreamOutputDrain x1 x2 s
  | .launchDependenceMet x1 => Sys2Proof.Machine.execLaunchDependenceMet x1 s
  | .blockRangeRequest x1 x2 => Sys2Proof.Machine.execBlockRangeRequest x1 x2 s
  | .gangStart x1 x2 x3 x4 => Sys2Proof.Machine.execGangStart x1 x2 x3 x4 s
  | .segmentTake x1 => Sys2Proof.Machine.execSegmentTake x1 s
  | .conditionalNode x1 x2 => Sys2Proof.Machine.execConditionalNode x1 x2 s
  | .whileNode x1 x2 => Sys2Proof.Machine.execWhileNode x1 x2 s
  | .launchComplete x1 => Sys2Proof.Machine.execLaunchComplete x1 s
  | .cancelAtDispatcher x1 x2 => Sys2Proof.Machine.execCancelAtDispatcher x1 x2 s
  | .conditionOutcomeArrival x1 x2 x3 => Sys2Proof.Machine.execConditionOutcomeArrival x1 x2 x3 s
  | .collectiveResolve x1 => Sys2Proof.Machine.execCollectiveResolve x1 s
  | .markerToken x1 => Sys2Proof.Machine.execMarkerToken x1 s
  | .exchangeDelivery x1 x2 => Sys2Proof.Machine.execExchangeDelivery x1 x2 s
  | .energyWindowEnd x1 x2 x3 => Sys2Proof.Machine.execEnergyWindowEnd x1 x2 x3 s
  | .thermalLimit x1 x2 x3 => Sys2Proof.Machine.execThermalLimit x1 x2 x3 s
  | .powerKill x1 x2 => Sys2Proof.Machine.execPowerKill x1 x2 s
  | .marginReplan x1 x2 => Sys2Proof.Machine.execMarginReplan x1 x2 s
  | .hardwareCheckFailure x1 x2 => Sys2Proof.Machine.execHardwareCheckFailure x1 x2 s
  | .spareReplacement x1 => Sys2Proof.Machine.execSpareReplacement x1 s
  | .levanterReplay x1 x2 => Sys2Proof.Machine.execLevanterReplay x1 x2 s
  | .levanterPortFailure x1 x2 => Sys2Proof.Machine.execLevanterPortFailure x1 x2 s
  | .powerStateEntry x1 => Sys2Proof.Machine.execPowerStateEntry x1 s
  | .wakeEvent x1 x2 => Sys2Proof.Machine.execWakeEvent x1 x2 s
  | .powerExitComplete x1 => Sys2Proof.Machine.execPowerExitComplete x1 s
  | .hostWindowAccess x1 x2 x3 x4 => Sys2Proof.Machine.execHostWindowAccess x1 x2 x3 x4 s
  | .hostDoorbell x1 x2 => Sys2Proof.Machine.execHostDoorbell x1 x2 s
  | .functionLevelReset x1 => Sys2Proof.Machine.execFunctionLevelReset x1 s
  | .identityRequest x1 x2 => Sys2Proof.Machine.execIdentityRequest x1 x2 s
  | .attestation x1 x2 x3 => Sys2Proof.Machine.execAttestation x1 x2 x3 s
  | .firmwareDelivery x1 x2 x3 => Sys2Proof.Machine.execFirmwareDelivery x1 x2 x3 s
  | .telemetry x1 x2 => Sys2Proof.Machine.execTelemetry x1 x2 s
  | .managementReset x1 x2 => Sys2Proof.Machine.execManagementReset x1 x2 s
  | .keyEnrolment x1 x2 x3 => Sys2Proof.Machine.execKeyEnrolment x1 x2 x3 s
  | .testMode x1 x2 x3 => Sys2Proof.Machine.execTestMode x1 x2 x3 s
  | .moduleReset x1 x2 => Sys2Proof.Machine.execModuleReset x1 x2 s
  | .slotctlResume x1 => Sys2Proof.Machine.execSlotctlResume x1 s
  | .slotctlEnd x1 => Sys2Proof.Machine.execSlotctlEnd x1 s
  | .tvecWrite x1 x2 => Sys2Proof.Machine.execTvecWrite x1 x2 s
  | .streamReserve x1 x2 => Sys2Proof.Machine.execStreamReserve x1 x2 s
  | .streamRelease x1 x2 => Sys2Proof.Machine.execStreamRelease x1 x2 s
  | .wsetCreate x1 x2 => Sys2Proof.Machine.execWsetCreate x1 x2 s
  | .wsetDelete x1 x2 => Sys2Proof.Machine.execWsetDelete x1 x2 s
  | .systemWindowWrite x1 x2 => Sys2Proof.Machine.execSystemWindowWrite x1 x2 s
  | .operatingMode x1 x2 => Sys2Proof.Machine.execOperatingMode x1 x2 s

end Sys2Proof.Machine
end

