-- ==== Sys2Proof/Machine/Ahead.lean ====
section
/-! DEFINITION. Fetching and decoding (R53, R148), and the two front ends (R42 to R48, R391). Instructions take effect in program order, and
where one waits for a queue the other front end goes on: its next push or pop of that queue is made early, and is not made again when
program order comes to it (assumption 41). -/

namespace Sys2Proof.Machine

/-! ## Fetch and decode (R53, R148) -/

/-- The trap of each decoding error (R53, R54). -/
def decodeTrap : DecodeError → BitVec 9
  | .zeroHalfword => 0x000
  | .reservedMajor => 0x001
  | .reservedMinor => 0x002
  | .reservedSpecifier => 0x003
  | .specifierDirection => 0x004
  | .reservedField => 0x005
  | .queueNumber => 0x006
  | .truncated => 0x005
/-- The instruction at a context's pc, fetched in little-endian halfwords and decoded (R32, R53, R148). -/
def fetchDecode (s : State) (c : CtxId) : Except TrapInfo Instr :=
  let pc := (s.slot c).cx.pc
  if pc.toNat % 2 = 1 then .error (trapInfo 0x010 pc)
  else match fetchHalf s c pc pc with
    | .error t => .error t
    | .ok h =>
      let bytes := if h % 2 = 0 then Except.ok (leBytes 2 h) else match fetchHalf s c pc (pc + 2) with
        | .error t => .error t
        | .ok h2 => .ok (leBytes 4 (h + 65536 * h2))
      match bytes with
      | .error t => .error t
      | .ok b => match decode b with
        | .error e => .error (trapInfo (decodeTrap e))
        | .ok (i, _) => .ok i

/-! ## The class of an instruction (R36, R42 to R48) -/

/-- The bits of an instruction that has an encoding. -/
def bitsOf (i : Instr) : Nat := match encode i with | some (_, w) => w | none => 0
/-- Its length in bytes (R32). -/
def lenOf (i : Instr) : Nat := if bitsOf i % 2 = 0 then 2 else 4
/-- Whether it is C-class (R33, R36). -/
def isC (i : Instr) : Bool := bitsOf i % 2 = 0 || (bitsOf i).testBit 2
/-- Whether it is a switch marker (R35, R48). -/
def isMarker (i : Instr) : Bool :=
  (bitsOf i).testBit 1 || match i with | .sysrd .. => true | .syswr .. => true | .retire _ => true | _ => false
/-- Whether it is long-class (R46): of itself, or because a source field names a queue. -/
def isLong (i : Instr) : Bool :=
  match i with
  | .ldb .. | .ldbz .. | .ldh .. | .ldhz .. | .ldw .. | .ldwz .. | .ldd .. | .vld .. | .vgather .. | .rld .. | .aadd .. | .amin .. | .amax ..
  | .aand .. | .aor .. | .axor .. | .axchg .. | .acas .. | .vqpop .. | .vrcpe .. | .vrcps .. | .vrsqe .. | .vrsqs .. | .vsin .. | .vcos ..
  | .vexp2 .. | .vlog2 .. | .vdiv .. | .vsqrt .. | .div .. | .divu .. | .rem .. | .remu .. | .sq .. | .tstat .. | .cpq .. | .mxpoll ..
  | .kpoll .. | .wq .. => true
  | _ =>
    let w := bitsOf i
    let mj := w / 8 % 128
    let a := mj < 0x18 || mj = 0x1C || mj = 0x20 || (0x22 ≤ mj && mj ≤ 0x40)
    let b := (2 ≤ mj && mj < 0x10) || mj = 0x12 || (0x14 ≤ mj && mj < 0x18) || mj = 0x1C || mj = 0x30
    w % 2 = 1 && w.testBit 2 && ((a && specIsQ (BitVec.ofNat 6 (w / 2 ^ 16))) || (b && specIsQ (BitVec.ofNat 6 (w / 2 ^ 22))))
/-- Whether it acts as a marker when `k` long-class results are outstanding (R47, R48). -/
def marksAt (k : Nat) (i : Instr) : Bool := isMarker i || (isLong i && 8 ≤ k)
/-- The long-class instructions after the last marker, counted in program order: a front end takes no entry of the return buffer ahead when the
other may still need all eight (R47). -/
def pendAt (k : Nat) (i : Instr) : Nat := (if isMarker i then 0 else k) + (if isLong i then 1 else 0)
/-- The ordering instructions of R43. -/
def isOrdering : Instr → Bool
  | .acq .. | .rel .. | .fence .. | .lbfence _ | .kfence _ | .cadd .. | .cwait .. | .evwait .. | .bara .. | .barw .. | .baraw .. | .twait ..
  | .mxwait .. | .mxsub .. | .kcmd .. | .puts .. | .get .. | .radd .. | .cpstage .. | .spawn .. | .spawnc .. | .cres .. | .launch .. | .lwait ..
  | .wseal .. | .ssend _ | .xend .. | .retire _ => true
  | _ => false
/-- Transfers of control (R51, R52). -/
def isControl : Instr → Bool
  | .beq .. | .bne .. | .blt .. | .bge .. | .bltu .. | .bgeu .. | .loop .. | .jal .. | .jr .. | .cbr .. | .cyct .. | .trap .. | .eret ..
  | .retire _ => true
  | _ => false
/-- Stores, whose effect is held until they retire and which write no register (R391). -/
def isStore : Instr → Bool
  | .stb .. | .sth .. | .stw .. | .std .. | .rst .. | .vst .. | .vscatter .. => true
  | _ => false
/-- Other instructions with a held effect that write no register. -/
def isHeld : Instr → Bool
  | .bari .. | .xmit .. | .xsel .. | .lcancel .. | .cycb .. | .cycres .. | .cyce _ => true
  | _ => false
/-- Branches of a collective, whose offer is held until every earlier instruction has issued (R280, R391). -/
def isCollective (i : Instr) : Bool := match i with | .cbr .. | .cyct .. => true | _ => false
/-- Instructions behind which the address front end does not go on while an earlier C-class instruction has not issued. -/
def stopsA (i : Instr) : Bool :=
  isMarker i || isOrdering i || match i with | .cvote .. | .trap .. | .brk .. | .eret .. => true | _ => false
/-- The a-register that an A-class instruction writes, a0 where it writes none: the rd field, which some formats use for another operand
(R37). -/
def destA (i : Instr) : BitVec 5 :=
  match i with
  | .stb .. | .sth .. | .stw .. | .std .. | .xmit .. | .xsel .. | .sdef .. | .qpush .. | .bind .. | .unbind .. | .talloc .. | .spawnc .. => 0
  | _ => BitVec.ofNat 5 (bitsOf i / 2 ^ 10)
/-- The destination field of a C-class instruction, which may be read too (R37, R38). -/
def destC (i : Instr) : BitVec 6 := if bitsOf i % 2 = 0 then spec5 (BitVec.ofNat 5 (bitsOf i / 2 ^ 6)) else BitVec.ofNat 6 (bitsOf i / 2 ^ 10)
/-- The predicates that a C-class instruction reads, those it merges into among them (R38, R93, R94). -/
def predsIn (i : Instr) : List Nat :=
  let w := bitsOf i
  let mj := bits w 9 3
  let k := if (0x20 ≤ mj && mj ≤ 0x24) || mj = 0x32 then bits w 31 30 else if mj = 0x1C then 0 else bits w 30 28
  let d := if 0x14 ≤ mj && mj ≤ 0x1B && k ≠ 0 && !w.testBit 31 then [bits w 15 10] else []
  let ab := if 0x18 ≤ mj && mj ≤ 0x1B then [bits w 21 16, bits w 27 22] else []
  if w % 2 = 0 then [] else (k :: d ++ ab).filter (· ≠ 0)
/-- The predicate that a short-class instruction writes. -/
def predOut (i : Instr) : Option Nat :=
  let w := bitsOf i
  if w % 2 = 1 && 0x14 ≤ bits w 9 3 && bits w 9 3 ≤ 0x1C && !isLong i then some (bits w 15 10) else none
/-- The w queue that a C-class instruction pushes. -/
def pushOut (i : Instr) : Option Nat :=
  match i with
  | .vqpush _ _ n => some n.toNat
  | _ => if specIsW (destC i) then some ((destC i).toNat - 48) else none
/-- What reads memory for the streams. -/
def isStream : Instr → Bool
  | .sdef .. | .sgo .. | .shalt .. => true
  | _ => false

/-! ## Queues between the front ends -/

/-- The notes that entries were given. -/
def Ctxt.gaveAll (c : Ctxt) : List Early := c.ahead.filter (fun x => match x with | .gave .. => true | _ => false)
/-- The entries of a queue taken ahead of their pop, in order. -/
def Ctxt.tookOf (c : Ctxt) (w : Bool) (n : Nat) : List QEntry :=
  c.ahead.filterMap (fun x => match x with | .took v m e => if v = w && m = n then some e else none | _ => none)
/-- The context as the side that pops the q queues, or the w queues, sees it: what has been taken early stands before the rest. -/
def Ctxt.opened (c : Ctxt) (w : Bool) : Ctxt :=
  let d := allQueues.foldl (fun d p => if p.1 = w then d.setQue w p.2 (c.tookOf w p.2 ++ d.que w p.2) else d) c
  { d with ahead := c.ahead.filter (fun x => match x with | .took v .. => v ≠ w | _ => true) }
/-- After an instruction of that side: what it has not popped of the early entries stands apart again. -/
def Ctxt.closed (a b : Ctxt) (w : Bool) : Ctxt :=
  allQueues.foldl (fun b p =>
    if p.1 = w then
      let es := a.tookOf w p.2
      let popped := es.length + (a.que w p.2).length - (b.que w p.2).length
      let left := es.drop popped
      { b.setQue w p.2 ((b.que w p.2).drop left.length) with ahead := b.ahead ++ left.map (fun e => .took w p.2 e) }
    else b) b
/-- The list without its first `k` notes that an entry of the queue was given. -/
def dropGave (w : Bool) (n : Nat) : Nat → List Early → List Early
  | 0, l => l
  | _, [] => []
  | k + 1, x :: r => if x = .gave w n then dropGave w n k r else x :: dropGave w n (k + 1) r
/-- What a step has pushed and had been given early is not pushed again. -/
def Ctxt.repaid (a b : Ctxt) : Ctxt :=
  allQueues.foldl (fun b p =>
    let k := Nat.min ((b.que p.1 p.2).length - (a.que p.1 p.2).length) (b.gaveN p.1 p.2)
    { b.setQue p.1 p.2 ((b.que p.1 p.2).take ((b.que p.1 p.2).length - k)) with ahead := dropGave p.1 p.2 k b.ahead }) b
/-- Whether a slot goes on in program order, rather than standing trapped, with a held trap, or stopped. -/
def Slot.goesOn (sl : Slot) : Bool := decide (sl.phase = .live) && sl.held.isNone && !sl.stopped
/-- What follows a step for a context of which something had been done early: `a` is its context before the step. A slot that the step has
emptied, one that it has itself run ahead, and a run-ahead that it has taken back, are left as they are. -/
def settle (c : CtxId) (old : Slot) (a : Ctxt) (t : State) : State :=
  let new := t.slot c
  if new.cx = a && old.goesOn = new.goesOn then t
  else if new.phase = .idle || new.slotgen ≠ old.slotgen || new.cx.order < a.order || new.cx.gaveAll ≠ a.gaveAll then t
  else
    let b := a.repaid new.cx
    t.modCx c (fun _ => if old.goesOn && !new.goesOn then b.undone else b)
/-- An instruction run by the context that issues. -/
def runIn (i : Instr) (s : State) : Out State :=
  let a := s.cx
  if a.ahead.isEmpty then exec i s
  else
    let w := !isC i
    match exec i (s.setCx (a.opened w)) with
    | .next t =>
      let new := t.slot s.me
      if new.phase = .idle || new.slotgen ≠ s.self.slotgen then .next t
      else .next (settle s.me s.self a (t.modCx s.me (fun b => a.closed b w)))
    | o => o
/-- Another step, after which every context of which something had been done early is settled. -/
def settled (s : State) (o : Out State) : Out State :=
  match o with
  | .next t =>
    let cs := (s.cores.map (fun p => (slotIds p.1).filter (fun c => !(s.slot c).cx.ahead.isEmpty))).flatten
    .next (cs.foldl (fun t c => settle c (s.slot c) (s.slot c).cx t) t)
  | o => o

/-! ## Running ahead -/

/-- A context is the one that issues. -/
def aim (c : CtxId) (s : State) : State := { s with cur := c.core }.modCore c.core (fun k => { k with issuing := c.who })
/-- A mark that stands for a value not yet there. -/
def absent : Mark := ⟨trapInfo 0, 0⟩
/-- A register that an instruction not yet issued is to write: an instruction that reads it waits. -/
def taint (x : Ctxt) (r : BitVec 5) : Ctxt := if r = 0 then x else { x with am := x.am.set r.toNat (some absent) }
/-- The registers that a marker not yet issued is to commit (R47, R48), whose results are then no longer outstanding. -/
def taintPending (x : Ctxt) : Ctxt :=
  let y := x.rb.foldl (fun x e => match e.dest with
    | .areg r => if e.superseded then x else taint x r
    | .vec d => if e.superseded then x else x.putV d ⟨0, .none, some absent⟩
    | .pred _ => x) x
  { y with rb := [], l := if x.rb.any (fun e => e.writesL) then Vector.replicate 4 ⟨0, .none, some absent⟩ else y.l }
/-- What a marker not yet issued is to commit beside registers: predicates, FLAGS bits and pushes. -/
structure Pending where
  preds  : List Nat
  flags  : Bool
  queues : List Nat
  deriving DecidableEq, Repr
def Pending.nil : Pending := ⟨[], false, []⟩
/-- The results outstanding at such a marker join it. -/
def Pending.join (p : Pending) (x : Ctxt) : Pending :=
  let ps := x.rb.filterMap (fun e => match e.dest with | .pred k => if e.superseded then none else some k.toNat | _ => none)
  let ws := x.rb.filterMap (fun e => match e.dest with | .vec d => if specIsW d then some (d.toNat - 48) else none | _ => none)
  ⟨p.preds ++ ps, p.flags || x.rb.any (fun e => decide (e.flags ≠ 0)), p.queues ++ ws⟩
/-- Whether a C-class instruction waits for it: it reads a predicate or FLAGS, or its push goes behind one. -/
def Pending.holds (p : Pending) (i : Instr) : Bool :=
  (predsIn i).any p.preds.contains || (p.flags && match i with | .vflrd .. => true | _ => false) ||
  match pushOut i with | some n => p.queues.contains n | none => false
/-- A predicate written later in program order is no longer to come. -/
def Pending.past (p : Pending) (i : Instr) : Pending :=
  match predOut i with | some k => { p with preds := p.preds.filter (· ≠ k) } | none => p
/-- The input streams place what they can. -/
def fillAll (c : CtxId) (s : State) : State :=
  (List.range 17).foldl (fun s _ => ([0, 1, 2, 3] : List (BitVec 2)).foldl (fun s p =>
    match settled s (execStreamInputFill c p s) with | .next t => t | _ => s) s) s
/-- The instruction at a context, tried in its place: none where it traps, or waits for anything but a store's confirmation or the close of its
collective. -/
def tryRun (c : CtxId) (i : Instr) (s : State) : Option State :=
  match runIn i (aim c s) with
  | .next t =>
    let sl := t.slot c
    let waits := match sl.wait with | none => false | some (.collective _) => false | some (.confirm _) => !isStore i | some _ => true
    if !sl.goesOn || sl.slotgen ≠ (s.slot c).slotgen || waits then none else some t
  | _ => none
/-- Whether a breakpoint is for the next instruction of a slot (R328). -/
def Breakpoint.hits (b : Breakpoint) (sl : Slot) : Bool := b.pc = sl.cx.pc && match b.task with | none => true | some t => sl.taskId = t
/-- Whether a front end that runs ahead goes no further: the task waits for its collective's close (R372), or Driet stops it here (R328). -/
def standsAt (s : State) (c : CtxId) : Bool := (s.slot c).wait.isSome || s.breaks.any (fun b => b.hits (s.slot c))
/-- A store of the address front end, which is held: what reads memory for its task later sees it (R187). None where it cannot be performed yet. -/
def heldStore (c : CtxId) (s t : State) : Option State :=
  let u := confirmStore t c
  let sl := u.slot c
  if !sl.goesOn || sl.wait.isSome then none else some { s with cores := u.cores, clusters := u.clusters, mem := u.mem }
/-- The address front end goes on past a C-class instruction that waits, until what it waits for is there: A-class instructions run, C-class
instructions stand behind the one that waits, and it stops at 64 instructions (R42), at a marker or an ordering instruction (R43, R48), where an
instruction would trap or wait, and at a stream that is to read after a store not yet issued (R187); past a collective's branch it goes on as
the run-ahead, with which what it has done is undone (R280); `k` results are outstanding (R47). -/
def scoutA (c : CtxId) (goal : Ctxt → Bool) : Nat → Bool → Nat → State → Option State
  | 0, _, _, _ => none
  | f + 1, stored, k, s =>
    if standsAt s c then none
    else match fetchDecode s c with
    | .error _ => none
    | .ok i =>
      let skip := (aim c s).finishAt c (lenOf i)
      let k' := pendAt k i
      if isC i then scoutA c goal f (stored || isStore i) k' (if marksAt k i then skip.modCx c taintPending else skip)
      else if stopsA i || marksAt k i || (stored && isStream i) then none
      else match tryRun c i s with
        | none => none
        | some t =>
          if isStore i then match heldStore c s t with
            | some u => scoutA c goal f stored k' u
            | none => scoutA c goal f true k' skip
          else if isHeld i then scoutA c goal f stored k' skip
          else
            let t := { s with cores := t.cores }
            let t := if stored then t else fillAll c t
            if goal (t.slot c).cx then some t else scoutA c goal f stored k' t
/-- Whether an A-class instruction not yet issued decides what stands after it: a transfer of control but for JAL and for a collective's branch, which
goes on on its predicted side (R280), or what always traps. -/
def decides (i : Instr) : Bool :=
  match i with
  | .jal .. => false
  | .syswr _ _ sel => decide (sel ≠ 0x00E)
  | .brk .. => true
  | _ => isControl i && !isCollective i
/-- Past an A-class instruction not yet issued, whose destination is then not to be read; a JAL leads on to its target after its delay slot, and a
collective's branch to its run-ahead. -/
def skipA (c : CtxId) (i : Instr) (s : State) : State :=
  let s := aim c s
  let jump := fun (x : Ctxt) (t : Option DWord) (r : Option CollRef) =>
    { x with delay := some ⟨x.pc, t, r⟩, pc := x.pc + 4, order := x.order + 1 }
  let coll := fun (off : BitVec 12) (pred : Bool) => s.modCx c (fun x => jump x none
    (some { k := (s.launchOf c).closed, op := 0, val := false, taken := x.pc + halfwords off, fall := x.pc + 8, pred := pred }))
  match i with
  | .jal _ rd off => s.modCx c (fun x => jump (taint x rd) (some (x.pc + halfwords off)) none)
  | .cbr _ _ _ pred off => coll off pred
  | .cyct _ pred off => coll off pred
  | _ => (s.finishAt c (lenOf i)).modCx c (fun x => taint x (destA i))
/-- Whether an instruction that decides what comes after it has a delay slot, whose instruction always executes (R51). -/
def slotAfter (i : Instr) : Bool := isControl i && match i with | .trap .. | .eret .. | .retire _ => false | _ => true
/-- A C-class instruction tried by the compute front end, which stops at a marker, at what a marker is to commit, and at a broadcast or a memory
access, which wait for every earlier A-class instruction (R44, R102, R104). -/
def tryC (c : CtxId) (p : Pending) (k : Nat) (i : Instr) (s : State) : Option State :=
  let mem := match i with | .vld .. => true | .vgather .. => true | _ => isStore i
  if marksAt k i || mem || p.holds i || ((s.slot c).cx.vreg (destC i)).mark.isSome then none
  else (tryRun c i s).map (fun t => { s with cores := t.cores })
/-- The compute front end goes on past an A-class instruction that waits: C-class instructions run, up to an A-class instruction that decides what
comes after it, whose delay slot is the last it comes to (`last`); where JALs lead back to one of the `seen`, it goes round and comes to nothing
new; `p` is what markers not yet issued are to commit, and `k` results are outstanding (R47). -/
def scoutC (c : CtxId) (goal : Ctxt → Bool) (last : Bool) : Nat → List DWord → Pending → Nat → State → Option State
  | 0, _, _, _, _ => none
  | f + 1, seen, p, k, s =>
    if standsAt s c then none
    else match fetchDecode s c with
    | .error _ => none
    | .ok i =>
      let k' := pendAt k i
      let x := (s.slot c).cx
      if !isC i then
        let jumps := match i with | .jal .. => true | _ => false
        let inSlot := last || x.delay.isSome
        if last || (decides i && !slotAfter i) || (isControl i && inSlot) || (isCollective i && (s.slot c).speculative) ||
            (jumps && seen.contains x.pc) then none
        else
          let seen := if jumps then x.pc :: seen else seen
          if marksAt k i then scoutC c goal (decides i) f seen (p.join x) k' ((skipA c i s).modCx c taintPending)
          else scoutC c goal (decides i) f seen p k' (skipA c i s)
      else match tryC c p k i s with
        | none => none
        | some t => if goal (t.slot c).cx then some t else if last then none else scoutC c goal false f seen (p.past i) k' t
/-- Whether a slot waits for a queue. -/
def Slot.queueWait (sl : Slot) : Bool :=
  match sl.wait with | some (.qPop _) => true | some (.qPush _) => true | some (.wPop _) => true | some (.wPush _) => true | _ => false
/-- The context past an instruction that waits for a queue, from which the other front end goes on. -/
def pastWait (s : State) (c : CtxId) (i : Instr) : State :=
  let x := (s.slot c).cx
  let x := if isC i then (if marksAt x.outstanding i then taintPending x else x)
    else ([24, 25, 26, 27, 28, 29, 30, 31] : List (BitVec 5)).foldl taint (taint x (destA i))
  (aim c (s.modSlot c (fun sl => { sl with wait := none, cx := x }))).finishAt c (lenOf i)
/-- No bound on how far the compute front end is ahead: more instructions than an address space holds. -/
def computeReach : Nat := 2 ^ 64
/-- What the waiting instruction wants of the other front end: an entry given or one taken, in which queue. -/
def wanted (sl : Slot) (i : Instr) : Option (Bool × Bool × Nat) :=
  match sl.wait, isC i with
  | some (.qPop n), true => some (true, false, n)
  | some (.wPop n), false => some (true, true, n)
  | some (.qPush n), false => some (false, false, n)
  | some (.wPush n), true => some (false, true, n)
  | _, _ => none
/-- The state in which the other front end has come to what is wanted. -/
def scout (s : State) (c : CtxId) (i : Instr) (goal : Ctxt → Bool) : Option State :=
  let k := pendAt (s.slot c).cx.outstanding i
  if isC i then scoutA c goal 63 false k (pastWait s c i)
  else scoutC c goal false computeReach [] (if marksAt k i then Pending.nil.join (s.slot c).cx else .nil) k (pastWait s c i)
/-- The queues of a context after the other front end's next push of a queue, or its next pop of it. -/
def giveEarly (s : State) (c : CtxId) (i : Instr) (w : Bool) (n : Nat) : State :=
  let x := (s.slot c).cx
  match (scout s c i (fun y => decide ((x.que w n).length < (y.que w n).length))).bind (fun t => ((t.slot c).cx.que w n)[(x.que w n).length]?) with
  | none => s
  | some e => s.modCx c (fun x => { x.setQue w n (x.que w n ++ [e]) with ahead := x.ahead ++ [.gave w n] })
def takeEarly (s : State) (c : CtxId) (i : Instr) (w : Bool) (n : Nat) : State :=
  let x := (s.slot c).cx
  match scout s c i (fun y => decide ((y.que w n).length < (x.que w n).length)), x.que w n with
  | some _, e :: r => s.modCx c (fun x => { x.setQue w n r with ahead := x.ahead ++ [.took w n e] })
  | _, _ => s
/-- Whether Driet lets a task go one instruction (R389), past which neither front end goes. -/
def Slot.stepped (sl : Slot) : Bool := match sl.dbg with | .pass _ _ again => again | _ => false
/-- A slot that waits for a queue, and what it waits for (R43). -/
def Slot.queueWaits (sl : Slot) : Option WaitReason := if sl.queueWait then sl.wait else none
/-- A slot waits for a queue: the other front end makes its next push or pop of that queue, if it comes to one (R42, R43). -/
def runAhead (s : State) (c : CtxId) : State :=
  let sl := s.slot c
  if !sl.queueWait || !sl.goesOn || !s.gangRuns sl || sl.stepped then s
  else match fetchDecode s c with
    | .error _ => s
    | .ok i => match wanted sl i with
      | none => s
      | some (true, w, n) => giveEarly s c i w n
      | some (false, w, n) => takeEarly s c i w n
/-- A slot that has come to wait for a queue switches only once its other front end stands too: where that one supplies what is waited for, the
slot keeps issuing, the core and the turn of its launch being as they were in `s` (R244). -/
def stay (s : State) (c : CtxId) (o : Out State) : Out State :=
  match o with
  | .next t => match (t.slot c).queueWaits with
    | none => .next t
    | some w =>
      let u := runAhead t c
      if !waitMet u c w then .next t
      else
        let u := (u.modSlot c (fun sl => { sl with wait := none })).modCore c.core (fun k =>
          { k with issuing := (s.core c.core).issuing, from_ := (s.core c.core).from_ })
        .next (match s.serialOf (s.slot c) with
          | none => u
          | some l => u.modLaunch l (fun x => { x with turn := (s.launch l).turn }))
  | o => o

end Sys2Proof.Machine
end

