-- ==== Sys2Proof/Machine/Driet.lean ====
section
/-! DEFINITION. What the debugger Driet does to the machine (R232, R237, R328, R389, R390): it stops a task before an instruction issues, lets it
go on, writes its registers and memory, loads an object and runs it, arms errors and sets watches (assumption 58). -/

namespace Sys2Proof.Machine

/-! ## Stops (R328, R389) -/

/-- Whether Driet stops a task before its next instruction issues; none where the task goes on as it is. A task that passes an instruction is not
stopped at it again, and one that is stepped stops after it, a branch counting with its delay slot. -/
def Slot.debug (bs : List Breakpoint) (sl : Slot) : Option Dbg :=
  let here := bs.any (fun b => b.hits sl)
  match sl.dbg with
  | .free => if here then some .held else none
  | .held => none
  | .pass o p again =>
    if (o = sl.cx.order && p = sl.cx.pc) || (again && sl.cx.delay.isSome) then none
    else if again || here then some .held else some .free
/-- A task of which Driet takes note at an instruction boundary: stopped, its tbreaks gone, or no longer passing an instruction. The handler
context is no task. -/
def drietStop (s : State) (c : CtxId) : Option State :=
  if c.who = 4 then none
  else (((s.slot c).debug s.breaks).map (fun d =>
    let s := if d = .held then { s with breaks := s.breaks.filter (fun b => !(b.temp && b.hits (s.slot c))) } else s
    s.modSlot c (fun sl => { sl with dbg := d })))
/-- A stopped task goes on past the instruction at which it stands. -/
def Slot.goOn (again : Bool) (sl : Slot) : Slot :=
  if sl.dbg = .held then { sl with dbg := .pass sl.cx.order sl.cx.pc again } else sl

/-! ## Writes (R390) -/

/-- A register of a stopped task written, later in program order than every result pending for it, its mark cleared; an l-register, which no
instruction names as its destination, is set as it stands (R84). -/
def Ctxt.print (x : Ctxt) (d : RbDest) (v : RbResult) : Ctxt :=
  match d, v with
  | .areg r, .scalar w => x.wa r w
  | .vec d, .vector b t => if h : 40 ≤ d.toNat ∧ d.toNat < 44 then { x with l := x.l.set (d.toNat - 40) ⟨b, t, none⟩ } else x.wv d b t
  | .pred k, .pred b => x.wk k b
  | _, _ => x
/-- The slots that Driet has stopped. -/
def drietStopped (s : State) : List CtxId :=
  (s.cores.map (fun p => (slotIds p.1).filter (fun c => decide ((s.slot c).dbg = .held)))).flatten
/-- Whether a launch of a loaded object is running. -/
def State.runs (s : State) (k : Nat) : Bool := s.launches.any (fun l => !l.2.fin && decide (l.2.img = some k))
/-- Bytes of a list replaced from a place on. -/
def putBytes (l : List Byte) (off n v : Nat) : List Byte := l.take off ++ leBytes n v ++ l.drop (off + n)
/-- A print at a label of `.data`: into the loaded object while no launch of it runs, and otherwise into the slot region of the task named, or of the
one stopped task (R389). -/
def printData (s : State) (off n v : Nat) (c : Option CtxId) : State :=
  match s.loaded with
  | [] => s
  | (k, im) :: r =>
    if im.data.length < off + n then s
    else if !s.runs k then { s with loaded := (k, { im with data := putBytes im.data off n v }) :: r }
    else
      let task := match c, drietStopped s with | some c, _ => some c | none, [c] => some c | none, _ => none
      match task with
      | some c => if (s.slot c).phase = .idle then s else s.write (privLoc c.core (0x2000 * c.who.val + off)) n v
      | none => s

/-! ## Loading and running (R29, R327, R382, R389) -/

/-- The identity under which Driet reads for a loaded object. -/
def Loaded.who (im : Loaded) : Who := ⟨im.pid, 0, 0, false, ⟨⟨⟨im.m, 0, 0⟩, 0⟩, 4⟩⟩
/-- A section filled where it is mapped: text with rights R and X, data with rights R and W (R382). -/
def fillSection (pid : BitVec 8) (s : State) (x : Section) : State :=
  (x.bytes.mapIdx (fun i b => (x.va.toNat + i, b))).foldl (fun s p =>
    match pageWalk s x.m pid p.1 with
    | .leaf e => if e.r && e.w = !x.text && e.x = x.text then s.write (hbmLoc x.m (e.pa + (p.1 - e.va))) 1 p.2.toNat else s
    | .fault .. => s) s
/-- The modules that the launch records of an object name. -/
def Loaded.modules (s : State) (im : Loaded) : List Nat :=
  (im.records.map (fun a => match whoDwords s im.who a 32 with
    | .ok ds => let r := (launchRecOf ds im.m).1; (List.range r.mods).map (fun i => r.m0 + i)
    | .error _ => [])).flatten.eraseDups
/-- Weight sets entered on a module with seal count 0 (R327). -/
def enterSets (pid : BitVec 8) (ws : List (BitVec 6 × DWord × DWord × Nat)) (s : State) (m : Nat) : State :=
  ws.foldl (fun s w => s.modModule m (fun x =>
    { x with wsets := x.wsets.filter (fun y => y.pid ≠ pid || y.set ≠ w.1) ++ [⟨pid, w.1, w.2.1, w.2.2.1, w.2.2.2, 0⟩] })) s
/-- An object loaded: it is mapped and filled, its weight sets are entered, and its breakpoints freed (R389). -/
def loadObject (s : State) (o : Object) : State :=
  let im : Loaded := ⟨o.m, o.pid, o.data, o.records⟩
  let s := o.roots.foldl (fun s r => s.modModule r.1 (fun x => { x with pids := kset x.pids o.pid r.2 })) s
  let s := o.tables.foldl (fun s t => s.write t.1 t.2.1 t.2.2) { s with tlb := s.tlb.filter (fun e => e.pid ≠ o.pid) }
  let s := o.sections.foldl (fillSection o.pid) s
  let s := (im.modules s).foldl (enterSets o.pid o.wsets) s
  { s with breaks := [], loaded := (s.loaded.length, im) :: s.loaded }
/-- `run`: LAUNCH of the named record of the loaded object, or of its last (R389). -/
def runRecord (s : State) (n : Option Nat) : State :=
  match s.loaded with
  | [] => s
  | (k, im) :: _ => match (match n with | some i => im.records[i]? | none => im.records.getLast?) with
    | none => s
    | some a => match whoDwords s im.who a 32 with
      | .error _ => s
      | .ok ds => match admitRecord s im.who im.m (some k) ds with
        | .ok (t, _) => t
        | .error _ => s

/-! ## Errors and commands -/

/-- A unit in which R237 lets an error be armed: HBM, a scratchpad or a weight buffer. -/
def canArm (u : Nat) : Option HwUnit :=
  if isHbm u then some (.hbm u) else if locRegion u = 0 then some (.coreSram u) else if locRegion u = 8 then some (.clusterSram u) else none
/-- The location that an address names for a process on a module, where it lies in memory that can be watched (R185, R232). -/
def watchLoc (s : State) (m : Nat) (pid : BitVec 8) (a : DWord) : Option Nat :=
  let walk := fun (k va : Nat) => match pageWalk s k pid va with | .leaf e => some (hbmLoc k (e.pa + (va - e.va)) / 8 * 8) | .fault .. => none
  match form a with
  | .virt va => walk m va
  | .remote k va => walk k va
  | .glob k x y core 0 off => some (globLoc k x y core 0 off / 8 * 8)
  | .glob k x y core 1 off => some (wbufLoc ⟨k, x, y⟩ (core % 2 * 2 ^ 15 + off) / 8 * 8)
  | _ => none
/-- A watch that has seen nothing yet. -/
def newWatch (s : State) (m : Nat) (pid : BitVec 8) (a : DWord) (l : Nat) : Watch :=
  { m := m, pid := pid, addr := a, loc := l, first := Memory.getN s.mem l 8, writes := [], rels := [], polls := [] }
/-- The watches after a load, which has placed the values that they begin with. -/
def rewatch (s : State) : State :=
  { s with watches := s.watches.map (fun w => newWatch s w.m w.pid w.addr ((watchLoc s w.m w.pid w.addr).getD w.loc)) }
/-- What a Driet command does. -/
def drietAct (d : Driet) (s : State) : State :=
  let stopped := fun (c : CtxId) => decide ((s.slot c).dbg = .held)
  match d with
  | .load o => rewatch (loadObject s o)
  | .run n => runRecord s n
  | .break_ b => { s with breaks := s.breaks ++ [b] }
  | .step c => s.modSlot c (Slot.goOn true)
  | .continue_ => { s with cores := s.cores.map (fun p => (p.1, { p.2 with slots := p.2.slots.map (Slot.goOn false) })) }
  | .printReg c d v => if stopped c then s.modCx c (fun x => x.print d v) else s
  | .printSys c n v => if stopped c then sysWrite s c n v else s
  | .printMem l n v => s.write l n v
  | .printData off n v c => printData s off n v c
  | .injectUe l => if (canArm (unitOf l)).isNone || s.armed.contains (unitOf l) then s else { s with armed := s.armed ++ [unitOf l] }
  | .injectStale m pid a => match watchLoc s m pid a with
    | some l => { s with watches := s.watches ++ [newWatch s m pid a l] }
    | none => s
  | .injectClear => { s with armed := [], watches := [] }

/-! ## Armed errors (R237) -/

/-- The state with a unit's mark left out of account. -/
def State.unmarked (s : State) (u : Nat) : State := { s with poison := s.poison.filter (fun p => p.1 ≠ u) }
/-- Whether a step reads the unit of an armed error: its outcome shows whether an error is in it. -/
def readsUnit (f : State → Out State) (s : State) (u : Nat) : Bool :=
  match f s, f (markUnit s u) with
  | .next t, .next t' => decide (t.unmarked u ≠ t'.unmarked u)
  | _, _ => false
/-- An armed error has taken effect: it is counted, and no longer armed. -/
def errorTaken (s : State) (u : Nat) : State :=
  match canArm u with
  | some h => { s.countError (hwModule h) (hwCode (hwSource h) 1) with armed := s.armed.filter (· ≠ u) }
  | none => s
/-- Whether a run is under way: a launch of a loaded object that has not completed. -/
def State.inRun (s : State) : Bool := s.launches.any (fun l => !l.2.fin && l.2.img.isSome)
/-- A step in which, during a run, units of armed errors are read: it goes as though the errors had arisen in the memory before it. An instruction
that cannot be fetched reads nothing else (R148). -/
def underErrors (f : State → Out State) (fetches : State → Nat → Bool) (s : State) : Out State :=
  let us := if s.inRun then s.armed.filter (readsUnit f s) else []
  let us := if us.any (fetches s) then us.filter (fetches s) else us
  match f (us.foldl markUnit s) with
  | .next t => .next (us.foldl errorTaken t)
  | o => o

end Sys2Proof.Machine
end

