-- ==== Sys2Proof/Machine/Watch.lean ====
section
/-! DEFINITION. The watches of `inject stale` (R232): what Driet records of writes, releases, acquires and events, R193 applied to it, and the
pending result of a load that would return a write not visible to its task replaced (assumption 58). -/

namespace Sys2Proof.Machine

/-! ## Domains and limits (R186, R193) -/

/-- The domain that holds every agent of the pod. -/
def Zone.pod : Zone := ⟨4, ⟨⟨0, 0, 0⟩, 0⟩⟩
/-- Whether a core's agents lie in a domain. -/
def Zone.has (z : Zone) (k : CoreId) : Bool :=
  match z.level with
  | 0 => decide (k = z.core)
  | 1 => decide (k.cl = z.core.cl)
  | 2 => decide (k.cl.m = z.core.cl.m) && decide (quadrantOf k.cl = quadrantOf z.core.cl)
  | 3 => decide (k.cl.m = z.core.cl.m)
  | _ => true
/-- What two domains share: of two that meet one holds the other. -/
def Zone.meet (a b : Zone) : Option Zone :=
  if a.level ≤ b.level then (if b.has a.core then some a else none) else if a.has b.core then some b else none
/-- The limit of a write at a task of a launch; none where it is not visible there. -/
def WatchWrite.limit (x : WatchWrite) (uid : Nat) (l : Option Nat) : Option (List Zone) :=
  if x.by_ = .driet || l.any x.known.contains then some [Zone.pod] else (x.seen.find? (fun p => p.1 = uid)).map (·.2)
/-- A write becomes visible to a task with a limit beside those it has there. -/
def WatchWrite.show (x : WatchWrite) (uid : Nat) (zs : List Zone) : WatchWrite := { x with seen := kset x.seen uid (kget x.seen uid [] ++ zs) }
/-- A carried write becomes visible to a task, and with it every write earlier in the same task's program order (R193). -/
def Watch.show (w : Watch) (uid : Nat) (p : Nat × List Zone) : Watch :=
  let b := (w.writes[p.1]?).map (·.by_)
  let same := fun (x : WatchWrite) => match x.by_ with | .task _ => decide (b = some x.by_) | _ => false
  { w with writes := w.writes.mapIdx (fun i x => if i = p.1 || (decide (i < p.1) && same x) then x.show uid p.2 else x) }
/-- Writes shown with the limit every agent of the pod (R198). -/
def Watch.showAll (w : Watch) (uid : Nat) (is : List Nat) : Watch := is.foldl (fun w i => w.show uid (i, [Zone.pod])) w
/-- The writes that one accepts, by number. -/
def Watch.which (w : Watch) (p : WatchWrite → Bool) : List Nat :=
  (w.writes.mapIdx (fun i x => (i, x))).filterMap (fun y => if p y.2 then some y.1 else none)
def Watch.byOf (w : Watch) (b : Writer) : List Nat := w.which (fun x => decide (x.by_ = b))
/-- The launch of a slot's task. -/
def launchAt (s : State) (c : CtxId) : Option Nat := (s.slot c).gang.map (fun g => (s.gang g).launch)
/-- The doubleword as a task of a launch sees it: byte by byte the latest write visible to it, or what stood there first (R232). -/
def Watch.view (w : Watch) (uid : Nat) (l : Option Nat) : Nat :=
  w.writes.foldl (fun v x => if (x.limit uid l).isNone then v else
    (List.range 8).foldl (fun v i =>
      if x.mask.testBit i then v - bits v (8 * i + 7) (8 * i) * 2 ^ (8 * i) + bits x.val (8 * i + 7) (8 * i) * 2 ^ (8 * i) else v) v) w.first

/-! ## Bindings and objects (R191, R192) -/

/-- The sync object that an address or a binding names for a context. -/
def syncAt (s : State) (c : CtxId) (a : DWord) : Option WatchObj :=
  ([.read, .write] : List Access).findSome? (fun r => match access s (s.whoIs c) a 8 r with | .loc l => some (.word l) | _ => none)
def objAt (s : State) (c : CtxId) (o : SyncObj) : Option WatchObj :=
  match o with | .word a => syncAt s c a | .barrier n => (s.slot c).gang.map (fun g => .barrier g n)
/-- Whether the region of a binding reaches the watched doubleword; a virtual region does through the address of the watch. -/
def Watch.under (w : Watch) (s : State) (c : CtxId) (b : Binding) : Bool :=
  let n := 2 ^ b.lg
  let from_ := fun (l : Nat) => decide (l ≤ w.loc) && decide (w.loc < l + n)
  let via := fun (m v : Nat) => match form w.addr with
    | .virt a | .remote _ a => decide (v ≤ a) && decide (a < v + n) && decide (watchLoc s m (s.whoIs c).pid (BitVec.ofNat 64 a) = some w.loc)
    | _ => false
  match form b.base with
  | .priv off => from_ (privLoc c.core off)
  | .glob m x y core region off => from_ (if region = 1 then wbufLoc ⟨m, x, y⟩ (core % 2 * 2 ^ 15 + off) else globLoc m x y core region off)
  | .virt v => via c.core.cl.m v
  | .remote m v => via m v
  | .none => false
/-- Whether the watched doubleword is bound to an object in a context's table. -/
def Watch.bound (w : Watch) (s : State) (c : CtxId) (o : WatchObj) : Bool :=
  (s.slot c).cx.binds.toList.any (fun b => match b with | some b => decide (objAt s c b.obj = some o) && w.under s c b | none => false)

/-! ## Releases and acquires (R193, R195) -/

/-- A task's release of an object: its carry is every write visible to it, where the location is bound to the object. -/
def Watch.release (w : Watch) (s : State) (c : CtxId) (o : WatchObj) (dom : Zone) (ep : BitVec 32) : Watch :=
  if !w.bound s c o then w
  else
    let lims := w.writes.mapIdx (fun i x => (i, x.limit (s.slot c).uid (launchAt s c)))
    let carry := lims.filterMap (fun p => p.2.map (fun zs => (p.1, zs.filterMap (fun z => z.meet dom))))
    { w with rels := w.rels ++ [⟨o, .task, c.core, dom, ep, carry⟩] }
/-- What else releases: its writes go to every agent of the pod (R195, R198, R260). -/
def Watch.gives (w : Watch) (o : WatchObj) (k : WatchBy) (ep : BitVec 32) (is : List Nat) : Watch :=
  { w with rels := w.rels ++ [⟨o, k, Zone.pod.core, Zone.pod, ep, is.map (fun i => (i, [Zone.pod]))⟩] }
/-- A task's acquire of an object: of every release of it so far, a barrier's up to an episode. What an engine or a Kettle has counted it
takes only where `counts` says so; a barrier, and a release by a task, it takes where it has bound the location. -/
def Watch.acquire (w : Watch) (s : State) (c : CtxId) (o : WatchObj) (dom : Zone) (ep : BitVec 32) (counts : Bool) : Watch :=
  let tied := w.bound s c o
  w.rels.foldl (fun w r =>
    let takes := match r.kind with
      | .task => tied && r.dom.has c.core && dom.has r.from_
      | .engine => (match o with | .barrier .. => tied | _ => counts)
      | .launch => decide (4 ≤ dom.level)
    if decide (r.obj ≠ o) || !r.ep.ule ep || !takes then w
    else r.carry.foldl (fun w p => if p.2.any (fun z => z.has c.core) then w.show (s.slot c).uid p else w) w) w

/-! ## Steps and who takes them -/

/-- The work that a step is part of: an engine's job, or a part of a Kettle command. -/
inductive Work where
  | job (j : EJob)
  | part (p : KPart)
  deriving DecidableEq, Repr
/-- A step as it is carried out: who takes it for which gang, the instruction and the context that issues it, or the work it is part of, with the
outcome from a state. -/
structure Act where
  by_ : Writer
  gang : Option Nat
  ins : Option (CtxId × Instr)
  work : Option Work
  f : State → Out State
/-- The engine job that an event is a step of. -/
def jobOf (s : State) (i : Instr) : Option EJob :=
  let job := fun (u : Nat) => (s.jobs.find? (fun p => p.2.uid = u)).map (·.2)
  let msg := fun (u : Nat) => (s.msgs.find? (fun x => x.uid = u)).bind (fun x => job x.job)
  match i with
  | .mxJobStart _ u | .mxJobComplete _ u | .copyIn _ u | .copyOut _ u | .multicast _ u | .decode _ u | .wbload _ u | .copyEntryComplete _ u
  | .putsTransfer _ u | .getTransfer _ u | .raddTransfer _ u | .oneSidedComplete _ u => job u
  | .putsMessage u | .remoteAddMessage u | .oneSidedRetry u | .receiveAreaContribution _ _ u => msg u
  | .decoderFrame m d => (kget s.decoders (m, d) ⟨none⟩).job.bind (fun p => job p.2)
  | _ => none
/-- The part of a Kettle command that an event is a step of. -/
def partOf (s : State) (i : Instr) : Option KPart :=
  match i with
  | .rradd _ _ u | .axpy _ _ u | .fade _ _ u | .kettleCopy _ _ u | .kettleFill _ _ u | .scale _ _ u | .kettlePartEnd _ _ u =>
    s.allParts.find? (fun p => p.uid = u)
  | _ => none
def EJob.writer (j : EJob) : Writer := match j.kind with | .copy n _ => .copy j.gang j.owner.core.cl n | _ => .engine j.uid
def KPart.writer (p : KPart) (s : State) : Writer := .kettle p.cuid (s.slot p.owner).uid
/-- A step of some other agent. -/
def Act.other (f : State → Out State) : Act := ⟨.other, none, none, none, f⟩
/-- A step of a context, at an instruction of its own or beside one. -/
def taskAct (s : State) (c : CtxId) (i : Option Instr) (f : State → Out State) : Act :=
  ⟨if c.who = 4 then .other else .task (s.slot c).uid, (s.slot c).gang, i.map (fun i => (c, i)), none, f⟩
/-- A step of an engine's job, of a part of a Kettle command, and of a message of a one-sided operation. -/
def jobAct (j : EJob) (f : State → Out State) : Act := ⟨j.writer, some j.gang, none, some (.job j), f⟩
def partAct (s : State) (p : KPart) (f : State → Out State) : Act := ⟨p.writer s, some p.gang, none, some (.part p), f⟩
def jobNumbered (s : State) (u : Nat) : Option EJob := (s.jobs.find? (fun p => p.2.uid = u)).map (·.2)
def msgAct (s : State) (x : Msg) (f : State → Out State) : Act :=
  match jobNumbered s x.job with | some j => jobAct j f | none => Act.other f
/-- A step that is an event of the agenda. -/
def eventAct (s : State) (i : Instr) : Act :=
  let f := fun s => exec i s
  match jobOf s i, partOf s i, i with
  | some j, _, _ => jobAct j f
  | none, some p, _ => partAct s p f
  | none, none, .storeConfirmation c | none, none, .streamOutputDrain c _ => taskAct s c none f
  | _, _, _ => Act.other f

/-! ## Writes -/

def byteAt (s : State) (l : Nat) : Nat := Memory.getN s.mem l 1
/-- The bytes of a watched doubleword that a step writes: those it changes, or changes when they stand complemented before it; an atomic writes its
own whether it changes them or not (R188). -/
def Watch.wrote (w : Watch) (a : Act) (s t : State) : Nat :=
  let u := match a.f (s.poke w.loc 8 (2 ^ 64 - 1 - Memory.getN s.mem w.loc 8)) with | .next u => some u | _ => none
  let atomic := match a.ins with
    | some (c, .aadd _ _ r _ z _) | some (c, .amin _ _ r _ z _) | some (c, .amax _ _ r _ z _) | some (c, .aand _ _ r _ z _)
    | some (c, .aor _ _ r _ z _) | some (c, .axor _ _ r _ z _) | some (c, .axchg _ _ r _ z _) | some (c, .acas _ _ r _ z _) =>
      if (t.slot c).cx.order = (s.slot c).cx.order then none
      else match access s (s.whoIs c) ((t.slot c).cx.ra r) (2 ^ z.toNat) .readWrite with | .loc l => some (l, 2 ^ z.toNat) | _ => none
    | _ => none
  (List.range 8).foldl (fun m i =>
    let l := w.loc + i
    let flips := match u with | some u => decide (byteAt u l ≠ 255 - byteAt s l) | none => false
    let own := match atomic with | some (b, n) => decide (b ≤ l) && decide (l < b + n) | none => false
    if byteAt t l ≠ byteAt s l || flips || own then m ||| 2 ^ i else m) 0
/-- The context that holds a live task of a number. -/
def taskSlot (s : State) (uid : Nat) : Option CtxId :=
  (s.cores.map (fun p => slotIds p.1)).flatten.find? (fun c => decide ((s.slot c).uid = uid) && decide ((s.slot c).phase ≠ .idle) && decide (c.who ≠ 4))
/-- A doubleword and the mask of what is written of it after one element of a store. -/
def Watch.elem (w : Watch) (s : State) (c : CtxId) (p : Nat × Nat) (e : StoreElem) : Nat × Nat :=
  match access s (s.whoIs c) e.addr 1 .write with
  | .loc l => (List.range 8).foldl (fun p i =>
      let x := w.loc + i
      let k := 8 * (x - l)
      let m := (e.mask >>> k) % 256
      if x < l || l + e.size ≤ x || m = 0 then p
      else
        let old := bits p.1 (8 * i + 7) (8 * i)
        let new := (old &&& (255 - m)) ||| ((e.val >>> k) &&& m)
        (p.1 - old * 2 ^ (8 * i) + new * 2 ^ (8 * i), p.2 ||| 2 ^ i)) p
  | _ => p
/-- The writes of drafts that a step has performed: they are gone from their buffer, and their task is live (R270, R273). -/
def Watch.drafts (w : Watch) (s t : State) : List WatchWrite :=
  let gone := (s.clusters.map (fun p => p.2.drafts.filter (fun d => !(t.cluster p.1).drafts.contains d))).flatten
  (gone.foldl (fun (acc : Nat × List WatchWrite) d => match taskSlot t d.owner with
    | none => acc
    | some c =>
      let p := d.elems.foldl (w.elem s c) (acc.1, 0)
      if p.2 = 0 then acc else (p.1, acc.2 ++ [⟨p.1, p.2, .task d.owner, some d.gang, [(d.owner, [Zone.pod])], []⟩])) (Memory.getN s.mem w.loc 8, [])).2
/-- The writes of a step entered in the location's order; a task's own write is visible to it with no limit (R193). -/
def Watch.writesOf (w : Watch) (a : Act) (s t : State) : Watch :=
  let mask := w.wrote a s t
  if mask = 0 then w
  else
    let own := match a.by_ with | .task u => [(u, [Zone.pod])] | _ => []
    let ds := w.drafts s t
    { w with writes := w.writes ++ (if ds.isEmpty then [⟨Memory.getN t.mem w.loc 8, mask, a.by_, a.gang, own, []⟩] else ds) }

/-! ## Instructions -/

/-- Whether a context has gone past its instruction. -/
def passed (s t : State) (c : CtxId) : Bool :=
  decide ((t.slot c).uid = (s.slot c).uid) && decide ((t.slot c).cx.order = (s.slot c).cx.order + 1)
/-- The registers that an instruction reads: after the commit of a marker (R48). -/
def readsFrom (s : State) (c : CtxId) (i : Instr) : Ctxt :=
  let x := (s.slot c).cx
  if marksAt x.outstanding i then (match commitList x.rb x with | .ok y => y | _ => x) else x
/-- The state of a gang's barrier. -/
def barOf (s : State) (c : CtxId) (n : BitVec 6) : BarState := (s.gang ((s.slot c).gang.getD 0)).bar n
/-- What an instruction releases, before what the step writes. -/
def Watch.releases (w : Watch) (s t : State) (c : CtxId) (i : Instr) : Watch :=
  let x := readsFrom s c i
  let rel := fun (a : DWord) (sc : BitVec 3) =>
    if passed s t c then (match syncAt s c a with | some o => w.release s c o ⟨sc.toNat, c.core⟩ 0 | none => w) else w
  let arrive := fun (n : BitVec 6) =>
    let b := barOf s c n
    let b' := barOf t c n
    if decide (b.count = b'.count) && decide (b.ep = b'.ep) then w
    else w.release s c (.barrier ((s.slot c).gang.getD 0) n) Zone.pod b.ep
  match i with
  | .rel _ rs1 sc => rel (x.ra rs1) sc
  | .cadd _ rs1 _ sc => rel (x.ra rs1) sc
  | .bara _ _ n _ => arrive n
  | .baraw _ _ n _ => arrive n
  | _ => w
/-- What an instruction that has gone on acquires (R193, R195, R198, R201). -/
def Watch.acquires (w : Watch) (s t : State) (c : CtxId) (i : Instr) : Watch :=
  let x := readsFrom s c i
  let u := (s.slot c).uid
  let acq := fun (a : DWord) (sc : Nat) (counts : Bool) =>
    match syncAt s c a with | some o => w.acquire s c o ⟨sc, c.core⟩ 0 counts | none => w
  let wait := fun (n : BitVec 6) =>
    w.acquire s c (.barrier ((s.slot c).gang.getD 0) n) Zone.pod ((t.slot c).cx.bar n).episode false
  let reached := fun (a v : DWord) => match readMem s (s.whoIs c) a 8 with | .val y => decide (v.toNat ≤ y) | _ => false
  let poll := fun (is : List Nat) => if is.isEmpty then w else { w with polls := w.polls ++ [⟨u, x.order, is⟩] }
  if !passed s t c then w
  else match i with
  | .acq _ _ rs1 sc => acq (x.ra rs1) sc.toNat false
  | .cwait _ _ rs1 rs2 _ => if reached (x.ra rs1) (x.ra rs2) then acq (x.ra rs1) 4 true else w
  | .evwait _ _ rs1 n => acq (x.ra rs1 + BitVec.ofNat 64 (8 * n.toNat)) 4 true
  | .barw _ _ n => wait n
  | .baraw _ _ n _ => wait n
  | .mxwait _ rs1 => match x.job (x.ra rs1) with | some e => w.showAll u (w.byOf (.engine e.uid)) | none => w
  | .kfence _ => w.showAll u (w.which (fun y => match y.by_ with | .kettle _ o => decide (o = u) | _ => false))
  | .mxpoll _ _ rs1 => match x.job (x.ra rs1) with | some e => if e.state = .done then poll (w.byOf (.engine e.uid)) else w | none => w
  | .kpoll _ _ rs1 => match x.kcmds.find? (fun e => e.id = x.ra rs1) with
    | some e => if e.state = .done then poll (w.byOf (.kettle e.uid u)) else w
    | none => w
  | .wq _ _ n => match s.wset c.core.cl.m (s.slot c).pid n with
    | some y =>
      let mine := w.rels.filter (fun r => decide (r.obj = .sealed c.core.cl.m (s.slot c).pid n) && decide (r.ep = y.c.setWidth 32))
      poll ((mine.map (fun r => r.carry.map (·.1))).flatten)
    | none => w
  | .cpq _ _ rs1 =>
    let g := (s.slot c).gang.getD 0
    let n := (x.ra rs1).toNat
    if ((kget (s.cluster c.core.cl).walk g []).getD n .waiting).state = .done then poll (w.byOf (.copy g c.core.cl n)) else w
  | _ => w
/-- A set that is sealed: a read of its new count acquires what was written to the copy before (R226). -/
def Watch.seals (w : Watch) (s t : State) : Watch :=
  s.modules.foldl (fun w p => p.2.wsets.foldl (fun w x => match t.wset p.1 x.pid x.set with
    | some y =>
      let a := if y.c.toNat % 2 = 0 then y.p0 else y.p1
      let in_ := match form w.addr with
        | .virt v | .remote _ v => decide (a.toNat ≤ v) && decide (v < a.toNat + y.size) && decide (watchLoc s p.1 x.pid (BitVec.ofNat 64 v) = some w.loc)
        | _ => false
      if y.c = x.c || !in_ then w else w.gives (.sealed p.1 x.pid x.set) .engine (y.c.setWidth 32) (List.range w.writes.length)
    | none => w) w) w
/-- Status reads that have been committed (R198). -/
def Watch.polled (w : Watch) (t : State) : Watch :=
  w.polls.foldl (fun w p => match taskSlot t p.task with
    | none => w
    | some c => if (t.slot c).cx.rb.any (fun e => e.order = p.order) then { w with polls := w.polls ++ [p] } else w.showAll p.task p.shows)
    { w with polls := [] }

/-! ## Engines, Kettles and launches -/

/-- The locations of the counters that an event's job or command adds to once its writes are performed: of an event record's, counter 1 for GET and
counter 2 (R202). -/
def countersOf (s : State) : Work → List Nat
  | .job j =>
    let as := match j.kind with
      | .matrix _ card _ _ => [card.ctr]
      | .copy _ e => [e.ctr]
      | .oneSided d => (if d.op = 1 then [d.event + 8] else []) ++ [d.event + 16] ++ (if d.op = 0 then [d.signal] else [])
    (as.filter (· ≠ 0)).filterMap (fun a => match engineAccess s j a 8 .readWrite with | .loc l => some l | _ => none)
  | .part p => if p.ctr then [privLoc p.owner.core p.ctrOff] else []
/-- What a step of a job or command makes visible: at its counters, at the barriers where it arrives, and of a tile that becomes READY to every task of
the owning core; a poisoned arrival carries nothing (R195, R198). -/
def Watch.engines (w : Watch) (a : Act) (x : Work) (s t : State) : Watch :=
  let mine := w.byOf a.by_
  let counts := (countersOf s x).filter (fun l => decide (Memory.getN t.mem l 8 = (Memory.getN s.mem l 8 + 1) % 2 ^ 64))
  let w := counts.foldl (fun w l => w.gives (.word l) .engine 0 mine) w
  match x with
  | .part _ => w
  | .job j =>
    let ctr := match j.kind with | .matrix _ card _ _ => decide (card.ctr ≠ 0) | _ => false
    let bad := decide (j.bad ≠ 0) || (ctr && counts.isEmpty)
    let w := (List.range 64).foldl (fun w n =>
      let b := (s.gang j.gang).bar (BitVec.ofNat 6 n)
      let b' := (t.gang j.gang).bar (BitVec.ofNat 6 n)
      if decide (b.count = b'.count) && decide (b.ep = b'.ep) then w
      else w.gives (.barrier j.gang (BitVec.ofNat 6 n)) .engine b.ep (if bad then [] else mine)) w
    j.tiles.foldl (fun w x =>
      if ((t.slot x.1).cx.tile x.2.1).state = .ready && ((s.slot x.1).cx.tile x.2.1).state ≠ .ready then
        (slotIds x.1.core).foldl (fun w c => if (t.slot c).phase = .idle then w else w.showAll (t.slot c).uid mine) w
      else w) w
/-- A launch that has completed gives what its blocks have released and what it had acquired itself (R259, R260). -/
def Watch.completes (w : Watch) (s t : State) (l : Nat) : Watch :=
  let x := s.launch l
  let of_ := fun (y : WatchWrite) => y.known.contains l ||
    match y.gang with | some g => decide ((t.gang g).launch = l) && decide ((t.gang g).status ≠ .killed) | none => false
  if x.fin || !(t.launch l).fin || x.rc.counter = 0 then w
  else match access s x.who x.rc.counter 8 .readWrite with
    | .loc c => w.gives (.word c) .launch 0 (w.which of_)
    | _ => w
/-- A launch whose dependences are met has acquired what their counters carry from launches and engines (R257). -/
def Watch.depends (w : Watch) (s t : State) (l : Nat) : Watch :=
  let x := s.launch l
  if x.queued.isSome || (t.launch l).queued.isNone then w
  else x.rc.deps.foldl (fun w d => match access s x.who d.1 8 .read with
    | .loc c =>
      let is := ((w.rels.filter (fun r => decide (r.obj = .word c) && decide (r.kind ≠ .task))).map (fun r => r.carry.map (·.1))).flatten
      { w with writes := w.writes.mapIdx (fun i y => if is.contains i && !y.known.contains l then { y with known := l :: y.known } else y) }
    | _ => w) w

/-! ## The observer -/

/-- A watch after a step. -/
def Watch.after (w : Watch) (a : Act) (s t : State) : Watch :=
  let w := match a.ins with | some (c, i) => w.releases s t c i | none => w
  let w := w.writesOf a s t
  let w := match a.ins with | some (c, i) => w.acquires s t c i | none => w
  let w := match a.work with | some x => w.engines a x s t | none => w
  let w := w.seals s t
  let w := s.launches.foldl (fun w l => (w.completes s t l.1).depends s t l.1) w
  w.polled t
/-- The loads whose pending result a watch may replace. -/
def isLoad : Instr → Bool
  | .ldb .. | .ldbz .. | .ldh .. | .ldhz .. | .ldw .. | .ldwz .. | .ldd .. | .vld .. | .vgather .. | .rld .. => true
  | _ => false
/-- The state as a task of a launch sees it at the watched locations. -/
def viewed (s : State) (uid : Nat) (l : Option Nat) : State := s.watches.foldl (fun u w => u.poke w.loc 8 (w.view uid l)) s
/-- A load whose task does not see what stands at a watched location has the result that what it sees there gives; a fault stays. -/
def replaceLoad (a : Act) (s t : State) : State :=
  match a.ins with
  | none => t
  | some (c, i) =>
    let n := (s.slot c).cx.order
    let v := viewed s (s.slot c).uid (launchAt s c)
    if !isLoad i || c.who = 4 || v.mem = s.mem then t
    else match a.f v with
      | .next u => match (u.slot c).cx.rb.find? (fun e => e.order = n) with
        | some y => match y.result with
          | .fault _ => t
          | r => t.modCx c (fun x => { x with rb := x.rb.map (fun e =>
              match e.result with | .fault _ => e | _ => if e.order = n then { e with result := r } else e) })
        | none => t
      | _ => t
/-- What Driet's watches make of a step; a command that sets or clears them is not looked at. -/
def watched (a : Act) (s t : State) : State :=
  if s.watches.isEmpty || t.watches ≠ s.watches then t
  else { replaceLoad a s t with watches := s.watches.map (fun w => w.after a s t) }

end Sys2Proof.Machine
end

