-- ==== Sys2Proof/Machine/Due.lean ====
section
/-! DEFINITION. What happens next (assumption 1): the boundary checks of R349, what a write in a core's
system window does (R362), the steps of internal agents that are due, the choice of the core that issues, the passing of cycles (R245),
and how an instruction is placed for the next step (assumption 5). -/

namespace Sys2Proof.Machine

/-! ## Boundaries (R349) -/

/-- What is taken at an instruction boundary before the instruction's own checks, in the order of R349; what has been held under speculation is
taken as held, each in its place, an instruction's own last (R272). A gang-stop and QUANTUM_END never separate a branch from its delay slot (R52,
R246, R358). -/
def boundary (s : State) (c : CtxId) : Option (Out State) :=
  let sl := s.slot c
  let held := sl.held.map (fun t => Host.Outcome.next (takeTrap s c t true))
  if c.who = 4 then
    if (s.core c.core).hwdog.toNat ≤ sl.wcount then some (execHandlerWatchdogExpiry c.core s) else none
  else if sl.lost then some (.next (takeLost s c))
  else if sl.holdsTrap 0x109 then held
  else match sl.gang with
    | none => none
    | some g =>
      if (s.gang g).status = .stopping && !gangInXchg s g && sl.cx.delay.isNone then some (execGangStop ⟨g, (s.gang g).imageAt⟩ s)
      else if sl.holdsTrap 0x140 then held
      else if sl.wlimit ≤ sl.wcount then some (execWatchdog c s)
      else if sl.qend && sl.cx.delay.isNone then some (execQuantumEnd c s)
      else held

/-! ## The core system window (R362) -/

/-- A write to a reserved offset by a handler context is remembered in its EINFO (R8). -/
def windowNote (by_ : Option CoreId) (off : Nat) (v : DWord) (s : State) : State :=
  match by_ with
  | some h => if v ≠ 0 && windowReserved off then s.modSlot ⟨h, 4⟩ (fun sl => { sl with einfo := sl.einfo ||| 0x100 }) else s
  | none => s
/-- What a write that a core's system window has taken does; only a service core's write of TVEC ends a halt (R351). -/
def windowAct (by_ : Option CoreId) (k : CoreId) (off : Nat) (v : DWord) (s : State) : Out State :=
  let cmd := fun (i : Fin 4) => s.modCore k (fun c => { c with wsetCmd := c.wsetCmd.set i.val v })
  match imageAt off with
  | some (w, i) => .next (imageWrite s by_ ⟨k, w⟩ i v)
  | none => match off with
    | 0x000 => match by_ with
      | none => execTvecWrite k v s
      | some _ => .next (s.modCore k (fun c => { c with tvec := v }))
    | 0x008 => execSystemWindowWrite (.hwdog k) v s
    | 0x018 =>
      let c : CtxId := ⟨k, Fin.ofNat 5 (bits v.toNat 3 2)⟩
      match bits v.toNat 1 0 with
      | 0 => execSlotctlResume c s
      | 1 => execSlotctlEnd c s
      | _ => .next s
    | 0x020 => execSystemWindowWrite (.qdefault k) v s
    | 0x028 => execSystemWindowWrite (.wdefault k) v s
    | 0x900 => if v.getLsbD 25 then execStreamRelease k v s else execStreamReserve k v s
    | 0x940 =>
      let s := cmd 0
      let cm := (s.core k).wsetCmd
      let w : WsetCmd := { pid := (v >>> 56).setWidth 8, set := (v >>> 50).setWidth 6, op := (v >>> 48).setWidth 2, low := v.setWidth 48,
                           p0 := cm[1], p1 := cm[2], size := cm[3] }
      if w.op = 1 then execWsetDelete k w s else execWsetCreate k w s
    | 0x948 => .next (cmd 1)
    | 0x950 => .next (cmd 2)
    | 0x958 => .next (cmd 3)
    | _ => .next (windowNote by_ off v s)

/-! ## Steps that are due -/

/-- The contexts of the cores that have left their reset state. -/
def allSlots (s : State) : List CtxId := (s.cores.map (fun p => slotIds p.1)).flatten
/-- The dispatchers of the modules of a launch. -/
def dispatchers (l : Launch) : List DispNode :=
  let ms := (List.range l.rc.mods).map (fun i => l.rc.m0 + i)
  (.root l.origin) :: (ms.map (fun m => .module m :: ((List.range 4).map (fun q =>
    .quadrant m q :: (List.range 12).map (fun b => .band m q b))).flatten)).flatten
/-- Steps of cores and slots. -/
def coreSteps (s : State) : List Act :=
  let handlers := (s.cores.map (fun p => [Act.other (execHandlerDispatch p.1), Act.other (execHandlerWatchdogExpiry p.1)])).flatten
  let slots := ((allSlots s).map (fun c =>
    let sl := s.slot c
    let act := taskAct s c none
    (if sl.queueWait then [act (fun s => .next (runAhead s c))] else []) ++
    (sl.cx.rb.map (fun e => act (execLongResultReturn c e.order))) ++ [act (execStoreConfirmation c), act (execWaitSatisfied c)] ++
    (if sl.lost then [act (fun s => .next (takeLost s c))] else []) ++ (if sl.wait.isSome then [act (execWatchdog c)] else []) ++
    (if sl.cx.pats.toList.any (fun p => p.state = .running || p.state = .fault)
      then ([0, 1, 2, 3] : List (BitVec 2)).map (fun p => act (execStreamInputFill c p)) ++
        ([0, 1, 2, 3] : List (BitVec 2)).map (fun p => act (execStreamOutputDrain c p)) else []))).flatten
  handlers ++ slots
/-- Steps of the engines of clusters, of decoders and of Kettles. -/
def engineSteps (s : State) : List Act :=
  let job := fun (p : ClusterId × EJob) =>
    let (cl, j) := p
    (match j.kind with
    | .matrix .. => [execMxJobComplete cl j.uid, execMxJobStart cl j.uid]
    | .copy .. => [execCopyEntryComplete cl j.uid, execCopyIn cl j.uid, execCopyOut cl j.uid, execMulticast cl j.uid, execDecode cl j.uid,
                   execWbload cl j.uid]
    | .oneSided _ => [execOneSidedComplete cl j.uid, execPutsTransfer cl j.uid, execGetTransfer cl j.uid, execRaddTransfer cl j.uid]).map (jobAct j)
  let walks := (s.clusters.map (fun p => (p.2.walk.map (fun w =>
    (List.range w.2.length).map (fun n => Act.other (execCopyEntryPass p.1 w.1 n)))).flatten)).flatten
  let decoder := fun (d : (Nat × Nat) × Decoder) =>
    let f := execDecoderFrame d.1.1 d.1.2
    match d.2.job.bind (fun p => jobNumbered s p.2) with | some j => jobAct j f | none => Act.other f
  let kettles := (s.kettles.map (fun k => (k.2.parts.map (fun p =>
    let (m, t) := k.1
    [execKettlePartEnd m t p.uid, execRradd m t p.uid, execAxpy m t p.uid, execFade m t p.uid, execKettleCopy m t p.uid,
     execKettleFill m t p.uid, execScale m t p.uid].map (partAct s p))).flatten)).flatten
  let sent := s.sent.map (fun p => partAct s p (execRemoteAddMessage p.uid))
  let msg := fun (x : Msg) =>
    ([execPutsMessage x.uid, execRemoteAddMessage x.uid] ++
    (match x.owner with | .kettle m t => [execReceiveAreaContribution m t x.uid] | _ => []) ++ [execOneSidedRetry x.uid]).map (msgAct s x)
  (s.jobs.map job).flatten ++ walks ++ s.decoders.map decoder ++ sent ++ kettles ++ (s.msgs.map msg).flatten
/-- Steps that tasks of a gang or of a launch take together, and of ready pools and graphs. -/
def gangSteps (s : State) : List Act :=
  let gang : Nat × Gang → List (State → Out State) := fun p =>
    let (g, x) := p
    (List.range x.xops.length).map (fun n => execExchangeDelivery g n) ++
    (x.claims.map (fun c => x.clusters.map (fun cl => execConditionOutcomeArrival cl g c.word))).flatten ++
    (List.range x.nodes.length).map (fun n => execConditionalNode g n) ++ (List.range x.nodes.length).map (fun n => execWhileNode g n) ++
    (if x.status = .stopping then [execGangStop ⟨g, x.imageAt⟩, execGangStopComplete g] else []) ++
    (match x.cutAt with | some a => if x.status = .running then [execCheckpoint ⟨g, a⟩] else [] | none => [])
  let fs : List (State → Out State) :=
    s.cores.map (fun p => execMarkerToken p.1) ++ (s.gangs.map gang).flatten ++ s.launches.map (fun l => execCollectiveResolve l.1) ++
    (s.gangs.filter (fun g => !g.2.nodes.isEmpty)).map (fun g s => .next (feedPools s g.1)) ++
    (if s.clusters.any (fun c => !c.2.pool.isEmpty) then (allSlots s).map execSegmentTake else [])
  fs.map Act.other
/-- Steps of the dispatchers. -/
def launchSteps (s : State) : List Act :=
  ((s.launches.filter (fun l => !l.2.fin)).map (fun p =>
    let (l, x) := p
    let ds := dispatchers x
    (execLaunchDependenceMet l :: execLaunchComplete l ::
      (ds.map (fun d =>
        (if x.cancel.isSome then [execCancelAtDispatcher d l] else []) ++
        (if x.blocksAt d = 0 then [execBlockRangeRequest d l] else []) ++
        (if d.level = x.rc.level && x.blocksAt d ≠ 0 then
          (match placeIn s x d with | some (a, b) => [execGangStart d l a b] | none => []) else []))).flatten).map Act.other)).flatten
/-- Reissues, which come last. -/
def reissueSteps (s : State) : List Act :=
  ((allSlots s).filter (fun c => match (s.slot c).wait with | some (.reissue _) => true | some .drafts => true | _ => false)).map
    (fun c => Act.other (execRemoteReissue c))
/-- What a context that waits asks for at each try. -/
def WaitReason.calls : WaitReason → List DWord
  | .confirm es => es.map (·.addr)
  | .counter a _ => [a]
  | .reissue as => as
  | _ => []
/-- The addresses at which slots and launches that wait ask, each with the module they ask from. -/
def calls (s : State) : List (Nat × DWord) :=
  ((allSlots s).map (fun c => (match (s.slot c).wait with | some w => w.calls | none => []).map (fun a => (c.core.cl.m, a)))).flatten ++
  ((s.launches.filter (fun l => !l.2.fin && l.2.queued.isNone)).map (fun l => l.2.rc.deps.map (fun d => (l.2.origin, d.1)))).flatten
/-- A module brought to Run. -/
def State.roused (s : State) (m : Nat) : State := s.modModule m (fun x => { x with power := .run })
/-- Whether a message is addressed to a module in a power state: by a wait, by a launch that names it, or by one of the steps, which would go
another way if the module ran (R378). -/
def calledOn (s : State) (fs : List Act) (m : Nat) : Bool :=
  (calls s).any (fun p => decide (p.1 ≠ m) && decide (moduleOf p.1 p.2 = m)) ||
  s.launches.any (fun l => !l.2.fin && decide (l.2.origin ≠ m) && decide (l.2.rc.m0 ≤ m) && decide (m < l.2.rc.m0 + l.2.rc.mods)) ||
  fs.any (fun a => match a.f s, a.f (s.roused m) with | .next t, .next u => decide (t.roused m ≠ u) | _, _ => false)
/-- The module whose exit begins next, if any. -/
def nextToWake (s : State) (fs : List Act) : Option Nat :=
  ((s.modules.filter (fun p => decide (p.2.power ≠ .run) && !p.2.waking)).find? (fun p => calledOn s fs p.1)).map (·.1)
/-- The first step of a list that changes the state. -/
def firstStep (s : State) : List Act → Option Act
  | [] => none
  | a :: r => match a.f s with
    | .next t => if t = s then firstStep s r else some a
    | _ => some a
/-- The step of an internal agent that is due, if any; a message to a module in a power state comes first. -/
def dueStep (s : State) : Option Act :=
  let fs := coreSteps s ++ engineSteps s ++ gangSteps s ++ launchSteps s
  match nextToWake s fs with
  | some m => some (Act.other (fun s => .next (s.wake m)))
  | none => firstStep s (fs ++ reissueSteps s)

/-! ## The next step -/

/-- The issue of a core: the context it issues from, or the next ready one; its boundary checks; Driet's stop; its instruction, or the trap taken at the
fetch. What one front end has done ahead of the other is not done again (R42, R391), and a slot that comes to wait for a queue keeps the issue where
its other front end supplies it (R244). -/
def pickCore (s : State) (k : CoreId) : Option (Act × State) :=
  let s := { s with cur := k }
  let s := if s.ready s.me then s else switchPoint s k
  if !s.ready s.me then none
  else
    let s := s.takeTurn s.me
    let c := s.me
    some (match boundary s c with
    | some _ => (taskAct s c none (fun s => settled s ((boundary s c).getD (.next s))), s)
    | none => match drietStop s c with
      | some _ => (taskAct s c none (fun s => settled s (.next ((drietStop s c).getD s))), s)
      | none => match fetchDecode s c with
        | .error t => (taskAct s c none (fun s => settled s (.next (s.raise t))), s)
        | .ok i => (taskAct s c (some i) (fun s => stay s c (runIn i s)), s))
/-- The cycles a context counts toward its watchdog (R245): those in which it holds a live task; held while trapped
(R348). -/
def elapse (s : State) (n : Nat) : State :=
  let age := fun (sl : Slot) => if sl.phase = .live then { sl with wcount := sl.wcount + n } else sl
  { s with now := s.now + n, cores := s.cores.map (fun p => (p.1, { p.2 with slots := p.2.slots.map age })) }
/-- The cores, those after a core first and the core itself last. -/
def coresAfter (k : CoreId) (l : List CoreId) : List CoreId :=
  let a := l.takeWhile (fun x => x ≠ k)
  (l.drop (a.length + 1)) ++ a ++ (l.drop a.length).take 1
/-- Nothing to do. -/
def idle : Act := Act.other (fun s => .next s)
/-- What a turn of the agenda does. -/
def turnAct (s : State) (e : Turn) : Act × State :=
  let other := fun (f : State → Out State) => (Act.other (fun s => settled s (f s)), s)
  match e with
  | .event i => if (encode i).isNone then (let a := eventAct s i; ({ a with f := fun s => settled s (a.f s) }, s)) else (idle, s)
  | .issue k => (pickCore s k).getD (idle, s)
  | .elapse n => other (fun s => .next (elapse s n))
  | .window by_ k off v => other (windowAct by_ k off v)
  | .windowRoom o room => other (fun s => .next { s with noRoom := s.noRoom.filter (· ≠ o) ++ (if room then [] else [o]) })
  | .hardware u lost => other (hardwareEvent u lost)
  | .limitEnds m q => other (fun s => .next (limitEnds m q s))
  | .driet d => ({ Act.other (fun s => settled s (.next (drietAct d s))) with by_ := .driet }, s)
/-- What the next step does, and from which state: the agenda's head; else a step of an internal agent that is due; else the issue of the next core;
else nothing. -/
def pick (s : State) : Act × State :=
  match s.agenda with
  | [] => match dueStep s with
    | some a => ({ a with f := fun s => settled s (a.f s) }, s)
    | none => ((coresAfter s.cur (s.cores.map (·.1))).findSome? (pickCore s)).getD (idle, s)
  | e :: r => turnAct { s with agenda := r } e
/-- A step with no error armed: what `pick` says happens next, carried out, and what Driet's watches make of it (R232). -/
def stepOnce (s : State) : Out State :=
  match pick s with
  | (a, u) => match a.f u with
    | .next t => .next (watched a u t)
    | o => o
/-- Whether the next step's instruction has bytes in a unit: it has none to carry out where the unit is marked. -/
def fetchesUnit (s : State) (u : Nat) : Bool := (pick s).1.ins.isSome && (pick (markUnit s u)).1.ins.isNone

/-! ## Placing an instruction (assumption 5) -/

/-- The lowest virtual address of the user range, where a placed instruction lies if the pc is not one of it. -/
def placePc (pc : DWord) : DWord :=
  if (form pc).isVirt && pc.toNat % 2 = 0 && pc.toNat % 65536 < 0xFFF0 then pc else 0x100000000#64
/-- An instruction placed for the next step: the issuing slot holds a live task of a running gang, its pc lies in the user range, the page
there is mapped for fetch at its station under a PID that is enabled, the instruction's bytes, zero above `nbits`, stand at it, and the core issues next. -/
def placeInstr (s : State) (nbits w : Nat) : State :=
  let c := s.me
  let sl := s.slot c
  let g := s.fresh
  let new : Slot := { Slot.reset with phase := .live, lid := 1, pid := 1, gang := some g, uid := g,
                                      cx := Ctxt.reset.putA 1 (BitVec.ofNat 64 (0x2000 * c.who.val)) none }
  let live := sl.phase = .live && (c.who = 4 || (match sl.gang with | some h => (s.gang h).status = .running | none => false))
  let s := if live then s else
    let s := { s with fresh := g + 1 }
    let s := s.setLaunch g { Launch.reset with lid := 1, pid := 1, fin := false, queued := some g,
                                               rc := { LaunchRec.reset with grid := 1 } }
    let s := s.setGang g { Gang.reset with launch := g, status := .running, m := c.core.cl.m, x := c.core.cl.x, y := c.core.cl.y,
                                           held := [c], entries := [c] }
    s.setSlot c new
  let sl := s.slot c
  let pc := placePc sl.cx.pc
  let sl := { sl with wait := none, held := none, lost := false, stopped := false, dbg := .free, qend := false, wcount := 0,
                      wlimit := Nat.max 1 sl.wlimit, cx := { sl.cx with pc := pc } }
  let s := s.setSlot c sl
  let base := pc.toNat / 65536 * 65536
  let e : TlbEntry := { m := c.core.cl.m, station := stationOf pc.toNat, pid := (s.whoIs c).pid, va := base, size := 65536,
                        pa := 65536, r := false, w := false, x := true }
  let e2 := { e with station := stationOf (pc.toNat + 2) }
  let loc := hbmLoc c.core.cl.m (65536 + pc.toNat % 65536)
  let s := s.modModule c.core.cl.m (fun x => { x with pids := kset x.pids (s.whoIs c).pid (kget x.pids (s.whoIs c).pid 0 ||| 1) })
  { s with agenda := [.issue c.core], armed := [], breaks := [], tlb := e :: e2 :: s.tlb, mem := Memory.setN s.mem loc 4 (w % 2 ^ nbits),
           poison := s.poison.filter (fun u => u.1 + 64 ≤ loc || loc + 4 ≤ u.1) }

end Sys2Proof.Machine
end

