-- ==== Sys2Proof/Machine/Step.lean ====
section
/-! DEFINITION. One step of the pod: what `pick` says happens next, carried out. -/

namespace Sys2Proof.Machine

/-- One step, in which an armed error may take effect (R237). -/
def step (s : State) : Host.Outcome State Fault Refusal := underErrors stepOnce fetchesUnit s

/-- The state with an instruction placed where the next step fetches and runs it. -/
def State.withFetchWord (s : State) (nbits w : Nat) : State := placeInstr s nbits w

end Sys2Proof.Machine
end

