-- ==== Sys2Proof/Safety.lean ====
section
/-! DEFINITION. The terms in which claims about the machine are stated: a safe run, the conditions under which an instruction
reaches its own effect (`Passes`, `Takes`), what an instruction leaves alone (`SameOutside`), and what numbers and their rounding are
(`ieeeVal`, `RoundsTo` and what follows them), said apart from how the machine computes them. -/

namespace Sys2Proof

open Machine

/-- `k` steps from `s` all answer a next state: no step meets a refusal. Every trap of the manual is a next state. -/
def SafeFor : Nat → State → Prop
  | 0, _ => True
  | k + 1, s => ∃ t, step s = .next t ∧ SafeFor k t

/-- The checks of an instruction that stand after its switch marker: the exchange phase allows it (R253), a speculative
context need not park at it (R271), and no register it reads is marked (R157). -/
def Passes (q : Iss) (s : State) : Prop :=
  (s.self.inXchg = true → q.xOk = true) ∧ (q.parks = true → s.self.speculative = false) ∧ firstMark (s.cx.marks q.a q.v) = none

/-- An instruction reaches its own effect in state `t` from state `s`: it is no control instruction in a delay slot (R52), its context
may execute it (R351), its switch marker, if it has one, finds every long-class result returned and commits them without a
trap or a wait (R47 to R49), which gives `t`, and its other checks pass in `t`. -/
def Takes (q : Iss) (s t : State) : Prop :=
  (q.control = true → s.cx.delay = none) ∧ (s.me.who = 4 → q.hOk = true) ∧
  (if q.s = true ∨ (q.long = true ∧ 8 ≤ s.cx.outstanding)
   then (∀ e ∈ s.cx.rb, e.returned = true) ∧ ∃ c, commitList s.cx.rb s.cx = .ok c ∧ t = s.setCx c
   else t = s) ∧
  Passes q t

/-- What stands before the effect of a C-class instruction on vector operands: one that names q0 to q3 as a source is long-class (R46). -/
def vec (s : Bool) (srcs : List (BitVec 6)) (long : Bool := false) (len : Nat := 4) : Iss :=
  { s := s, len := len, long := long || srcs.any specIsQ, v := srcs }
/-- What stands before the own effect of each instruction that has an encoding, from the lists of the manual: whether it is a switch marker, of its
S bit or always (R48), long-class (R46), in the control set (R52), allowed in the handler context (R351) and in the exchange phase (R253), parked
by a speculative context before anything else (R228, R271), and the registers that its source fields name (R157). -/
def Instr.iss : Instr → Option Iss
  | .add s _ rs1 rs2 | .sub s _ rs1 rs2 | .and s _ rs1 rs2 | .or s _ rs1 rs2 | .xor s _ rs1 rs2 | .andn s _ rs1 rs2 | .sll s _ rs1 rs2
  | .srl s _ rs1 rs2 | .sra s _ rs1 rs2 | .slt s _ rs1 rs2 | .sltu s _ rs1 rs2 | .min s _ rs1 rs2 | .max s _ rs1 rs2
  | .minu s _ rs1 rs2 | .maxu s _ rs1 rs2 | .mul s _ rs1 rs2 | .mulh s _ rs1 rs2 | .mulhu s _ rs1 rs2 | .addw s _ rs1 rs2
  | .subw s _ rs1 rs2 | .mulw s _ rs1 rs2 | .sllw s _ rs1 rs2 | .srlw s _ rs1 rs2 | .sraw s _ rs1 rs2 =>
    some { s := s, hOk := true, xOk := true, a := [rs1, rs2] }
  | .div s _ rs1 rs2 | .divu s _ rs1 rs2 | .rem s _ rs1 rs2 | .remu s _ rs1 rs2 =>
    some { s := s, long := true, hOk := true, xOk := true, a := [rs1, rs2] }
  | .clz s _ rs1 | .ctz s _ rs1 | .popc s _ rs1 | .addi s _ rs1 _ | .andi s _ rs1 _ | .ori s _ rs1 _ | .xori s _ rs1 _
  | .slti s _ rs1 _ | .sltiu s _ rs1 _ | .slli s _ rs1 _ | .srli s _ rs1 _ | .srai s _ rs1 _ | .addiw s _ rs1 _ =>
    some { s := s, hOk := true, xOk := true, a := [rs1] }
  | .mkhi s _ _ | .nop s => some { s := s, hOk := true, xOk := true }
  | .mkga s _ rs1 rs2 _ | .bind s _ rs1 rs2 _ _ | .cwait s _ rs1 rs2 _ => some { s := s, a := [rs1, rs2] }
  | .peera s _ rs1 _ | .sdef s _ rs1 _ | .qpush s _ rs1 _ | .talloc s _ rs1 _ | .mxsub s _ rs1 _ | .mxwait s rs1 | .lwait s _ rs1
  | .cycb s rs1 _ _ | .wdog s _ rs1 => some { s := s, a := [rs1] }
  | .beq s rs1 rs2 _ | .bne s rs1 rs2 _ | .blt s rs1 rs2 _ | .bge s rs1 rs2 _ | .bltu s rs1 rs2 _ | .bgeu s rs1 rs2 _ =>
    some { s := s, control := true, hOk := true, xOk := true, a := [rs1, rs2] }
  | .loop s rs1 _ | .jr s _ rs1 _ => some { s := s, control := true, hOk := true, xOk := true, a := [rs1] }
  | .jal s _ _ => some { s := s, control := true, hOk := true, xOk := true }
  | .yield s | .vlq s _ | .shalt s _ | .qpop s _ _ | .unbind s _ | .fence s _ | .lbfence s | .barw s _ _ | .barq s _ _ | .tfree s _
  | .twait s _ | .tset s _ _ _ | .kfence s | .cyce s | .brk s _ | .pwrhint s _ | .kand s _ _ _ _ _ | .kor s _ _ _ _ _
  | .kxor s _ _ _ _ _ | .kandn s _ _ _ _ _ | .vflrd s _ => some { s := s }
  | .retire _ => some { s := true, control := true, parks := true }
  | .ldb s _ rs1 _ | .ldbz s _ rs1 _ | .ldh s _ rs1 _ | .ldhz s _ rs1 _ | .ldw s _ rs1 _ | .ldwz s _ rs1 _ | .ldd s _ rs1 _
  | .rld s _ rs1 _ _ _ => some { s := s, long := true, hOk := true, a := [rs1] }
  | .stb s rs2 rs1 _ | .sth s rs2 rs1 _ | .stw s rs2 rs1 _ | .std s rs2 rs1 _ | .rst s rs1 rs2 _ _ =>
    some { s := s, hOk := true, a := [rs1, rs2] }
  | .sgo s _ _ isW => some { s := s, parks := isW }
  | .sq s _ _ | .tstat s _ _ | .wq s _ _ => some { s := s, long := true }
  | .acq s rd rs1 _ | .evwait s rd rs1 _ => some { s := s, a := [rd, rs1] }
  | .rel s rs1 _ | .bari s rs1 _ | .cpcancel s rs1 | .puts s rs1 _ | .get s rs1 _ | .radd s rs1 _ | .kcmd s _ rs1 _ | .wseal s _ rs1 _
  | .launch s _ rs1 _ | .lcancel s rs1 _ | .cycres s rs1 => some { s := s, parks := true, a := [rs1] }
  | .aadd s _ rs1 rs2 _ _ | .amin s _ rs1 rs2 _ _ | .amax s _ rs1 rs2 _ _ | .aand s _ rs1 rs2 _ _ | .aor s _ rs1 rs2 _ _
  | .axor s _ rs1 rs2 _ _ | .axchg s _ rs1 rs2 _ _ => some { s := s, long := true, parks := true, a := [rs1, rs2] }
  | .acas s rd rs1 rs2 _ _ => some { s := s, long := true, parks := true, a := [rs1, rs2, rd] }
  | .cadd s rs1 rs2 _ | .cres s rs1 rs2 _ => some { s := s, parks := true, a := [rs1, rs2] }
  | .bara s _ _ _ | .baraw s _ _ _ | .cpstage s _ => some { s := s, parks := true }
  | .cpq s _ rs1 | .mxpoll s _ rs1 | .kpoll s _ rs1 => some { s := s, long := true, a := [rs1] }
  | .spawn _ _ _ => some { s := true, a := captureRegs }
  | .spawnc _ rs1 _ _ _ => some { s := true, a := rs1 :: captureRegs }
  | .cbr s rs1 _ _ _ => some { s := s, control := true, parks := true, a := [rs1] }
  | .cvote s _ rs1 _ => some { s := s, xOk := true, parks := true, a := [rs1] }
  | .ssend _ => some { s := true }
  | .xend s _ => some { s := s, xOk := true }
  | .xmit s _ _ rs1 _ _ | .xsel s _ _ rs1 _ _ => some { s := s, xOk := true, a := [rs1] }
  | .cyct s _ _ => some { s := s, control := true, parks := true }
  | .sysrd _ _ _ => some { s := true, hOk := true, xOk := true }
  | .syswr _ rs1 _ => some { s := true, hOk := true, a := [rs1] }
  | .trap s rs1 _ => some { s := s, control := true, a := [rs1] }
  | .eret s _ => some { s := s, control := true, hOk := true }
  | .vmov s _ a _ _ | .vabs s _ a _ _ | .vneg s _ a _ _ | .vaddi s _ a _ _ | .vslli s _ a _ _ | .vsrli s _ a _ _ | .vsrai s _ a _ _
  | .vcvt s _ a _ _ _ | .vtag s _ a _ | .vbcast s _ a _ _ _ | .vslide s _ a _ _ | .vext s _ a _ _ _ | .vrsum s _ a _ | .vrmax s _ a _
  | .vrmin s _ a _ | .vrand s _ a _ | .vror s _ a _ | .vrxor s _ a _ => some (vec s [a])
  | .vadd s _ a b _ _ | .vsub s _ a b _ _ | .vmul s _ a b _ _ | .vmax s _ a b _ _ | .vmin s _ a b _ _ | .vand s _ a b _ _
  | .vor s _ a b _ _ | .vxor s _ a b _ _ | .vandn s _ a b _ _ | .vsll s _ a b _ _ | .vsrl s _ a b _ _ | .vsra s _ a b _ _
  | .vmulh s _ a b _ _ | .vcmpeq s _ a b _ _ | .vcmpne s _ a b _ _ | .vcmplt s _ a b _ _ | .vcmple s _ a b _ _ | .vperm s _ a b _ _ =>
    some (vec s [a, b])
  | .vfma s d a b _ _ | .vfms s d a b _ _ => some (vec s [a, b, d])
  | .vwhile s _ a b _ => some { s := s, v := [a, b] }
  | .vmovi s _ _ _ => some (vec s [])
  | .vrcpe s _ a _ _ | .vrsqe s _ a _ _ | .vsin s _ a _ _ | .vcos s _ a _ _ | .vexp2 s _ a _ _ | .vlog2 s _ a _ _ | .vsqrt s _ a _ _ =>
    some (vec s [a] (long := true))
  | .vrcps s _ a b _ _ | .vrsqs s _ a b _ _ | .vdiv s _ a b _ _ => some (vec s [a, b] (long := true))
  | .vrq s _ a _ m _ _ =>
    some (vec s [a, BitVec.ofNat 6 (32 + m.toNat), BitVec.ofNat 6 (32 + m.toNat + 1), BitVec.ofNat 6 (32 + m.toNat + 2)])
  | .vins s d a _ _ _ => some (vec s (if d = 63 then [a] else [a, d]))
  | .vzip2 s _ a _ _ _ | .vunzip2 s _ a _ _ _ => some (vec s (zipSrcs a 2))
  | .vzip3 s _ a _ _ _ | .vunzip3 s _ a _ _ _ => some (vec s (zipSrcs a 3))
  | .vzip4 s _ a _ _ _ | .vunzip4 s _ a _ _ _ => some (vec s (zipSrcs a 4))
  | .vld s _ b _ _ _ => some { s := s, long := true, a := [b] }
  | .vst s d b _ _ _ => some { s := s, a := [b], v := [d] }
  | .vgather s _ b _ vx _ => some { s := s, long := true, a := [b], v := [spec5 vx] }
  | .vscatter s d b _ vx _ => some { s := s, a := [b], v := [d, spec5 vx] }
  | .vflclr s a => some { s := s, v := [a] }
  | .vmov16 s _ vs | .vneg16 s _ vs | .vabs16 s _ vs => some (vec s [spec5 vs] (len := 2))
  | .vadd16 s d vs | .vsub16 s d vs | .vmul16 s d vs | .vmax16 s d vs | .vmin16 s d vs | .vand16 s d vs | .vor16 s d vs
  | .vxor16 s d vs | .vsll16 s d vs | .vsrl16 s d vs => some (vec s [spec5 d, spec5 vs] (len := 2))
  | .vfmal s d vs => some (vec s [spec5 d, spec5 vs, 40] (len := 2))
  | .vqpop s _ n => some (vec s [BitVec.ofNat 6 (44 + n.toNat)] (long := true) (len := 2))
  | .vqpush s d _ => some (vec s [spec5 d] (len := 2))
  | .waitall => some { s := true, len := 2 }
  | _ => none

/-- All memory, every other context, and everything else outside the context slot `c` is the same in two states. -/
def SameOutside (c : CtxId) (s t : State) : Prop :=
  t = { s with cores := t.cores } ∧ (∀ d, d ≠ c → t.slot d = s.slot d) ∧ (∀ k, k ≠ c.core → t.core k = s.core k) ∧
  t.core c.core = { s.core c.core with slots := (t.core c.core).slots }

/-- A short-class write of an a-register: it holds the value, its mark is cleared, a pending long-class result to it is superseded, and nothing
else of the context changes; a0 discards the write and reads as zero (R40, R49, R157). -/
def WritesA (rd : BitVec 5) (v : DWord) (c c' : Ctxt) : Prop :=
  c'.ra rd = (if rd = 0 then 0 else v) ∧ (rd ≠ 0 → c'.am[rd.toNat] = none) ∧
  (∀ r : BitVec 5, r ≠ rd → c'.ra r = c.ra r ∧ c'.am[r.toNat] = c.am[r.toNat]) ∧
  c' = { c with a := c'.a, am := c'.am, rb := if rd = 0 then c.rb else supersede (.areg rd) c.rb }

/-- The two halfwords that a context's fetch finds at its pc stand at the locations `l` and `l'` of HBM, unmarked, and the bytes there
decode to `i`; an instruction whose bit 0 is 0 has no second halfword (R32, R53, R148). -/
def BytesAt (s : State) (c : CtxId) (i : Instr) : Prop :=
  let pc := (s.slot c).cx.pc
  let at_ := fun (a : DWord) (l : Nat) => (form a).isVirt = true ∧ isHbm l = true ∧ s.poisoned l 2 = false ∧
    stationAccess s c.core.cl.m (s.whoIs c).pid a.toNat 2 .fetch pc = .loc l
  let b := fun l => Memory.get s.mem l
  pc.toNat % 2 = 0 ∧ ∃ l, at_ pc l ∧
    (((b l).toNat % 2 = 0 ∧ decode [b l, b (l + 1)] = .ok (i, [])) ∨
     ((b l).toNat % 2 = 1 ∧ ∃ l', at_ (pc + 2) l' ∧ decode [b l, b (l + 1), b l', b (l' + 1)] = .ok (i, [])))

/-- The core `k` issues next in state `s`, from the context and in the state `t` that its switch point gives it, no boundary check of
R349 stands before the instruction, and Driet does not stop the task at it (R328). In a serialised launch the task has the turn (R372). -/
def IssuesFrom (s : State) (k : CoreId) (t : State) : Prop :=
  let turn := fun (u : State) => if u.ready u.me then u else switchPoint u k
  ∃ u, ((∃ r, s.agenda = .issue k :: r ∧ u = turn { s with agenda := r, cur := k }) ∨
      (s.agenda = [] ∧ dueStep s = none ∧ (∃ r, coresAfter s.cur (s.cores.map (·.1)) = k :: r) ∧ u = turn { s with cur := k })) ∧
    u.ready u.me = true ∧ t = u.takeTurn u.me ∧ boundary t t.me = none ∧ drietStop t t.me = none

/-- A context whose return buffer holds one more result at its end, not yet returned, of the instruction at its pc (R47). -/
def Waiting (c : Ctxt) (d : RbDest) (r : RbResult) (f : FlagBits) (l : Bool) : Ctxt :=
  { c with rb := c.rb ++ [⟨d, r, f, l, false, false, false, c.pc, c.order⟩] }

/-- A C-class instruction reaches its result in state `t` from state `s`, with the operands `os`: its checks pass, its queues hold the entries
it takes and none of them is a fault entry, and there is room where a short-class result is pushed (R43, R64, R164). -/
def VectorTakes (q : VIss) (s t : State) (os : List Opnd) : Prop :=
  Takes q.iss s t ∧ operands t.cx [] q.srcs = some os ∧ firstMark (os.filterMap Opnd.mark?) = none ∧
  (q.isLong = false → q.d = 48 ∨ q.d = 49 → t.cx.pushPending q.d = true ∨ (t.cx.wOf (q.d.toNat - 48)).length < 16)

/-- How the result `bits` with its tag and FLAGS bits reaches the context (R46, R47, R77, R83, R84): a long-class result waits in the return
buffer, and the entries of its queue sources are gone; a short-class result is in its v- or o-register, or at the end of its w queue, or stands
behind a push to that queue that is still pending (R43), vz takes none, the last-result file moves on where the instruction writes it, and nothing
else changes. -/
def VectorResult (q : VIss) (tag : Tag) (bits : VBits) (f : FlagBits) (c c' : Ctxt) : Prop :=
  if q.isLong = true then
    c' = Waiting (popAll c q.srcs) (.vec q.d) (.vector bits tag) f q.l
  else
    c'.flags = c.flags ||| f.setWidth 64 ∧
    c'.l = (if q.l then #v[⟨bits, tag, none⟩, c.l[0], c.l[1], c.l[2]] else c.l) ∧
    (q.d.toNat < 40 → c'.vreg q.d = ⟨bits, tag, none⟩) ∧
    (∀ e : BitVec 6, e ≠ q.d → e.toNat < 40 → c'.vreg e = c.vreg e) ∧
    (∀ n < 2, c'.wOf n = if q.d.toNat = 48 + n ∧ c.pushPending q.d = false then c.wOf n ++ [⟨bits, tag, none⟩] else c.wOf n) ∧
    c'.rb = (if q.d = 48 ∨ q.d = 49 then
        (if c.pushPending q.d then c.rb ++ [⟨.vec q.d, .vector bits tag, 0, false, true, false, true, c.pc, c.order⟩] else c.rb)
      else if q.d = 63 then c.rb else supersede (.vec q.d) c.rb) ∧
    c' = { c with v := c'.v, o := c'.o, l := c'.l, w := c'.w, rb := c'.rb, flags := c'.flags }

/-- The lanes of a result under a predicate (R77, R82, R83): an active lane takes the operation's value and its flags, an inactive lane keeps
the old element or, with .z, is 0. -/
def LaneResult (t : Tag) (k : PBits) (z : Bool) (old : VBits) (op : Nat → Nat × FlagBits) (r : VBits) (f : FlagBits) : Prop :=
  (∀ i < t.lanes, laneOf t.ebits r i =
    if k.getLsbD (i * (t.ebits / 8)) then (op i).1 % 2 ^ t.ebits else if z then 0 else laneOf t.ebits old i) ∧
  (∀ b < 7, f.getLsbD b = true ↔ ∃ i < t.lanes, k.getLsbD (i * (t.ebits / 8)) = true ∧ (op i).2.getLsbD b = true)

/-! ## Numbers, apart from how the machine computes them (R67 to R75) -/

/-- The layouts of the four IEEE formats: exponent bits and fraction bits (R67). -/
def ieeeLayouts : List (Tag × Ieee) := [(.fp64, ⟨11, 52⟩), (.fp32, ⟨8, 23⟩), (.fp16, ⟨5, 10⟩), (.bf16, ⟨8, 7⟩)]
/-- The sign, the biased exponent and the fraction of a pattern (R67). -/
def ieeeSign (f : Ieee) (b : Nat) : Bool := decide (b / 2 ^ (f.eb + f.fb) % 2 = 1)
def ieeeExp (f : Ieee) (b : Nat) : Nat := b / 2 ^ f.fb % 2 ^ f.eb
def ieeeFrac (f : Ieee) (b : Nat) : Nat := b % 2 ^ f.fb
def ieeeFin (f : Ieee) (b : Nat) : Bool := decide (ieeeExp f b ≠ 2 ^ f.eb - 1)
def ieeeNan (f : Ieee) (b : Nat) : Bool := !ieeeFin f b && decide (ieeeFrac f b ≠ 0)
/-- A signalling NaN: the top fraction bit is 0 (R69). -/
def ieeeSig (f : Ieee) (b : Nat) : Bool := ieeeNan f b && decide (ieeeFrac f b < 2 ^ (f.fb - 1))
/-- The patterns of a signed infinity and of the default NaN (R67, R69). -/
def ieeeInfinity (f : Ieee) (neg : Bool) : Nat := (if neg then 2 ^ (f.eb + f.fb) else 0) + (2 ^ f.eb - 1) * 2 ^ f.fb
def ieeeDefault (f : Ieee) : Nat := ieeeInfinity f false + 2 ^ (f.fb - 1)
/-- The bias of a format (R67). -/
def ieeeBias (f : Ieee) : Int := 2 ^ (f.eb - 1) - 1
/-- The value of a finite pattern, subnormals among them (R67, R68). -/
def ieeeVal (f : Ieee) (b : Nat) : ℚ :=
  (if ieeeSign f b then -1 else 1) *
    (if ieeeExp f b = 0 then (ieeeFrac f b : ℚ) * (2 : ℚ) ^ (1 - ieeeBias f - f.fb)
     else ((2 ^ f.fb + ieeeFrac f b : Nat) : ℚ) * (2 : ℚ) ^ ((ieeeExp f b : Int) - ieeeBias f - f.fb))

/-- A pattern and its flags are the exact value `x` rounded once (R74, R76): an infinity with OVERFLOW and INEXACT from half a step above the
largest finite value on; else the nearest finite value, of two nearest the one whose pattern is even, with INEXACT where it differs from `x`, and
UNDERFLOW with it where `x`, rounded with no bound on the exponent, is below the smallest normal value. The sign is that of `x`, a zero of value
0 being negative where `zeroNeg`. -/
def RoundsTo (f : Ieee) (x : ℝ) (zeroNeg : Bool) (r : Nat × FlagBits) : Prop :=
  let top : ℝ := (2 - (2 : ℝ) ^ (-1 - (f.fb : Int))) * (2 : ℝ) ^ ieeeBias f
  let least : ℝ := (2 : ℝ) ^ (1 - ieeeBias f) - (2 : ℝ) ^ (-1 - ieeeBias f - f.fb)
  let v : ℝ := (ieeeVal f r.1 : ℝ)
  (top ≤ x → r = (ieeeInfinity f false, 20)) ∧ (x ≤ -top → r = (ieeeInfinity f true, 20)) ∧
  (|x| < top → r.1 < 2 ^ (f.eb + f.fb + 1) ∧ ieeeFin f r.1 = true ∧ (ieeeSign f r.1 = true ↔ x < 0 ∨ (x = 0 ∧ zeroNeg = true)) ∧
    (∀ b < 2 ^ (f.eb + f.fb + 1), ieeeFin f b = true →
      |x - v| ≤ |x - (ieeeVal f b : ℝ)| ∧ (|x - v| = |x - (ieeeVal f b : ℝ)| → (ieeeVal f b : ℝ) ≠ v → r.1 % 2 = 0)) ∧
    (x = v → r.2 = 0) ∧ (x ≠ v → |x| < least → r.2 = 24) ∧ (x ≠ v → least ≤ |x| → r.2 = 16))

/-- What a pattern that is no NaN stands for: a signed zero or other finite value, or a signed infinity. -/
inductive Exact where
  | fin (neg : Bool) (x : ℚ)
  | inf (neg : Bool)
  deriving DecidableEq, Repr
def exactOf (f : Ieee) (b : Nat) : Exact := if ieeeFin f b then .fin (ieeeSign f b) (ieeeVal f b) else .inf (ieeeSign f b)
def Exact.opp : Exact → Exact | .fin n x => .fin (!n) (-x) | .inf n => .inf (!n)
/-- An exact product; none is an infinity times a zero (R87). -/
def Exact.times : Exact → Exact → Option Exact
  | .fin a x, .fin b y => some (.fin (a != b) (x * y))
  | .inf a, .inf b => some (.inf (a != b))
  | .inf a, .fin b y => if y = 0 then none else some (.inf (a != b))
  | .fin a x, .inf b => if x = 0 then none else some (.inf (a != b))
/-- A sum of two exact values, or of products, with one rounding: a sum of infinities of unlike signs, and an infinity times a zero, is the default
NaN with INVALID; an exact zero sum is −0 only where both are negative (R69, R87). -/
def SumRounds (f : Ieee) (p q : Option Exact) (r : Nat × FlagBits) : Prop :=
  match p, q with
  | some (.fin a x), some (.fin b y) => RoundsTo f ((x + y : ℚ) : ℝ) (a && b) r
  | some (.inf a), some (.inf b) => r = if a = b then (ieeeInfinity f a, 0) else (ieeeDefault f, 1)
  | some (.inf a), some (.fin _ _) | some (.fin _ _), some (.inf a) => r = (ieeeInfinity f a, 0)
  | _, _ => r = (ieeeDefault f, 1)
/-- A product with one rounding. -/
def ProductRounds (f : Ieee) (p : Option Exact) (r : Nat × FlagBits) : Prop :=
  match p with
  | some (.fin a x) => RoundsTo f (x : ℝ) a r
  | some (.inf a) => r = (ieeeInfinity f a, 0)
  | none => r = (ieeeDefault f, 1)
/-- The rule of NaN operands (R69): the first of them, its quiet bit set, with INVALID where one is signalling or the operation is `bad` all the
same; the operation's own rule where there is none. -/
def WithNans (f : Ieee) (ops : List Nat) (bad : Bool) (r : Nat × FlagBits) (rule : Prop) : Prop :=
  match ops.find? (ieeeNan f) with
  | some x => r = (x ||| 2 ^ (f.fb - 1), if bad || ops.any (ieeeSig f) then 1 else 0)
  | none => rule
/-- d ± a·b with one rounding, its NaN operands in the order of `ops`; an infinity times a zero raises INVALID whatever d is (R69, R87). -/
def FusedRounds (f : Ieee) (sub : Bool) (ops : List Nat) (a b d : Nat) (r : Nat × FlagBits) : Prop :=
  let p := (exactOf f a).times (exactOf f b)
  WithNans f ops (!ieeeNan f a && !ieeeNan f b && p.isNone) r (SumRounds f (some (exactOf f d)) (if sub then p.map Exact.opp else p) r)
/-- The order of VMAX and VMIN: by value, −0 below +0 (R87). -/
def ieeeRank (f : Ieee) (b : Nat) : Int :=
  let m : Int := (b % 2 ^ (f.eb + f.fb) : Nat)
  if ieeeSign f b then -m - 1 else m
/-- The value of a tapered pattern of `n` bits with `es` exponent bits that is no NaN (R70). -/
def tapValue (n es x : Nat) : ℚ :=
  let m := (List.range (n - 1)).map (fun i => x / 2 ^ (n - 2 - i) % 2)
  let b := m.headD 0
  let run := m.takeWhile (· = b)
  let rest := m.drop (run.length + 1)
  let k : Int := if b = 1 then run.length - 1 else -run.length
  let e : Nat := ((rest ++ List.replicate es 0).take es).foldl (fun a d => 2 * a + d) 0
  let f : ℚ := (rest.drop es).foldr (fun d a => (a + d) / 2) 0
  if m.all (· = 0) then 0 else (if x / 2 ^ (n - 1) % 2 = 1 then -1 else 1) * (2 : ℚ) ^ (k * 2 ^ es + e) * (1 + f)

/-! ## A job's elements and sums (R72, R122, R126 to R129) -/

/-- The IEEE layout of a tag of the matrix engine; FP32 where it has none. -/
def layoutOf (t : Tag) : Ieee := (ieeeLayouts.lookup t).getD ⟨8, 23⟩
/-- A NaN element, and a signalling one, under a tag (R69 to R71). -/
def elemNan (t : Tag) (b : Nat) : Bool :=
  match t with | .tap8 => decide (b = 0x80) | .tap6 => decide (b = 0x20) | t => ieeeNan (layoutOf t) b
def elemSig (t : Tag) (b : Nat) : Bool := !t.isTap && ieeeSig (layoutOf t) b
/-- What an element that is no NaN stands for under an IEEE or a tapered tag. -/
def elemExact (t : Tag) (b : Nat) : Exact :=
  match t with
  | .tap8 => .fin (decide (b / 128 % 2 = 1)) (tapValue 8 1 b)
  | .tap6 => .fin (decide (b / 32 % 2 = 1)) (tapValue 6 0 b)
  | t => exactOf (layoutOf t) b
/-- The value of an integer element (R72, R73). -/
def elemInt (t : Tag) (b : Nat) : Int :=
  let w := match t with | .int4 => 4 | .int8 | .uint8 => 8 | _ => 32
  let v : Nat := b % 2 ^ w
  if t = .uint8 ∨ v < 2 ^ (w - 1) then (v : Int) else (v : Int) - 2 ^ w
/-- A NaN element converted to FP32: quiet, its sign kept, its payload at the top; a tapered one gives the default NaN (R69, R129). -/
def nanToFp32 (t : Tag) (b : Nat) : Nat :=
  if t.isTap then 0x7FC00000
  else (if ieeeSign (layoutOf t) b then 2 ^ 31 else 0) + 0x7F800000 + (ieeeFrac (layoutOf t) b ||| 2 ^ ((layoutOf t).fb - 1)) * 2 ^ (23 - (layoutOf t).fb)
/-- An exact term's value, 0 for an infinity, and its sign. -/
def Exact.val : Exact → ℚ | .fin _ x => x | .inf _ => 0
def Exact.neg : Exact → Bool | .fin n _ => n | .inf n => n
/-- GroupSum of R129 on the pairs of elements of a group, none where the product is not formed: a NaN element, else an invalid sum, else an
infinity, else the exact sum rounded once. -/
def GroupRounds (t : Tag) (l : List (Option (Nat × Nat))) (r : Nat × FlagBits) : Prop :=
  let els := (l.filterMap id).flatMap (fun p => [p.1, p.2])
  match els.find? (elemNan t) with
  | some x => r = (nanToFp32 t x, if els.any (elemSig t) then 1 else 0)
  | none =>
    let ps := l.map (fun p => match p with | none => some (.fin false 0) | some (a, b) => (elemExact t a).times (elemExact t b))
    let xs := ps.filterMap id
    if none ∈ ps ∨ (.inf true ∈ xs ∧ .inf false ∈ xs) then r = (0x7FC00000, 1)
    else if .inf true ∈ xs then r = (0xFF800000, 0)
    else if .inf false ∈ xs then r = (0x7F800000, 0)
    else RoundsTo ⟨8, 23⟩ ((xs.map Exact.val).sum : ℚ) (xs.all Exact.neg) r
/-- An element of C and its exception bits from its old value and its 32 terms (R128): for FP64 a chain of fused additions; else four groups of
eight, an integer sum saturating, another rounded after each group. -/
def ElementSums (t : Tag) (old : Nat) (term : Nat → Option (Nat × Nat)) (c : Nat × FlagBits) : Prop :=
  let group := fun g => (List.range 8).map (fun k => term (8 * g + k))
  ∃ a : Nat → Nat × FlagBits, a 0 = (old, 0) ∧
    if t = .fp64 then
      c = a 32 ∧ ∀ k < 32, ∃ r : Nat × FlagBits, a (k + 1) = (r.1, (a k).2 ||| r.2) ∧
        match term k with
        | some (x, y) => FusedRounds ⟨11, 52⟩ false [x, y, (a k).1] x y (a k).1 r
        | none => WithNans ⟨11, 52⟩ [(a k).1] false r (SumRounds ⟨11, 52⟩ (some (exactOf ⟨11, 52⟩ (a k).1)) (some (.fin false 0)) r)
    else if t.isInt = true then
      c = a 4 ∧ ∀ g < 4,
        let v := elemInt .int32 (a g).1 + ((group g).map (fun p => match p with | some (x, y) => elemInt t x * elemInt t y | none => 0)).sum
        a (g + 1) = if 2 ^ 31 ≤ v then (0x7FFFFFFF, (a g).2 ||| 32) else if v < -2 ^ 31 then (0x80000000, (a g).2 ||| 32)
          else ((v % 2 ^ 32).toNat, (a g).2)
    else
      c = a 4 ∧ ∀ g < 4, ∃ s r : Nat × FlagBits, GroupRounds t (group g) s ∧ a (g + 1) = (r.1, (a g).2 ||| s.2 ||| r.2) ∧
        WithNans ⟨8, 23⟩ [(a g).1, s.1] false r (SumRounds ⟨8, 23⟩ (some (exactOf ⟨8, 23⟩ (a g).1)) (some (exactOf ⟨8, 23⟩ s.1)) r)
/-- Element `e` of a run of elements packed from a location (R72, R122). -/
def elemIn (m : List Host.Cell) (l : Nat) (t : Tag) (e : Nat) : Nat :=
  match t with
  | .tap6 => Memory.getN m (l + 3 * (e / 4)) 3 / 2 ^ (6 * (e % 4)) % 64
  | .int4 => Memory.getN m (l + e / 2) 1 / 2 ^ (4 * (e % 2)) % 16
  | .fp64 => Memory.getN m (l + 8 * e) 8
  | .fp32 | .int32 => Memory.getN m (l + 4 * e) 4
  | .fp16 | .bf16 => Memory.getN m (l + 2 * e) 2
  | _ => Memory.getN m (l + e) 1
/-- The number of 1 bits before bit `e` of a bitmap at a location. -/
def bitsBefore (m : List Host.Cell) (l e : Nat) : Nat :=
  ((List.range e).filter (fun i => Memory.getN m (l + i / 8) 1 / 2 ^ (i % 8) % 2 = 1)).length
/-- Element `e` of B in a record whose header stands at a location, none where its bitmap leaves it out (R126). -/
def recordElem (m : List Host.Cell) (l : Nat) (bitmap : Bool) (t : Tag) (e : Nat) : Option Nat :=
  if bitmap = false then some (elemIn m (l + 8) t e)
  else if Memory.getN m (l + 8 + e / 8) 1 / 2 ^ (e % 8) % 2 = 1 then some (elemIn m (l + 136) t (bitsBefore m (l + 8) e)) else none
/-- An element of A that is absent under SPA: +0 or −0 (R127). -/
def elemZero (t : Tag) (b : Nat) : Bool :=
  if t.isInt then elemInt t b = 0 else !elemNan t b && (match elemExact t b with | .fin _ x => x = 0 | .inf _ => false)

/-! ## The Kettle operations (R222) -/

/-- The constant of FADE: Round(1 − s1·s2), and 0 for another operation, which has none. -/
def FadeConstant (op s1 s2 : Nat) (c : Nat × FlagBits) : Prop :=
  let f : Ieee := ⟨8, 23⟩
  if op = 3 then WithNans f [s1, s2] false c
    (SumRounds f (some (.fin false 1)) (((exactOf f s1).times (exactOf f s2)).map Exact.opp) c)
  else c = (0, 0)
/-- The value of an element of `n` bytes and its exception bits from the scalars, FADE's constant, the source and the old value: AXPY, FADE, COPY,
FILL and SCALE. -/
def KettleElement (op n s1 s2 c src old : Nat) (r : Nat × FlagBits) : Prop :=
  let f : Ieee := ⟨8, 23⟩
  let x := exactOf f
  match op with
  | 2 => WithNans f [s1, src, old] false r (SumRounds f ((x s1).times (x src)) (some (x old)) r)
  | 3 => WithNans f [old, c, s1, src] false r (SumRounds f ((x old).times (x c)) (((x s1).times (x src)).map Exact.opp) r)
  | 4 => r = (src, 0)
  | 5 => r = (if n = 8 then s1 * 2 ^ 32 + s2 else s1 % 2 ^ (8 * n), 0)
  | _ => WithNans f [s1, old] false r (ProductRounds f ((x s1).times (x old)) r)

end Sys2Proof
end

