-- ==== Sys2Proof/Certificates/Slice0/Obligations.lean ====
section
/-! DEFINITION. The statements for the provers, family by family. Each docstring names the rules of the manual it states; where a clause
rests on the model's own choice, the docstring names the entry of the assumption log. -/

open Sys2Proof Sys2Proof.Machine

/-! ## Decoding, fetching and stepping -/

/-- Words written out field by field from the encoding tables of R33 to R38 and R55 to R60 decode to the instructions they stand for. -/
def Obligations.WordsDecodeAsTheTablesSay : Prop :=
  -- 16-bit form: S, op4 [5:2], vd [10:6], vs [15:11] (R33, R34); WAITALL (R35)
  decodeTableWord 16 (2 * 2 ^ 11 + 1 * 2 ^ 6 + 1 * 2 ^ 2 + 1 * 2) = some (.vadd16 true 1 2) ∧
  decodeTableWord 16 0x0002 = some .waitall ∧
  decodeTableWord 16 (3 * 2 ^ 11 + 9 * 2 ^ 6 + 14 * 2 ^ 2) = some (.vqpop false 9 3) ∧
  -- AR: major 0x01, funct7 [31:25], rs2 [24:20], rs1 [19:15], rd [14:10] (R36, R56): ADD a24, a24, a7
  decodeTableWord 32 (7 * 2 ^ 20 + 24 * 2 ^ 15 + 24 * 2 ^ 10 + 0x01 * 2 ^ 3 + 1) = some (.add false 24 24 7) ∧
  -- AI: ADDI a2, a1, 2047; AU: MKHI a5, 0x10000; AB: BLT a24, a25, -11 halfwords
  decodeTableWord 32 (0x7FF * 2 ^ 20 + 1 * 2 ^ 15 + 2 * 2 ^ 10 + 0x02 * 2 ^ 3 + 1) = some (.addi false 2 1 0x7FF) ∧
  decodeTableWord 32 (0x10000 * 2 ^ 15 + 5 * 2 ^ 10 + 0x0C * 2 ^ 3 + 1) = some (.mkhi false 5 0x10000) ∧
  decodeTableWord 32 (0xFF5 * 2 ^ 20 + 25 * 2 ^ 15 + 24 * 2 ^ 10 + 0x12 * 2 ^ 3 + 1) = some (.blt false 24 25 0xFF5) ∧
  -- C-class: T = 1, VMUL.s vz, o2, v1: d [15:10], a [21:16], b [27:22], k [30:28], z [31]
  decodeTableWord 32 (1 * 2 ^ 22 + 34 * 2 ^ 16 + 63 * 2 ^ 10 + 0x04 * 2 ^ 3 + 2 ^ 2 + 2 + 1) = some (.vmul true 63 34 1 0 false) ∧
  -- the words the manual prints
  decodeTableWord 32 0x00009521 = some (.ldw false 5 1 0) ∧ decodeTableWord 32 0x14301651 = some (.bara false 5 3 true) ∧
  decodeTableWord 32 0x00128329 = some (.lcancel false 5 true) ∧ decodeTableWord 32 0x00002781 = some (.sysrd false 9 0) ∧
  decodeTableWord 32 0x00E28389 = some (.syswr false 5 0x0E) ∧ decodeTableWord 32 0x14C08AC9 = some (.spawnc false 2 true 0xC0 0x14) ∧
  -- encodings that no table assigns are refused (R53, R54)
  decodeTableWord 32 0x00027781 = none ∧ decode [0, 0] = .error .zeroHalfword ∧ decode [0x38, 0x20] = .error .queueNumber ∧
  decode [0x3C, 0x10] = .error .queueNumber

/-- Every well-formed instruction of the opcode table that has an encoding is read back by the decoder from its bytes, whatever bytes follow it,
with every operand at every value the encoding admits (R32 to R38, R53). -/
def Obligations.EncodingRoundTrips : Prop :=
  ∀ (i : Instr) (n w : Nat) (rest : List Byte), i.wf = true → encode i = some (n, w) →
    (n = 16 ∨ n = 32) ∧ w < 2 ^ n ∧ (w % 2 = 0 ↔ n = 16) ∧ decode (leBytes (n / 8) w ++ rest) = .ok (i, rest)

/-- A step in which a core issues, with no error armed (R237) and nothing watched (R232), runs the instruction whose bytes stand at the issuing context's pc, in the state in
which that context issues; the pc has not moved, and what the instruction adds is its own meaning. Where one front end has pushed or popped a queue
ahead of the other (R42, R391), `runIn` shows the instruction the queues of its own place in program order, and is `exec` alone where nothing has
been done ahead. A context that has come to wait for a queue keeps the issue where its other front end supplies what it waits for (R244): `stay`
changes nothing else of what the instruction answers. Where the manual leaves it open, what is said rests on entries 1, 5 and 41 of the assumption
log. -/
def Obligations.StepRunsTheDecodedInstruction : Prop :=
  (∀ (s t : State) (k : CoreId) (i : Instr), IssuesFrom s k t → BytesAt t t.me i → s.armed = [] → s.watches = [] →
    step s = stay t t.me (runIn i t) ∧
    (t.cx.ahead = [] → (∀ u, exec i t = .next u → (u.slot t.me).queueWait = false) → step s = exec i t)) ∧
  (∀ (s t : State) (c : CtxId), (t.slot c).queueWait = true →
    ∃ w, (t.slot c).wait = some w ∧
      (waitMet (runAhead t c) c w = false → stay s c (.next t) = .next t) ∧
      (waitMet (runAhead t c) c w = true → ∃ u, stay s c (.next t) = .next u ∧ (u.slot c).wait = none ∧
        (u.slot c).cx = ((runAhead t c).slot c).cx ∧ (u.core c.core).issuing = (s.core c.core).issuing ∧ u.mem = t.mem ∧ u.gangs = t.gangs ∧
        ∀ d, d ≠ c → u.slot d = t.slot d))

/-- With no error armed (R237) and nothing watched (R232), a step in which a core issues at bytes that are no instruction takes the encoding trap of R54, precise at the pc, and an odd pc or an address
that is no virtual address takes the fetch traps of R148. The agenda's head is what happens next: a step of an agent or of the outside world, or the
passing of cycles, which adds to the watchdog counts of live contexts and to nothing else a program reads (R245, R348). `settled`, which says what
a step leaves of what one front end had done on a queue ahead of the other, changes nothing where nothing had been done, and running ahead itself
changes only the queues of a context that waits for a queue. During a run, an error armed on a unit of HBM takes effect in the first step that reads
the unit, whose outcome the mark changes: the step goes as with the mark, and the error is counted; where several units with errors are read in one
step, each takes effect in it, and one in the instruction's own bytes alone, since nothing else is then read (R148, R237, R346). A FENCE, an acquire, a release, a wait or a load adds to what a watch holds and to nothing else: a step
that is watched leaves what it leaves unwatched but for the watches and for one load's result under `inject stale` (R232). Where the manual leaves it open, what is said rests on entries 1, 16, 41 and 58 of the
assumption log. -/
def Obligations.StepsThatRunNoInstruction : Prop :=
  (∀ (s t : State) (k : CoreId), IssuesFrom s k t → s.armed = [] → s.watches = [] →
    let pc := t.cx.pc
    (∀ (l : Nat) (e : DecodeError) (b : Nat → Byte), pc.toNat % 2 = 0 → (form pc).isVirt = true → (form (pc + 2)).isVirt = true →
      stationAccess t k.cl.m (t.whoIs t.me).pid pc.toNat 2 .fetch pc = .loc l →
      stationAccess t k.cl.m (t.whoIs t.me).pid (pc + 2).toNat 2 .fetch pc = .loc (l + 2) →
      isHbm l = true → isHbm (l + 2) = true → t.poisoned l 2 = false → t.poisoned (l + 2) 2 = false →
      b = Memory.get t.mem → decode [b l, b (l + 1), b (l + 2), b (l + 3)] = .error e →
      ∀ p ∈ [(DecodeError.zeroHalfword, (0x000 : BitVec 9)), (.reservedMajor, 0x001), (.reservedMinor, 0x002),
             (.reservedSpecifier, 0x003), (.specifierDirection, 0x004), (.reservedField, 0x005), (.queueNumber, 0x006)],
        e = p.1 → step s = settled t (.next (t.raise (trapInfo p.2)))) ∧
    (pc.toNat % 2 = 1 → step s = settled t (.next (t.raise (trapInfo 0x010 pc)))) ∧
    (pc.toNat % 2 = 0 → (form pc).isVirt = false → step s = settled t (.next (t.raise (trapInfo 0x041 pc 3))))) ∧
  (∀ (s : State) (r : List Turn), s.armed = [] → s.watches = [] →
    (∀ i, s.agenda = .event i :: r → encode i = none →
      step s = settled { s with agenda := r } (exec i { s with agenda := r })) ∧
    (∀ n, s.agenda = .elapse n :: r → ∃ t, step s = .next t ∧ t.now = s.now + n ∧ t.agenda = r ∧ t.mem = s.mem ∧ t.gangs = s.gangs ∧
      ∀ c, s.cores.any (fun p => p.1 = c.core) = true →
        t.slot c = (if (s.slot c).phase = .live then { s.slot c with wcount := (s.slot c).wcount + n } else s.slot c))) ∧
  (∀ (s : State) (o : Host.Outcome State Fault Refusal), (∀ c, (s.slot c).cx.ahead = []) → settled s o = o) ∧
  (∀ (s t t' : State) (u : Nat), s.armed = [u] → stepOnce s = .next t → stepOnce (markUnit s u) = .next t' → isHbm u = true →
    (s.inRun = false ∨ t.unmarked u = t'.unmarked u → step s = .next t) ∧
    (s.inRun = true → t.unmarked u ≠ t'.unmarked u →
      step s = .next { t'.countError (locModule u) 0x129 with armed := t'.armed.filter (· ≠ u) })) ∧
  (∀ (s t a b x : State) (u v : Nat), s.armed = [u, v] → u ≠ v → isHbm u = true → isHbm v = true → s.inRun = true → stepOnce s = .next t →
    (∀ w ∈ [u, v], (pick (markUnit s w)).1.ins = (pick s).1.ins) → stepOnce (markUnit s u) = .next a → t.unmarked u ≠ a.unmarked u → stepOnce (markUnit s v) = .next b → t.unmarked v ≠ b.unmarked v →
    stepOnce (markUnit (markUnit s u) v) = .next x → x.armed = s.armed → ∃ y : State, step s = .next y ∧ y.armed = [] ∧ y.mem = x.mem ∧ y.poison = x.poison ∧
      y.cores = x.cores) ∧
  (∀ (s t a : State) (u v : Nat), s.armed = [u, v] → u ≠ v → isHbm u = true → s.inRun = true → stepOnce s = .next t → (pick s).1.ins.isSome = true →
    (pick (markUnit s u)).1.ins = none → (pick (markUnit s v)).1.ins = (pick s).1.ins → stepOnce (markUnit s u) = .next a →
    t.unmarked u ≠ a.unmarked u → step s = .next { a.countError (locModule u) 0x129 with armed := a.armed.filter (· ≠ u) }) ∧
  (∀ (s t : State) (a : Act), t.watches = s.watches →
    (watched a s t).mem = t.mem ∧ (watched a s t).gangs = t.gangs ∧ (watched a s t).watches.length = s.watches.length ∧
    (s.watches = [] → watched a s t = t) ∧
    ∀ c, ∃ l, ((watched a s t).slot c) = { t.slot c with cx := { (t.slot c).cx with rb := l } }) ∧
  (∀ (s : State) (c : CtxId),
    let t := runAhead s c
    ((s.slot c).queueWait = false → t = s) ∧ t.mem = s.mem ∧ t.gangs = s.gangs ∧ t.launches = s.launches ∧ t.clusters = s.clusters ∧
    t.kettles = s.kettles ∧ t.msgs = s.msgs ∧ (∀ d, d ≠ c → t.slot d = s.slot d) ∧
    ∃ q w l, t.slot c = { s.slot c with cx := { (s.slot c).cx with q := q, w := w, ahead := l } })

/-- The machine after reset: what the rules give. Watchdog limits are 2^26 cycles (R362); no handler is installed and no quantum is set (R348,
R362); QUANTUM, CAUSE, EPC, EINFO, EADDR, SLOTGEN and FLAGS are 0; memory lists nothing and keeps its canonical form; no module has left
STARTUP (R367); Driet has loaded nothing, set no breakpoint, armed no error and watches nothing (R232, R237, R389). The reset values that only the log gives are entries 2 to 4. -/
def Obligations.ResetState : Prop :=
  let s := State.reset
  Memory.wf s.mem = true ∧ (∀ a, Memory.get s.mem a = 0) ∧
  (∀ k, (s.core k).tvec = 0 ∧ (s.core k).hwdog = 2 ^ 26 ∧ (s.core k).wdefault = 2 ^ 26 ∧ (s.core k).qdefault = 0 ∧
    (s.core k).halted = false) ∧
  (∀ c, (s.slot c).phase = .idle ∧ (s.slot c).slotgen = 0 ∧ (s.slot c).cause = 0 ∧ (s.slot c).epc = 0 ∧ (s.slot c).einfo = 0 ∧
    (s.slot c).eaddr = 0 ∧ (s.slot c).quantum = 0 ∧ (s.slot c).cx.flags = 0 ∧ (s.slot c).cx.rk 0 = BitVec.allOnes 32 ∧
    ∀ r, (s.slot c).cx.ra r = 0) ∧
  (∀ m, (s.module m).mode = .startup) ∧ s.armed = [] ∧ s.breaks = [] ∧ s.watches = [] ∧ s.loaded = []

/-! ## Retirement and traps -/

/-- What follows an instruction's own effect (R51, R246, R280): the pc passes the instruction, or, in a delay slot, takes the transfer of the
branch before it, or goes on to the instruction after the slot; the context's instruction count advances; a QUANTUM that is not 0 counts one
down and marks its end at 0; an instruction that was issued again after a RETRY, and has now been carried out, ends that wait with the watchdog count
0 (R245); after a collective branch's delay slot the run-ahead starts on the predicted side and the context as it stands,
at the fall-through, is kept. Nothing else of the context changes, and outside a collective's delay slot nothing outside the slot changes.
After the delay slot of a collective branch the issuing context, a task of a gang, runs ahead (R280): it goes on at the predicted side, and its
checkpoint holds the context at the fall-through, the branch's address and the collective; in a serialised launch it waits for the collective instead
(R372). A gang whose every live entry task has by then executed the CYCT offers its pending residual, which is reset (R301, R322); nothing else of
the gang changes, and no other gang and no other slot. -/
def Obligations.InstructionsRetire : Prop :=
  (∀ (s : State) (len : Nat),
    let t := s.finish len
    let c := s.cx
    let next := c.pc + BitVec.ofNat 64 len
    (∀ d, c.delay = some d → d.coll = none) →
      SameOutside s.me s t ∧
      t.cx = { c with pc := (match c.delay with | none => next | some d => d.target.getD next), delay := none, order := c.order + 1 } ∧
      t.self = { s.self with cx := t.cx, quantum := t.self.quantum, qend := t.self.qend, reissued := false,
                             wcount := if s.self.reissued then 0 else s.self.wcount } ∧
      (s.self.quantum = 0 → t.self.quantum = 0 ∧ t.self.qend = s.self.qend) ∧
      (s.self.quantum ≠ 0 → t.self.quantum = s.self.quantum - 1 ∧ (t.self.qend = true ↔ s.self.quantum = 1))) ∧
  (∀ (s : State) (len : Nat) (d : Delay) (r : CollRef) (g : Nat), s.cx.delay = some d → d.coll = some r → s.self.gang = some g →
    let t := s.finish len
    let next := s.cx.pc + BitVec.ofNat 64 len
    let old := s.gang g
    let l := s.launch old.launch
    let all := liveEntries t g ≠ [] ∧
      ∀ c ∈ liveEntries t g, ∃ q : CollRef, (t.slot c).atColl = some q ∧ q.op = 3 ∧ q.k = l.closed
    t.cx = { s.cx with pc := (if r.pred then r.taken else next), delay := none, order := s.cx.order + 1 } ∧
    (∃ k, t.self.ck = some k ∧ k.cx = { t.cx with pc := next } ∧ k.branch = d.branch ∧ k.coll = { r with fall := next } ∧ k.einfo = s.self.einfo) ∧
    t.self.speculative = true ∧ t.self.wait = (if l.serial then some (.collective r.k) else s.self.wait) ∧
    (old.offer = none → all → t.gang g = { old with offer := some ⟨old.cyc.pend, old.cyc.tol, old.cyc.max, old.cyc.rel, old.cyc.set⟩,
                                                    cyc := { old.cyc with pend := 0 } }) ∧
    (¬ (old.offer = none ∧ all) → t.gang g = old) ∧
    (∀ h, h ≠ g → t.gang h = s.gang h) ∧ (∀ c, c ≠ s.me → t.slot c = s.slot c) ∧
    t = { s with cores := t.cores, gangs := t.gangs })

/-- TakeTrap (R52, R347, R348): CAUSE, EPC, EADDR and EINFO of the slot are written; in a delay slot EPC names the branch and DS is set; DEF, SW,
HELD, WALK, ACC and OPC are the trap's own and the sticky RSVW stays; the slot is TRAPPED and joins its core's trap queue at the end, or is
FORWARDED where no handler is installed or the handler has halted. No register of the context and no memory changes. Where a trap of an issuing
instruction goes: a slot that is not speculative takes it (R348); a speculative slot holds it and parks (R272), in the place of one that R349 takes
after it, which stays due if it is CONTEXT_LOST or QUANTUM_END; a held trap is taken with HELD 1; in the handler context it is a
double trap (R351), which halts the handler, forwards every trapped slot of the core, empties the trap queue and leaves the cause and the pc with
the handler context. Where the manual leaves it open, what is said rests on entry 10 of the assumption log. -/
def Obligations.TrapsAreTaken : Prop :=
  (∀ (s : State) (c : CtxId) (t : TrapInfo) (held : Bool), c.who ≠ 4 →
    let u := takeTrap s c t held
    let old := s.slot c
    let new := u.slot c
    let ds := old.cx.delay.isSome
    let fwd := (s.core c.core).tvec = 0 ∨ (s.core c.core).halted = true
    new.cause = t.code.setWidth 64 ∧ new.eaddr = t.eaddr ∧
    new.epc = (match old.cx.delay with | some d => d.branch | none => old.cx.pc) ∧
    (∀ b : Nat, new.einfo.getLsbD b =
      if b < 2 then false else if b < 4 then t.acc.getLsbD (b - 2) else if b < 7 then t.walk.getLsbD (b - 4) else if b = 7 then held
      else if b = 8 then old.einfo.getLsbD 8 else if b = 9 then t.sw else if b = 10 then ds else if b = 11 then t.dfr
      else t.opc.getLsbD (b - 12) && decide (b < 64)) ∧
    new.cx = old.cx ∧ new.wait = none ∧ new.wcount = old.wcount ∧
    (fwd → new.phase = .forwarded ∧ (u.core c.core).trapq = (s.core c.core).trapq) ∧
    (¬ fwd → new.phase = .trapped ∧ (u.core c.core).trapq = (s.core c.core).trapq ++ [c.who]) ∧
    u = { s with cores := u.cores } ∧ (∀ d, d ≠ c → u.slot d = s.slot d)) ∧
  (∀ (s : State) (t : TrapInfo),
    (s.me.who ≠ 4 → s.self.speculative = false → s.raise t = switchPoint (takeTrap s s.me t false) s.cur) ∧
    (s.me.who ≠ 4 → s.self.speculative = true →
      let due := fun (code : BitVec 9) => (∃ h, s.self.held = some h ∧ h.code = code) ∧ t.code ≠ code
      ∃ x : Slot, s.raise t = switchPoint (s.setSelf x) s.cur ∧
        x = { s.self with held := some t, wait := some .certain, reissued := false, lost := x.lost, qend := x.qend } ∧
        (x.lost = true ↔ s.self.lost = true ∨ due 0x109) ∧ (x.qend = true ↔ s.self.qend = true ∨ due 0x141)) ∧
    (s.me.who = 4 →
      let u := s.raiseAt s.me t
      (u.core s.cur).halted = true ∧ (u.core s.cur).trapq = [] ∧ (u.slot s.me).cause = t.code.setWidth 64 ∧
      (u.slot s.me).epc = s.cx.pc ∧ (u.slot s.me).phase = .idle ∧ u.mem = s.mem ∧
      (∀ n : Fin 4, (s.slot ⟨s.cur, n.castSucc⟩).phase = .trapped → (u.slot ⟨s.cur, n.castSucc⟩).phase = .forwarded) ∧
      (∀ n : Fin 4, (s.slot ⟨s.cur, n.castSucc⟩).phase ≠ .trapped → u.slot ⟨s.cur, n.castSucc⟩ = s.slot ⟨s.cur, n.castSucc⟩) ∧
      ∀ k, k ≠ s.cur → u.core k = s.core k))

/-- What stands before the own effect of every instruction that has an encoding, whatever its operands; `Instr.iss` gives, from the manual's lists,
what each is and which registers its source fields name. An instruction of the control set in a delay slot takes CONTROL_IN_DELAY_SLOT, whatever
its marker bit (R52). In the handler context an instruction outside the list of R351 is a double trap. A switch marker, and the ninth long-class
result, wait until every long-class result has returned (R47, R48); after the commit, in state `t`, an instruction outside the list of R253 takes
EXCHANGE_ILLEGAL in the exchange phase, a speculative context parks at the instructions that R228 and R271 name without a condition, and a read of a
register whose load failed takes that load's trap, deferred, the earliest in program order where there are two (R157). An instruction has such an
entry exactly where it has an encoding, and the control set is the fourteen instructions of R52. Where the manual leaves it open, what is said rests
on entry 23 of the assumption log. -/
def Obligations.ChecksBeforeAnInstruction : Prop :=
  (∀ i : Instr, i.iss.isSome = (encode i).isSome ∧ (∀ q, i.iss = some q → q.control = isControl i)) ∧
  (∀ (i : Instr) (q : Iss) (s : State), i.iss = some q →
    let late := q.control = true ∧ s.cx.delay.isSome = true
    let wrong := s.me.who = 4 ∧ q.hOk = false
    let marks := q.s = true ∨ (q.long = true ∧ 8 ≤ s.cx.outstanding)
    (late → exec i s = .next (s.raise (trapInfo 0x007))) ∧
    (¬ late → wrong → exec i s = .next (doubleTrap s s.cur (trapInfo 0x01A))) ∧
    (¬ late → ¬ wrong → marks → (∃ e ∈ s.cx.rb, e.returned = false) → exec i s = .next (s.park .marker)) ∧
    (¬ late → ¬ wrong → marks → (∀ e ∈ s.cx.rb, e.returned = true) →
      (∀ c x, commitList s.cx.rb s.cx = .trap c x → exec i s = .next ((s.setCx c).raise x)) ∧
      (∀ c w, commitList s.cx.rb s.cx = .wait c w → exec i s = .next ((s.setCx c).park w))) ∧
    (∀ t, ¬ late → ¬ wrong →
      (if marks then (∀ e ∈ s.cx.rb, e.returned = true) ∧ ∃ c, commitList s.cx.rb s.cx = .ok c ∧ t = s.setCx c else t = s) →
      let shut := t.self.inXchg = true ∧ q.xOk = false
      let parks := q.parks = true ∧ t.self.speculative = true
      (shut → exec i s = .next (t.raise (trapInfo 0x0D0))) ∧
      (¬ shut → parks → exec i s = .next (t.park .certain)) ∧
      (¬ shut → ¬ parks → ∀ m, firstMark (t.cx.marks q.a q.v) = some m → exec i s = .next (t.raise { m.info with dfr := true }))))

/-- What a switch marker commits (R47 to R49): the results of long-class instructions, in program order, each into its register unless a later write
superseded it, with its FLAGS bits. A failed load marks an a-, v- or o-register, which keeps its tag and, if it is a vector register, its bits (R105,
R156); where the destination is a0, vz or a predicate it traps, with the commits before it made. A push to w0 or w1 goes to the end of its queue, a
failed one as a fault entry (R164), or waits for room with nothing of it committed (R43, R77); and a result that the last-result file takes moves on
there, superseded or not (R84). Where the manual leaves it open, what is said rests on entries 18 and 56 of the assumption log. -/
def Obligations.MarkersCommitResults : Prop :=
  ∀ (c : Ctxt) (e : RbEntry) (rest : List RbEntry),
    let all := commitList (e :: rest) c
    let fl := c.flags ||| e.flags.setWidth 64
    let lf := fun (r : VReg) => if e.writesL then #v[r, c.l[0], c.l[1], c.l[2]] else c.l
    (∀ r, e.dest = .areg r →
      (∀ v, e.result = .scalar v →
        all = commitList rest { c with a := (if e.superseded || r = 0 then c.a else c.a.set r.toNat v),
                                       am := (if e.superseded || r = 0 then c.am else c.am.set r.toNat none), flags := fl }) ∧
      (∀ m, e.result = .fault m → e.superseded = false →
        (r ≠ 0 → all = commitList rest { c with a := c.a.set r.toNat 0, am := c.am.set r.toNat (some m), flags := fl }) ∧
        (r = 0 → all = .trap { c with flags := fl, rb := rest } { m.info with dfr := true }))) ∧
    (∀ k, e.dest = .pred k →
      (∀ b, e.result = .pred b → ∃ c', all = commitList rest c' ∧ c' = { c with k := c'.k, flags := fl } ∧
        (∀ j < 8, c'.rk j = if e.superseded = false ∧ j = k.toNat ∧ j ≠ 0 then b else c.rk j)) ∧
      (∀ m, e.result = .fault m → e.superseded = false → all = .trap { c with flags := fl, rb := rest } { m.info with dfr := true })) ∧
    (∀ d, e.dest = .vec d →
      (∀ b g, e.result = .vector b g → d.toNat < 40 → ∃ c', all = commitList rest c' ∧
        c' = { c with v := c'.v, o := c'.o, l := lf ⟨b, g, none⟩, flags := fl } ∧
        (∀ x : BitVec 6, x.toNat < 40 → c'.vreg x = if x = d ∧ e.superseded = false then ⟨b, g, none⟩ else c.vreg x)) ∧
      (∀ m, e.result = .fault m → d.toNat < 40 → ∃ c', all = commitList rest c' ∧
        c' = { c with v := c'.v, o := c'.o, l := lf ⟨0, .none, some m⟩, flags := fl } ∧
        (∀ x : BitVec 6, x.toNat < 40 → c'.vreg x = if x = d ∧ e.superseded = false then { c.vreg d with mark := some m } else c.vreg x)) ∧
      (∀ m, e.result = .fault m → d = 63 → e.superseded = false →
        all = .trap { c with l := lf ⟨0, .none, some m⟩, flags := fl, rb := rest } { m.info with dfr := true }) ∧
      (∀ n : Nat, n < 2 → d.toNat = 48 + n →
        ((c.wOf n).length < 16 → ∀ y, (∃ b g, e.result = .vector b g ∧ y = (⟨b, g, none⟩ : VReg)) ∨ (∃ m, e.result = .fault m ∧ y = (⟨0, .none, some m⟩ : VReg)) →
          all = commitList rest ({ c with flags := fl, l := lf y }.setW n (c.wOf n ++ [(⟨y.bits, y.tag, y.mark⟩ : QEntry)]))) ∧
        (16 ≤ (c.wOf n).length → all = .wait { c with rb := e :: rest } (.wPush n)))) ∧
    commitList [] c = .ok { c with rb := [] }

/-! ## Address-stream arithmetic -/

/-- The integer operations on registers (R140), DIV to REMU apart, whose results are R141's: the AR format at major 0x01 with the funct7 of the
table; each answers with its result in rd and changes no other register, no flag, no memory and no other context. CLZ, CTZ and POPC with an rs2
field that is not 0 are RESERVED_FIELD. -/
def Obligations.IntegerResults : Prop :=
  (∀ (s : Bool) (rd rs1 rs2 : BitVec 5),
    let word := fun (f r : Nat) => f * 2 ^ 25 + r * 2 ^ 20 + rs1.toNat * 2 ^ 15 + rd.toNat * 2 ^ 10 + 0x01 * 2 ^ 3 + (if s then 1 else 0) * 2 + 1
    (∀ p ∈ [(Instr.add s rd rs1 rs2, 0x00), (.sub s rd rs1 rs2, 0x01), (.and s rd rs1 rs2, 0x02), (.or s rd rs1 rs2, 0x03), (.xor s rd rs1 rs2, 0x04),
            (.andn s rd rs1 rs2, 0x05), (.sll s rd rs1 rs2, 0x06), (.srl s rd rs1 rs2, 0x07), (.sra s rd rs1 rs2, 0x08), (.slt s rd rs1 rs2, 0x09),
            (.sltu s rd rs1 rs2, 0x0A), (.min s rd rs1 rs2, 0x0B), (.max s rd rs1 rs2, 0x0C), (.minu s rd rs1 rs2, 0x0D), (.maxu s rd rs1 rs2, 0x0E),
            (.mul s rd rs1 rs2, 0x0F), (.mulh s rd rs1 rs2, 0x10), (.mulhu s rd rs1 rs2, 0x11), (.div s rd rs1 rs2, 0x12), (.divu s rd rs1 rs2, 0x13),
            (.rem s rd rs1 rs2, 0x14), (.remu s rd rs1 rs2, 0x15), (.addw s rd rs1 rs2, 0x20), (.subw s rd rs1 rs2, 0x21), (.mulw s rd rs1 rs2, 0x22),
            (.sllw s rd rs1 rs2, 0x23), (.srlw s rd rs1 rs2, 0x24), (.sraw s rd rs1 rs2, 0x25)], encode p.1 = some (32, word p.2 rs2.toNat)) ∧
    (∀ p ∈ [(Instr.clz s rd rs1, 0x16), (.ctz s rd rs1, 0x17), (.popc s rd rs1, 0x18)], encode p.1 = some (32, word p.2 0) ∧
      (rs2 ≠ 0 → decode (leBytes 4 (word p.2 rs2.toNat)) = .error .reservedField))) ∧
  decodeTableWord 32 0x007C6009 = some (.add false 24 24 7) ∧
  (∀ (st t : State) (s : Bool) (rd rs1 rs2 : BitVec 5),
    Takes { s := s, hOk := true, xOk := true, a := [rs1, rs2] } st t →
    let x := t.cx.ra rs1
    let y := t.cx.ra rs2
    let w := fun (v : DWord) => (v.setWidth 32).signExtend 64
    let bit := fun (b : Bool) => if b then (1 : DWord) else 0
    ∀ p ∈ [(Instr.add s rd rs1 rs2, x + y), (.sub s rd rs1 rs2, x - y), (.and s rd rs1 rs2, x &&& y), (.or s rd rs1 rs2, x ||| y),
           (.xor s rd rs1 rs2, x ^^^ y), (.andn s rd rs1 rs2, x &&& ~~~y), (.sll s rd rs1 rs2, x <<< (y.toNat % 64)),
           (.srl s rd rs1 rs2, x >>> (y.toNat % 64)), (.sra s rd rs1 rs2, x.sshiftRight (y.toNat % 64)),
           (.slt s rd rs1 rs2, bit (decide (x.toInt < y.toInt))), (.sltu s rd rs1 rs2, bit (decide (x.toNat < y.toNat))),
           (.min s rd rs1 rs2, if x.toInt < y.toInt then x else y), (.max s rd rs1 rs2, if x.toInt < y.toInt then y else x),
           (.minu s rd rs1 rs2, if x.toNat < y.toNat then x else y), (.maxu s rd rs1 rs2, if x.toNat < y.toNat then y else x),
           (.mul s rd rs1 rs2, x * y), (.mulh s rd rs1 rs2, BitVec.ofInt 64 (x.toInt * y.toInt / 2 ^ 64)),
           (.mulhu s rd rs1 rs2, BitVec.ofNat 64 (x.toNat * y.toNat / 2 ^ 64)), (.addw s rd rs1 rs2, w (x + y)),
           (.subw s rd rs1 rs2, w (x - y)), (.mulw s rd rs1 rs2, w (x * y)),
           (.sllw s rd rs1 rs2, w ((x.setWidth 32 <<< (y.toNat % 32)).setWidth 64)),
           (.srlw s rd rs1 rs2, w ((x.setWidth 32 >>> (y.toNat % 32)).setWidth 64)),
           (.sraw s rd rs1 rs2, ((x.setWidth 32).sshiftRight (y.toNat % 32)).signExtend 64)],
      ∃ c, exec p.1 st = .next ((t.setCx c).finish) ∧ WritesA rd p.2 t.cx c) ∧
  (∀ (st t : State) (s : Bool) (rd rs1 : BitVec 5),
    Takes { s := s, hOk := true, xOk := true, a := [rs1] } st t →
    let x := t.cx.ra rs1
    (∃ c n, exec (.clz s rd rs1) st = .next ((t.setCx c).finish) ∧ WritesA rd (BitVec.ofNat 64 n) t.cx c ∧ n ≤ 64 ∧
      (∀ b < n, x.getLsbD (63 - b) = false) ∧ (n < 64 → x.getLsbD (63 - n) = true)) ∧
    (∃ c n, exec (.ctz s rd rs1) st = .next ((t.setCx c).finish) ∧ WritesA rd (BitVec.ofNat 64 n) t.cx c ∧ n ≤ 64 ∧
      (∀ b < n, x.getLsbD b = false) ∧ (n < 64 → x.getLsbD n = true)) ∧
    (∃ c, exec (.popc s rd rs1) st = .next ((t.setCx c).finish) ∧
      WritesA rd (BitVec.ofNat 64 ((List.range 64).filter (fun b => x.getLsbD b)).length) t.cx c))

/-- The operations on one register and an immediate (R142): the AI format at majors 0x02 to 0x0B, with imm12 extended by sign, and for the shifts
an amount of 6 bits, where imm12[11:6] that is not 0 is RESERVED_FIELD; each answers with its result in rd and changes nothing else. MKHI (R143):
the AU format at major 0x0C with a 17-bit immediate, and rd becomes the immediate above 47 zero bits. -/
def Obligations.ImmediateResults : Prop :=
  (∀ (s : Bool) (rd rs1 : BitVec 5) (imm : BitVec 12) (sh : BitVec 6),
    let word := fun (m i : Nat) => i * 2 ^ 20 + rs1.toNat * 2 ^ 15 + rd.toNat * 2 ^ 10 + m * 2 ^ 3 + (if s then 1 else 0) * 2 + 1
    (∀ p ∈ [(Instr.addi s rd rs1 imm, 0x02), (.andi s rd rs1 imm, 0x03), (.ori s rd rs1 imm, 0x04), (.xori s rd rs1 imm, 0x05), (.slti s rd rs1 imm, 0x06),
            (.sltiu s rd rs1 imm, 0x07), (.addiw s rd rs1 imm, 0x0B)], encode p.1 = some (32, word p.2 imm.toNat)) ∧
    (∀ p ∈ [(Instr.slli s rd rs1 sh, 0x08), (.srli s rd rs1 sh, 0x09), (.srai s rd rs1 sh, 0x0A)], encode p.1 = some (32, word p.2 sh.toNat) ∧
      (64 ≤ imm.toNat → decode (leBytes 4 (word p.2 imm.toNat)) = .error .reservedField))) ∧
  decodeTableWord 32 0x7FF08811 = some (.addi false 2 1 2047) ∧ decodeTableWord 32 0x00531C49 = some (.srli false 7 6 5) ∧
  (∀ (st t : State) (s : Bool) (rd rs1 : BitVec 5) (imm : BitVec 12) (sh : BitVec 6),
    Takes { s := s, hOk := true, xOk := true, a := [rs1] } st t →
    let x := t.cx.ra rs1
    let i : DWord := imm.signExtend 64
    let bit := fun (b : Bool) => if b then (1 : DWord) else 0
    (∀ p ∈ [(Instr.addi s rd rs1 imm, x + i), (.andi s rd rs1 imm, x &&& i), (.ori s rd rs1 imm, x ||| i), (.xori s rd rs1 imm, x ^^^ i),
           (.slti s rd rs1 imm, bit (decide (x.toInt < imm.toInt))), (.sltiu s rd rs1 imm, bit (decide (x.toNat < i.toNat))),
           (.slli s rd rs1 sh, x <<< sh.toNat), (.srli s rd rs1 sh, x >>> sh.toNat), (.srai s rd rs1 sh, x.sshiftRight sh.toNat),
           (.addiw s rd rs1 imm, ((x + i).setWidth 32).signExtend 64)],
      ∃ c, exec p.1 st = .next ((t.setCx c).finish) ∧ WritesA rd p.2 t.cx c)) ∧
  (∀ (st t : State) (s : Bool) (rd : BitVec 5) (imm : BitVec 17), Takes { s := s, hOk := true, xOk := true } st t →
    encode (.mkhi s rd imm) = some (32, imm.toNat * 2 ^ 15 + rd.toNat * 2 ^ 10 + 0x0C * 2 ^ 3 + (if s then 1 else 0) * 2 + 1) ∧
    (∃ c, exec (.mkhi s rd imm) st = .next ((t.setCx c).finish) ∧ WritesA rd (imm ++ (0 : BitVec 47)) t.cx c) ∧
    decodeTableWord 32 0x80001461 = some (.mkhi false 5 0x10000) ∧ ((0x10000 : BitVec 17) ++ (0 : BitVec 47)) = 0x8000000000000000)

/-- DIV, DIVU, REM and REMU (R47, R141): no case traps; rd keeps its value, and the result waits in the return buffer, at the end, until it is
returned and a switch marker commits it. -/
def Obligations.DivisionsWaitInTheReturnBuffer : Prop :=
  ∀ (st t : State) (s : Bool) (rd rs1 rs2 : BitVec 5),
    Takes { s := s, long := true, hOk := true, xOk := true, a := [rs1, rs2] } st t →
    let x := t.cx.ra rs1
    let y := t.cx.ra rs2
    let least := x.toInt = -(2 ^ 63) ∧ y.toInt = -1
    let waits := fun (i : Instr) (P : DWord → Prop) => ∃ v, P v ∧ exec i st = .next ((t.setCx (Waiting t.cx (.areg rd) (.scalar v) 0 false)).finish)
    waits (.div s rd rs1 rs2) (fun v => (y = 0 → v.toInt = -1) ∧ (least → v.toInt = -(2 ^ 63)) ∧
      (y ≠ 0 → ¬ least → v.toInt = x.toInt.tdiv y.toInt)) ∧
    waits (.divu s rd rs1 rs2) (fun v => (y = 0 → v.toNat = 2 ^ 64 - 1) ∧ (y ≠ 0 → v.toNat = x.toNat / y.toNat)) ∧
    waits (.rem s rd rs1 rs2) (fun v => (y = 0 → v = x) ∧ (least → v = 0) ∧ (y ≠ 0 → v.toInt = x.toInt.tmod y.toInt)) ∧
    waits (.remu s rd rs1 rs2) (fun v => (y = 0 → v = x) ∧ (y ≠ 0 → v.toNat = x.toNat % y.toNat))

/-- MKGA and PEERA (R144, R145): the address each makes, field by field, and the locators, offsets and addresses that trap. -/
def Obligations.AddressesAreMade : Prop :=
  ∀ (st t : State) (s : Bool) (rd rs1 rs2 : BitVec 5) (g : BitVec 7) (imm : BitVec 12), g.toNat ≤ 4 →
    (Takes { s := s, a := [rs1, rs2] } st t →
      let l := (t.cx.ra rs1).toNat
      let o := (t.cx.ra rs2).toNat
      let x := l / 2 ^ 4 % 2 ^ 8
      let y := l / 2 ^ 12 % 2 ^ 8
      let bad := 2 ^ 30 ≤ l ∨ l / 2 ^ 3 % 2 = 1 ∨ 191 < x ∨ 167 < y ∨ (if g = 1 then 0xFFFF < o else 0x7FFF < o)
      let core := if g = 1 then l / 2 % 4 * 2 + o / 2 ^ 15 % 2 else l % 8
      (bad → exec (.mkga s rd rs1 rs2 g) st = .next (t.raise (trapInfo 0x042))) ∧
      (¬ bad → ∃ c v, exec (.mkga s rd rs1 rs2 g) st = .next ((t.setCx c).finish) ∧ WritesA rd v t.cx c ∧
        v.toNat = 2 ^ 63 + (l / 2 ^ 20 % 2 ^ 10) * 2 ^ 52 + y * 2 ^ 44 + x * 2 ^ 36 + core * 2 ^ 33 + g.toNat * 2 ^ 15 + o % 2 ^ 15)) ∧
    (Takes { s := s, a := [rs1] } st t → t.cur.cl.ok = true →
      let o := (t.cx.ra rs1).toNat
      (0x7FFF < o → exec (.peera s rd rs1 imm) st = .next (t.raise (trapInfo 0x041 (t.cx.ra rs1)))) ∧
      (o ≤ 0x7FFF → ∃ c v, exec (.peera s rd rs1 imm) st = .next ((t.setCx c).finish) ∧ WritesA rd v t.cx c ∧
        (v.toNat : Int) = 2 ^ 63 + t.cur.cl.m * 2 ^ 52 + t.cur.cl.y * 2 ^ 44 + t.cur.cl.x * 2 ^ 36 +
          ((t.cur.n : Int) + imm.toInt) % 8 * 2 ^ 33 + o))

/-! ## Control flow -/

/-- The conditional branches (R51, R146): each compares two registers as they stand, names its target from its own address, and leaves the transfer
to the end of the delay slot; it writes no register and no memory. JAL and JR (R148): the link is the address after the delay-slot instruction,
written as the jump executes; JR reads its target before it writes the link, and an odd target traps with TARGET_ALIGN, writing nothing. The
delay-slot instruction is 4 bytes long where bit 0 of its first halfword, which can be fetched, is 1. Where the manual leaves it open, what is said
rests on entry 23 of the assumption log. -/
def Obligations.BranchesAndJumpsTransfer : Prop :=
  (∀ (st t : State) (s : Bool) (rs1 rs2 : BitVec 5) (off : BitVec 12),
    Takes { s := s, control := true, hOk := true, xOk := true, a := [rs1, rs2] } st t →
    let x := t.cx.ra rs1
    let y := t.cx.ra rs2
    ∀ p ∈ [(Instr.beq s rs1 rs2 off, decide (x = y)), (.bne s rs1 rs2 off, decide (x ≠ y)), (.blt s rs1 rs2 off, decide (x.toInt < y.toInt)),
           (.bge s rs1 rs2 off, decide (y.toInt ≤ x.toInt)), (.bltu s rs1 rs2 off, decide (x.toNat < y.toNat)),
           (.bgeu s rs1 rs2 off, decide (y.toNat ≤ x.toNat))],
      exec p.1 st = .next (t.setCx { t.cx with
        delay := some ⟨t.cx.pc, if p.2 then some (t.cx.pc + BitVec.ofInt 64 (2 * off.toInt)) else none, none⟩,
        pc := t.cx.pc + 4, order := t.cx.order + 1 })) ∧
  (∀ (st t : State) (s : Bool) (rd rs1 : BitVec 5) (imm : BitVec 12) (off : BitVec 17) (h : Nat),
    fetchHalf t t.me (t.cx.pc + 4) (t.cx.pc + 4) = .ok h →
    let link := t.cx.pc + (if h % 2 = 0 then 6 else 8)
    let to_ := fun (c : Ctxt) (a : DWord) => t.setCx { c with delay := some ⟨t.cx.pc, some a, none⟩, pc := t.cx.pc + 4, order := t.cx.order + 1 }
    let a := t.cx.ra rs1 + imm.signExtend 64
    (Takes { s := s, control := true, hOk := true, xOk := true } st t →
      ∃ c, exec (.jal s rd off) st = .next (to_ c (t.cx.pc + BitVec.ofInt 64 (2 * off.toInt))) ∧ WritesA rd link t.cx c) ∧
    (Takes { s := s, control := true, hOk := true, xOk := true, a := [rs1] } st t →
      (a.toNat % 2 = 1 → exec (.jr s rd rs1 imm) st = .next (t.raise (trapInfo 0x010))) ∧
      (a.toNat % 2 = 0 → ∃ c, exec (.jr s rd rs1 imm) st = .next (to_ c a) ∧ WritesA rd link t.cx c)))

/-- LOOP (R147): the counter register takes its value less one, and the branch is taken while that is not 0; with a0 the value is all ones,
nothing is written, and the branch is always taken. -/
def Obligations.LoopCountsDown : Prop :=
  ∀ (st t : State) (s : Bool) (rs1 : BitVec 5) (off : BitVec 12),
    Takes { s := s, control := true, hOk := true, xOk := true, a := [rs1] } st t →
    encode (.loop s rs1 off) = some (32, off.toNat * 2 ^ 20 + rs1.toNat * 2 ^ 10 + 0x16 * 2 ^ 3 + (if s then 1 else 0) * 2 + 1) ∧
    (∃ c, exec (.loop s rs1 off) st = .next (t.setCx { c with
        delay := some ⟨t.cx.pc, if t.cx.ra rs1 = 1 then none else some (t.cx.pc + BitVec.ofInt 64 (2 * off.toInt)), none⟩,
        pc := t.cx.pc + 4, order := t.cx.order + 1 }) ∧ WritesA rs1 (t.cx.ra rs1 - 1) t.cx c) ∧
    decodeTableWord 32 0xFFE014B1 = some (.loop false 5 0xFFE) ∧ decodeTableWord 32 0xFFE114B1 = none

/-! ## Small instructions, system registers and software traps -/

/-- NOP, YIELD, VLQ, PWRHINT, WDOG and WAITALL (R35, R85, R243, R245, R284, R357). NOP and WAITALL only retire; YIELD also starts the watchdog
count again and is a switch point; VLQ reads VLEN, 256; PWRHINT sets the energy class of later spawns; WDOG answers the cycles left and may
only lower the limit, which a0 leaves. -/
def Obligations.SmallInstructionsComplete : Prop :=
  ∀ (st t : State) (s : Bool) (rd rs1 : BitVec 5) (c : BitVec 8),
    (Takes { s := s, hOk := true, xOk := true } st t → exec (.nop s) st = .next t.finish) ∧
    (Takes { s := true, len := 2 } st t → exec .waitall st = .next (t.finish 2)) ∧
    (Takes { s := s } st t →
      (∃ c, exec (.vlq s rd) st = .next ((t.setCx c).finish) ∧ WritesA rd 256 t.cx c) ∧
      exec (.pwrhint s c) st = .next ((t.setSelf { t.self with eclass := c.setWidth 2 }).finish) ∧
      exec (.yield s) st = .next (switchPoint (t.finish.setSelf { t.finish.self with wcount := 0 }) t.finish.cur)) ∧
    (Takes { s := s, a := [rs1] } st t →
      let limit := if rs1 = 0 then t.self.wlimit else if t.self.wlimit ≤ (t.cx.ra rs1).toNat then t.self.wlimit else (t.cx.ra rs1).toNat
      ∃ c, exec (.wdog s rd rs1) st = .next (((t.setSelf { t.self with wlimit := limit }).setCx c).finish) ∧
        WritesA rd (BitVec.ofNat 64 (t.self.wlimit - t.self.wcount)) t.cx c)

/-- SYSRD (R240, R267, R276, R300, R350, R353 to R355): a task, and the handler context for its own slot, reads the registers of its slot, its place,
its likelihood, its gang's membership and cycle state and the seal count of the cycle's set; the handler's selectors trap with PRIVILEGED in a task. The handler context reads TVEC, HSLOT, TSCR0 and TSCR1 too, and through the mirrors the same
registers and the a-registers of the slot it works for, all zero where that slot's task is gone (R352). SYSWR (R8, R350, R353 to R355): a task writes
FLAGS only, and its reserved bits take nothing but are remembered in EINFO.RSVW; another selector that a task reads traps with SELECTOR_READONLY, and
the handler's selectors with PRIVILEGED. The handler context writes TVEC, HSLOT, TSCR0 and TSCR1, the writable registers of its own slot and of the
one it works for, PWRBUD (R254) and LATTOL (R377) among them, and that slot's a-registers, whose marks it clears and whose pending results it
leaves; a write of a mirror is ignored where the slot's task is gone, and of a register that is only read it traps with SELECTOR_READONLY. Where the
manual leaves it open, what is said rests on entries 39 and 57 of the assumption log. -/
def Obligations.SystemRegistersAreReadAndWritten : Prop :=
  (∀ (st t : State) (s : Bool) (rd : BitVec 5), Takes { s := true, hOk := true, xOk := true } st t →
    let n := fun (v : Nat) => BitVec.ofNat 64 v
    let shown := fun (c : CtxId) =>
      let x := t.slot c
      let y := (t.gangOf c).cyc
      ([(0x00, x.taskId), (0x01, x.slotgen), (0x02, x.lid.setWidth 64), (0x03, x.pid.setWidth 64), (0x04, n c.core.n), (0x05, n c.core.cl.x),
        (0x06, n c.core.cl.y), (0x07, n c.core.cl.m), (0x08, x.seed), (0x09, x.nbv.setWidth 64), (0x0A, x.cause), (0x0B, x.epc), (0x0C, x.einfo),
        (0x0D, x.eaddr), (0x0E, x.cx.flags), (0x0F, x.quantum), (0x10, n x.wlimit), (0x11, y.cnt.setWidth 64), (0x12, y.resid.setWidth 64),
        (0x13, y.resid0.setWidth 64), (0x14, y.tol.setWidth 64), (0x15, y.max.setWidth 64),
        (0x16, n ((if y.rel then 2 ^ 15 else 0) + (if y.isOpen then 2 ^ 14 else 0) + y.set.toNat * 2 ^ 8 + (if y.exhausted then 2 else 0) +
          (if y.converged then 1 else 0))),
        (0x17, n (x.chain.foldl (fun l e => l * e.q / 2 ^ 16) (2 ^ 16))),
        (0x18, if (t.launchOf c).rc.resident then n ((t.gangs.filter (fun g => decide (g.2.launch = (t.gangOf c).launch) &&
          decide (g.2.status ≠ .killed) && decide (g.2.status ≠ .retired))).length % 2 ^ 32) else 0),
        (0x19, n ((t.gangOf c).block % 2 ^ 40)), (0x1A, if (t.launchOf c).rc.resident then (t.launchOf c).cmgen.setWidth 64 else 0), (0x1B, x.cbrstat),
        (0x1C, match t.wset c.core.cl.m x.pid y.set with | some w => w.c | none => 0), (0x1D, x.digest),
        (0x1E, t.pwrbud c.core.cl), (0x1F, (t.module c.core.cl.m).lattol)] : List (Nat × DWord))
    let reads := fun (sel : Nat) (v : DWord) => ∃ c, exec (.sysrd s rd (BitVec.ofNat 12 sel)) st = .next ((t.setCx c).finish) ∧ WritesA rd v t.cx c
    (∀ p ∈ shown t.me, reads p.1 p.2) ∧
    (t.me.who ≠ 4 → ∀ sel ∈ [(0x20 : BitVec 12), 0x21, 0x22, 0x23, 0x10A, 0x145], exec (.sysrd s rd sel) st = .next (t.raise (trapInfo 0x018))) ∧
    (t.me.who = 4 →
      reads 0x20 (t.core t.cur).tvec ∧ reads 0x21 (n (t.core t.cur).hslot.val) ∧ reads 0x22 (t.core t.cur).tscr0 ∧ reads 0x23 (t.core t.cur).tscr1 ∧
      (∀ c, t.mirror t.cur = some c →
        (∀ p ∈ shown c, reads (0x100 + p.1) p.2) ∧ ∀ r : BitVec 5, reads (0x140 + r.toNat) ((t.slot c).cx.ra r)) ∧
      (t.mirror t.cur = none → ∀ sel, (0x100 ≤ sel ∧ sel < 0x120) ∨ (0x140 ≤ sel ∧ sel < 0x160) → reads sel 0))) ∧
  (∀ (st t : State) (s : Bool) (rs1 : BitVec 5), Takes { s := true, hOk := true, a := [rs1] } st t →
    let v := t.cx.ra rs1
    (t.me.who ≠ 4 →
      (∃ u : State, exec (.syswr s rs1 0x0E) st = .next u.finish ∧ SameOutside t.me t u ∧ u.cx = { t.cx with flags := v &&& 0x7F } ∧
        u.self = { t.self with cx := u.cx, einfo := if v &&& 0xFFFFFFFFFFFFFF80 = 0 then t.self.einfo else t.self.einfo ||| 0x100 }) ∧
      (∀ sel ∈ [(0x00 : BitVec 12), 0x03, 0x0A, 0x0B, 0x0F, 0x10, 0x11, 0x1D, 0x1F],
        exec (.syswr s rs1 sel) st = .next (t.raise (trapInfo 0x019))) ∧
      (∀ sel ∈ [(0x20 : BitVec 12), 0x21, 0x23, 0x10A, 0x141], exec (.syswr s rs1 sel) st = .next (t.raise (trapInfo 0x018)))) ∧
    (t.me.who = 4 →
      let note := fun (u : State) (m : DWord) =>
        if v &&& m = 0 then u else u.setSlot t.me { u.slot t.me with einfo := (u.slot t.me).einfo ||| 0x100 }
      let writes := fun (sel : Nat) (u : State) (m : DWord) => exec (.syswr s rs1 (BitVec.ofNat 12 sel)) st = .next (note u m).finish
      let k := t.core t.cur
      writes 0x20 (t.setCore t.cur { k with tvec := v }) 0 ∧ writes 0x22 (t.setCore t.cur { k with tscr0 := v }) 0 ∧
      writes 0x23 (t.setCore t.cur { k with tscr1 := v }) 0 ∧
      (∃ h : Fin 4, h.val = v.toNat % 4 ∧
        writes 0x21 (t.setCore t.cur { k with hslot := h, huid := (t.slot ⟨t.cur, h.castSucc⟩).uid }) 0) ∧
      (∀ (base : Nat) (c : CtxId), (base = 0 ∧ c = t.me) ∨ (base = 0x100 ∧ t.mirror t.cur = some c) →
        let x := t.slot c
        let m := c.core.cl.m
        let low := v &&& 0xFFFFFFFF
        writes (base + 0x0A) (t.setSlot c { x with cause := v &&& 0x1FF }) 0 ∧ writes (base + 0x0B) (t.setSlot c { x with epc := v }) 0 ∧
        writes (base + 0x0C) (t.setSlot c { x with einfo := v &&& 0xFFFFFFFFFFFFFFFC }) 3 ∧
        writes (base + 0x0D) (t.setSlot c { x with eaddr := v }) 0 ∧
        writes (base + 0x0E) (t.setSlot c { x with cx := { x.cx with flags := v &&& 0x7F } }) 0xFFFFFFFFFFFFFF80 ∧
        writes (base + 0x0F) (t.setSlot c { x with quantum := v, qend := false }) 0 ∧
        writes (base + 0x10) (t.setSlot c { x with wlimit := v.toNat }) 0 ∧ writes (base + 0x1D) (t.setSlot c { x with digest := v }) 0 ∧
        (∃ y : Module, writes (base + 0x1E) (t.setModule m y) 0xFFFFFFFC00000000 ∧ y = { t.module m with pwrbud := y.pwrbud } ∧
          ∀ cl : ClusterId, cl.m = m → (t.setModule m y).pwrbud cl =
            if quadrantOf cl = quadrantOf c.core.cl then (if low = 0 then 0 else (t.pwrbud cl &&& 0x300000000) ||| low) else t.pwrbud cl) ∧
        (let y := t.module m
         let exit := match y.power with | .run => 0 | .doze => 2000 | .lull => 60000 | .calm => 2000000
         writes (base + 0x1F) (t.setModule m { y with lattol := low, waking := y.waking || decide (low ≠ 0xFFFFFFFF ∧ low.toNat < exit) })
           0xFFFFFFFF00000000)) ∧
      (∀ (c : CtxId) (r : BitVec 5), t.mirror t.cur = some c → ∃ y : Ctxt, writes (0x140 + r.toNat) (t.setSlot c { t.slot c with cx := y }) 0 ∧
        y.ra r = (if r = 0 then 0 else v) ∧ (r ≠ 0 → y.am[r.toNat] = none) ∧ y = { (t.slot c).cx with a := y.a, am := y.am } ∧
        ∀ q : BitVec 5, q ≠ r → y.ra q = (t.slot c).cx.ra q ∧ y.am[q.toNat] = (t.slot c).cx.am[q.toNat]) ∧
      (t.mirror t.cur = none → ∀ sel ∈ [0x10A, 0x10B, 0x10D, 0x10F, 0x110, 0x11D, 0x140, 0x145, 0x15F], writes sel t 0) ∧
      (∀ sel ∈ [(0x00 : BitVec 12), 0x03, 0x09, 0x11, 0x1B, 0x100, 0x109, 0x11C], exec (.syswr s rs1 sel) st = .next (t.raise (trapInfo 0x019)))))

/-- TRAP, BRK and ERET (R352, R356, R357). TRAP raises its code with a[rs1] as EADDR and SW set; BRK raises BREAKPOINT with its number as EADDR;
ERET outside the handler context is PRIVILEGED. ERET RESUME makes the trapped slot live at its EPC with its watchdog count 0, ERET FORWARD makes it
FORWARDED, and the handler context goes idle. Where the manual leaves it open, what is said rests on entry 25 of the assumption log. -/
def Obligations.SoftwareTrapsAndTheReturn : Prop :=
  ∀ (st t : State) (s : Bool) (rs1 : BitVec 5) (code : BitVec 12) (n : BitVec 8) (mode : BitVec 2),
    (Takes { s := s, control := true, a := [rs1] } st t → code.toNat < 0x180 →
      exec (.trap s rs1 code) st = .next (t.raise { code := code.setWidth 9, eaddr := t.cx.ra rs1, opc := 0, dfr := false, sw := true,
                                                    walk := 7, acc := 0 })) ∧
    (Takes { s := s } st t → exec (.brk s n) st = .next (t.raise (trapInfo 0x148 (n.setWidth 64)))) ∧
    (Takes { s := s, control := true, hOk := true } st t →
      (t.me.who ≠ 4 → exec (.eret s mode) st = .next (t.raise (trapInfo 0x018))) ∧
      (∀ (w : Fin 5), t.me.who = 4 → w ≠ 4 → t.mirror t.cur = some ⟨t.cur, w⟩ → (t.slot ⟨t.cur, w⟩).phase = .trapped → mode = 0 ∨ mode = 2 →
        ∃ u : State, exec (.eret s mode) st = .next (switchPoint u t.cur) ∧ u.mem = t.mem ∧
          (u.slot t.me) = { t.self with phase := .idle, wcount := 0 } ∧ (∀ k, k ≠ t.cur → u.core k = t.core k) ∧
          (∀ d, d ≠ t.me → d ≠ ⟨t.cur, w⟩ → u.slot d = t.slot d) ∧
          (mode = 2 → u.slot ⟨t.cur, w⟩ = { t.slot ⟨t.cur, w⟩ with phase := .forwarded }) ∧
          (mode = 0 → (u.slot ⟨t.cur, w⟩).phase = .live ∧ (u.slot ⟨t.cur, w⟩).wcount = 0 ∧ (u.slot ⟨t.cur, w⟩).wait = none ∧
            (u.slot ⟨t.cur, w⟩).cx = { (t.slot ⟨t.cur, w⟩).cx with pc := (t.slot ⟨t.cur, w⟩).epc, delay := none })))

/-- The steps around the handler context (R348, R351, R362): an idle handler takes the head of the trap queue and starts at TVEC; a watchdog count
at the limit HWDOG is a double trap; a write of TVEC installs a handler and ends its halt; SLOTCTL resumes a FORWARDED slot at its EPC and ignores
another; and the plain registers of the core system window, and of a module, take what a service core writes. The slot images of the window (R354,
R362): a FORWARDED slot's image takes the writes of R354, any other ignores them, and its doublewords read as the slot's selectors and a-registers; a
handler context's write of TVEC leaves a halted handler halted (R351), and its nonzero write of a reserved offset sets RSVW (R8). The traps between
instructions (R245, R246, R272, R346, R349): WATCHDOG where a live slot's count has reached its limit, QUANTUM_END where the quantum has run out and no branch waits for
its delay slot, and CONTEXT_LOST, counted by its module, each precise at the slot's next instruction; and none of them where its condition does not
hold; CONTEXT_LOST is counted by the module wherever it strikes (R346). A trap held under speculation is taken as held at the boundary, a held WATCHDOG
in the place of one that is due (R272, R347). Where the manual leaves it open, what is said rests on entries 40, 45 and 57 of the assumption log. -/
def Obligations.HandlerAndServiceSteps : Prop :=
  (∀ (s : State) (k : CoreId) (c : CtxId) (v : DWord) (m : Nat) (pid : BitVec 8),
    (∀ w r, (s.core k).trapq = w :: r → (s.slot ⟨k, 4⟩).phase = .idle → (s.core k).halted = false → w ≠ 4 →
      ∃ u : State, exec (.handlerDispatch k) s = .next u ∧ (u.core k).trapq = r ∧ (u.core k).hslot.val = w.val ∧
        (u.slot ⟨k, 4⟩).phase = .live ∧ (u.slot ⟨k, 4⟩).wcount = 0 ∧
        (u.slot ⟨k, 4⟩).cx = { (s.slot ⟨k, 4⟩).cx with pc := (s.core k).tvec, delay := none } ∧ u.mem = s.mem ∧
        ∀ d, d ≠ ⟨k, 4⟩ → u.slot d = s.slot d) ∧
    ((s.slot ⟨k, 4⟩).phase = .live → (s.core k).hwdog.toNat ≤ (s.slot ⟨k, 4⟩).wcount →
      exec (.handlerWatchdogExpiry k) s = .next (doubleTrap s k (trapInfo 0x140))) ∧
    exec (.tvecWrite k v) s = .next (s.setCore k { s.core k with tvec := v, halted := false }) ∧
    (c.who ≠ 4 → (s.slot c).phase = .forwarded → ∃ u : State, exec (.slotctlResume c) s = .next u ∧ SameOutside c s u ∧
      (u.slot c).phase = .live ∧ (u.slot c).wcount = 0 ∧ (u.slot c).cx = { (s.slot c).cx with pc := (s.slot c).epc, delay := none }) ∧
    ((s.slot c).phase ≠ .forwarded → exec (.slotctlResume c) s = .next s ∧ exec (.slotctlEnd c) s = .next s) ∧
    exec (.systemWindowWrite (.hwdog k) v) s = .next (s.setCore k { s.core k with hwdog := v }) ∧
    exec (.systemWindowWrite (.qdefault k) v) s = .next (s.setCore k { s.core k with qdefault := v }) ∧
    exec (.systemWindowWrite (.wdefault k) v) s = .next (s.setCore k { s.core k with wdefault := v }) ∧
    (∃ u : State, exec (.systemWindowWrite (.pidEntry m pid) v) s = .next u ∧ kget (u.module m).pids pid 0 = v ∧
      (∀ p, p ≠ pid → kget (u.module m).pids p 0 = kget (s.module m).pids p 0) ∧ ∀ j, j ≠ m → u.module j = s.module j)) ∧
  (∀ (s : State) (b : Option CoreId) (k : CoreId) (off : Nat) (v : DWord) (r : List Turn), s.agenda = .window b k off v :: r → s.armed = [] → s.watches = [] →
    let t := { s with agenda := r }
    let does := fun (u : State) => step s = settled t (.next u)
    let note := fun (d : CtxId) (m : DWord) (u : State) =>
      if v &&& m = 0 then u else u.setSlot d { u.slot d with einfo := (u.slot d).einfo ||| 0x100 }
    (∀ (w : Fin 4) (n : Nat), n < 64 → off = 0x100 + 0x200 * w.val + 8 * n →
      let c : CtxId := ⟨k, w.castSucc⟩
      let x := t.slot c
      let d := match b with | some h => (⟨h, 4⟩ : CtxId) | none => c
      windowWord t k off = (if n < 32 then sysRead t c n else x.cx.ra (BitVec.ofNat 5 (n - 32))) ∧
      (x.phase ≠ .forwarded → does t) ∧
      (x.phase = .forwarded →
        (n = 0x0A → does (t.setSlot c { x with cause := v &&& 0x1FF })) ∧ (n = 0x0B → does (t.setSlot c { x with epc := v })) ∧
        (n = 0x0C → does (note d 3 (t.setSlot c { x with einfo := v &&& 0xFFFFFFFFFFFFFFFC }))) ∧
        (n = 0x0D → does (t.setSlot c { x with eaddr := v })) ∧
        (n = 0x0E → does (note d 0xFFFFFFFFFFFFFF80 (t.setSlot c { x with cx := { x.cx with flags := v &&& 0x7F } }))) ∧
        (n = 0x0F → does (t.setSlot c { x with quantum := v, qend := false })) ∧ (n = 0x10 → does (t.setSlot c { x with wlimit := v.toNat })) ∧
        (n = 0x1D → does (t.setSlot c { x with digest := v })) ∧ (n < 0x0A ∨ (0x10 < n ∧ n < 0x1D) → does t) ∧
        (∀ q : BitVec 5, n = 32 + q.toNat → ∃ y : Ctxt, does (t.setSlot c { x with cx := y }) ∧ y.ra q = (if q = 0 then 0 else v) ∧
          (q ≠ 0 → y.am[q.toNat] = none) ∧ y = { x.cx with a := y.a, am := y.am } ∧
          ∀ p : BitVec 5, p ≠ q → y.ra p = x.cx.ra p ∧ y.am[p.toNat] = x.cx.am[p.toNat]))) ∧
    (off = 0 → does (t.setCore k { t.core k with tvec := v, halted := (t.core k).halted && b.isSome })) ∧
    (∀ h, b = some h → off = 0x030 ∨ off = 0x0F8 ∨ off = 0x910 ∨ off = 0x938 ∨ 0x968 ≤ off → does (note ⟨h, 4⟩ (BitVec.allOnes 64) t)) ∧
    (b = none → off = 0x030 ∨ off = 0x0F8 ∨ off = 0x910 ∨ off = 0x938 ∨ 0x968 ≤ off → does t)) ∧
  (∀ (s : State) (c : CtxId), c.who ≠ 4 → (s.slot c).phase = .live → (s.slot c).held = none →
    ((s.slot c).wlimit ≤ (s.slot c).wcount → exec (.watchdog c) s = .next (s.raiseAt c (trapInfo 0x140))) ∧
    ((s.slot c).wcount < (s.slot c).wlimit → exec (.watchdog c) s = .next s) ∧
    ((s.slot c).qend = true → (s.slot c).cx.delay = none →
      exec (.quantumEnd c) s = .next ((s.setSlot c { s.slot c with qend := false }).raiseAt c (trapInfo 0x141))) ∧
    ((s.slot c).qend = false → exec (.quantumEnd c) s = .next s) ∧
    ((s.slot c).lost = false → (s.slot c).stopped = false → (s.slot c).speculative = false →
      ∃ u : State, exec (.contextLost c) s = .next u ∧ (u.slot c).cause = 0x109 ∧ (u.slot c).phase ≠ .live ∧ u.mem = s.mem ∧
        (∀ d, d ≠ c → u.slot d = s.slot d) ∧
        kget (u.module c.core.cl.m).errors 0x109 0 = kget (s.module c.core.cl.m).errors 0x109 0 + 1)) ∧
  (∀ (s : State) (c : CtxId), ∃ u : State, exec (.contextLost c) s = .next u ∧
    kget (u.module c.core.cl.m).errors 0x109 0 = kget (s.module c.core.cl.m).errors 0x109 0 + 1 ∧
    (c.who = 4 ∨ (s.slot c).phase = .idle → u = { s with modules := u.modules }) ∧
    (c.who ≠ 4 → (s.slot c).phase = .trapped → (u.slot c).lost = true)) ∧
  (∀ (s : State) (c : CtxId) (x : TrapInfo), c.who ≠ 4 → (s.slot c).lost = false → (s.slot c).held = some x →
    (x.code = 0x109 → boundary s c = some (.next (takeTrap s c x true))) ∧
    (∀ g, (s.slot c).gang = some g → (s.gang g).status = .running →
      (x.code = 0x140 → boundary s c = some (.next (takeTrap s c x true))) ∧
      ((s.slot c).wcount < (s.slot c).wlimit → (s.slot c).qend = false → boundary s c = some (.next (takeTrap s c x true)))))

/-- Waits end (R47, R243, R245): a long-class result returns to its entry and to no other; and a wait that is met leaves the slot ready with its
watchdog count 0, to execute its instruction again, while one that is not met goes on. Shown for a switch marker's wait, for a queue and for a
barrier. An access refused with RETRY is issued again, its watchdog count going on until it is carried out (R361). Where the manual leaves it open, what is said rests on entry 14 of the assumption log. -/
def Obligations.WaitsEnd : Prop :=
  ∀ (s : State) (c : CtxId) (n : Nat) (b : BitVec 6),
    (∃ u : State, exec (.longResultReturn c n) s = .next u ∧ SameOutside c s u ∧ (u.slot c).cx = { (s.slot c).cx with rb := (u.slot c).cx.rb } ∧
      (u.slot c).cx.rb = (s.slot c).cx.rb.map (fun e => { e with returned := e.returned || decide (e.order = n) })) ∧
    (∀ p ∈ [(WaitReason.marker, (s.slot c).cx.rb.all (fun e => e.returned)), (.wPush n, decide (((s.slot c).cx.wOf n).length < 16)),
            (.qPop n, !((s.slot c).cx.qOf n).isEmpty), (.barrier b, ((s.slot c).cx.bar b).done)],
      (s.slot c).wait = some p.1 →
        (p.2 = true → exec (.waitSatisfied c) s = .next (s.setSlot c { s.slot c with wait := none, wcount := 0 })) ∧
        (p.2 = false → exec (.waitSatisfied c) s = .next s)) ∧
    (∀ as, (s.slot c).wait = some (.reissue as) →
      exec (.remoteReissue c) s = .next (s.setSlot c { s.slot c with wait := none, reissued := true }))

/-! ## Scalar memory -/

/-- The checks at issue of a scalar access (R103, R151, R153, R170, R178): MISALIGNED where the address is no multiple of the size, ADDRESS_RANGE
for an address of no form, for LDx and STx also one of the global or remote forms, and in the private alias for bytes outside the slot regions of
the task's gang, and TILE_GUARD there for bytes of a tile that is not READY; the trap is precise, names the address and the kind of access, and
nothing is read or written. The scalar loads and RLD (R47, R149, R153, R155, R156): the bytes at the address's home, little-endian, extended by sign
or by zeros, wait in the return buffer for rd; an access refused at a station or an owning core becomes a deferred fault there instead. In a
speculative context (R270) each byte is that of the youngest draft that holds it, its own before those of the ancestors it was spawned after, and
memory's where none does; a load that drafts supply whole reads no memory and meets no fault there. No register, flag or byte of memory changes.
Where the manual leaves it open, what is said rests on entries 12 and 15 of the assumption log. -/
def Obligations.ScalarLoadsAndTheirChecks : Prop :=
  (∀ (st t : State) (s z : Bool) (r q : BitVec 5) (imm : BitVec 12) (cls : BitVec 3),
    let ea := t.cx.ra r + imm.signExtend 64
    let b := t.cx.ra r
    let traps := fun (i : Instr) (a : DWord) (n : Nat) (own : Bool) (acc : BitVec 2) =>
      (a.toNat % n ≠ 0 → exec i st = .next (t.raise (trapInfo 0x040 a acc))) ∧
      (a.toNat % n = 0 → (form a).isNone = true ∨ (own = true ∧ ((form a).isGlob = true ∨ (form a).isRemote = true)) →
        exec i st = .next (t.raise (trapInfo 0x041 a acc))) ∧
      (a.toNat % n = 0 → a.toNat < 0x8000 → t.ownsPriv t.me a.toNat n = false → exec i st = .next (t.raise (trapInfo 0x041 a acc))) ∧
      (a.toNat % n = 0 → a.toNat < 0x8000 → t.ownsPriv t.me a.toNat n = true → t.guarded t.cur a.toNat n = true →
        exec i st = .next (t.raise (trapInfo 0x088 a acc)))
    (Takes { s := s, long := true, hOk := true, a := [r] } st t →
      (∀ p ∈ [(Instr.ldb s q r imm, 1), (.ldbz s q r imm, 1), (.ldh s q r imm, 2), (.ldhz s q r imm, 2), (.ldw s q r imm, 4), (.ldwz s q r imm, 4),
              (.ldd s q r imm, 8)], traps p.1 ea p.2 true 0) ∧
      ∀ n : BitVec 2, traps (.rld s q r cls z n) b (2 ^ n.toNat) false 0) ∧
    (Takes { s := s, hOk := true, a := [r, q] } st t →
      (∀ p ∈ [(Instr.stb s q r imm, 1), (.sth s q r imm, 2), (.stw s q r imm, 4), (.std s q r imm, 8)], traps p.1 ea p.2 true 1) ∧
      ∀ n : BitVec 2, traps (.rst s r q cls n) b (2 ^ n.toNat) false 1)) ∧
  (∀ (st t : State) (s z : Bool) (rd r : BitVec 5) (imm : BitVec 12) (cls : BitVec 3),
    Takes { s := s, long := true, hOk := true, a := [r] } st t →
    let a := t.cx.ra r + imm.signExtend 64
    let b := t.cx.ra r
    let waits := fun (x : RbResult) => Host.Outcome.next ((t.setCx (Waiting t.cx (.areg rd) x 0 false)).finish)
    ∀ p ∈ [(Instr.ldb s rd r imm, a, 1, false, formsOwn), (.ldbz s rd r imm, a, 1, true, formsOwn), (.ldh s rd r imm, a, 2, false, formsOwn),
           (.ldhz s rd r imm, a, 2, true, formsOwn), (.ldw s rd r imm, a, 4, false, formsOwn), (.ldwz s rd r imm, a, 4, true, formsOwn),
           (.ldd s rd r imm, a, 8, true, formsOwn), (.rld s rd r cls z 0, b, 1, z, formsAll), (.rld s rd r cls z 1, b, 2, z, formsAll),
           (.rld s rd r cls z 2, b, 4, z, formsAll), (.rld s rd r cls z 3, b, 8, true, formsAll)],
      let ea := p.2.1
      let n := p.2.2.1
      let d := draftBytes (draftView t t.me) ea.toNat n
      let known := 2 ^ (8 * n) - 1
      let gives := fun (v : Nat) => exec p.1 st = waits (.scalar (if p.2.2.2.1 then BitVec.ofNat 64 v else (BitVec.ofNat (8 * n) v).signExtend 64))
      issueCheck t t.me ea n .read p.2.2.2.2 = none →
        (t.self.speculative = false → ∀ l v, access t (t.whoIs t.me) ea n .read = .loc l → t.homeRead l n = some v → gives v) ∧
        (t.self.speculative = false → ∀ f, access t (t.whoIs t.me) ea n .read = .fault f →
          exec p.1 st = waits (.fault ⟨{ f with opc := t.cx.pc }, t.cx.order⟩)) ∧
        (d.1 = known → gives d.2) ∧
        (d.1 ≠ known → ∀ l v, access t (t.whoIs t.me) ea n .read = .loc l → t.homeRead l n = some v → gives ((v &&& (known - d.1)) ||| d.2)) ∧
        (d.1 ≠ known → ∀ f, access t (t.whoIs t.me) ea n .read = .fault f →
          exec p.1 st = waits (.fault ⟨{ f with opc := t.cx.pc }, t.cx.order⟩)) ∧
        (d.1 ≠ known → ∀ l, access t (t.whoIs t.me) ea n .read = .loc l → t.homeRead l n = none →
          exec p.1 st = waits (.fault ⟨{ trapInfo 0x050 ea 0 with opc := t.cx.pc }, t.cx.order⟩)) ∧
        (d.1 ≠ known → access t (t.whoIs t.me) ea n .read = .retry → exec p.1 st = .next (t.park (.reissue [ea])))) ∧
  (∀ (ds : List Draft) (d : Draft) (e : StoreElem) (a : Nat),
    ((∀ x ∈ d.elems, ¬ (x.addr.toNat ≤ a ∧ a < x.addr.toNat + x.size)) → draftByte (d :: ds) a = draftByte ds a) ∧
    (d.elems = [e] → e.mask = 2 ^ (8 * e.size) - 1 → e.addr.toNat ≤ a → a < e.addr.toNat + e.size →
      draftByte (d :: ds) a = (255, e.val / 256 ^ (a - e.addr.toNat) % 256)) ∧
    draftByte [] a = (0, 0)) ∧
  (∀ (s : State) (c : CtxId) (d : Draft),
    (d ∈ draftView s c ↔ (s.slot c).speculative = true ∧ d ∈ (s.cluster c.core.cl).drafts ∧
      (d.owner = (s.slot c).uid ∨ ∃ p ∈ (s.slot c).parents, d.owner = p.1 ∧ d.n < p.2)) ∧
    ((s.slot c).speculative = true → (s.slot c).parents = [] →
      draftView s c = ((s.cluster c.core.cl).drafts.filter (fun x => x.owner = (s.slot c).uid)).reverse))

/-- The scalar stores and RST (R150, R154), and the digest that a DET launch keeps of them (R369): in the private alias the bytes are written at once; a store in any other form waits for its
confirmation; and in a run-ahead it becomes a draft, which writes no memory (R109, R270). The element is the address, the size and the low bytes of
the register. What a store does once its issue checks are made (R106, R150, R154, R270), for a store of whole elements in the private alias: each
element's bytes are written in order at the core's own scratchpad, every other byte of memory is as it was, and the store retires; no register
changes, and outside a DET launch nothing else of the context does; in one each element folds into the task's digest under its key (R369). In a run-ahead the store is one draft at the end of the cluster's buffer and
memory is as it was; in another speculative segment the elements in its own slot region are written and the others are one draft; a store that finds
the buffer full parks; a store in another form waits. A store's confirmation (R106, R150, R154, R156, R225): where the element's home accepts it, its
bytes are written there, every other byte of memory is as it was, the wait ends with the watchdog count 0, and the store retires; a store to a core's
system window is carried out next (R362), but a value of SLOTCTL that is none of its commands is REFUSED, and one that finds the inbox of a stopping gang full stands at the end of its overflow and changes no
memory (R360); where the home refuses it the trap is precise at the store and nothing is written; where it answers RETRY, or the overflow is full,
the store goes on waiting. Where the manual leaves it open, what is said rests on entries 8, 12 and 44 of the assumption log. -/
def Obligations.ScalarStoresAreMade : Prop :=
  (∀ (st t : State) (s : Bool) (q r : BitVec 5) (imm : BitVec 12) (cls : BitVec 3),
    Takes { s := s, hOk := true, a := [r, q] } st t →
    let a := t.cx.ra r + imm.signExtend 64
    let v := (t.cx.ra q).toNat
    (∀ p ∈ [(Instr.stb s q r imm, 1), (.sth s q r imm, 2), (.stw s q r imm, 4), (.std s q r imm, 8)],
      issueCheck t t.me a p.2 .write formsOwn = none →
        exec p.1 st = .next (doStore t [⟨a, p.2, v % 2 ^ (8 * p.2), 2 ^ (8 * p.2) - 1⟩])) ∧
    (∀ (z : BitVec 2), issueCheck t t.me (t.cx.ra r) (2 ^ z.toNat) .write formsAll = none →
      exec (.rst s r q cls z) st = .next (doStore t [⟨t.cx.ra r, 2 ^ z.toNat, v % 2 ^ (8 * 2 ^ z.toNat), 2 ^ (8 * 2 ^ z.toNat) - 1⟩]))) ∧
  (∀ (t : State) (es : List StoreElem),
    (t.self.speculative = false → Memory.wf t.mem = true →
      (∀ e ∈ es, e.addr.toNat < 0x8000 ∧ (e.size = 1 ∨ e.size = 2 ∨ e.size = 4 ∨ e.size = 8) ∧ e.mask = 2 ^ (8 * e.size) - 1 ∧
        e.val < 2 ^ (8 * e.size)) →
      ∃ u : State, doStore t es = u.finish ∧
        u.mem = es.foldl (fun m e => Memory.setN m (privLoc t.cur e.addr.toNat) e.size e.val) t.mem ∧
        (∀ l, (∀ e ∈ es, l < privLoc t.cur e.addr.toNat ∨ privLoc t.cur e.addr.toNat + e.size ≤ l) → Memory.get u.mem l = Memory.get t.mem l) ∧
        u = { t with mem := u.mem, poison := u.poison, cores := u.cores } ∧ SameOutside t.me { t with mem := u.mem, poison := u.poison } u ∧
        u.self = { t.self with digest := u.self.digest } ∧ ((t.launchOf t.me).rc.digest = false → u.cores = t.cores) ∧
        ((t.launchOf t.me).rc.digest = true → u.self.digest =
          es.foldl (fun d e => gen (d ^^^ BitVec.ofNat 64 e.val) (BitVec.ofNat 64 (16 * e.addr.toNat + e.size))) t.self.digest)) ∧
    (t.self.speculative = false → es.any (fun e => !(form e.addr).isPriv) = true → doStore t es = t.park (.confirm es)) ∧
    (t.self.speculative = true → t.self.ck.isSome = true → es ≠ [] → (t.cluster t.cur.cl).drafts.length < 1024 →
      ∃ u : State, doStore t es = u.finish ∧ u.mem = t.mem ∧ u.cx = t.cx ∧
      (∀ d, d ≠ t.me → u.slot d = t.slot d) ∧ ∃ d, (u.cluster t.cur.cl).drafts = (t.cluster t.cur.cl).drafts ++ [d] ∧
        d.owner = t.self.uid ∧ d.elems = es ∧ d.opc = t.cx.pc) ∧
    (t.self.speculative = true → t.self.ck = none → t.me.who ≠ 4 →
      let own := es.filter (fun e => decide (e.addr.toNat / 0x2000 = t.me.who.val) && decide ((e.addr.toNat + e.size - 1) / 0x2000 = t.me.who.val))
      (own ≠ es → 1024 ≤ (t.cluster t.cur.cl).drafts.length → doStore t es = t.park .certain) ∧
      (own ≠ es → (t.cluster t.cur.cl).drafts.length < 1024 → ∃ u : State, doStore t es = u.finish ∧ u.mem = (performStore t t.me own).mem ∧
        u.cx = t.cx ∧ ∃ d, (u.cluster t.cur.cl).drafts = (t.cluster t.cur.cl).drafts ++ [d] ∧ d.owner = t.self.uid ∧ d.opc = t.cx.pc ∧
          d.elems = es.filter (fun e => !own.contains e)) ∧
      (own = es → doStore t es = (performStore t t.me es).finish))) ∧
  (∀ (s : State) (c : CtxId) (e : StoreElem), (s.slot c).wait = some (.confirm [e]) →
    e.size = 1 ∨ e.size = 2 ∨ e.size = 4 ∨ e.size = 8 → e.mask = 2 ^ (8 * e.size) - 1 →
    e.val < 2 ^ (8 * e.size) → Memory.wf s.mem = true →
    (∀ l, access s (s.whoIs c) e.addr e.size .write = .loc l → isHbm l = true ∨ locRegion l ≠ 4 → s.room l e.size = .free →
      ∃ u : State, exec (.storeConfirmation c) s = .next (u.finishAt c 4) ∧ u.mem = Memory.setN s.mem l e.size e.val ∧
        (∀ i < e.size, Memory.get u.mem (l + i) = BitVec.ofNat 8 (e.val / 256 ^ i)) ∧
        (∀ x, x < l ∨ l + e.size ≤ x → Memory.get u.mem x = Memory.get s.mem x) ∧
        (u.slot c) = { s.slot c with wait := none, wcount := 0, digest := (u.slot c).digest, late := (u.slot c).late } ∧
        (let key := match form e.addr with | .glob _ _ _ _ region off => region * 2 ^ 15 + off | _ => e.addr.toNat
         (s.launchOf c).rc.digest = true → (s.slot c).speculative = false → (u.slot c).late = (s.slot c).late ∧
           (u.slot c).digest = gen ((s.slot c).digest ^^^ BitVec.ofNat 64 e.val) (BitVec.ofNat 64 (16 * key + e.size))) ∧
        ∀ d, d ≠ c → u.slot d = s.slot d) ∧
    (∀ l, access s (s.whoIs c) e.addr e.size .write = .loc l → isHbm l = false → locRegion l = 4 →
      (l % 2 ^ 15 = 0x018 → 2 ≤ e.val % 4 → exec (.storeConfirmation c) s = .next (s.raiseAt c (trapInfo 0x051 e.addr 1))) ∧
      (l % 2 ^ 15 ≠ 0x018 ∨ e.val % 4 < 2 →
      ∃ u : State, exec (.storeConfirmation c) s = .next (u.finishAt c 4) ∧ u.mem = s.mem ∧ (u.slot c).wait = none ∧
        u.agenda = s.agenda.takeWhile Turn.isWindow ++
          .window (if (s.whoIs c).sys then some c.core else none) (locCore l) (l % 2 ^ 15) (BitVec.ofNat 64 e.val) :: s.agenda.dropWhile Turn.isWindow)) ∧
    (∀ l d g, access s (s.whoIs c) e.addr e.size .write = .loc l → isHbm l = true ∨ locRegion l ≠ 4 → s.room l e.size = .area d g →
      ∃ (u : State) (o : Overflow), exec (.storeConfirmation c) s = .next (u.finishAt c 4) ∧ u.mem = s.mem ∧ (u.slot c).wait = none ∧
        (u.gang g).overflow = (s.gang g).overflow ++ [o] ∧ o.slot = d ∧ o.req.addr = e.addr ∧ o.req.size = e.size ∧ o.req.data = e.val ∧
        ∀ h, h ≠ g → u.gang h = s.gang h) ∧
    (∀ l, access s (s.whoIs c) e.addr e.size .write = .loc l → s.room l e.size = .full → exec (.storeConfirmation c) s = .next s) ∧
    (∀ f, access s (s.whoIs c) e.addr e.size .write = .fault f →
      exec (.storeConfirmation c) s = .next (s.raiseAt c { f with eaddr := e.addr })) ∧
    (access s (s.whoIs c) e.addr e.size .write = .retry → exec (.storeConfirmation c) s = .next s))

/-! ## The vector lanes -/

/-- The two-source lane operations (R66, R86 to R89, R115): under the type that the tags fix, each active lane takes the operation on the lanes of a
and b, an INT4 lane read as the extension of its low four bits and a TAP6 lane as its low six (R72, R117), and the result, its tag and its flags go
where R46, R83 and R84 send them. The one-source lane operations and the special functions (R66, R86
to R88, R92, R110 to R114); VMOV copies bits. On the patterns of the four formats (R67) the sum, the difference and the product are the exact values
rounded once, with signed zeros, infinities and NaNs as R69 and R87 give them, and so are the quotient and the steps of R115 and the square root; the
estimates are those of R112 and R113, and the special values, the range NaN and the exact cases of the special functions those of R114; the other
values of VSIN, VCOS, VEXP2 and VLOG2 stand as the machine computes them. Where the manual leaves it open, what is said rests on entries 11 and 56 of
the assumption log. -/
def Obligations.LaneResults : Prop :=
  (∀ (st t : State) (s z : Bool) (d a b : BitVec 6) (k : BitVec 3) (os : List Opnd) (ty : Tag) (long : Bool),
    let q : VIss := { s := s, d := d, srcs := [a, b], long := long }
    let x := fun (j i : Nat) => readLane ty ((os.getD j .zero).bits ty) i
    VectorTakes q st t os →
    ∀ p ∈ [(Instr.vadd s d a b k z, false, tyFpInt, fun i => laneAdd ty (x 0 i) (x 1 i)),
           (.vsub s d a b k z, false, tyFpInt, fun i => laneSub ty (x 0 i) (x 1 i)),
           (.vmul s d a b k z, false, tyFpInt, fun i => laneMul ty (x 0 i) (x 1 i)),
           (.vmax s d a b k z, false, tyFpInt, fun i => laneMax ty (x 0 i) (x 1 i)),
           (.vmin s d a b k z, false, tyFpInt, fun i => laneMin ty (x 0 i) (x 1 i)),
           (.vmulh s d a b k z, false, tyInt, fun i => (laneMulh ty (x 0 i) (x 1 i), 0)),
           (.vand s d a b k z, false, tyAny, fun i => (fixElem ty (x 0 i &&& x 1 i), 0)),
           (.vor s d a b k z, false, tyAny, fun i => (fixElem ty (x 0 i ||| x 1 i), 0)),
           (.vxor s d a b k z, false, tyAny, fun i => (fixElem ty (x 0 i ^^^ x 1 i), 0)),
           (.vandn s d a b k z, false, tyAny, fun i => (fixElem ty (x 0 i &&& (2 ^ ty.ebits - 1 - x 1 i)), 0)),
           (.vsll s d a b k z, false, tyInt, fun i => (laneSll ty (x 0 i) (shiftAmount ty (os.getD 1 .zero)), 0)),
           (.vsrl s d a b k z, false, tyInt, fun i => (laneSrl ty (x 0 i) (shiftAmount ty (os.getD 1 .zero)), 0)),
           (.vsra s d a b k z, false, tyInt, fun i => (laneSra ty (x 0 i) (shiftAmount ty (os.getD 1 .zero)), 0)),
           (.vrcps s d a b k z, true, tyFp3, fun i => fp2 fpRcps ty (x 0 i) (x 1 i)),
           (.vrsqs s d a b k z, true, tyFp3, fun i => fp2 fpRsqs ty (x 0 i) (x 1 i)),
           (.vdiv s d a b k z, true, tyFp, fun i => fp2 fpDiv ty (x 0 i) (x 1 i))],
      long = p.2.1 → typeOf t.cx os d p.2.2.1 = .ok ty →
        ∃ c r f, exec p.1 st = .next ((t.setCx c).finish) ∧ VectorResult q ty r f t.cx c ∧
          LaneResult ty (t.cx.rk k.toNat) z (oldOf t.cx d) p.2.2.2 r f) ∧
  (∀ (st t : State) (s z : Bool) (d a : BitVec 6) (k : BitVec 3) (os : List Opnd) (ty : Tag) (long : Bool),
    let q : VIss := { s := s, d := d, srcs := [a], long := long }
    let x := fun (i : Nat) => readLane ty ((os.getD 0 .zero).bits ty) i
    VectorTakes q st t os →
    ∀ p ∈ [(Instr.vmov s d a k z, false, tyAny, fun i => (laneOf ty.ebits ((os.getD 0 .zero).bits ty) i, (0 : FlagBits))), (.vabs s d a k z, false, tyFpInt, fun i => laneAbs ty (x i)),
           (.vneg s d a k z, false, tyFpInt, fun i => laneNeg ty (x i)), (.vrcpe s d a k z, true, tyFp3, fun i => fp1 fpRcpe ty (x i)),
           (.vrsqe s d a k z, true, tyFp3, fun i => fp1 fpRsqe ty (x i)), (.vsin s d a k z, true, tyFp3, fun i => fp1 fpSin ty (x i)),
           (.vcos s d a k z, true, tyFp3, fun i => fp1 fpCos ty (x i)), (.vexp2 s d a k z, true, tyFp3, fun i => fp1 fpExp2 ty (x i)),
           (.vlog2 s d a k z, true, tyFp3, fun i => fp1 fpLog2 ty (x i)), (.vsqrt s d a k z, true, tyFp, fun i => fp1 fpSqrt ty (x i))],
      long = p.2.1 → typeOf t.cx os d p.2.2.1 = .ok ty →
        ∃ c r f, exec p.1 st = .next ((t.setCx c).finish) ∧ VectorResult q ty r f t.cx c ∧
          LaneResult ty (t.cx.rk k.toNat) z (oldOf t.cx d) p.2.2.2 r f) ∧
  (∀ p ∈ ieeeLayouts, ∀ (a b : Nat), let t := p.1
    let f := p.2
    let sgn := 2 ^ (f.eb + f.fb)
    let x := exactOf f a
    let y := exactOf f b
    let one := (2 ^ (f.eb - 1) - 1) * 2 ^ f.fb
    let two := fun (r : Nat × FlagBits) (rule : Nat × FlagBits → Prop) => WithNans f [a, b] false r (rule r)
    let solo := fun (r : Nat × FlagBits) (rule : Nat × FlagBits → Prop) => WithNans f [a] false r (rule r)
    let step := fun (c h : ℚ) (r : Nat × FlagBits) =>
      match x, y with
      | .fin _ u, .fin _ v => if u = 0 ∨ v = 0 then r = (one, 0) else RoundsTo f (((c - u * v) / h : ℚ) : ℝ) false r
      | _, _ => r = (one, 0)
    let estimate := fun (v : ℝ) (r : Nat × FlagBits) => ∃ fl : FlagBits, RoundsTo f v false (r.1, fl) ∧ r.2 = if fl &&& 12 = 0 then 0 else fl
    a < 2 * sgn → b < 2 * sgn →
      two (laneAdd t a b) (SumRounds f (some x) (some y)) ∧
      two (laneSub t a b) (SumRounds f (some x) (some y.opp)) ∧
      two (laneMul t a b) (ProductRounds f (x.times y)) ∧
      two (laneMax t a b) (· = (if ieeeRank f a < ieeeRank f b then b else a, 0)) ∧
      two (laneMin t a b) (· = (if ieeeRank f b < ieeeRank f a then b else a, 0)) ∧
      laneAbs t a = (a % sgn, 0) ∧ laneNeg t a = ((a + sgn) % (2 * sgn), 0) ∧
      two (fp2 fpRcps t a b) (step 2 1) ∧ two (fp2 fpRsqs t a b) (step 3 2) ∧
      two (fp2 fpDiv t a b) (fun r => match x, y with
        | .fin m u, .fin n v => if v = 0 then r = (if u = 0 then (ieeeDefault f, 1) else (ieeeInfinity f (m != n), 2))
          else RoundsTo f ((u / v : ℚ) : ℝ) (m != n) r
        | .inf m, .fin n _ => r = (ieeeInfinity f (m != n), 0)
        | .fin m _, .inf n => r = (if m != n then sgn else 0, 0)
        | .inf _, .inf _ => r = (ieeeDefault f, 1)) ∧
      solo (fp1 fpSqrt t a) (fun r => match x with
        | .fin n u => if u = 0 then r = (a, 0) else if n then r = (ieeeDefault f, 1) else RoundsTo f (Real.sqrt (u : ℝ)) false r
        | .inf n => r = if n then (ieeeDefault f, 1) else (a, 0)) ∧
      solo (fp1 fpRcpe t a) (fun r => match x with
        | .fin n u => if u = 0 then r = (ieeeInfinity f n, 0) else
          let e := Int.log 2 |u|
          let m : ℚ := (⌊|u| * (2 : ℚ) ^ (11 - e)⌋ + 1 / 2) / 2 ^ 11
          let g : ℤ := round ((2 : ℚ) ^ 12 / m)
          estimate ((if n then -1 else 1) * g / 2 ^ 12 * (2 : ℝ) ^ (-e)) r
        | .inf n => r = (if n then sgn else 0, 0)) ∧
      solo (fp1 fpRsqe t a) (fun r => match x with
        | .fin n u => if u = 0 then r = (ieeeInfinity f n, 0) else if n then r = (ieeeDefault f, 1) else
          let h := Int.log 2 |u| / 2
          let m : ℚ := (⌊|u| * (2 : ℚ) ^ (10 - 2 * h)⌋ + 1 / 2) / 2 ^ 10
          ∃ g : ℤ, |(g : ℝ) - (2 : ℝ) ^ 12 / Real.sqrt (m : ℝ)| ≤ 1 / 2 ∧ estimate ((g : ℝ) / 2 ^ 12 * (2 : ℝ) ^ (-h)) r
        | .inf n => r = if n then (ieeeDefault f, 1) else (0, 0)) ∧
      solo (fp1 fpSin t a) (fun r => match x with
        | .fin _ u => (u = 0 → r = (a, 0)) ∧ (2 ^ 16 < |u| → r = (ieeeDefault f + 1, 64))
        | .inf _ => r = (ieeeDefault f + 1, 64)) ∧
      solo (fp1 fpCos t a) (fun r => match x with
        | .fin _ u => (u = 0 → r = (one, 0)) ∧ (2 ^ 16 < |u| → r = (ieeeDefault f + 1, 64))
        | .inf _ => r = (ieeeDefault f + 1, 64)) ∧
      solo (fp1 fpExp2 t a) (fun r => match x with
        | .fin _ u => ∀ n : ℤ, u = n → RoundsTo f ((2 : ℝ) ^ n) false r
        | .inf n => r = if n then (0, 0) else (a, 0)) ∧
      solo (fp1 fpLog2 t a) (fun r => match x with
        | .fin n u => (u = 0 → r = (ieeeInfinity f true, 2)) ∧ (u ≠ 0 → n = true → r = (ieeeDefault f, 1)) ∧
          (∀ e : ℤ, u = (2 : ℚ) ^ e → RoundsTo f (e : ℝ) false r)
        | .inf n => r = if n then (ieeeDefault f, 1) else (a, 0)))

/-- VFMA, VFMS and the 16-bit forms (R33, R86, R87, R91): a third source is the destination's old value; a 16-bit form works on vd and vs under
k0, VFMAL takes l0 as a factor, and the pc passes two bytes. The immediate forms (R90) and VSLIDE (R98). On the patterns of the four formats (R67) the
fused results are d ± a·b with one rounding, an infinity times a zero INVALID whatever d is, NaNs in the order of the sources (R69, R74). -/
def Obligations.FusedShortAndImmediateResults : Prop :=
  (∀ (st t : State) (s z : Bool) (d a b : BitVec 6) (k : BitVec 3) (vd vs : BitVec 5) (os : List Opnd) (ty : Tag) (ok : Tag → Bool),
    let x := fun (j i : Nat) => readLane ty ((os.getD j .zero).bits ty) i
    (∀ p ∈ [(Instr.vfma s d a b k z, false), (.vfms s d a b k z, true)],
      let q : VIss := { s := s, d := d, srcs := [a, b, d] }
      VectorTakes q st t os → typeOf t.cx os d tyFp = .ok ty →
        ∃ c r f, exec p.1 st = .next ((t.setCx c).finish) ∧ VectorResult q ty r f t.cx c ∧
          LaneResult ty (t.cx.rk k.toNat) z (oldOf t.cx d) (fun i => laneFma ty p.2 (x 0 i) (x 1 i) (x 2 i)) r f) ∧
    (∀ p ∈ [(Instr.vadd16 s vd vs, tyFpInt, [vd, vs].map spec5, fun i => laneAdd ty (x 0 i) (x 1 i)),
            (.vsub16 s vd vs, tyFpInt, [vd, vs].map spec5, fun i => laneSub ty (x 0 i) (x 1 i)),
            (.vmul16 s vd vs, tyFpInt, [vd, vs].map spec5, fun i => laneMul ty (x 0 i) (x 1 i)),
            (.vmax16 s vd vs, tyFpInt, [vd, vs].map spec5, fun i => laneMax ty (x 0 i) (x 1 i)),
            (.vmin16 s vd vs, tyFpInt, [vd, vs].map spec5, fun i => laneMin ty (x 0 i) (x 1 i)),
            (.vand16 s vd vs, tyAny, [vd, vs].map spec5, fun i => (fixElem ty (x 0 i &&& x 1 i), 0)),
            (.vor16 s vd vs, tyAny, [vd, vs].map spec5, fun i => (fixElem ty (x 0 i ||| x 1 i), 0)),
            (.vxor16 s vd vs, tyAny, [vd, vs].map spec5, fun i => (fixElem ty (x 0 i ^^^ x 1 i), 0)),
            (.vsll16 s vd vs, tyInt, [vd, vs].map spec5, fun i => (laneSll ty (x 0 i) (shiftAmount ty (os.getD 1 .zero)), 0)),
            (.vsrl16 s vd vs, tyInt, [vd, vs].map spec5, fun i => (laneSrl ty (x 0 i) (shiftAmount ty (os.getD 1 .zero)), 0)),
            (.vmov16 s vd vs, tyAny, [spec5 vs], fun i => (laneOf ty.ebits ((os.getD 0 .zero).bits ty) i, 0)), (.vneg16 s vd vs, tyFpInt, [spec5 vs], fun i => laneNeg ty (x 0 i)),
            (.vabs16 s vd vs, tyFpInt, [spec5 vs], fun i => laneAbs ty (x 0 i)),
            (.vfmal s vd vs, tyFp, [spec5 vd, spec5 vs, 40], fun i => laneFmal ty (x 0 i) (x 1 i) (x 2 i))],
      let q : VIss := { s := s, len := 2, d := spec5 vd, srcs := p.2.2.1 }
      VectorTakes q st t os → ok = p.2.1 → typeOf t.cx os (spec5 vd) ok = .ok ty →
        ∃ c r f, exec p.1 st = .next ((t.setCx c).finish 2) ∧ VectorResult q ty r f t.cx c ∧
          LaneResult ty (t.cx.rk 0) false (oldOf t.cx (spec5 vd)) p.2.2.2 r f)) ∧
  (∀ (st t : State) (s : Bool) (d a : BitVec 6) (n : BitVec 8) (k : BitVec 2) (os : List Opnd) (ty : Tag),
    let x := fun (i : Nat) => readLane ty ((os.getD 0 .zero).bits ty) i
    (∀ p ∈ [(Instr.vaddi s d a n k, tyInt, [a], fun (i : Nat) => (wrapInt ty (intVal ty (x i) + n.toInt), (0 : FlagBits))),
            (.vslli s d a n k, tyInt, [a], fun i => (laneSll ty (x i) n.toNat, 0)), (.vsrli s d a n k, tyInt, [a], fun i => (laneSrl ty (x i) n.toNat, 0)),
            (.vsrai s d a n k, tyInt, [a], fun i => (laneSra ty (x i) n.toNat, 0)), (.vmovi s d n k, tyFpInt, [], fun _ => (immElem ty n, 0)),
            (.vslide s d a n k, tyAny, [a], fun i => if 0 ≤ (i : Int) - n.toInt ∧ (i : Int) - n.toInt < ty.lanes then (x ((i : Int) - n.toInt).toNat, 0)
              else (0, 0))],
      let q : VIss := { s := s, d := d, srcs := p.2.2.1 }
      VectorTakes q st t os → typeOf t.cx os d p.2.1 = .ok ty →
        ∃ c r f, exec p.1 st = .next ((t.setCx c).finish) ∧ VectorResult q ty r f t.cx c ∧
          LaneResult ty (t.cx.rk k.toNat) false (oldOf t.cx d) p.2.2.2 r f)) ∧
  (∀ p ∈ ieeeLayouts, ∀ (sub : Bool) (a b d : Nat), a < 2 ^ (p.2.eb + p.2.fb + 1) → b < 2 ^ (p.2.eb + p.2.fb + 1) → d < 2 ^ (p.2.eb + p.2.fb + 1) →
    FusedRounds p.2 sub [a, b, d] a b d (laneFma p.1 sub a b d) ∧ FusedRounds p.2 false [d, a, b] a b d (laneFmal p.1 d a b))

/-- The type of a C-class instruction (R64, R66), for two register sources: the tags are looked at in order, a tag NONE traps with TAG_NONE, two
different tags with TAG_MISMATCH, and a type outside the operation's set with TAG_UNSUPPORTED; broadcast and vz sources fix no tag, so with them
alone the type is the destination's. An instruction that traps so writes nothing. Integer lanes (R73, R88, R89): a sum, difference or product is
exact modulo 2^w and fits the element, with no flag; the larger and the smaller are chosen by value; VMULH is the high half of the exact product; a
shift by the width or more gives 0, or the sign. Where the manual leaves it open, what is said rests on entry 20 of the assumption log. -/
def Obligations.TypesAndIntegerLanes : Prop :=
  (∀ (c : Ctxt) (x y : VReg) (d : BitVec 6) (ok : Tag → Bool),
    (x.tag = .none → typeOf c [.reg x, .reg y] d ok = .error 0x009) ∧
    (x.tag ≠ .none → y.tag = .none → typeOf c [.reg x, .reg y] d ok = .error 0x009) ∧
    (x.tag ≠ .none → y.tag ≠ .none → y.tag ≠ x.tag → typeOf c [.reg x, .reg y] d ok = .error 0x008) ∧
    (x.tag ≠ .none → y.tag = x.tag → typeOf c [.reg x, .reg y] d ok = if ok x.tag then .ok x.tag else .error 0x00A) ∧
    (∀ v, y.tag ≠ .none → typeOf c [.bcast v, .reg y] d ok = if ok y.tag then .ok y.tag else .error 0x00A) ∧
    (∀ v w, d.toNat < 40 → typeOf c [.bcast v, .bcast w] d ok =
      if (c.vreg d).tag = .none then .error 0x009 else if ok (c.vreg d).tag then .ok (c.vreg d).tag else .error 0x00A) ∧
    (∀ (st t : State) (s z : Bool) (a b : BitVec 6) (k : BitVec 3) (os : List Opnd) (e : BitVec 9),
      VectorTakes { s := s, d := d, srcs := [a, b] } st t os → typeOf t.cx os d tyFpInt = .error e →
        exec (.vadd s d a b k z) st = .next (t.raise (trapInfo e)))) ∧
  (∀ (t : Tag) (a b n : Nat), t.isInt = true →
    let v := fun (r : Nat) => intVal t r
    let m : Int := (2 ^ t.iw : Nat)
    (laneAdd t a b).2 = 0 ∧ (laneSub t a b).2 = 0 ∧ (laneMul t a b).2 = 0 ∧ (laneMax t a b).2 = 0 ∧
    v (laneAdd t a b).1 % m = (v a + v b) % m ∧ v (laneSub t a b).1 % m = (v a - v b) % m ∧ v (laneMul t a b).1 % m = (v a * v b) % m ∧
    (laneAdd t a b).1 < 2 ^ t.ebits ∧ (laneMul t a b).1 < 2 ^ t.ebits ∧
    v (laneMax t a b).1 = max (v a) (v b) ∧ v (laneMin t a b).1 = min (v a) (v b) ∧
    v (laneMulh t a b) = v a * v b / m ∧
    (t.iw ≤ n → v (laneSll t a n) = 0 ∧ v (laneSrl t a n) = 0) ∧ (n < t.iw → v (laneSll t a n) % m = v a * 2 ^ n % m) ∧
    v (laneSra t a n) = v a / 2 ^ n)

/-- The compares (R64, R82, R93): all bits of an active lane's group in kd tell whether the relation holds; inactive lanes keep their bits or,
with .z, are 0; k0 discards; the flags are those of the active lanes; no other register changes. A compare with a queue source is long-class (R46): its
entries are taken, and its lanes and flags wait in the return buffer for kd, or the deferred fault of a fault entry does (R164). KAND, KOR, KXOR, KANDN (R94) work bit by bit under kN, and VWHILE (R95) sets the lanes whose
index is below the bound, compared exactly; k0 discards, and no flag or other register changes. -/
def Obligations.ComparesAndPredicates : Prop :=
  (∀ (st t : State) (s z : Bool) (d a b : BitVec 6) (k : BitVec 3) (os : List Opnd) (ty : Tag),
    let q : VIss := { s := s, d := 63, srcs := [a, b], l := false }
    let x := fun (j i : Nat) => readLane ty ((os.getD j .zero).bits ty) i
    VectorTakes q st t os → q.isLong = true → typeOf t.cx os 63 tyFpInt = .ok ty → d.toNat < 8 →
    ∀ p ∈ [(Instr.vcmpeq s d a b k z, 0), (.vcmpne s d a b k z, 1), (.vcmplt s d a b k z, 2), (.vcmple s d a b k z, 3)],
      ∃ r f, exec p.1 st = .next ((t.setCx (Waiting (popAll t.cx [a, b]) (.pred d) (.pred r) f false)).finish) ∧
        (∀ i < ty.lanes, ∀ j < ty.ebits / 8, r.getLsbD (i * (ty.ebits / 8) + j) =
          if (t.cx.rk k.toNat).getLsbD (i * (ty.ebits / 8)) then (laneCmp ty p.2 (x 0 i) (x 1 i)).1
          else if z then false else (t.cx.rk d.toNat).getLsbD (i * (ty.ebits / 8) + j)) ∧
        (∀ n < 7, f.getLsbD n = true ↔ ∃ i < ty.lanes, (t.cx.rk k.toNat).getLsbD (i * (ty.ebits / 8)) = true ∧
          (laneCmp ty p.2 (x 0 i) (x 1 i)).2.getLsbD n = true)) ∧
  (∀ (st t : State) (s z : Bool) (d a b : BitVec 6) (k : BitVec 3) (os : List Opnd) (m : Mark),
    let q : VIss := { s := s, d := 63, srcs := [a, b], l := false }
    Takes q.iss st t → operands t.cx [] [a, b] = some os → firstMark (os.filterMap Opnd.mark?) = some m →
    ∀ i ∈ [Instr.vcmpeq s d a b k z, .vcmpne s d a b k z, .vcmplt s d a b k z, .vcmple s d a b k z],
      exec i st = .next ((t.setCx (Waiting (popAll t.cx [a, b]) (.pred d) (.fault m) 0 false)).finish)) ∧
  (∀ (st t : State) (s z : Bool) (d a b : BitVec 6) (k : BitVec 3) (os : List Opnd) (ty : Tag),
    let q : VIss := { s := s, d := 63, srcs := [a, b], l := false }
    let x := fun (j i : Nat) => readLane ty ((os.getD j .zero).bits ty) i
    VectorTakes q st t os → q.isLong = false → typeOf t.cx os 63 tyFpInt = .ok ty → d.toNat < 8 →
    ∀ p ∈ [(Instr.vcmpeq s d a b k z, 0), (.vcmpne s d a b k z, 1), (.vcmplt s d a b k z, 2), (.vcmple s d a b k z, 3)],
      ∃ c f, exec p.1 st = .next ((t.setCx c).finish) ∧ c = { t.cx with k := c.k, rb := supersede (.pred d) t.cx.rb, flags := t.cx.flags ||| (f : FlagBits).setWidth 64 } ∧
        (∀ e < 8, e ≠ d.toNat → c.rk e = t.cx.rk e) ∧
        (d ≠ 0 → ∀ i < ty.lanes, ∀ j < ty.ebits / 8, (c.rk d.toNat).getLsbD (i * (ty.ebits / 8) + j) =
          if (t.cx.rk k.toNat).getLsbD (i * (ty.ebits / 8)) then (laneCmp ty p.2 (x 0 i) (x 1 i)).1
          else if z then false else (t.cx.rk d.toNat).getLsbD (i * (ty.ebits / 8) + j)) ∧
        (d = 0 → c.k = t.cx.k) ∧
        (∀ n < 7, f.getLsbD n = true ↔ ∃ i < ty.lanes, (t.cx.rk k.toNat).getLsbD (i * (ty.ebits / 8)) = true ∧
          (laneCmp ty p.2 (x 0 i) (x 1 i)).2.getLsbD n = true)) ∧
  (∀ (st t : State) (s z : Bool) (d a b : BitVec 6) (k : BitVec 3) (es : BitVec 3), d.toNat < 8 → es.toNat < 4 →
    let puts := fun (i : Instr) (v : Nat → Bool) => ∃ c, exec i st = .next ((t.setCx c).finish) ∧
      c = { t.cx with k := c.k, rb := supersede (.pred d) t.cx.rb } ∧ (∀ e < 8, e ≠ d.toNat → c.rk e = t.cx.rk e) ∧ (d = 0 → c.k = t.cx.k) ∧
      (d ≠ 0 → ∀ j < 32, (c.rk d.toNat).getLsbD j = v j)
    (Takes { s := s } st t → a.toNat < 8 → b.toNat < 8 →
      ∀ p ∈ [(Instr.kand s d a b k z, fun (x y : Bool) => x && y), (.kor s d a b k z, fun x y => x || y), (.kxor s d a b k z, fun x y => x != y),
             (.kandn s d a b k z, fun x y => x && !y)],
        puts p.1 (fun j => if (t.cx.rk k.toNat).getLsbD j then p.2 ((t.cx.rk a.toNat).getLsbD j) ((t.cx.rk b.toNat).getLsbD j)
          else if z then false else (t.cx.rk d.toNat).getLsbD j)) ∧
    (Takes { s := s, v := [a, b] } st t →
      puts (.vwhile s d a b es) (fun j => decide ((t.cx.ra (specA a)).toInt + (j / 2 ^ es.toNat : Nat) < (t.cx.ra (specA b)).toInt))))

/-- The permutes and zips (R96, R97, R99): VPERM takes lane x of a for an index 0 ≤ x < L and 0 otherwise; VBCAST, VEXT and VINS use one lane;
VZIPn interleaves n registers and VUNZIPn takes every n-th element. The ordered reductions (R100, R101): the active lanes are taken in
ascending order from the lowest, each step rounded as the operation rounds, with no active lane the result is the identity, and it stands in
lane 0 with 0 in every other lane; stated for integer types and for lanes that hold no NaN. Lanes are read as R72 and R117 say. Where the manual
leaves it open, what is said rests on entry 56 of the assumption log. -/
def Obligations.PermutesAndReductions : Prop :=
  (∀ (st t : State) (s z : Bool) (d a b : BitVec 6) (k : BitVec 3) (os : List Opnd) (ty : Tag),
    let x := fun (j i : Nat) => readLane ty ((os.getD j .zero).bits ty) i
    let gives := fun (i : Instr) (q : VIss) (op : Nat → Nat) => ∃ c r, exec i st = .next ((t.setCx c).finish) ∧
      VectorResult q ty r 0 t.cx c ∧ LaneResult ty (t.cx.rk k.toNat) z (oldOf t.cx d) (fun i => (op i, 0)) r 0
    (∀ n : Nat → Int, VectorTakes { s := s, d := d, srcs := [a, b] } st t os → typeOf t.cx (os.take 1) d tyAny = .ok ty →
      (match os.getD 1 .zero with
        | .reg u => u.tag.isInt = true ∧ u.tag.ebits = ty.ebits ∧ ∀ i, n i = intVal u.tag (laneOf u.tag.ebits u.bits i)
        | .ent u => u.tag.isInt = true ∧ u.tag.ebits = ty.ebits ∧ ∀ i, n i = intVal u.tag (laneOf u.tag.ebits u.bits i)
        | .bcast v => ∀ i, n i = sgn ty.ebits v.toNat
        | .zero => ∀ i, n i = 0) →
      gives (.vperm s d a b k z) { s := s, d := d, srcs := [a, b] } (fun i =>
        if 0 ≤ n i ∧ n i < ty.lanes then x 0 (n i).toNat else 0)) ∧
    (VectorTakes { s := s, d := d, srcs := [a] } st t os → typeOf t.cx os d tyAny = .ok ty → b.toNat < ty.lanes →
      gives (.vbcast s d a b k z) { s := s, d := d, srcs := [a] } (fun _ => x 0 b.toNat) ∧
      gives (.vext s d a b k z) { s := s, d := d, srcs := [a] } (fun i => if i = 0 then x 0 b.toNat else 0)) ∧
    (d ≠ 63 → VectorTakes { s := s, d := d, srcs := [a, d] } st t os → typeOf t.cx (os.take 1) d tyAny = .ok ty → b.toNat < ty.lanes →
      destTag t.cx d = .none ∨ destTag t.cx d = ty →
      gives (.vins s d a b k z) { s := s, d := d, srcs := [a, d] } (fun i => if i = b.toNat then x 0 0 else readLane ty (oldOf t.cx d) i)) ∧
    (d = 63 → VectorTakes { s := s, d := d, srcs := [a] } st t os → typeOf t.cx (os.take 1) d tyAny = .ok ty → b.toNat < ty.lanes →
      gives (.vins s d a b k z) { s := s, d := d, srcs := [a] } (fun i => if i = b.toNat then x 0 0 else 0)) ∧
    (∀ p ∈ [(Instr.vzip2 s d a b k z, 2), (.vzip3 s d a b k z, 3), (.vzip4 s d a b k z, 4)],
      let q : VIss := { s := s, d := d, srcs := (List.range p.2).map (fun i => a + BitVec.ofNat 6 i) }
      VectorTakes q st t os → typeOf t.cx os d tyAny = .ok ty →
        gives p.1 q (fun i => x ((b.toNat * ty.lanes + i) % p.2) ((b.toNat * ty.lanes + i) / p.2))) ∧
    (∀ p ∈ [(Instr.vunzip2 s d a b k z, 2), (.vunzip3 s d a b k z, 3), (.vunzip4 s d a b k z, 4)],
      let q : VIss := { s := s, d := d, srcs := (List.range p.2).map (fun i => a + BitVec.ofNat 6 i) }
      VectorTakes q st t os → typeOf t.cx os d tyAny = .ok ty →
        gives p.1 q (fun i => x ((i * p.2 + b.toNat) / ty.lanes) ((i * p.2 + b.toNat) % ty.lanes)))) ∧
  (∀ (st t : State) (s : Bool) (d a : BitVec 6) (k : BitVec 3) (os : List Opnd) (ty : Tag),
    let q : VIss := { s := s, d := d, srcs := [a] }
    let x := fun (i : Nat) => readLane ty ((os.getD 0 .zero).bits ty) i
    let act := (List.range ty.lanes).filter (fun i => (t.cx.rk k.toNat).getLsbD (i * (ty.ebits / 8)))
    VectorTakes q st t os → (∀ f, ty.ieee = some f → ∀ i ∈ act, (f.num (x i)).isNan = false) →
    ∀ p ∈ [(Instr.vrsum s d a k, tyFpInt, 0, laneAdd ty), (.vrmax s d a k, tyFpInt, idMax ty, laneMax ty),
           (.vrmin s d a k, tyFpInt, idMin ty, laneMin ty), (.vrand s d a k, tyInt, wrapInt ty (-1), lAnd ty), (.vror s d a k, tyInt, 0, lOr ty),
           (.vrxor s d a k, tyInt, 0, lXor ty)],
      typeOf t.cx os d p.2.1 = .ok ty →
        ∃ c r f, exec p.1 st = .next ((t.setCx c).finish) ∧ VectorResult q ty r f t.cx c ∧
          (∀ i < ty.lanes, laneOf ty.ebits r i = if i ≠ 0 then 0 else
            (match act with | [] => p.2.2.1 | i :: is => is.foldl (fun v j => (p.2.2.2 v (x j)).1) (x i)) % 2 ^ ty.ebits))

/-- VCVT, VTAG and VRQ (R116 to R118): VCVT converts each lane from the source's type to the type named: the tag of a register or a queue entry,
INT64 for a broadcast, whose whole register stands in every lane, and +0 for vz; a source tagged NONE traps with TAG_NONE, and target lanes beyond
the source's are 0. VTAG of a register or a queue entry changes the tag and no bit; one that names a broadcast register or vz is RESERVED_FIELD. VRQ scales each INT32 lane by oM, shifts it by oM+1 with rounding, adds oM+2 and saturates into
INT8 or INT4. -/
def Obligations.ConversionsRetagAndRequantise : Prop :=
  ∀ (st t : State) (s z : Bool) (d a fmt : BitVec 6) (k m tgt : BitVec 3) (os : List Opnd),
    let ty := tagOf fmt.toNat
    let q : VIss := { s := s, d := d, srcs := [a] }
    let cvt := fun (op : Nat → Nat × FlagBits) => ∃ c r f, exec (.vcvt s d a fmt k z) st = .next ((t.setCx c).finish) ∧ VectorResult q ty r f t.cx c ∧
      LaneResult ty (t.cx.rk k.toNat) z (oldOf t.cx d) op r f
    (VectorTakes q st t os →
      (∀ (b : VBits) (g : Tag), (∃ x, os = [.reg ⟨b, g, x⟩]) ∨ (∃ x, os = [.ent ⟨b, g, x⟩]) →
        (g = .none → exec (.vcvt s d a fmt k z) st = .next (t.raise (trapInfo 0x009))) ∧
        (g ≠ .none → cvt (fun i => if i < g.lanes then convert g ty (readLane g b i) else (0, 0))) ∧
        (∃ c, exec (.vtag s d a fmt) st = .next ((t.setCx c).finish) ∧ VectorResult q ty b 0 t.cx c)) ∧
      (∀ v, os = [.bcast v] → cvt (fun i => if i < 4 then convert .int64 ty v.toNat else (0, 0))) ∧
      (os = [.zero] → cvt (fun _ => (0, 0)))) ∧
    (fmt.toNat ≤ 13 → (50 ≤ a.toNat ∧ a.toNat < 58) ∨ a = 63 → ∀ rest : List Byte,
      decode (leBytes 4 (fmt.toNat * 2 ^ 22 + a.toNat * 2 ^ 16 + d.toNat * 2 ^ 10 + 0x2D * 2 ^ 3 + 2 ^ 2 + (if s then 1 else 0) * 2 + 1) ++ rest) =
        .error .reservedField) ∧
    (∀ (x0 : Opnd) (x1 x2 x3 : VReg), os = [x0, .reg x1, .reg x2, .reg x3] → x0.tag? = some .int32 ∨ x0.tag? = none →
      (∀ x ∈ [x1, x2, x3], x.tag = .int32) → m.toNat < 6 → tgt.toNat < 2 →
      let q : VIss := { s := s, d := d, srcs := [a, BitVec.ofNat 6 (32 + m.toNat), BitVec.ofNat 6 (33 + m.toNat), BitVec.ofNat 6 (34 + m.toNat)] }
      let ty : Tag := if tgt = 0 then .int8 else .int4
      let l := fun (x : VBits) (i : Nat) => laneOf 32 x i
      VectorTakes q st t os → ∃ c r f, exec (.vrq s d a tgt m k z) st = .next ((t.setCx c).finish) ∧ VectorResult q ty r f t.cx c ∧
        LaneResult ty (t.cx.rk k.toNat) z (oldOf t.cx d) (fun i =>
          if i < 8 then requant ty (sgn 32 (l (x0.bits .int32) i)) (sgn 32 (l x1.bits i)) (l x2.bits i % 64) (sgn 32 (l x3.bits i)) else (0, 0)) r f)

/-- VFLRD, VFLCLR, VQPOP and VQPUSH (R91, R108, R164): VFLRD puts FLAGS in lane 0 of an INT64 vector, and vz takes none of it; VFLCLR clears the bits
that a register names; VQPOP takes the oldest entry of a q queue as it is, as a long-class result, which of a fault entry is its deferred fault, and
waits where there is none; VQPUSH puts a register with its tag at the end of a w queue, or behind a push
to it that is still pending (R43). Where the manual leaves it open, what is said rests on entries 21 and 56 of the assumption log. -/
def Obligations.FlagsAndQueueMoves : Prop :=
  ∀ (st t : State) (s : Bool) (d : BitVec 6) (a : BitVec 6) (vd n : BitVec 5) (e : QEntry) (r : List QEntry),
    (Takes { s := s } st t → exec (.vflrd s 63) st = .next (t.finish)) ∧
    (Takes { s := s } st t → d.toNat < 40 → ∃ c, exec (.vflrd s d) st = .next ((t.setCx c).finish) ∧
      (c.vreg d).tag = .int64 ∧ laneOf 64 (c.vreg d).bits 0 = t.cx.flags.toNat ∧ (∀ i, 1 ≤ i → i < 4 → laneOf 64 (c.vreg d).bits i = 0) ∧
      (∀ x : BitVec 6, x ≠ d → x.toNat < 40 → c.vreg x = t.cx.vreg x) ∧
      c = { t.cx with v := c.v, o := c.o, rb := supersede (.vec d) t.cx.rb }) ∧
    (Takes { s := s, v := [a] } st t →
      exec (.vflclr s a) st = .next ((t.setCx { t.cx with flags := t.cx.flags &&& ~~~(t.cx.ra (specA a) &&& 0x7F) }).finish)) ∧
    (n.toNat < 4 → Takes { s := s, len := 2, long := true, v := [BitVec.ofNat 6 (44 + n.toNat)] } st t → t.cx.qOf n.toNat = e :: r → e.mark = none →
      ∃ c, exec (.vqpop s vd n) st = .next ((t.setCx c).finish 2) ∧ c.qOf n.toNat = r ∧ (∀ j < 4, j ≠ n.toNat → c.qOf j = t.cx.qOf j) ∧
        c = Waiting { t.cx with q := c.q } (.vec (spec5 vd)) (.vector e.bits e.tag) 0 true) ∧
    (∀ m, n.toNat < 4 → Takes { s := s, len := 2, long := true, v := [BitVec.ofNat 6 (44 + n.toNat)] } st t → t.cx.qOf n.toNat = e :: r → e.mark = some m →
      ∃ c, exec (.vqpop s vd n) st = .next ((t.setCx c).finish 2) ∧ c.qOf n.toNat = r ∧ (∀ j < 4, j ≠ n.toNat → c.qOf j = t.cx.qOf j) ∧
        c = Waiting { t.cx with q := c.q } (.vec (spec5 vd)) (.fault m) 0 true) ∧
    (n.toNat < 4 → Takes { s := s, len := 2, long := true, v := [BitVec.ofNat 6 (44 + n.toNat)] } st t → t.cx.qOf n.toNat = [] →
      exec (.vqpop s vd n) st = .next (t.park (.qPop n.toNat))) ∧
    (n.toNat < 2 → Takes { s := s, len := 2, v := [spec5 vd] } st t → (t.cx.vreg (spec5 vd)).tag ≠ .none →
      t.cx.pushPending (BitVec.ofNat 6 (48 + n.toNat)) = true →
      exec (.vqpush s vd n) st = .next ((t.setCx { t.cx with rb := t.cx.rb ++ [⟨.vec (BitVec.ofNat 6 (48 + n.toNat)),
        .vector (t.cx.vreg (spec5 vd)).bits (t.cx.vreg (spec5 vd)).tag, 0, false, true, false, true, t.cx.pc, t.cx.order⟩] }).finish 2)) ∧
    (n.toNat < 2 → Takes { s := s, len := 2, v := [spec5 vd] } st t → (t.cx.vreg (spec5 vd)).tag ≠ .none → (t.cx.wOf n.toNat).length < 16 →
      t.cx.pushPending (BitVec.ofNat 6 (48 + n.toNat)) = false →
      ∃ c, exec (.vqpush s vd n) st = .next ((t.setCx c).finish 2) ∧
        c.wOf n.toNat = t.cx.wOf n.toNat ++ [⟨(t.cx.vreg (spec5 vd)).bits, (t.cx.vreg (spec5 vd)).tag, none⟩] ∧
        (∀ j < 2, j ≠ n.toNat → c.wOf j = t.cx.wOf j) ∧ c = { t.cx with w := c.w })

/-! ## Vector memory -/

/-- VLD and VGATHER (R82, R102 to R105): each active lane takes the element its address names, an inactive lane the old element of the destination;
the result is long-class and goes to no last-result register; a refused element makes the whole result a deferred fault that names the address of
the first refused element in lane order, and one that is answered RETRY makes the load wait; a check of the addresses that fails traps, precise, with
nothing read. VST and VSCATTER (R82, R102 to R104, R106): the active lanes' elements are stored in ascending lane order, each at the address it is given,
its bits under the format; a register whose tag is not fmt traps with TAG_MISMATCH, or TAG_NONE, and stores nothing; a broadcast or vz source takes
fmt. Where the manual leaves it open, what is said rests on entries 12 and 56 of the assumption log. -/
def Obligations.VectorAccesses : Prop :=
  (∀ (st t : State) (s : Bool) (d : BitVec 6) (b off vx : BitVec 5) (fmt : BitVec 4) (k : BitVec 2) (m : Nat → Nat),
    let ty := tagOf fmt.toNat
    let act := (List.range ty.lanes).filter (fun i => (t.cx.rk k.toNat).getLsbD (i * (ty.ebits / 8)))
    let ix := t.cx.vreg (spec5 vx)
    let i1 : Iss := { s := s, long := true, a := [b] }
    let i2 : Iss := { s := s, long := true, a := [b], v := [spec5 vx] }
    ty ≠ .none →
    ∀ p ∈ [(Instr.vld s d b fmt off k, true, t.cx.ra b + BitVec.ofNat 64 (32 * off.toNat), fun (i : Nat) => (i : Int), i1),
           (.vgather s d b fmt vx k, false, t.cx.ra b, fun i => intVal ix.tag (laneOf ix.tag.ebits ix.bits i),
             i2)],
      let ea := fun i => elemAt ty p.2.2.1 (p.2.2.2.1 i)
      Takes p.2.2.2.2 st t →
      (p.2.1 = false → ix.tag = .none → exec p.1 st = .next (t.raise (trapInfo 0x009))) ∧
      (p.2.1 = false → ix.tag ≠ .none → ¬ (ix.tag.isInt = true ∧ ix.tag.ebits = ty.ebits) → exec p.1 st = .next (t.raise (trapInfo 0x008))) ∧
      ((p.2.1 = false → ix.tag.isInt = true ∧ ix.tag.ebits = ty.ebits) →
      (p.2.2.1.toNat % ty.align ≠ 0 → exec p.1 st = .next (t.raise (trapInfo 0x040 p.2.2.1 0))) ∧
      (∀ x, p.2.2.1.toNat % ty.align = 0 → vecCheck t t.me ty.mbytes .read p.2.1 (act.map (fun i => (ea i).1)) = some x →
        exec p.1 st = .next (t.raise x)) ∧
      (p.2.2.1.toNat % ty.align = 0 → vecCheck t t.me ty.mbytes .read p.2.1 (act.map (fun i => (ea i).1)) = none →
      (∀ i ∈ act, (∀ j ∈ act, j < i → ∃ v, loadElem t t.me (ea j).1 ty.mbytes = .val v) →
        (∀ x, loadElem t t.me (ea i).1 ty.mbytes = .fault x →
          exec p.1 st = .next ((t.setCx (Waiting t.cx (.vec d) (.fault ⟨{ x with eaddr := (ea i).1, opc := t.cx.pc }, t.cx.order⟩) 0 false)).finish)) ∧
        (loadElem t t.me (ea i).1 ty.mbytes = .retry → ∃ as, exec p.1 st = .next (t.park (.reissue as)))) ∧
      ((∀ i ∈ act, loadElem t t.me (ea i).1 ty.mbytes = .val (m i)) →
        ∃ r, exec p.1 st = .next ((t.setCx (Waiting t.cx (.vec d) (.vector r ty) 0 false)).finish) ∧
          ∀ i < ty.lanes, laneOf ty.ebits r i =
            if i ∈ act then fromMem ty (ea i).2 (m i) % 2 ^ ty.ebits else laneOf ty.ebits (oldOf t.cx d) i)))) ∧
  (∀ (st t : State) (s : Bool) (d : BitVec 6) (b off vx : BitVec 5) (fmt : BitVec 4) (k : BitVec 2) (o : Opnd),
    (d.toNat < 44 ∧ o = .reg (t.cx.vreg d)) ∨ (50 ≤ d.toNat ∧ d.toNat < 58 ∧ o = .bcast (t.cx.ra (BitVec.ofNat 5 (d.toNat - 26)))) ∨
      (d = 63 ∧ o = .zero) →
    let ty := tagOf fmt.toNat
    let act := (List.range ty.lanes).filter (fun i => (t.cx.rk k.toNat).getLsbD (i * (ty.ebits / 8)))
    let ix := t.cx.vreg (spec5 vx)
    let x := o.bits ty
    let i1 : Iss := { s := s, a := [b], v := [d] }
    let i2 : Iss := { s := s, a := [b], v := [d, spec5 vx] }
    ty ≠ .none →
    ∀ p ∈ [(Instr.vst s d b fmt off k, true, t.cx.ra b + BitVec.ofNat 64 (32 * off.toNat), fun (i : Nat) => (i : Int), i1),
           (.vscatter s d b fmt vx k, false, t.cx.ra b, fun i => intVal ix.tag (laneOf ix.tag.ebits ix.bits i),
             i2)],
      let ea := fun i => elemAt ty p.2.2.1 (p.2.2.2.1 i)
      Takes p.2.2.2.2 st t →
        (o.tag? = some .none → exec p.1 st = .next (t.raise (trapInfo 0x009))) ∧
        (∀ g, o.tag? = some g → g ≠ .none → g ≠ ty → exec p.1 st = .next (t.raise (trapInfo 0x008))) ∧
        (o.tag? = some ty ∨ o.tag? = none → (p.2.1 = false → ix.tag.isInt = true ∧ ix.tag.ebits = ty.ebits) →
          (p.2.2.1.toNat % ty.align ≠ 0 → exec p.1 st = .next (t.raise (trapInfo 0x040 p.2.2.1 1))) ∧
          (∀ y, p.2.2.1.toNat % ty.align = 0 → vecCheck t t.me ty.mbytes .write p.2.1 (act.map (fun i => (ea i).1)) = some y →
            exec p.1 st = .next (t.raise y)) ∧
          (p.2.2.1.toNat % ty.align = 0 → vecCheck t t.me ty.mbytes .write p.2.1 (act.map (fun i => (ea i).1)) = none →
            exec p.1 st = .next (doStore t (act.map (fun i => toMem ty (ea i).1 (ea i).2 (laneOf ty.ebits x i)))))))

/-! ## Streams and queues -/

/-- SDEF, SGO, SHALT and SQ (R161 to R164): SDEF loads a record that its checks allow into a pattern that is not RUNNING, and traps with PATTERN_STATE
at one that is; SGO starts a DEFINED, DONE
or FAULT pattern from its first element on a queue with no running pattern, and traps with PATTERN_STATE otherwise; SHALT makes a pattern DEFINED;
SQ answers, long-class, the elements not yet complete, which of a DEFINED pattern are all, and of one in FAULT the stream's fault; an UNDEFINED pattern traps. QPUSH and QPOP (R41, R165, R166): QPUSH puts the register, in
every lane under the format, at the end of a q queue, waits for room where the queue holds 16, and traps with PATTERN_STATE where a running pattern
feeds the queue; QPOP takes the oldest entry of a w queue, lane 0 extended to 64 bits by its tag, of a fault entry 0 with the fault as the register's
mark, and waits for an entry where there is none. Where the manual leaves it open, what is said rests on entries 26 and 56 of the assumption log. -/
def Obligations.PatternsAndScalarQueueMoves : Prop :=
  (∀ (st t : State) (s w : Bool) (n rs1 rd : BitVec 5) (imm : BitVec 12) (p q : BitVec 2) (ds : List Nat) (r : Pattern),
    (Takes { s := s, a := [rs1] } st t → n.toNat < 4 → recordCheck t t.me (t.cx.ra rs1 + imm.signExtend 64) 8 64 = none →
      (t.cx.pat n.toNat).state ≠ .running → readDwords t t.me (t.cx.ra rs1 + imm.signExtend 64) 8 = .ok ds →
      (patternOf (t.cx.ra rs1) ds = some r → ∃ c, exec (.sdef s n rs1 imm) st = .next ((t.setCx c).finish) ∧ c.pat n.toNat = r ∧
        (∀ j < 4, j ≠ n.toNat → c.pat j = t.cx.pat j) ∧ c = { t.cx with pats := c.pats }) ∧
      (patternOf (t.cx.ra rs1) ds = none → exec (.sdef s n rs1 imm) st = .next (t.raise (trapInfo 0x058)))) ∧
    (Takes { s := s, a := [rs1] } st t → n.toNat < 4 → recordCheck t t.me (t.cx.ra rs1 + imm.signExtend 64) 8 64 = none →
      (t.cx.pat n.toNat).state = .running → exec (.sdef s n rs1 imm) st = .next (t.raise (trapInfo 0x059))) ∧
    (let x := t.cx.pat p.toNat
     let legal := (x.state = .defined ∨ x.state = .done ∨ x.state = .fault) ∧ t.cx.bound w q.toNat = false
     Takes { s := s, parks := w } st t →
      (legal → ∃ c, exec (.sgo s p q w) st = .next ((t.setCx c).finish) ∧ (∀ j < 4, j ≠ p.toNat → c.pat j = t.cx.pat j) ∧
        c = { t.cx with pats := c.pats } ∧ c.pat p.toNat =
          { x with state := .running, pos := 0, isW := w, queue := q.toNat, goPc := t.cx.pc, goOrd := t.cx.order, flt := none }) ∧
      (¬ legal → exec (.sgo s p q w) st = .next (t.raise (trapInfo 0x059)))) ∧
    (Takes { s := s } st t →
      ((t.cx.pat p.toNat).state = .undef → exec (.shalt s p) st = .next (t.raise (trapInfo 0x059))) ∧
      ((t.cx.pat p.toNat).state ≠ .undef → ∃ c, exec (.shalt s p) st = .next ((t.setCx c).finish) ∧ c = { t.cx with pats := c.pats } ∧
        (∀ j < 4, j ≠ p.toNat → c.pat j = t.cx.pat j) ∧ c.pat p.toNat = { t.cx.pat p.toNat with state := .defined, pos := 0, flt := none })) ∧
    (Takes { s := s, long := true } st t →
      let x := t.cx.pat p.toNat
      let size := ((x.n.take x.dims).foldl (· * ·) 1)
      (x.state = .undef → exec (.sq s rd p) st = .next (t.raise (trapInfo 0x059))) ∧
      (x.state = .running → exec (.sq s rd p) st = .next ((t.setCx (Waiting t.cx (.areg rd) (.scalar (BitVec.ofNat 64 (size - x.pos))) 0 false)).finish)) ∧
      (x.state = .defined → exec (.sq s rd p) st = .next ((t.setCx (Waiting t.cx (.areg rd) (.scalar (BitVec.ofNat 64 size)) 0 false)).finish)) ∧
      (∀ m, x.state = .fault → x.flt = some m → exec (.sq s rd p) st = .next ((t.setCx (Waiting t.cx (.areg rd) (.fault m) 0 false)).finish)) ∧
      (x.state = .done → exec (.sq s rd p) st = .next ((t.setCx (Waiting t.cx (.areg rd) (.scalar 0) 0 false)).finish)))) ∧
  (∀ (st t : State) (s : Bool) (n rs1 rd : BitVec 5) (fmt : BitVec 7) (e : QEntry) (r : List QEntry),
    (Takes { s := s, a := [rs1] } st t → n.toNat < 4 →
      let ty := tagOf fmt.toNat
      (t.cx.bound false n.toNat = true → exec (.qpush s n rs1 fmt) st = .next (t.raise (trapInfo 0x059))) ∧
      (t.cx.bound false n.toNat = false → 16 ≤ (t.cx.qOf n.toNat).length → exec (.qpush s n rs1 fmt) st = .next (t.park (.qPush n.toNat))) ∧
      (t.cx.bound false n.toNat = false → (t.cx.qOf n.toNat).length < 16 → ∃ c v, exec (.qpush s n rs1 fmt) st = .next ((t.setCx c).finish) ∧
        c = { t.cx with q := c.q } ∧ (∀ j < 4, j ≠ n.toNat → c.qOf j = t.cx.qOf j) ∧ c.qOf n.toNat = t.cx.qOf n.toNat ++ [⟨v, ty, none⟩] ∧
        ∀ i < ty.lanes, laneOf ty.ebits v i = bcastElem ty (t.cx.ra rs1) % 2 ^ ty.ebits)) ∧
    (Takes { s := s } st t → n.toNat < 2 →
      (t.cx.bound true n.toNat = true → exec (.qpop s rd n) st = .next (t.raise (trapInfo 0x059))) ∧
      (t.cx.bound true n.toNat = false → t.cx.wOf n.toNat = [] → exec (.qpop s rd n) st = .next (t.park (.wPop n.toNat))) ∧
      (t.cx.bound true n.toNat = false → t.cx.wOf n.toNat = e :: r → e.mark = none → ∃ c v, exec (.qpop s rd n) st = .next ((t.setCx c).finish) ∧
        WritesA rd v { t.cx with w := c.w } c ∧ c.wOf n.toNat = r ∧ (∀ j < 2, j ≠ n.toNat → c.wOf j = t.cx.wOf j) ∧
        (∀ p ∈ [(Tag.fp32, 32), (.uint32, 32), (.fp16, 16), (.bf16, 16), (.uint8, 8), (.tap8, 8), (.tap6, 6)], e.tag = p.1 →
          v.toNat = e.bits.toNat % 2 ^ p.2) ∧
        (e.tag = .int32 → v.toInt = (e.bits.setWidth 32).toInt) ∧ (e.tag = .int16 → v.toInt = (e.bits.setWidth 16).toInt) ∧
        (e.tag = .int8 → v.toInt = (e.bits.setWidth 8).toInt) ∧ (e.tag = .int4 → v.toInt = (e.bits.setWidth 4).toInt) ∧
        (e.tag = .int64 ∨ e.tag = .fp64 → v = e.bits.setWidth 64)) ∧
      (∀ m, t.cx.bound true n.toNat = false → t.cx.wOf n.toNat = e :: r → e.mark = some m → ∃ c, exec (.qpop s rd n) st = .next ((t.setCx c).finish) ∧
        c.ra rd = 0 ∧ (rd ≠ 0 → c.am[rd.toNat] = some m) ∧ c.wOf n.toNat = r ∧ (∀ j < 2, j ≠ n.toNat → c.wOf j = t.cx.wOf j) ∧
        (∀ q : BitVec 5, q ≠ rd → c.ra q = t.cx.ra q ∧ c.am[q.toNat] = t.cx.am[q.toNat]) ∧
        c = { t.cx with w := c.w, a := c.a, am := c.am, rb := if rd = 0 then t.cx.rb else supersede (.areg rd) t.cx.rb })))

/-- The stream engines (R160, R163, R164, R168): while a gang runs, a RUNNING input pattern puts its next elements, in pattern order, as one entry
at the end of its queue and moves on, DONE at its last element, and the unused lanes of a last entry are 0; a refused element makes it FAULT with
one fault entry. A RUNNING output pattern takes the oldest entry and writes its elements in pattern order. Neither moves past a full or an empty
queue. Where the manual leaves it open, what is said rests on entry 26 of the assumption log. -/
def Obligations.StreamEnginesMoveEntries : Prop :=
  ∀ (s : State) (c : CtxId) (n : BitVec 2), s.streams c = true →
    let x := (s.slot c).cx
    let p := x.pat n.toNat
    let k := if p.lanes ≤ p.total - p.pos then p.lanes else p.total - p.pos
    (p.state = .running → p.isW = false → p.queue < 4 →
      (16 ≤ (x.qOf p.queue).length → exec (.streamInputFill c n) s = .next s) ∧
      (∀ l, (x.qOf p.queue).length < 16 → gatherEntry s c p p.pos k = .ok l →
        ∃ (u : State) (v : VBits), exec (.streamInputFill c n) s = .next u ∧ SameOutside c s u ∧
          (u.slot c) = { s.slot c with cx := (u.slot c).cx } ∧ (u.slot c).cx = { x with q := (u.slot c).cx.q, pats := (u.slot c).cx.pats } ∧
          (u.slot c).cx.qOf p.queue = x.qOf p.queue ++ [⟨v, p.fmt, none⟩] ∧
          (∀ i < p.fmt.lanes, laneOf p.fmt.ebits v i = l.getD i 0 % 2 ^ p.fmt.ebits) ∧
          (u.slot c).cx.pat n.toNat = { p with pos := p.pos + k, state := if p.total ≤ p.pos + k then .done else .running }) ∧
      (∀ f, (x.qOf p.queue).length < 16 → gatherEntry s c p p.pos k = .error (.fault f) →
        ∃ u : State, exec (.streamInputFill c n) s = .next u ∧ u.mem = s.mem ∧ ((u.slot c).cx.pat n.toNat).state = .fault ∧
          (u.slot c).cx.qOf p.queue = x.qOf p.queue ++ [⟨0, .none, some ⟨{ f with opc := p.goPc }, p.goOrd⟩⟩])) ∧
    (p.state = .running → p.isW = true → p.queue < 2 → (s.slot c).speculative = false →
      (x.wOf p.queue = [] → exec (.streamOutputDrain c n) s = .next s) ∧
      (∀ (e : QEntry) (r : List QEntry) (v : State), x.wOf p.queue = e :: r → e.mark = none → e.tag = p.fmt →
        scatterEntry c p e.bits s p.pos 0 k = .ok v →
        ∃ u : State, exec (.streamOutputDrain c n) s = .next u ∧ u.mem = v.mem ∧ u.poison = v.poison ∧ (u.slot c).cx.wOf p.queue = r ∧
          (u.slot c).cx.pat n.toNat = { p with pos := p.pos + k, state := if p.total ≤ p.pos + k then .done else .running }))

/-! ## Synchronisation -/

/-- BIND and UNBIND (R207): an entry binds a range of 2^lg bytes, aligned and in one address form, to a sync word or to a barrier; the range's
faults are BIND_RANGE, the object's BIND_OBJECT; UNBIND empties an entry. No memory changes. Acquires, releases, fences and counters (R193, R206,
R208, R210, R220), where the doubleword is reached at the location `l` and holds `v`. REL adds one to it and CADD a register, modulo 2^64, and every
other byte of memory is as it was; ACQ, EVWAIT and CWAIT go on once it is at least their target, CWAIT with the value in rd, and wait until then;
CWAIT.NOWAIT reads it once; FENCE and LBFENCE wait until every long-class result has returned. Where the manual leaves it open, what is said rests
on entries 12 and 22 of the assumption log. -/
def Obligations.BindingsCountersAndFences : Prop :=
  (∀ (st t : State) (s : Bool) (n rs1 rs2 : BitVec 5) (lg : BitVec 6), n.toNat < 8 →
    let b := t.cx.ra rs1
    let o := t.cx.ra rs2
    let good := b.toNat % 2 ^ lg.toNat = 0 ∧ oneForm b (b + BitVec.ofNat 64 (2 ^ lg.toNat - 1)) = true
    let sets := fun (i : Instr) (v : Option Binding) => ∃ c, exec i st = .next ((t.setCx c).finish) ∧ c = { t.cx with binds := c.binds } ∧
      c.binds.toList = t.cx.binds.toList.set n.toNat v
    (Takes { s := s, a := [rs1, rs2] } st t →
      (∀ bar, ¬ good → exec (.bind s n rs1 rs2 lg bar) st = .next (t.raise (trapInfo 0x060))) ∧
      (good → 64 ≤ o.toNat → exec (.bind s n rs1 rs2 lg true) st = .next (t.raise (trapInfo 0x061))) ∧
      (good → o.toNat < 64 → sets (.bind s n rs1 rs2 lg true) (some ⟨b, lg.toNat, .barrier (o.setWidth 6)⟩)) ∧
      (good → o.toNat % 8 ≠ 0 → exec (.bind s n rs1 rs2 lg false) st = .next (t.raise (trapInfo 0x061))) ∧
      (good → o.toNat % 8 = 0 → (form o).isVirt = true ∨ (form o).isGlob = true ∨ (form o).isRemote = true →
        sets (.bind s n rs1 rs2 lg false) (some ⟨b, lg.toNat, .word o⟩))) ∧
    (Takes { s := s } st t → sets (.unbind s n) none)) ∧
  (∀ (st t : State) (s : Bool) (rd rs1 rs2 : BitVec 5) (sc : BitVec 3) (n : BitVec 2) (l v : Nat), v < 2 ^ 64 → Memory.wf t.mem = true →
    let a := t.cx.ra rs1
    let ea := a + BitVec.ofNat 64 (8 * n.toNat)
    let adds := fun (i : Instr) (k : Nat) => ∃ u : State, exec i st = .next u.finish ∧ u = { t with mem := u.mem, poison := u.poison } ∧
      Memory.getN u.mem l 8 = (v + k) % 2 ^ 64 ∧ ∀ x, x < l ∨ l + 8 ≤ x → Memory.get u.mem x = Memory.get t.mem x
    (reach t t.me a 8 true = .got l v →
      (Takes { s := s, parks := true, a := [rs1] } st t → issueCheck t t.me a 8 .readWrite formsSync = none → adds (.rel s rs1 sc) 1) ∧
      (Takes { s := s, parks := true, a := [rs1, rs2] } st t → issueCheck t t.me a 8 .readWrite formsAll = none →
        adds (.cadd s rs1 rs2 sc) (t.cx.ra rs2).toNat)) ∧
    (reach t t.me a 8 false = .got l v →
      (Takes { s := s, a := [rd, rs1] } st t → issueCheck t t.me a 8 .readWrite formsSync = none →
        exec (.acq s rd rs1 sc) st = .next (if (t.cx.ra rd).toNat ≤ v then t.finish else t.park (.counter a (t.cx.ra rd)))) ∧
      (Takes { s := s, a := [rs1, rs2] } st t → issueCheck t t.me a 8 .readWrite formsAll = none →
        ((t.cx.ra rs2).toNat ≤ v → ∃ c, exec (.cwait s rd rs1 rs2 false) st = .next ((t.setCx c).finish) ∧ WritesA rd (BitVec.ofNat 64 v) t.cx c) ∧
        (v < (t.cx.ra rs2).toNat → exec (.cwait s rd rs1 rs2 false) st = .next (t.park (.counter a (t.cx.ra rs2)))) ∧
        (∃ c, exec (.cwait s rd rs1 rs2 true) st = .next ((t.setCx c).finish) ∧ WritesA rd (BitVec.ofNat 64 v) t.cx c))) ∧
    (Takes { s := s, a := [rd, rs1] } st t → issueCheck t t.me ea 8 .readWrite formsOwn = none → reach t t.me ea 8 false = .got l v →
      exec (.evwait s rd rs1 n) st = .next (if (t.cx.ra rd).toNat ≤ v then t.finish else t.park (.counter ea (t.cx.ra rd)))) ∧
    (Takes { s := s } st t → ∀ i ∈ [Instr.fence s sc, .lbfence s],
      exec i st = .next (if t.cx.rb.all (fun e => e.returned) then t.finish else t.park .marker)))

/-- The atomics (R188, R209), where the word or doubleword is reached at `l` and holds `old`: the old value, extended, waits in the return buffer
for rd, and the new value stands at `l` with every other byte of memory as it was, in one step. ACAS writes only where the old value equals rd. A
refusal at the home is a deferred fault, and memory is as it was. Where the manual leaves it open, what is said rests on entry 12 of the assumption
log. -/
def Obligations.AtomicsReadAndWriteOnce : Prop :=
  ∀ (st t : State) (s uns : Bool) (rd rs1 rs2 : BitVec 5) (size : BitVec 2) (l old : Nat), Memory.wf t.mem = true →
    let n := if size = 3 then 8 else 4
    let w := 8 * n
    let a := t.cx.ra rs1
    let x := (t.cx.ra rs2).toNat % 2 ^ w
    let less := fun (p q : Nat) => if uns then decide (p < q) else decide (sgn w p < sgn w q)
    let ext : DWord := if uns = true ∨ n = 8 then BitVec.ofNat 64 old else (BitVec.ofNat w old).signExtend 64
    old < 2 ^ w → issueCheck t t.me a n .readWrite formsAll = none →
    ∀ p ∈ [(Instr.aadd s rd rs1 rs2 size uns, [rs1, rs2], (old + x) % 2 ^ w), (.amin s rd rs1 rs2 size uns, [rs1, rs2], if less x old then x else old),
           (.amax s rd rs1 rs2 size uns, [rs1, rs2], if less old x then x else old), (.aand s rd rs1 rs2 size uns, [rs1, rs2], old &&& x),
           (.aor s rd rs1 rs2 size uns, [rs1, rs2], old ||| x), (.axor s rd rs1 rs2 size uns, [rs1, rs2], old ^^^ x),
           (.axchg s rd rs1 rs2 size uns, [rs1, rs2], x),
           (.acas s rd rs1 rs2 size uns, [rs1, rs2, rd], if old = (t.cx.ra rd).toNat % 2 ^ w then x else old)],
      Takes { s := s, long := true, parks := true, a := p.2.1 } st t →
        (reach t t.me a n true = .got l old →
          ∃ u : State, exec p.1 st = .next ((u.setCx (Waiting t.cx (.areg rd) (.scalar ext) 0 false)).finish) ∧ u.cx = t.cx ∧
            Memory.getN u.mem l n = p.2.2 % 2 ^ w ∧ (∀ y, y < l ∨ l + n ≤ y → Memory.get u.mem y = Memory.get t.mem y) ∧
            u = { t with mem := u.mem, poison := u.poison, cores := u.cores } ∧ u.self = { t.self with digest := u.self.digest } ∧
            ∀ d, d ≠ t.me → u.slot d = t.slot d) ∧
        (∀ f, reach t t.me a n true = .fault f →
          exec p.1 st = .next ((t.setCx (Waiting t.cx (.areg rd) (.fault ⟨{ f with opc := t.cx.pc }, t.cx.order⟩) 0 false)).finish))

/-- The named barriers (R195, R211, R212). An arrival that does not complete the episode counts one and joins the episode read, which BARA answers;
BARW takes a record that is done, with poison in bit 32 above the episode, and waits where it is not; a second arrival before the first is done, and
a second take, trap; BARQ answers the episode and the count. An arrival, or a BARI, that brings the count to the expect completes the episode
(R211): the episode number advances, the count and the poison start again, and the record of every slot of the gang that arrived in the episode
becomes done with its poison. Where the manual leaves it open, what is said rests on entry 14 of the assumption log.
-/
def Obligations.BarriersCountAndWait : Prop :=
  ∀ (st t : State) (s pz : Bool) (rd rs1 : BitVec 5) (n : BitVec 6) (g : Nat), t.self.gang = some g →
    let b := (t.gang g).bar n
    let r := t.cx.bar n
    let record := fun (p : Bool) (q : BarRec) => if q.done = false ∧ q.episode = b.ep then { q with done := true, poison := p } else q
    let done := fun (u : State) => ∀ d ∈ (t.gang g).held, d ≠ t.me → (u.slot d).cx.bar n = record (b.poison || pz) ((t.slot d).cx.bar n)
    (Takes { s := s, parks := true } st t →
      (r.done = false → exec (.bara s rd n pz) st = .next (t.raise (trapInfo 0x0A9))) ∧
      (r.done = true → b.expect = 0 ∨ b.count + 1 < b.expect →
        (∃ (u : State) (c : Ctxt), exec (.bara s rd n pz) st = .next ((u.setCx c).finish) ∧ WritesA rd (b.ep.setWidth 64) (t.cx.setBar n ⟨b.ep, false, false, false⟩) c ∧
          (u.gang g).bar n = { b with count := b.count + 1, poison := b.poison || pz } ∧ u.mem = t.mem ∧
          (∀ m, m ≠ n → (u.gang g).bar m = (t.gang g).bar m) ∧ (∀ h, h ≠ g → u.gang h = t.gang h) ∧ ∀ d, d ≠ t.me → u.slot d = t.slot d) ∧
        (t.self.barawAt ≠ some n → ∃ u : State, exec (.baraw s rd n pz) st = .next (u.park (.barrier n)) ∧ (u.cx.bar n).done = false ∧ u.self.barawAt = some n ∧
          (u.gang g).bar n = { b with count := b.count + 1, poison := b.poison || pz } ∧ u.mem = t.mem)) ∧
      (r.done = true → b.expect ≠ 0 → b.expect ≤ b.count + 1 →
        let next := { b with ep := b.ep + 1, count := 0, poison := false }
        (∃ (u : State) (c : Ctxt), exec (.bara s rd n pz) st = .next ((u.setCx c).finish) ∧ WritesA rd (b.ep.setWidth 64) u.cx c ∧ u.mem = t.mem ∧
          (u.gang g).bar n = next ∧ done u ∧ (t.me ∈ (t.gang g).held → u.cx.bar n = ⟨b.ep, true, b.poison || pz, false⟩) ∧
          (∀ m, m ≠ n → (u.gang g).bar m = (t.gang g).bar m) ∧ ∀ h, h ≠ g → u.gang h = t.gang h) ∧
        (t.self.barawAt ≠ some n → t.me ∈ (t.gang g).held → ∃ u : State, exec (.baraw s rd n pz) st = .next u.finish ∧ u.mem = t.mem ∧
          (u.gang g).bar n = next ∧ done u ∧ u.self.barawAt = none ∧ u.cx.bar n = ⟨b.ep, true, b.poison || pz, true⟩ ∧
          (rd ≠ 0 → u.cx.ra rd = (if (b.poison || pz) = true then 2 ^ 32 else 0) + b.ep.setWidth 64))) ∧
      (t.self.barawAt = some n → r.done = true → ∃ u : State, exec (.baraw s rd n pz) st = .next u.finish ∧ u.self.barawAt = none ∧ u.mem = t.mem ∧
        (rd ≠ 0 → u.cx.ra rd = (if r.poison then 2 ^ 32 else 0) + r.episode.setWidth 64) ∧ (u.cx.bar n).taken = true)) ∧
    (Takes { s := s, parks := true, a := [rs1] } st t →
      (2 ^ 32 ≤ (t.cx.ra rs1).toNat → exec (.bari s rs1 n) st = .next (t.raise (trapInfo 0x0A8))) ∧
      ((t.cx.ra rs1).toNat = 0 ∨ (b.count.toNat < (t.cx.ra rs1).toNat ∧ (t.cx.ra rs1).toNat < 2 ^ 32) →
        ∃ u : State, exec (.bari s rs1 n) st = .next u.finish ∧ (u.gang g).bar n = { b with expect := (t.cx.ra rs1).setWidth 32 } ∧
          (∀ m, m ≠ n → (u.gang g).bar m = (t.gang g).bar m) ∧ u.cores = t.cores ∧ u.mem = t.mem) ∧
      ((t.cx.ra rs1).toNat ≠ 0 → (t.cx.ra rs1).toNat ≤ b.count.toNat →
        ∃ u : State, exec (.bari s rs1 n) st = .next u.finish ∧ u.mem = t.mem ∧
          (u.gang g).bar n = { b with expect := (t.cx.ra rs1).setWidth 32, ep := b.ep + 1, count := 0, poison := false } ∧
          (∀ m, m ≠ n → (u.gang g).bar m = (t.gang g).bar m) ∧
          ∀ d ∈ (t.gang g).held, (u.slot d).cx.bar n = record b.poison ((t.slot d).cx.bar n))) ∧
    (Takes { s := s } st t →
      (r.taken = true → exec (.barw s rd n) st = .next (t.raise (trapInfo 0x0AA))) ∧
      (r.taken = false → r.done = false → exec (.barw s rd n) st = .next (t.park (.barrier n))) ∧
      (r.taken = false → r.done = true → ∃ (u : State) (c : Ctxt), exec (.barw s rd n) st = .next ((u.setCx c).finish) ∧
        WritesA rd ((if r.poison then 2 ^ 32 else 0) + r.episode.setWidth 64) (t.cx.setBar n { r with taken := true }) c ∧
        u = t.setSelf { t.self with barawAt := none }) ∧
      (∃ c, exec (.barq s rd n) st = .next ((t.setCx c).finish) ∧ WritesA rd (BitVec.ofNat 64 (b.ep.toNat * 2 ^ 32 + b.count.toNat)) t.cx c))

/-! ## Tiles and engines -/

/-- The tile instructions (R213, R214): TALLOC allocates a handle at a private-alias address that is a multiple of 32 in the task's own regions;
TFREE empties an entry that no accepted, unfinished job names, and waits while one does; TSTAT answers the entry's word, long-class; TWAIT
goes on at READY; TSET sets the tag and the state. An unallocated handle traps TILE_HANDLE, a storage address ALIGNMENT or ADDRESS_RANGE,
and a tile outside the gang's regions TILE_RANGE. -/
def Obligations.TileInstructions : Prop :=
  ∀ (st t : State) (s ready : Bool) (h rs1 rd : BitVec 5) (imm : BitVec 12) (tag : BitVec 4) (o : Nat), h.toNat < 16 →
    let x := t.cx.tile h.toNat
    let g := tagOf tag.toNat
    let ea := t.cx.ra rs1 + imm.signExtend 64
    let sets := fun (i : Instr) (y : Tile) => ∃ c, exec i st = .next ((t.setCx c).finish) ∧ c = { t.cx with tiles := c.tiles } ∧ c.tile h.toNat = y ∧
      ∀ j < 16, j ≠ h.toNat → c.tile j = t.cx.tile j
    (Takes { s := s, a := [rs1] } st t →
      (ea.toNat % 32 ≠ 0 → exec (.talloc s h rs1 imm) st = .next (t.raise (trapInfo 0x040 ea))) ∧
      (ea.toNat % 32 = 0 → (form ea).isPriv = false → exec (.talloc s h rs1 imm) st = .next (t.raise (trapInfo 0x041 ea))) ∧
      (ea.toNat % 32 = 0 → form ea = .priv o → t.ownsPriv t.me o 1 = false → exec (.talloc s h rs1 imm) st = .next (t.raise (trapInfo 0x041 ea))) ∧
      (ea.toNat % 32 = 0 → form ea = .priv o → t.ownsPriv t.me o 1 = true → x.alloc = true →
        exec (.talloc s h rs1 imm) st = .next (t.raise (trapInfo 0x089))) ∧
      (ea.toNat % 32 = 0 → form ea = .priv o → t.ownsPriv t.me o 1 = true → x.alloc = false →
        sets (.talloc s h rs1 imm) { alloc := true, storage := ea.setWidth 15, tag := .none, state := .empty, corrupt := false, version := 0 })) ∧
    (Takes { s := s } st t →
      (x.alloc = false → ∀ i ∈ [Instr.tfree s h, .twait s h, .tset s h ready tag], exec i st = .next (t.raise (trapInfo 0x089))) ∧
      (x.alloc = true → t.tileBusy t.me h.toNat = true → ∀ i ∈ [Instr.tfree s h, .tset s h ready tag], exec i st = .next (t.park (.tileIdle h.toNat))) ∧
      (x.alloc = true → t.tileBusy t.me h.toNat = false → sets (.tfree s h) Tile.reset) ∧
      (x.alloc = true → exec (.twait s h) st = .next (if x.state = .ready then t.finish else t.park (.tileReady h.toNat))) ∧
      (x.alloc = true → t.tileBusy t.me h.toNat = false → 0x8000 < x.storage.toNat + tileBytes g →
        exec (.tset s h ready tag) st = .next (t.raise (trapInfo 0x08A))) ∧
      (∀ r : Fin 5, x.alloc = true → t.tileBusy t.me h.toNat = false → r.val < 4 → 0x2000 * r.val < x.storage.toNat + tileBytes g →
        x.storage.toNat < 0x2000 * (r.val + 1) → ⟨t.cur, r⟩ ∉ (t.gang t.myGang).held →
        exec (.tset s h ready tag) st = .next (t.raise (trapInfo 0x08A))) ∧
      (x.alloc = true → t.tileBusy t.me h.toNat = false → x.storage.toNat + tileBytes g ≤ 0x8000 →
        (∀ r : Fin 5, 0x2000 * r.val < x.storage.toNat + tileBytes g → x.storage.toNat < 0x2000 * (r.val + 1) → r.val < 4 →
          ⟨t.cur, r⟩ ∈ (t.gang t.myGang).held) →
        sets (.tset s h ready tag) { x with tag := g, state := if ready then .ready else .empty, corrupt := false })) ∧
    (Takes { s := s, long := true } st t →
      ∃ v, exec (.tstat s rd h) st = .next ((t.setCx (Waiting t.cx (.areg rd) (.scalar v) 0 false)).finish) ∧
        (x.alloc = false → v = 0) ∧
        (x.alloc = true → v.toNat = x.version.toNat * 2 ^ 32 + x.tag.code * 2 ^ 20 + 2 ^ 19 + (if x.corrupt then 2 ^ 18 else 0) + x.state.code * 2 ^ 16 +
          x.storage.toNat))

/-- MXSUB, MXPOLL and MXWAIT (R121, R124, R134 to R136): a card that passes its checks in the order written, with room in the engine and in the
table, becomes a QUEUED job with the next id, which rd takes; its C tile takes the accumulator's tag and FILLING; MXPOLL answers the status
word of an id, long-class, and frees an entry that has ended; MXWAIT goes on once the job is done, waits until then, and traps where it
faulted. -/
def Obligations.MatrixJobsAreSubmitted : Prop :=
  ∀ (st t : State) (s : Bool) (rd rs1 : BitVec 5) (imm : BitVec 12) (ds : List Nat) (d : MxCard) (acc : Tag) (e : JobEntry),
    let ea := t.cx.ra rs1 + imm.signExtend 64
    let id := t.cx.ra rs1
    let at_ : MxPlace := ⟨(t.cx.tile d.ha).tag, (t.cx.tile d.ha).storage.toNat, (t.cx.tile d.hb).storage.toNat, (t.cx.tile d.hc).storage.toNat, false⟩
    (Takes { s := s, a := [rs1] } st t →
      (((form ea).isPriv = false ∨ ea.toNat % 32 ≠ 0) → exec (.mxsub s rd rs1 imm) st = .next (t.raise (trapInfo 0x090))) ∧
      ((form ea).isPriv = true → ea.toNat % 32 = 0 → recordCheck t t.me ea 32 32 = none → readDwords t t.me ea 4 = .ok ds →
        (mxCardOf ds = none → exec (.mxsub s rd rs1 imm) st = .next (t.raise (trapInfo 0x091))) ∧
        (∀ c, mxCardOf ds = some d → mxCheck t.cx d = .error c → exec (.mxsub s rd rs1 imm) st = .next (t.raise (trapInfo c))) ∧
        (mxCardOf ds = some d → mxCheck t.cx d = .ok acc → t.self.speculative = false → (t.cluster t.cur.cl).mxCount < 16 →
          t.cx.jobs.length < 16 → ∃ (u : State) (c : Ctxt) (j : EJob), exec (.mxsub s rd rs1 imm) st = .next ((u.setCx c).finish) ∧
            WritesA rd t.cx.seq u.cx c ∧ u.mem = t.mem ∧ u.cx.seq = t.cx.seq + 1 ∧ u.cx.a = t.cx.a ∧ u.cx.pc = t.cx.pc ∧
            u.cx.jobs = t.cx.jobs ++ [⟨t.cx.seq, t.fresh, 0, .queued, 0, ea⟩] ∧
            (u.cluster t.cur.cl).jobs = (t.cluster t.cur.cl).jobs ++ [j] ∧ j.uid = t.fresh ∧ j.owner = t.me ∧ j.kind = .matrix t.cx.seq d acc at_ ∧
            j.running = false ∧ u.cx.tile d.hc =
              (if (t.cx.tile d.hc).state = .draining then t.cx.tile d.hc else { t.cx.tile d.hc with tag := acc, state := .filling }) ∧
            (∀ h < 16, h ≠ d.hc → u.cx.tile h = t.cx.tile h)))) ∧
    (Takes { s := s, long := true, a := [rs1] } st t →
      (id = 0 ∨ t.cx.seq.toNat ≤ id.toNat → exec (.mxpoll s rd rs1) st = .next (t.raise (trapInfo 0x099))) ∧
      (id ≠ 0 → id.toNat < t.cx.seq.toNat → t.cx.job id = some e → ∃ v l,
        exec (.mxpoll s rd rs1) st = .next ((t.setCx (Waiting { t.cx with jobs := l } (.areg rd) (.scalar v) 0 false)).finish) ∧
        v.toNat = e.kind.toNat * 2 ^ 24 + e.state.code * 2 ^ 8 + e.flags.toNat ∧
        l = (if e.state = .done ∨ e.state = .fault then t.cx.jobs.filter (fun x => x.id ≠ id) else t.cx.jobs)) ∧
      (id ≠ 0 → id.toNat < t.cx.seq.toNat → t.cx.job id = none →
        exec (.mxpoll s rd rs1) st = .next ((t.setCx (Waiting t.cx (.areg rd) (.scalar 0x600) 0 false)).finish))) ∧
    (Takes { s := s, a := [rs1] } st t →
      (id = 0 ∨ t.cx.seq.toNat ≤ id.toNat → exec (.mxwait s rs1) st = .next (t.raise (trapInfo 0x099))) ∧
      (id ≠ 0 → id.toNat < t.cx.seq.toNat →
        (t.cx.job id = none → exec (.mxwait s rs1) st = .next t.finish) ∧
        (t.cx.job id = some e → exec (.mxwait s rs1) st = .next (match e.state with
          | .done => t.finish | .fault => t.raise (trapInfo 0x098 e.card) | .queued => t.park (.mxJob id) | .running => t.park (.mxJob id)))))

/-- A matrix job's start and end (R120, R128, R131, R132, R136): it starts once no job it has an edge to is unfinished and no other matrix job of
the cluster runs; it ends with Cnew in its C tile, element by element, and no other byte changed, the tile READY and the status DONE with the
exception bits; a job that met a fault ends in FAULT and leaves memory as it was; the record is checked at the start and at no other time (R126).
Cnew is what R122, R123 and R126 to R129 make of the elements of A, B and C where they stand: `ElementSums` on the products that are formed; an
element of a poisoned C that the job accumulates on is free. Shown for a card with no counter and no barrier. Where the manual leaves it open, what is said rests on entries 27 and 56 of the assumption log. -/
def Obligations.MatrixJobsRun : Prop :=
  let accumulators : List (Tag × Tag) := [(.fp64, .fp64), (.fp32, .fp32), (.fp16, .fp32), (.bf16, .fp32), (.tap8, .fp32), (.tap6, .fp32),
    (.int8, .int32), (.uint8, .int32), (.int4, .int32)]
  (∀ (c : Ctxt) (d : MxCard) (acc : Tag), mxCheck c d = .ok acc → ((c.tile d.ha).tag, acc) ∈ accumulators ∧
    (d.bsrc = false → (c.tile d.hb).tag = (c.tile d.ha).tag) ∧ (d.acc = true → (c.tile d.hc).tag = acc)) ∧
  (∀ (s : State) (cl : ClusterId) (d : MxCard) (t : Tag) (b : Bool), d.bsrc = true →
    let l := wbufLoc cl d.wbo
    let h := Memory.getN s.mem l 8
    let count := h / 2 ^ 21 % 2 ^ 11
    let size := if t = .int4 then (count + 1) / 2 else if t = .tap6 then (6 * count + 7) / 8 else count * (t.ebits / 8)
    (recordStart s cl d t = some b ↔ h / 2 ^ 32 = 0 ∧ h / 2 ^ 6 % 2 ^ 15 = 0 ∧ h / 2 ^ 4 % 4 = (if b then 1 else 0) ∧ h % 2 ^ 4 = t.code ∧
      count = (if b then bitsBefore s.mem (l + 8) 1024 else 1024) ∧ d.wlen = (8 + (if b then 128 else 0) + size + 7) / 8)) ∧
  ∀ (s : State) (cl : ClusterId) (n : Nat) (j : EJob) (id : DWord) (d : MxCard) (acc : Tag) (p : MxPlace), (s.cluster cl).job n = some j →
    j.kind = .matrix id d acc p →
    (j.running = false → s.blocked cl j = false → s.draftsFirst cl j = false → (s.cluster cl).mxBusy = false →
      ∃ u : State, exec (.mxJobStart cl n) s = .next u ∧ u.mem = s.mem ∧
        (u.cluster cl).job n = some { j with
          running := true, bad := if recordPoison s cl d then 3 else if (recordStart s cl d p.ta).isNone then 4 else 0,
          kind := .matrix id d acc { p with bitmap := (recordStart s cl d p.ta).getD false } } ∧
        ∀ e ∈ (u.slot j.owner).cx.jobs, e.uid = j.uid → e.state = .running) ∧
    (j.running = false → (∃ d ∈ (s.cluster cl).drafts, ∃ q ∈ j.after, d.owner = q.1 ∧ d.n < q.2 ∧ ∃ x ∈ d.elems, ∃ v ∈ spanRegions s j.owner x.addr x.size true,
        ∃ w ∈ j.foot, v.meets w = true) → exec (.mxJobStart cl n) s = .next s) ∧
    (j.running = false → s.blocked cl j = true → exec (.mxJobStart cl n) s = .next s ∧ exec (.mxJobComplete cl n) s = .next s) ∧
    (j.running = true → d.ctr = 0 → d.arrive = false → Memory.wf s.mem = true → acc = .fp32 ∨ acc = .fp64 ∨ acc = .int32 →
      let w := acc.ebits / 8
      let l := privLoc j.owner.core p.oc
      let r := (mxInput s cl j d acc p).result
      (mxFault s cl j d p = 0 → ∃ u : State, exec (.mxJobComplete cl n) s = .next u ∧
        (∀ i < 1024, Memory.getN u.mem (l + i * w) w = r.1.getD i 0 % 2 ^ (8 * w)) ∧
        ((p.ta, acc) ∈ accumulators → ∃ (old : Nat → Nat) (c : Nat → Nat × FlagBits),
          (∀ i < 1024, (d.acc = false → old i = 0) ∧ (d.acc = true → s.poisoned (l + i * w) w = false → old i = elemIn s.mem l acc i)) ∧
          (∀ i < 1024, ElementSums p.ta (old i) (fun k =>
            let ea := if d.ta then 32 * k + i / 32 else 32 * (i / 32) + k
            let eb := if d.tb then 32 * (i % 32) + k else 32 * k + i % 32
            let a := elemIn s.mem (privLoc j.owner.core p.oa) p.ta ea
            if d.spa = true ∧ elemZero p.ta a = true then none
            else (if d.bsrc then recordElem s.mem (wbufLoc cl d.wbo) p.bitmap p.ta eb
              else some (elemIn s.mem (privLoc j.owner.core p.ob) p.ta eb)).map (fun b => (a, b))) (c i) ∧
            Memory.getN u.mem (l + i * w) w = (c i).1 % 2 ^ (8 * w)) ∧
          r.2 = ((List.range 1024).map (fun i => (c i).2)).foldl (· ||| ·) 0) ∧
        (∀ a, a < l ∨ l + 1024 * w ≤ a → Memory.get u.mem a = Memory.get s.mem a) ∧ (u.cluster cl).job n = none ∧
        (∀ e ∈ (u.slot j.owner).cx.jobs, e.uid = j.uid → e.state = .done ∧ e.flags = r.2.setWidth 6) ∧
        (j.tiles = [(j.owner, d.hc, true), (j.owner, d.ha, false)] → (s.tileOf j.owner d.hc).alloc = true →
          (s.dropJob cl n).tileJobs j.owner d.hc = [] → d.hc < 16 → ((u.slot j.owner).cx.tile d.hc).state = .ready ∧ ((u.slot j.owner).cx.tile d.hc).tag = acc)) ∧
      (∀ k, k ≠ 0 → mxFault s cl j d p = k → ∃ u : State, exec (.mxJobComplete cl n) s = .next u ∧ u.mem = s.mem ∧ (u.cluster cl).job n = none ∧
        ∀ e ∈ (u.slot j.owner).cx.jobs, e.uid = j.uid → e.state = .fault ∧ e.kind = BitVec.ofNat 8 k))

/-- The copy schedule (R179, R180, R215, R216, R298, R361): CPSTAGE adds to the core's stage for the gang and stops at 65,535; CPQ answers the status word
of an entry, long-class; CPCANCEL ends every entry from an index on that selects the cluster and has not been passed, CANCELLED, and no other; a walker
reads the first entry not yet passed as it comes to it, skips it where it does not select the cluster, and passes it once its cluster stage has come,
when its job is accepted, a DECODE entry's with its card, whose read is made again after a RETRY, 1,024 times at most; a broken entry or card, or one
that cannot be read, ends in FAULT. Where the manual leaves it open, what is said rests on entries 31 and 57 of the assumption log. -/
def Obligations.CopySchedulesAreWalked : Prop :=
  ∀ (st t : State) (s : Bool) (rd rs1 : BitVec 5) (k : BitVec 8) (e : CopyEntry) (cl : ClusterId) (n : Nat),
    let g := t.myGang
    let w := kget (t.cluster t.cur.cl).walk g []
    (Takes { s := s, parks := true } st t →
      (t.noSched = true → exec (.cpstage s k) st = .next (t.raise (trapInfo 0x081))) ∧
      (t.noSched = false → ∃ u : State, exec (.cpstage s k) st = .next u.finish ∧ u = { t with cores := u.cores } ∧
        (∀ q, q ≠ t.cur → u.core q = t.core q) ∧ u.core t.cur = { t.core t.cur with stages := (u.core t.cur).stages } ∧
        kget (u.core t.cur).stages g 0 = Nat.min 65535 (kget (t.core t.cur).stages g 0 + k.toNat) ∧
        ∀ h, h ≠ g → kget (u.core t.cur).stages h 0 = kget (t.core t.cur).stages h 0)) ∧
    (Takes { s := s, long := true, a := [rs1] } st t → t.noSched = false →
      (t.schedLen ≤ (t.cx.ra rs1).toNat → exec (.cpq s rd rs1) st = .next (t.raise (trapInfo 0x080))) ∧
      (∀ y, w[(t.cx.ra rs1).toNat]? = some y → (t.cx.ra rs1).toNat < t.schedLen →
        let x := match readEntry t g t.cur.cl (t.cx.ra rs1).toNat with
          | .ok f => if y.passed = false ∧ f.selects (t.gang g) t.cur.cl = false then { y with state := .done, other := true, passed := true } else y
          | .error _ => y
        ∃ v,
        exec (.cpq s rd rs1) st = .next ((t.setCx (Waiting t.cx (.areg rd) (.scalar v) 0 false)).finish) ∧
        v.toNat = x.corrupt % 2 ^ 16 * 2 ^ 48 + (if x.kind = 2 then x.cause.toNat * 2 ^ 32 else 0) + x.kind.toNat * 2 ^ 24 + (if x.other then 2 ^ 10 else 0) +
          x.state.code * 2 ^ 8)) ∧
    (Takes { s := s, parks := true, a := [rs1] } st t → t.noSched = false → w.length = t.schedLen →
      ∃ u : State, exec (.cpcancel s rs1) st = .next u.finish ∧ u.mem = t.mem ∧
        ∀ i < w.length, (kget (u.cluster t.cur.cl).walk g [])[i]? = (w[i]?).map (fun x =>
          if (t.cx.ra rs1).toNat ≤ i ∧ x.passed = false ∧
            (match readEntry t g t.cur.cl i with | .ok f => f.selects (t.gang g) t.cur.cl | .error _ => true) = true then { x with state := .fault, kind := 4, cause := 0, passed := true } else x)) ∧
    (∀ h : Nat, let gg := t.gang h
      let v := kget (t.cluster cl).walk h []
      gg.covers cl = true → gg.status = .running → v.findIdx? (fun x => !x.passed) = some n → readEntry t h cl n = .ok e →
      (e.selects gg cl = false → ∃ u : State, exec (.copyEntryPass cl h n) t = .next u ∧ u.mem = t.mem ∧ (u.cluster cl).jobs = (t.cluster cl).jobs ∧
        ∀ x, v[n]? = some x → (kget (u.cluster cl).walk h [])[n]? = some { x with state := .done, other := true, passed := true }) ∧
      (e.selects gg cl = true →
      (clusterStage t cl h < e.stage → exec (.copyEntryPass cl h n) t = .next t) ∧
      (∀ x, e.stage ≤ clusterStage t cl h → e.broken t gg cl = false → readCard t (t.walkWho h cl) gg e = none → t.holds cl.m e.base = false → v[n]? = some x →
        ∃ u : State, exec (.copyEntryPass cl h n) t = .next u ∧ u.mem = t.mem ∧ (kget (u.cluster cl).walk h [])[n]? = some
          (if 1024 ≤ x.tries + 1 then { x with state := .fault, kind := 2, cause := 0x051, passed := true } else { x with tries := x.tries + 1 })) ∧
      (∀ k c, e.stage ≤ clusterStage t cl h → e.broken t gg cl = false → readCard t (t.walkWho h cl) gg e = some (.error (k, c)) →
        ∃ u : State, exec (.copyEntryPass cl h n) t = .next u ∧ u.mem = t.mem ∧
        ∀ x, v[n]? = some x → (kget (u.cluster cl).walk h [])[n]? = some { x with state := .fault, kind := k, cause := c, passed := true }) ∧
      (∀ e', e.stage ≤ clusterStage t cl h → e.broken t gg cl = false → readCard t (t.walkWho h cl) gg e = some (.ok e') →
        (e.kind ≠ 2 → e' = e) ∧ ∃ (u : State) (j : EJob), exec (.copyEntryPass cl h n) t = .next u ∧ u.mem = t.mem ∧
        (u.cluster cl).jobs = (t.cluster cl).jobs ++ [j] ∧ j.uid = t.fresh ∧ j.kind = .copy n e' ∧ j.gang = h ∧ j.worked = false ∧
        j.owner = ⟨⟨cl, e.core⟩, Fin.ofNat 5 e.slot⟩ ∧
        ∀ x, v[n]? = some x → (kget (u.cluster cl).walk h [])[n]? = some { x with passed := true }) ∧
      (e.stage ≤ clusterStage t cl h → e.broken t gg cl = true → ∃ u : State, exec (.copyEntryPass cl h n) t = .next u ∧ u.mem = t.mem ∧
        ∀ x, v[n]? = some x → (kget (u.cluster cl).walk h [])[n]? = some { x with state := .fault, kind := 1, cause := 0, passed := true })))

/-- The transfers of copy entries and their end (R72, R122, R179 to R183): a COPY into a tile and a MULTICAST write each element of the window, as
read once, into every tile they name, and change no other byte; a COPY out writes the window from its tile; WBLOAD writes the doublewords of a
record into the cluster's weight buffer; DECODE hands its card to the first free decoder of the quadrant; a decoder writes a frame once every
destination tile is EMPTY, stays as it is before, and the entry's status counts the corrupt frames as they come
(R183, R216); a transfer that met no fault ends its entry DONE, and another in FAULT with the count as it stands. Where the manual leaves it open,
what is said rests on entries 7, 31, 32 and 57 of the assumption log. -/
def Obligations.CopyEntriesAreCarriedOut : Prop :=
  ∀ (s : State) (cl : ClusterId) (n i : Nat) (j : EJob) (e : CopyEntry), Memory.wf s.mem = true →
    let does := fun (x : Instr) (P : State → Prop) => ∃ u : State, exec x s = .next u ∧ P u ∧
      (u.cluster cl).job n = some { j with running := true, worked := true, bad := 0, cause := 0 }
    let at_ := fun (c : CtxId) => privLoc c.core (s.tileOf c e.handle).storage.toNat
    (∀ (owners : List CtxId) (v : List Nat), j.tiles = owners.map (fun c => (c, e.handle, true)) → owners.Pairwise (fun c d => c.core ≠ d.core) →
      (∀ c ∈ owners, (s.tileOf c e.handle).storage.toNat + tileBytes e.fmt ≤ 0x8000 ∧ c.core.cl.ok = true ∧ c.core.n < 8) → e.fmt ≠ .none → readWindow s j e 1024 = .ok v →
      let P := fun (u : State) =>
        (∀ c ∈ owners, ∀ x < 1024, elemOf u.mem (at_ c) e.fmt x = v.getD x 0 % 2 ^ e.fmt.ebits) ∧
        ∀ a, (∀ c ∈ owners, a < at_ c ∨ at_ c + tileBytes e.fmt ≤ a) → Memory.get u.mem a = Memory.get s.mem a
      (copyReady s cl n (fun e => e.kind = 0 && !e.out) = some (j, i, e) → does (.copyIn cl n) P) ∧
      (copyReady s cl n (fun e => e.kind = 1) = some (j, i, e) → does (.multicast cl n) P)) ∧
    (∀ u : State, copyReady s cl n (fun e => e.kind = 0 && e.out) = some (j, i, e) → s.poisoned (at_ j.owner) (tileBytes e.fmt) = false →
      writeWindow j e (((List.range 1024).map (elemOf s.mem (at_ j.owner) e.fmt)).drop j.left)
        (s.modTile j.owner e.handle (fun t => if t.state = .ready then { t with state := .draining } else t)) j.left = (u, none) →
      does (.copyOut cl n) (fun v => v.mem = u.mem ∧ v.poison = u.poison)) ∧
    (∀ ds, copyReady s cl n (fun e => e.kind = 3) = some (j, i, e) → whoDwords s j.who e.base (bits e.extra.toNat 31 16) = .ok ds →
      let l := wbufLoc cl (bits e.extra.toNat 15 0)
      does (.wbload cl n) (fun u => (∀ x < ds.length, Memory.getN u.mem (l + 8 * x) 8 = ds.getD x 0 % 2 ^ 64) ∧
        ∀ a, a < l ∨ l + 8 * ds.length ≤ a → Memory.get u.mem a = Memory.get s.mem a)) ∧
    (∀ k, copyReady s cl n (fun e => e.kind = 2) = some (j, i, e) → k < 8 →
      (s.decoder cl.m (8 * quadrantOf cl + k)).job = none → (∀ x < k, (s.decoder cl.m (8 * quadrantOf cl + x)).job.isSome = true) →
      ∃ u : State, exec (.decode cl n) s = .next u ∧ u.mem = s.mem ∧ (u.decoder cl.m (8 * quadrantOf cl + k)).job = some (cl, n) ∧
        (∀ m x, (m, x) ≠ (cl.m, 8 * quadrantOf cl + k) → u.decoder m x = s.decoder m x) ∧
        (u.cluster cl).job n = some { j with running := true, left := bits (e.card.getD 1 0) 63 32 }) ∧
    (∀ (m dec : Nat) (b : List Byte), (s.decoder m dec).job = some (cl, n) → (s.cluster cl).job n = some j → j.kind = .copy i e → j.worked = false → j.left ≠ 0 →
      let ts := cropTiles (s.gang j.gang) e
      let free := fun (x : CtxId × Nat × Nat × Nat × Nat) =>
        (s.tileOf x.1 x.2.1).alloc = true ∧ (s.tileOf x.1 x.2.1).state = .empty ∧ s.tileBusy x.1 x.2.1 = false
      ((∃ x ∈ ts, ¬ free x) → exec (.decoderFrame m dec) s = .next s) ∧
      ((∀ x ∈ ts, free x) → engineStream s j (BitVec.ofNat 64 (e.card.getD 0 0)) (bits (e.card.getD 1 0) 31 0) = .ok b →
        ((∀ x ∈ ts, tileAway s (s.gang j.gang) x.1 x.2.1 (frameTag b) = false) →
        let bad := frameCorrupt b j.frame
        ∃ u : State, exec (.decoderFrame m dec) s = .next u ∧ u.mem = (ts.foldl (frameTile b j.frame e bad) s).mem ∧
          (u.cluster cl).job n = some { j with frame := j.frame + 1, left := j.left - 1, tries := 0, worked := decide (j.left = 1),
                                               badFrames := j.badFrames + (if bad then 1 else 0) } ∧
          ∀ x, (kget (s.cluster cl).walk j.gang [])[i]? = some x → (kget (u.cluster cl).walk j.gang [])[i]? =
            some { x with corrupt := Nat.min 65535 (j.badFrames + (if bad then 1 else 0)) }))) ∧
    ((s.cluster cl).job n = some j → j.kind = .copy i e → j.worked = true → (∃ c ∈ (s.gang j.gang).held, (s.slot c).gang = some j.gang) →
      let ends := fun (f : CopyStatus → CopyStatus) => ∃ u : State, exec (.copyEntryComplete cl n) s = .next u ∧ u.mem = s.mem ∧
        (u.cluster cl).job n = none ∧
        ∀ x, (kget (s.cluster cl).walk j.gang [])[i]? = some x → (kget (u.cluster cl).walk j.gang [])[i]? = some (f x)
      (j.bad = 0 → e.ctr = 0 → ends (fun x => { x with state := .done })) ∧
      (j.bad ≠ 0 → ends (fun x => { x with state := .fault, kind := BitVec.ofNat 8 j.bad, cause := j.cause, passed := true })))

/-! ## One-sided operations -/

/-- PUTS, GET and RADD (R217, R219): a descriptor that is at a private-alias address that is a multiple of 32 and passes its checks becomes a job of
the cluster's engine, with the fields copied; no register and no memory changes; a record out of place traps ONE_SIDED_RECORD, a wrong field
ONE_SIDED_FIELD, and the event record its own trap. Where the manual leaves it open, what is said rests on entry 12 of the assumption log. -/
def Obligations.OneSidedOperationsAreAccepted : Prop :=
  ∀ (st t : State) (s : Bool) (rs1 : BitVec 5) (cls : BitVec 3) (ds : List Nat) (d : OsDesc), Takes { s := s, parks := true, a := [rs1] } st t →
    let ea := t.cx.ra rs1
    ∀ p ∈ [(Instr.puts s rs1 cls, 0), (.get s rs1 cls, 1), (.radd s rs1 cls, 2)],
      (ea.toNat % 32 ≠ 0 ∨ (form ea).isPriv = false → exec p.1 st = .next (t.raise (trapInfo 0x0C0))) ∧
      (ea.toNat % 32 = 0 → (form ea).isPriv = true → recordCheck t t.me ea 32 64 = none → readDwords t t.me ea 8 = .ok ds →
        (osDescOf p.2 ds = none → exec p.1 st = .next (t.raise (trapInfo 0x0C1))) ∧
        (∀ f, osDescOf p.2 ds = some d → eventCheck t t.me d.event = some f → exec p.1 st = .next (t.raise f)) ∧
        (osDescOf p.2 ds = some d → eventCheck t t.me d.event = none → ∃ (u : State) (j : EJob), exec p.1 st = .next u.finish ∧ u.mem = t.mem ∧
          (u.cluster t.cur.cl).jobs = (t.cluster t.cur.cl).jobs ++ [j] ∧ j.uid = t.fresh ∧ j.owner = t.me ∧ j.kind = .oneSided d ∧
          j.left = d.length ∧ j.running = false ∧ u.self = { t.self with digest := u.self.digest } ∧ ∀ c, c ≠ t.me → u.slot c = t.slot c))

/-- The transfers of one-sided operations (R202, R203, R218, R219): a PUTS or RADD sends its next bytes, at most a packet, as one message; a GET
writes the next bytes it fetches, all of a message's or, where one of its doublewords is refused, none; a message arrives after those sent before it from its cluster to its destination (R305); a PUTS message writes its
bytes at its target, or in the overflow of a stopping gang whose inbox is full (R360); a RADD message is added to its target once, however often it
comes; a message refused with RETRY is sent again, 1,024 times at most; an operation ends with its status in the event record and counter 2. Where the
manual leaves it open, what is said rests on entries 8, 28 and 44 of the assumption log. -/
def Obligations.OneSidedTransfers : Prop :=
  ∀ (s : State) (cl : ClusterId) (n : Nat) (j : EJob) (d : OsDesc) (m : Msg), Memory.wf s.mem = true →
    let pos := BitVec.ofNat 64 (d.length - j.left)
    let len := chunk j.left (d.remote + pos)
    let goesOn := { j with running := true, left := j.left - len }
    (∀ b, osReady s cl n 0 = some (j, d) → engineBytes s j (d.loc + pos) (len / 8) = some b → ∃ (u : State) (x : Msg),
      exec (.putsTransfer cl n) s = .next u ∧ u.msgs = s.msgs ++ [x] ∧ x.addr = d.remote + pos ∧ x.bytes = b ∧ x.job = n ∧ x.isAdd = false ∧
      (u.cluster cl).job n = some goesOn ∧ (j.left ≠ len → u.mem = s.mem)) ∧
    (∀ b o, osReady s cl n 2 = some (j, d) → engineBytes s j (d.loc + pos) (len / 8) = some b → ownerOf s j (d.remote + pos) = .ok o →
      let g := j.gen
      (64 ≤ (s.unacked o j.owner g).length → exec (.raddTransfer cl n) s = .next s) ∧
      ((s.unacked o j.owner g).length < 64 → ∃ (u : State) (x : Msg), exec (.raddTransfer cl n) s = .next u ∧ u.msgs = s.msgs ++ [x] ∧
        x.addr = d.remote + pos ∧ x.bytes = b ∧ x.job = n ∧ x.isAdd = true ∧ x.owner = o ∧ x.seq = (s.window o j.owner g).next ∧
        (u.window o j.owner g).next = (s.window o j.owner g).next + 1 ∧ (u.cluster cl).job n = some goesOn ∧ (j.left ≠ len → u.mem = s.mem))) ∧
    (∀ l v u, osReady s cl n 1 = some (j, d) → j.running = true → s.holds j.owner.core.cl.m (d.remote + pos) = false → genStale s d (d.remote + pos) = false →
      access s j.who (d.remote + pos) len .read = .loc l → s.homeRead l len = some v → engineWrite s j (d.loc + pos) (dwordsOf v (len / 8)) = (u, true) →
      j.left ≠ len → ∃ w : State, exec (.getTransfer cl n) s = .next w ∧ w.mem = u.mem ∧ (w.cluster cl).job n = some { goesOn with tries := 0 }) ∧
    (∀ l v i, osReady s cl n 1 = some (j, d) → j.running = true → s.holds j.owner.core.cl.m (d.remote + pos) = false → genStale s d (d.remote + pos) = false →
      access s j.who (d.remote + pos) len .read = .loc l → s.homeRead l len = some v → i < len / 8 →
      (∀ x, engineAccess s j (d.loc + pos + BitVec.ofNat 64 (8 * i)) 8 .write ≠ .loc x) → j.left ≠ len →
      ∃ w : State, exec (.getTransfer cl n) s = .next w ∧ w.mem = s.mem ∧ (w.cluster cl).job n = some { goesOn with tries := 0, status := j.status ||| 8 }) ∧
    (s.msg n = some (m, j, d) → s.arrives m = false → exec (.putsMessage n) s = .next s ∧ exec (.remoteAddMessage n) s = .next s) ∧
    (s.msg n = some (m, j, d) → m.retry = false → s.arrives m = true → s.holds j.owner.core.cl.m m.addr = false → genStale s d m.addr = false →
      (∀ l, m.isAdd = false → access s j.who m.addr m.bytes.length .write = .loc l → isHbm l = true ∨ locRegion l ≠ 4 →
        s.room l m.bytes.length = .free → d.signal = 0 →
        ∃ u : State, exec (.putsMessage n) s = .next u ∧ Memory.getN u.mem l m.bytes.length = ofBytes m.bytes ∧
          (∀ a, a < l ∨ l + m.bytes.length ≤ a → Memory.get u.mem a = Memory.get s.mem a) ∧ u.msgs = s.msgs.filter (fun x => x.uid ≠ n)) ∧
      (∀ l, m.isAdd = false → access s j.who m.addr m.bytes.length .write = .loc l → s.room l m.bytes.length = .full →
        exec (.putsMessage n) s = .next (s.setMsg { m with retry := true })) ∧
      (∀ l c g, m.isAdd = false → access s j.who m.addr m.bytes.length .write = .loc l → isHbm l = true ∨ locRegion l ≠ 4 →
        s.room l m.bytes.length = .area c g → d.signal = 0 →
        ∃ (u : State) (o : Overflow), exec (.putsMessage n) s = .next u ∧ u.mem = s.mem ∧ (u.gang g).overflow = (s.gang g).overflow ++ [o] ∧
          o.slot = c ∧ o.req.addr = m.addr ∧ o.req.size = m.bytes.length ∧ o.req.data = ofBytes m.bytes ∧
          u.msgs = s.msgs.filter (fun x => x.uid ≠ n)) ∧
      (∀ l v, m.isAdd = true → d.area = false → m.acked = false → (s.window m.owner m.src m.slotgen).holds m.seq m.low = false →
        s.noWindow m.owner m.src m.slotgen = false → access s j.who m.addr m.bytes.length .write = .loc l → areaRefuses s m j = false →
        s.room l m.bytes.length = .free → s.homeRead l m.bytes.length = some v →
        let r := addElems d.fmt v (ofBytes m.bytes) (m.bytes.length * 8 / d.fmt.ebits)
        ∃ u : State, exec (.remoteAddMessage n) s = .next u ∧ Memory.getN u.mem l m.bytes.length = r.1 % 2 ^ (8 * m.bytes.length) ∧
          (∀ a, a < l ∨ l + m.bytes.length ≤ a → Memory.get u.mem a = Memory.get s.mem a) ∧
          (seqBefore m.seq m.low = false → (u.window m.owner m.src m.slotgen).holds m.seq m.low = true) ∧
          (u.cluster m.jobCl).job j.uid = some { j with flags := j.flags ||| r.2.setWidth 6 }) ∧
      (m.isAdd = true → d.area = false → m.acked = true → exec (.remoteAddMessage n) s = .next s) ∧
      (m.isAdd = true → d.area = false → m.acked = false → (s.window m.owner m.src m.slotgen).holds m.seq m.low = true →
        ∃ u : State, exec (.remoteAddMessage n) s = .next u ∧ u.mem = s.mem ∧ ∀ x ∈ u.msgs, x.uid = n → x.acked = true)) ∧
    (s.msg n = some (m, j, d) → m.retry = true →
      (m.tries < 1023 → exec (.oneSidedRetry n) s =
        .next { s with msgs := s.msgs.filter (fun x => x.uid ≠ n) ++ [{ m with retry := false, tries := m.tries + 1 }] }) ∧
      (1023 ≤ m.tries → ∃ u : State, exec (.oneSidedRetry n) s = .next u ∧ u.mem = s.mem ∧ u.msgs = s.msgs.filter (fun x => x.uid ≠ n) ∧
        (u.cluster m.jobCl).job j.uid = some { j with status := j.status ||| 2 })) ∧
    ((s.cluster cl).job n = some j → j.kind = .oneSided d → j.left = 0 → s.pending n = false →
      ∀ l3 l2 v3 v2, engineAccess s j (d.event + 24) 8 .readWrite = .loc l3 → s.homeRead l3 8 = some v3 → d.event + 16 ≠ 0 →
        engineAccess (eventStatus s j d) j (d.event + 16) 8 .readWrite = .loc l2 → s.homeRead l2 8 = some v2 → l2 + 8 ≤ l3 → isHbm l2 = false → locRegion l2 = 0 →
        ∃ u : State, exec (.oneSidedComplete cl n) s = .next u ∧ (u.cluster cl).job n = none ∧ Memory.getN u.mem l2 8 = (v2 + 1) % 2 ^ 64 ∧
          Memory.getN u.mem l3 8 = Nat.min (2 ^ 32 - 1) (v3 / 2 ^ 32 + j.discarded) * 2 ^ 32 + (v3 % 2 ^ 32 ||| (j.flags.toNat * 2 ^ 8 ||| j.status.toNat)))

/-! ## Kettles and weight sets -/

/-- KCMD, KFENCE and KPOLL (R21, R201, R203, R221, R223, R224): a card that passes its checks becomes a QUEUED command with the next id, which rd
takes, and one part is sent to each Kettle, after every part sent before, its message once at most 63 others of the slot to that Kettle are not
acknowledged; a command for a module that is not there, or that no ring reaches (R312),
ends at once in FAULT, REFUSED. A part that arrives, after those sent before it to its Kettle, stands at the end of that Kettle's queue, the other
parts as they were; it waits while the queue of 256 is full, and one that the Kettle has taken already does not enter it again. KFENCE waits for every earlier command of the context; KPOLL answers the status word, long-class,
and frees an entry that has ended. Where the manual leaves it open, what is said rests on entry 29 of the assumption log. -/
def Obligations.KettleCommandsAreIssued : Prop :=
  ∀ (st t : State) (s : Bool) (rd rs1 : BitVec 5) (imm : BitVec 12) (ds : List Nat) (k : KCard) (e : KcEntry),
    let ea := t.cx.ra rs1 + imm.signExtend 64
    let id := t.cx.ra rs1
    (Takes { s := s, parks := true, a := [rs1] } st t →
      (ea.toNat % 32 ≠ 0 ∨ (form ea).isPriv = false → exec (.kcmd s rd rs1 imm) st = .next (t.raise (trapInfo 0x0A0))) ∧
      ((form ea).isPriv = true → ea.toNat % 32 = 0 → recordCheck t t.me ea 32 32 = none → readDwords t t.me ea 4 = .ok ds →
        (kCardOf ds = none → exec (.kcmd s rd rs1 imm) st = .next (t.raise (trapInfo 0x0A1))) ∧
        (kCardOf ds = some k → k.ctr = true → t.ownsPriv t.me k.ctrOff 8 = false → exec (.kcmd s rd rs1 imm) st = .next (t.raise (trapInfo 0x0A1))) ∧
        (kCardOf ds = some k → (k.ctr = true → t.ownsPriv t.me k.ctrOff 8 = true) → t.cx.kcmds.length < 32 → kAway t t.me k = true → k.ctr = false →
          (∀ p ∈ t.allParts, p.cuid ≠ t.fresh) → ∃ (u : State) (c : Ctxt) (x : KcEntry),
          exec (.kcmd s rd rs1 imm) st = .next ((u.setCx c).finish) ∧ WritesA rd t.cx.cid u.cx c ∧ u.mem = t.mem ∧ u.sent = t.sent ∧
          u.cx.cid = t.cx.cid + 1 ∧ u.cx.kcmds.getLast? = some x ∧ x.id = t.cx.cid ∧ x.state = .fault ∧ x.kind = 4) ∧
        (kCardOf ds = some k → (k.ctr = true → t.ownsPriv t.me k.ctrOff 8 = true) → t.cx.kcmds.length < 32 → kAway t t.me k = false →
          (∀ p ∈ t.sent, p.uid < t.fresh) → ∃ (u : State) (c : Ctxt) (l : List KPart),
          exec (.kcmd s rd rs1 imm) st = .next ((u.setCx c).finish) ∧ WritesA rd t.cx.cid u.cx c ∧ u.mem = t.mem ∧
          u.cx = { t.cx with cid := t.cx.cid + 1, kcmds := t.cx.kcmds ++
            [⟨t.cx.cid, t.fresh, 0, .queued, 0, 0, false, (kParts t t.me k).map (fun p => p.uid), none⟩] } ∧
          u.sent = t.sent ++ l ∧ u.kettles = t.kettles ∧ l.map (fun p => { p with out := false, seq := 0, low := 0 }) = kParts t t.me k ∧
          (∀ p ∈ l, let o := Owner.kettle p.m p.idx
            (p.out = true ↔ (t.unacked o t.me t.self.slotgen).length < 64 ∧ ∀ q ∈ t.sent, q.m = p.m → q.idx = p.idx → q.owner = t.me → q.out = true) ∧
            (p.out = true → p.seq = (t.window o t.me t.self.slotgen).next)) ∧
          ∀ (i j : Nat) (p q : KPart), i < j → l[i]? = some p → l[j]? = some q → p.idx < q.idx))) ∧
    (∀ (n : Nat) (p : KPart), t.msg n = none → t.sent.find? (fun x => x.uid = n) = some p →
      let o := Owner.kettle p.m p.idx
      let x := t.kettle p.m p.idx
      let first := (t.sent.takeWhile (fun x => x.uid ≠ n)).all (fun x => !(x.out && decide (x.m = p.m) && decide (x.idx = p.idx)))
      let new := (t.window o p.owner p.gen).holds p.seq p.low = false
      (p.out = false → 64 ≤ (t.unacked o p.owner p.gen).length → exec (.remoteAddMessage n) t = .next t) ∧
      (p.out = true → first = false → exec (.remoteAddMessage n) t = .next t) ∧
      (p.out = true → first = true → t.asleep p.owner.core.cl.m p.m = false → new → t.noWindow o p.owner p.gen = true ∨ 256 ≤ x.parts.length →
        exec (.remoteAddMessage n) t = .next t) ∧
      (p.out = true → first = true → t.asleep p.owner.core.cl.m p.m = false → new → t.noWindow o p.owner p.gen = false → x.parts.length < 256 →
        ∃ u : State, exec (.remoteAddMessage n) t = .next u ∧ u.kettle p.m p.idx = { x with parts := x.parts ++ [p] } ∧
          u.sent = t.sent.filter (fun y => y.uid ≠ n) ∧ u.mem = t.mem ∧ ∀ m k, (m, k) ≠ (p.m, p.idx) → u.kettle m k = t.kettle m k) ∧
      (p.out = true → first = true → t.asleep p.owner.core.cl.m p.m = false → ¬ new → ∃ u : State, exec (.remoteAddMessage n) t = .next u ∧
        u = { t with sent := t.sent.filter (fun y => y.uid ≠ n), windows := u.windows })) ∧
    (Takes { s := s } st t →
      exec (.kfence s) st = .next (if t.cx.kcmds.all (fun e => decide (e.state = .done ∨ e.state = .fault)) then t.finish else t.park .ketAll)) ∧
    (Takes { s := s, long := true, a := [rs1] } st t →
      (id = 0 ∨ t.cx.cid.toNat ≤ id.toNat → exec (.kpoll s rd rs1) st = .next (t.raise (trapInfo 0x0A3))) ∧
      (id ≠ 0 → id.toNat < t.cx.cid.toNat → t.cx.kcmds.find? (fun e => e.id = id) = some e → ∃ v l,
        exec (.kpoll s rd rs1) st = .next ((t.setCx (Waiting { t.cx with kcmds := l } (.areg rd) (.scalar v) 0 false)).finish) ∧
        v.toNat = e.poisoned % 2 ^ 32 * 2 ^ 32 + e.kind.toNat * 2 ^ 24 + (if e.ctrLost then 2 ^ 11 else 0) + e.state.code * 2 ^ 8 + e.flags.toNat ∧
        l = (if e.state = .done ∨ e.state = .fault then t.cx.kcmds.filter (fun x => x.id ≠ id) else t.cx.kcmds)) ∧
      (id ≠ 0 → id.toNat < t.cx.cid.toNat → t.cx.kcmds.find? (fun e => e.id = id) = none →
        exec (.kpoll s rd rs1) st = .next ((t.setCx (Waiting t.cx (.areg rd) (.scalar 0x600) 0 false)).finish)))

/-- The parts of Kettle commands (R201, R222, R224, R236): a part whose turn it is translates its addresses once, and runs its
operation on its elements: each unit that meets no error takes the values that `KettleElement` gives of R222's formulas, NaNs as R69 and the rounding as
R74 give them; one that meets an error is left as it was, the marked units met are counted once, and a COPY or FILL of a whole unit clears its mark;
shown where no element's destination overlaps another's or its source; RRADD opens an area of its span; a contribution that covers an open area whole is added to it once, and one that covers it in
part is refused; a part whose work is done, or
whose area is full, ends, and with the last part of a command its entry is DONE. Where the manual leaves it open, what is said rests on entries 29
and 57 of the assumption log. -/
def Obligations.KettlePartsRun : Prop :=
  ∀ (s : State) (m kt n : Nat) (p : KPart), Memory.wf s.mem = true →
    (∀ x ∈ [(Instr.axpy m kt n, 2), (.fade m kt n, 3), (.kettleCopy m kt n, 4), (.kettleFill m kt n, 5), (.scale m kt n, 6)],
      kTurn s m kt n x.2 = some p → p.elems.findSome? (kElemFault s kt p) = none →
        (∃ (u : State) (q : KPart), exec x.1 s = .next u ∧ (u.kettle m kt).part n = some q ∧ q.started = true ∧ q.worked = true ∧ q.kind = p.kind) ∧
        (let d := fun (i : Nat) => kLoc s p (p.dstVa i) .write
          let src := fun (i : Nat) => kLoc s p (p.srcVa i) .read
          let reads := x.2 = 2 ∨ x.2 = 3 ∨ x.2 = 4
          let whole := fun (i : Nat) => (x.2 = 4 ∨ x.2 = 5) ∧ (p.elems.filter (fun k => p.dstVa k / 64 = p.dstVa i / 64)).length * p.size = 64
          let meets := fun (i u : Nat) => (∃ y ∈ s.poison, y.1 = u) ∧
            ((reads ∧ u < src i + p.size ∧ src i < u + 64) ∨ (¬whole i ∧ u < d i + p.size ∧ d i < u + 64))
          let clean := fun (i : Nat) => ∀ k ∈ p.elems, p.dstVa k / 64 = p.dstVa i / 64 → ∀ u, ¬meets k u
          p.elems.Pairwise (· < ·) → (∀ i ∈ p.elems, ∀ k ∈ p.elems, i ≠ k →
            (d i + p.size ≤ d k ∨ d k + p.size ≤ d i) ∧ (reads → src i + p.size ≤ d k ∨ d k + p.size ≤ src i)) →
          ∃ (u : State) (q : KPart) (c : Nat × FlagBits) (r : Nat → Nat × FlagBits), exec x.1 s = .next u ∧ (u.kettle m kt).part n = some q ∧
            FadeConstant x.2 p.s1.toNat p.s2.toNat c ∧
            (∀ i ∈ p.elems, clean i → Memory.getN u.mem (d i) p.size = (r i).1 % 2 ^ (8 * p.size) ∧
              KettleElement x.2 p.size p.s1.toNat p.s2.toNat c.1 (Memory.getN s.mem (src i) p.size) (Memory.getN s.mem (d i) p.size) (r i)) ∧
            (∀ a, (∀ i ∈ p.elems, clean i → a < d i ∨ d i + p.size ≤ a) → Memory.get u.mem a = Memory.get s.mem a) ∧
            (∀ b < 6, q.flags.getLsbD b = true ↔ c.2.getLsbD b = true ∨ ∃ i ∈ p.elems, clean i ∧ (r i).2.getLsbD b = true) ∧
            (p.bad = [] → q.bad.Nodup ∧ ∀ v, v ∈ q.bad ↔ ∃ i ∈ p.elems, meets i v) ∧
            (∀ y, y ∈ u.poison ↔ y ∈ s.poison ∧ ¬∃ i ∈ p.elems, whole i ∧ clean i ∧ y.1 = d i / 64 * 64))) ∧
    (kTurn s m kt n 1 = some p → p.elems.findSome? (kElemFault s kt p) = none → ∃ u : State, exec (.rradd m kt n) s = .next u ∧ u.mem = s.mem ∧
      (u.kettle m kt).part n = some { p with started := true } ∧ (u.kettle m kt).areas = (s.kettle m kt).areas ++
        [{ part := n, pid := p.pid, dst := p.dst, bytes := p.count * p.size, here := p.elems.length * p.size, fmt := p.fmt, need := p.s1.toNat,
           ord := p.ord, got := 0, partials := [] }]) ∧
    ((s.kettle m kt).part n = some p → p.ctr = false →
      let full := (s.kettle m kt).areas.any (fun a => a.part = n && decide (a.need ≤ a.got))
      (p.worked = false → full = false → exec (.kettlePartEnd m kt n) s = .next s) ∧
      (p.worked = true ∨ full = true → ∃ u : State, exec (.kettlePartEnd m kt n) s = .next u ∧ u.mem = s.mem ∧ (u.kettle m kt).part n = none ∧
        (((s.setKettle m kt { s.kettle m kt with parts := (s.kettle m kt).parts.filter (fun x => x.uid ≠ p.uid),
                                                 areas := (s.kettle m kt).areas.filter (fun a => a.part ≠ p.uid) }).kettles.any
            (fun q => q.2.parts.any (fun x => x.cuid = p.cuid))) = false → s.sent.any (fun x => x.cuid = p.cuid) = false → p.kind = 0 →
          ∀ e ∈ (s.slot p.owner).cx.kcmds, e.uid = p.cuid → e.first = none → ∃ e' ∈ (u.slot p.owner).cx.kcmds, e'.uid = p.cuid ∧ e'.id = e.id ∧ e'.state = .done))) ∧
    (∀ (x : Msg) (j : EJob) (d : OsDesc) (a : Area) (l va base m1 m2 : Nat), s.msg n = some (x, j, d) → x.isAdd = true → d.area = true → x.retry = false →
      x.acked = false → s.arrives x = true → s.noWindow x.owner x.src x.slotgen = false → x.owner = .kettle m kt → s.holds j.owner.core.cl.m x.addr = false → (s.window x.owner x.src x.slotgen).holds x.seq x.low = false →
      access s j.who x.addr x.bytes.length .write = .loc l → hbmVa j.owner.core.cl.m x.addr = some (m1, va) → hbmVa j.owner.core.cl.m d.remote = some (m2, base) →
      areaAt { s.kettle m kt with areas := (s.kettle m kt).areas.filter (fun a => decide (a.got < a.need)) } j.pid va x.bytes.length = some a →
      let inside := Nat.min (va + x.bytes.length) (a.dst.toNat + a.bytes) - Nat.max va a.dst.toNat
      (a.dst.toNat < base ∨ base + d.length < a.dst.toNat + a.bytes ∨ d.fmt ≠ a.fmt →
        exec (.receiveAreaContribution m kt n) s = .next (refuseMsg s x j 4 0)) ∧
      (base ≤ a.dst.toNat → a.dst.toNat + a.bytes ≤ base + d.length → d.fmt = a.fmt →
        (a.ord = true → a.got < d.rank → exec (.receiveAreaContribution m kt n) s = .next (kWait s m kt x)) ∧
        (a.ord = false ∨ d.rank ≤ a.got → ∃ u : State, exec (.receiveAreaContribution m kt n) s = .next u ∧
          u.mem = (addUnits a.fmt 8 s l x.bytes.length x.bytes).1.mem ∧
          ∃ b ∈ (u.kettle m kt).areas, b.part = a.part ∧ b.got = a.got + (if a.here ≤ kget a.partials j.uid 0 + inside then 1 else 0))))

/-- Weight sets (R225, R226, R363): WSEAL with the count a set has seals it, one higher, and answers the new count; with another count it answers
the set's; a set in an open cycle sequence traps, and a part that writes the set is waited for; WQ answers the count, long-class; CREATE adds a set
that does not exist with count 0, and DELETE takes one away, with their answers. Where the manual leaves it open, what is said rests on entries 24
and 30 of the assumption log. -/
def Obligations.WeightSetsAreSealed : Prop :=
  ∀ (st t : State) (s : Bool) (rd rs1 : BitVec 5) (n : BitVec 6) (w : Wset) (k : CoreId) (x : WsetCmd),
    let m := t.cur.cl.m
    let pid := t.self.pid
    (Takes { s := s, parks := true, a := [rs1] } st t →
      (t.wset m pid n = none → exec (.wseal s rd rs1 n) st = .next (t.raise (trapInfo 0x160))) ∧
      (t.wset m pid n = some w → t.cycleOpen m pid n = true → exec (.wseal s rd rs1 n) st = .next (t.raise (trapInfo 0x161))) ∧
      (t.wset m pid n = some w → t.cycleOpen m pid n = false → (∀ e ∈ t.cx.rb, e.returned = true) →
        (t.cx.ra rs1 ≠ w.c → ∃ c, exec (.wseal s rd rs1 n) st = .next ((t.setCx c).finish) ∧ WritesA rd w.c t.cx c) ∧
        (t.cx.ra rs1 = w.c → t.partWrites m w = true → exec (.wseal s rd rs1 n) st = .next (t.park (.wsealParts n))) ∧
        (t.cx.ra rs1 = w.c → t.partWrites m w = false → ∃ (u : State) (c : Ctxt), exec (.wseal s rd rs1 n) st = .next ((u.setCx c).finish) ∧
          WritesA rd (w.c + 1) t.cx c ∧ u = { t with modules := u.modules } ∧ u.wset m pid n = some { w with c := w.c + 1 } ∧
          ∀ m' p' n', (m', p', n') ≠ (m, pid, n) → u.wset m' p' n' = t.wset m' p' n'))) ∧
    (Takes { s := s, long := true } st t →
      (t.wset m pid n = none → exec (.wq s rd n) st = .next (t.raise (trapInfo 0x160))) ∧
      (t.wset m pid n = some w → exec (.wq s rd n) st = .next ((t.setCx (Waiting t.cx (.areg rd) (.scalar w.c) 0 false)).finish))) ∧
    (x.low = 0 →
      (x.op = 0 → (t.wset k.cl.m x.pid x.set).isSome = true → ∃ u : State, exec (.wsetCreate k x) t = .next u ∧ (u.core k).wsetSt = 1 ∧ u.modules = t.modules) ∧
      (x.op = 0 → t.wset k.cl.m x.pid x.set = none → copiesBad x = false → ∃ u : State, exec (.wsetCreate k x) t = .next u ∧ (u.core k).wsetSt = 0 ∧
        u.wset k.cl.m x.pid x.set = some ⟨x.pid, x.set, x.p0, x.p1, x.size.toNat, 0⟩) ∧
      (x.op = 1 → t.wset k.cl.m x.pid x.set = some w → t.cycleOpen k.cl.m x.pid x.set = false → ∃ u : State, exec (.wsetDelete k x) t = .next u ∧
        (u.core k).wsetSt = 0 ∧ u.wset k.cl.m x.pid x.set = none) ∧
      (x.op = 1 → t.wset k.cl.m x.pid x.set = none → ∃ u : State, exec (.wsetDelete k x) t = .next u ∧ (u.core k).wsetSt = 2 ∧ u.modules = t.modules))

/-! ## Speculation -/

/-- SPAWN, SPAWNC and CRES (R264 to R266, R268, R286 to R289): a spawn puts a segment at the end of its cluster's ready pool, with the derived
index, the target, the captured a2 to a5 and the chain, which SPAWNC extends by its side of an unresolved condition, with the side likelihood of its
p8 or of the cluster's predictor, whose entry is then noted for the condition; SPAWN answers the child's index; a child on the losing side of a
resolved condition is not made; a full pool, table or chain is waited for, and in a run-ahead both park. CRES claims its condition, waits for room in
every cluster's table, writes its word and makes its outcome known, and goes on once every cluster has taken it, or an OPEN has freed the entry
since; a second CRES of the condition traps, and so does a word in regions 2 to 4. Where the manual leaves it open, what is said rests on entry 33 of
the assumption log. -/
def Obligations.SegmentsAreSpawned : Prop :=
  ∀ (st t : State) (s side : Bool) (rd rs1 rs2 : BitVec 5) (off : BitVec 17) (o8 p8 : BitVec 8) (loc : Nat),
    let cl := t.cur.cl
    let g := t.myGang
    let ea := t.cx.ra rs1
    let pc := t.cx.pc.toNat
    let spawn := Instr.spawn s rd off
    let spawnc := Instr.spawnc s rs1 side p8 o8
    let cres := Instr.cres s rs1 rs2 false
    let opens := Instr.cres s rs1 rs2 true
    let id := (2 : DWord) ^ 63 + (gen t.self.taskId (BitVec.ofNat 64 t.cx.spawn) >>> 1)
    let counted := { t.cx with spawn := t.cx.spawn + 1 }
    let room := (t.cluster cl).pool.length < 256
    let made := fun (u : State) (target : DWord) (chain : List ChainEntry) => u.mem = t.mem ∧ u.cores = t.cores ∧ ∃ p : Segment,
      (u.cluster cl).pool = (t.cluster cl).pool ++ [p] ∧ p.entry = target ∧ p.taskId = id ∧ p.gang = g ∧ p.chain = chain ∧
      p.role = .segment ∧ p.capture = some [t.cx.ra 2, t.cx.ra 3, t.cx.ra 4, t.cx.ra 5] ∧ p.eclass = t.self.eclass
    (Takes { s := true, a := [2, 3, 4, 5] } st t →
      (t.self.ck.isSome = true → exec spawn st = .next (t.park .certain)) ∧
      (t.self.ck = none →
        (¬ room → exec spawn st = .next (t.park .poolRoom)) ∧
        (room → ∃ (u : State) (c : Ctxt), exec spawn st = .next ((u.setCx c).finish) ∧ WritesA rd id counted c ∧
          made u (t.cx.pc + BitVec.ofInt 64 (2 * off.toInt)) t.self.chain))) ∧
    (Takes { s := true, a := [rs1, 2, 3, 4, 5] } st t →
      (t.self.ck.isSome = true → exec spawnc st = .next (t.park .certain)) ∧
      (t.self.ck = none → ∀ i, issueCheck t t.me ea 8 .readWrite formsAll = some i → exec spawnc st = .next (t.raise i)) ∧
      (t.self.ck = none → issueCheck t t.me ea 8 .readWrite formsAll = none → condLoc t ea false = .loc loc →
        let target := t.cx.pc + BitVec.ofInt 64 (2 * o8.toInt)
        let mine := (t.cluster cl).cond g loc
        let idx := bits pc 9 1 ^^^ bits pc 18 10
        let pe := kget (t.cluster cl).predictor idx ⟨0x8000, 0, 0⟩
        let p := if p8 ≠ 0 then p8.toNat * 256 else pe.p
        let likely := if p8 = 0 ∧ ¬ (pe.tag = t.self.lid.setWidth 16 ∧ 2 ≤ pe.count) then 0x8000
          else if side then p else if p = 0 then 0xFFFF else 0x10000 - p
        (∀ e o, mine = some e → e.outcome = some o →
          (o ≠ side → exec spawnc st = .next ((t.setCx counted).finish)) ∧
          (o = side → ¬ room → exec spawnc st = .next (t.park .poolRoom)) ∧
          (o = side → room → ∃ u : State, exec spawnc st = .next ((u.setCx counted).finish) ∧ made u target t.self.chain)) ∧
        (mine = none → 64 ≤ (t.cluster cl).conds.length → exec spawnc st = .next (t.park (.condRoom loc))) ∧
        ((∀ e, mine = some e → e.outcome = none) → (mine = none → (t.cluster cl).conds.length < 64) →
          (8 ≤ t.self.chain.length → exec spawnc st = .next (t.park .chainRoom)) ∧
          (t.self.chain.length < 8 → ¬ room → exec spawnc st = .next (t.park .poolRoom)) ∧
          (t.self.chain.length < 8 → room → ∃ u : State, exec spawnc st = .next ((u.setCx counted).finish) ∧
            made u target (t.self.chain ++ [⟨loc, side, likely⟩]) ∧
            ∃ e, (u.cluster cl).cond g loc = some e ∧ e.outcome = none ∧ (p8 = 0 → idx ∈ e.preds))))) ∧
    (Takes { s := s, parks := true, a := [rs1, rs2] } st t →
      (∀ i, issueCheck t t.me ea 8 .readWrite formsAll = some i → exec cres st = .next (t.raise i) ∧ exec opens st = .next (t.raise i)) ∧
      (issueCheck t t.me ea 8 .readWrite formsAll = none → condRegion (form ea) = true →
        exec cres st = .next (t.raise (trapInfo 0x049 ea 2)) ∧ exec opens st = .next (t.raise (trapInfo 0x049 ea 2))) ∧
      (issueCheck t t.me ea 8 .readWrite formsAll = none → condRegion (form ea) = false → condLoc t ea true = .loc loc →
        let claims := (t.gang g).claims
        let mine := claims.find? (fun x => x.word = loc && decide (x.by_ = t.me))
        let o := decide (t.cx.ra rs2 ≠ 0)
        let full := ∃ d ∈ (t.gang g).clusters, (t.cluster d).cond g loc = none ∧ 64 ≤ (t.cluster d).conds.length
        let other := (∃ x ∈ claims, x.word = loc ∧ x.freed = false) ∨ ∃ e : Cond, some e ∈ gangConds t g loc ∧ e.outcome.isSome = true
        let resolves := fun (l : List Claim) => ∃ u : State, exec cres st = .next (u.park (.condTaken loc)) ∧ (u.gang g).claims = l ∧
          Memory.getN u.mem loc 8 = (t.cx.ra rs2).toNat ∧ (∀ a, a < loc ∨ loc + 8 ≤ a → Memory.get u.mem a = Memory.get t.mem a) ∧
          ∀ d ∈ (t.gang g).clusters, ∃ e, (u.cluster d).cond g loc = some e
        let waits := fun (l : List Claim) => ∃ u : State, exec cres st = .next (u.park (.condTables loc)) ∧ u = { t with gangs := u.gangs } ∧ (u.gang g).claims = l
        (mine = none → other → exec cres st = .next (t.raise (trapInfo 0x150))) ∧
        (mine = none → ¬ other → full → waits (⟨loc, t.me, none, false⟩ :: claims)) ∧
        (mine = none → ¬ other → ¬ full → Memory.wf t.mem = true → resolves (⟨loc, t.me, some o, false⟩ :: claims)) ∧
        (∀ x, mine = some x → x.outcome = none → full → exec cres st = .next (t.park (.condTables loc))) ∧
        (∀ x, mine = some x → x.outcome = none → ¬ full → Memory.wf t.mem = true →
          resolves (claims.map (fun z => if z = x then { z with outcome := some o } else z))) ∧
        (∀ x b, mine = some x → x.outcome = some b →
          let taken := x.freed = true ∨ ∀ y ∈ gangConds t g loc, ∃ e : Cond, y = some e ∧ e.outcome.isSome = true
          (taken → ∃ u : State, exec cres st = .next u.finish ∧ u = { t with gangs := u.gangs } ∧
            (u.gang g).claims = claims.filter (fun z => !(z.word = loc && decide (z.by_ = t.me)))) ∧
          (¬ taken → exec cres st = .next (t.park (.condTaken loc))))) ∧
      (issueCheck t t.me ea 8 .readWrite formsAll = none → condRegion (form ea) = false → condLoc t ea false = .loc loc →
        ((∃ e : Cond, some e ∈ gangConds t g loc ∧ e.outcome = none) → exec opens st = .next (t.raise (trapInfo 0x151))) ∧
        ((∀ e : Cond, some e ∈ gangConds t g loc → e.outcome ≠ none) → ∃ u : State, exec opens st = .next u.finish ∧
          (∀ cl, (u.cluster cl).cond g loc = none) ∧ u.mem = t.mem ∧ u.cores = t.cores ∧
          (u.gang g).claims = (t.gang g).claims.map (fun z => if z.word = loc ∧ z.outcome.isSome = true then { z with freed := true } else z))))

/-- Outcomes, pools and graph nodes (R247 to R249, R268, R274, R289, R291, R337): a resolved outcome reaches a cluster, which prunes the tasks of
the other side and updates each predictor entry that was noted for the condition, once; an idle slot takes the best segment of its cluster and starts it as R247 says, with the captured words in its region, or, for an entry task of a loaded
object, the object's `.data` (R29, R382); a conditional
node that is ready and whose condition is resolved is at an end, with the nodes of its other side alone; a while node starts its body again or
leaves; in a serialised launch a node waits for the outcome, and only certain segments are taken (R372). Where the manual leaves it open, what is
said rests on entries 8, 34 and 57 of the assumption log. -/
def Obligations.SegmentsAndNodesRun : Prop :=
  ∀ (s : State) (cl : ClusterId) (g n word : Nat) (o : Bool) (c : CtxId),
    (∀ x, (s.gang g).claims.find? (fun x => x.word = word && !x.freed) = some x → x.outcome = some o → (s.gang g).covers cl = true → (s.gang g).status = .running →
      (∀ e, (s.cluster cl).cond g word = some e → e.outcome = none) → (∃ d ∈ (s.gang g).held, (s.slot d).gang = some g ∧ (s.slot d).chain = []) →
      let old : PredEntry := ⟨0x8000, 0, 0⟩
      let lid : BitVec 16 := (s.launch (s.gang g).launch).lid.setWidth 16
      let noted := (((s.cluster cl).cond g word).map (fun e => e.preds)).getD []
      ∃ u : State, exec (.conditionOutcomeArrival cl g word) s = .next u ∧ (∃ e, (u.cluster cl).cond g word = some e ∧ e.outcome = some o) ∧
        (noted.Nodup → ∀ i,
          let e := kget (s.cluster cl).predictor i old
          let p := if e.tag = lid then e.p else 0x8000
          let n := if e.tag = lid then e.count else 0
          kget (u.cluster cl).predictor i old = if i ∈ noted then ⟨if o then p + (0x10000 - p) / 8 else p - p / 8, lid, Nat.min 3 (n + 1)⟩ else e) ∧
        ∀ d ∈ tasksIn s g cl, onSide (s.slot d).chain word (!o) = true → (u.slot d).phase = .idle ∧ (u.slot d).gang = none) ∧
    (∀ p, c.who ≠ 4 → (s.slot c).phase = .idle → segmentFor s c = some p → ∃ u : State, exec (.segmentTake c) s = .next u ∧
      (u.slot c).phase = .live ∧ (u.slot c).taskId = p.taskId ∧ (u.slot c).gang = some p.gang ∧ (u.slot c).chain = p.chain ∧ (u.slot c).role = p.role ∧
      ((s.launch (s.gang p.gang).launch).rc.digest = true → (u.slot c).digest = gen (s.launch (s.gang p.gang).launch).rc.seed p.taskId) ∧
      ((s.launch (s.gang p.gang).launch).serial = true → p.chain = []) ∧
      (u.slot c).cx.pc = p.entry ∧ (u.slot c).cx.ra 1 = BitVec.ofNat 64 (0x2000 * c.who.val) ∧ (u.slot c).gens = (s.slot c).gens + 1 ∧
      (∀ r : BitVec 5, r ≠ 1 → (s.slot c).lastPid = some (s.launch (s.gang p.gang).launch).pid → ∃ q : BitVec 5, (u.slot c).cx.ra r = (s.slot c).cx.ra q) ∧
      (∀ r : BitVec 5, r ≠ 1 → (s.slot c).lastPid ≠ some (s.launch (s.gang p.gang).launch).pid → (u.slot c).cx.ra r = 0) ∧
      (∃ r, (u.cluster c.core.cl).pool = (s.cluster c.core.cl).pool.filter (fun q => q.uid ≠ p.uid) ++ r) ∧ (∀ d, d ≠ c → u.slot d = s.slot d) ∧
      (∀ x : Nat × Loaded, p.role = .entry → p.capture = none → (s.launch (s.gang p.gang).launch).img = some x.1 → s.loaded.find? (fun y => y.1 = x.1) = some x →
        Memory.wf s.mem = true → ∀ (i : Nat) (b : Byte), i < 0x2000 → x.2.data[i]? = some b → Memory.get u.mem (privLoc c.core (0x2000 * c.who.val) + i) = b) ∧
      (∀ ws : List DWord, p.capture = some ws → ws.length = 4 → Memory.wf s.mem = true →
        ∀ i < 4, Memory.getN u.mem (privLoc c.core (0x2000 * c.who.val) + 8 * i) 8 = (ws.getD i 0).toNat) ∧
      (∀ a, a < privLoc c.core (0x2000 * c.who.val) ∨ privLoc c.core (0x2000 * c.who.val) + 0x2000 ≤ a →
        a < inboxLoc c.core (0x100 * c.who.val) ∨ inboxLoc c.core (0x100 * c.who.val) + 0x100 ≤ a →
        (∀ ws : List DWord, p.capture = some ws → ws.length ≤ 1024) → Memory.wf s.mem = true → Memory.get u.mem a = Memory.get s.mem a)) ∧
    (∀ (x : Node) (loc : Nat) (e : Cond), (s.gang g).nodes[n]? = some x → x.ready.isSome = true → x.fin = false → x.exitOf = false → (s.gang g).status = .running →
      (∃ d ∈ (s.gang g).held, (s.slot d).gang = some g) → nodeWord s g x = some loc → (s.cluster ((s.gang g).cluster x.cluster)).cond g loc = some e →
      (x.kind = 1 → e.outcome = some o → ∃ u : State, exec (.conditionalNode g n) s = .next u ∧ u.mem = s.mem ∧ u.cores = s.cores ∧
        (∃ y, (u.gang g).nodes[n]? = some y ∧ y.fin = true) ∧
        ∀ t ∈ (if o then x.succF else x.succT), t ∉ (if o then x.succT else x.succF) → ∀ y, (u.gang g).nodes[t]? = some y → y.fin = true) ∧
      ((s.launch (s.gang g).launch).serial = true → e.outcome = none → x.kind = 1 ∨ (x.kind = 2 ∧ x.guess = false ∧ x.stale = false ∧ x.entered = false) →
        ∃ u : State, exec (if x.kind = 1 then .conditionalNode g n else .whileNode g n) s = .next u ∧ u.gangs = s.gangs ∧ u.mem = s.mem ∧
          u.cores = s.cores ∧ ∀ d, u.cluster d = s.cluster d) ∧
      (x.kind = 2 → x.guess = false → x.stale = false → x.entered = false ∨ x.bodyLeft = 0 →
        (e.outcome = some false → ∃ u : State, exec (.whileNode g n) s = .next u ∧ u.mem = s.mem ∧ ∃ y, (u.gang g).nodes[n]? = some y ∧ y.fin = true) ∧
        (e.outcome = some true → n ∉ x.succT → ∃ u : State, exec (.whileNode g n) s = .next u ∧ u.mem = s.mem ∧ ∃ y, (u.gang g).nodes[n]? = some y ∧
          y.fin = false ∧ y.entered = true ∧ y.stale = true ∧ y.bodyLeft = x.succT.length ∧ y.iter = (if x.entered then x.iter + 1 else x.iter))))

/-! ## Collectives, votes and the exchange phase -/

/-- CBR, CYCT, CVOTE and the close of a collective (R276 to R280, R292, R293, R301, R302, R322): CBR and CYCT in an entry task of a RESIDENT launch
leave their offer and both sides with the delay slot, and a gang offers its pending residual, which is reset, with the CYCT of its last live entry
task; elsewhere they trap. The close counts and clears every run-ahead: a task that predicted the other side goes on at the side taken, with the
context kept at its branch, and one that was right goes on as it was, each with its CBRSTAT. A CBR's side is the reduction of the members' offers. A
CYCT's is the residual decision: every member takes the greatest residual offered, counts the cycle, keeps the first cycle's residual, and the
branch is taken where the residual has converged, absolutely or relative to the first, or the cycles are used up. Where the tasks of a gang offer
different predicates, or members name different operators, every task traps at its branch with CBR_MISMATCH, and where their cycle parameters
differ with CYC_MISMATCH, and nothing is reduced. A gang vote answers the reduction once every live entry task has offered. Where the manual leaves
it open, what is said rests on entry 35 of the assumption log. -/
def Obligations.CollectivesAndVotes : Prop :=
  ∀ (st t : State) (s pred : Bool) (rd rs1 : BitVec 5) (op : BitVec 2) (off : BitVec 12),
    let target := t.cx.pc + BitVec.ofInt 64 (2 * off.toInt)
    let g := t.myGang
    let after := fun (op : BitVec 2) (v : Bool) => t.setCx { t.cx with
      delay := some ⟨t.cx.pc, none, some ⟨(t.launchOf t.me).closed, op, v, target, t.cx.pc + 8, pred⟩⟩, pc := t.cx.pc + 4, order := t.cx.order + 1 }
    (Takes { s := s, control := true, parks := true, a := [rs1] } st t →
      (t.isResident = false → exec (.cbr s rs1 op pred off) st = .next (t.raise (trapInfo 0x0D8))) ∧
      (t.isResident = true → t.isEntry = false → exec (.cbr s rs1 op pred off) st = .next (t.raise (trapInfo 0x0DA))) ∧
      (t.isResident = true → t.isEntry = true → exec (.cbr s rs1 op pred off) st = .next (after op (decide (t.cx.ra rs1 ≠ 0))))) ∧
    (Takes { s := s, control := true, parks := true } st t →
      (t.isResident = false → exec (.cyct s pred off) st = .next (t.raise (trapInfo 0x0D8))) ∧
      (t.isResident = true → t.isEntry = false → exec (.cyct s pred off) st = .next (t.raise (trapInfo 0x0DA))) ∧
      (t.isResident = true → t.isEntry = true → (t.gang g).cyc.isOpen = false → exec (.cyct s pred off) st = .next (t.raise (trapInfo 0x168))) ∧
      (t.isResident = true → t.isEntry = true → (t.gang g).cyc.isOpen = true →
        let w := after 3 false
        let old := t.gang g
        let last := old.offer = none ∧ liveEntries w g ≠ [] ∧
          ∀ c ∈ liveEntries w g, ∃ q : CollRef, (w.slot c).atColl = some q ∧ q.op = 3 ∧ q.k = (t.launch old.launch).closed
        ∃ u : State, exec (.cyct s pred off) st = .next u ∧ u = { w with gangs := u.gangs } ∧ (∀ h, h ≠ g → u.gang h = t.gang h) ∧
          (last → u.gang g = { old with offer := some ⟨old.cyc.pend, old.cyc.tol, old.cyc.max, old.cyc.rel, old.cyc.set⟩, cyc := { old.cyc with pend := 0 } }) ∧
          (¬ last → u.gang g = old))) ∧
    (∀ (l : Nat) (val : Nat → Bool), (t.launch l).rc.resident = true → members t l ≠ [] →
      (∀ g ∈ members t l, (t.gang g).status = .running ∧ liveEntries t g ≠ [] ∧ ∀ c ∈ liveEntries t g, ∃ k, (t.slot c).ck = some k ∧
        k.coll.k = (t.launch l).closed) →
      let task := fun (c : CtxId) (k : Checkpoint) => (∃ g ∈ members t l, c ∈ liveEntries t g) ∧ (t.slot c).ck = some k
      let agree := ∀ g ∈ members t l, ∀ c ∈ liveEntries t g, ∀ k, (t.slot c).ck = some k → k.coll.op = op ∧ k.coll.val = val g
      let stat := fun (low : Nat) => BitVec.ofNat 64 (((t.launch l).closed + 1) % 2 ^ 32 * 2 ^ 32 + Nat.min 65535 (members t l).length * 2 ^ 16 +
        (if (t.launch l).lost then 4 else 0) + low)
      let closes := fun (u : State) (out : Bool) => (u.launch l).closed = (t.launch l).closed + 1 ∧ ∀ c k, task c k → (u.slot c).ck = none ∧
        (u.slot c).cbrstat = stat ((if k.coll.pred = out then 0 else 2) + (if out then 1 else 0)) ∧
        (k.coll.pred ≠ out → k.cx.ahead = [] →
          let pc := if out then k.coll.taken else k.coll.fall
          (k.cx.delay = none → (u.slot c).cx = { k.cx with pc := pc }) ∧
          (∀ d, k.cx.delay = some d → (u.slot c).cx = { k.cx with delay := some { d with target := some pc } })) ∧
        (k.coll.pred = out → (∀ d ∈ (t.cluster c.core.cl).drafts, d.owner ≠ (t.slot c).uid) → (u.slot c).cx = (t.slot c).cx)
      let mismatch := fun (code : BitVec 9) => ∃ u : State, exec (.collectiveResolve l) t = .next u ∧ (u.launch l).closed = (t.launch l).closed + 1 ∧
        ∀ c k, task c k → c.who ≠ 4 → k.cx.delay = none → k.cx.ahead = [] → (u.slot c).ck = none ∧ (u.slot c).cx = { k.cx with pc := k.branch } ∧
          (u.slot c).cause = code.setWidth 64 ∧ (u.slot c).epc = k.branch ∧ (u.slot c).cbrstat = stat 8
      (op ≠ 3 → agree → ∃ u : State, exec (.collectiveResolve l) t = .next u ∧ closes u (reduceVotes op ((members t l).map val))) ∧
      ((∃ c k d j, task c k ∧ task d j ∧ (k.coll.op ≠ j.coll.op ∨ ((t.slot c).gang = (t.slot d).gang ∧ k.coll.val ≠ j.coll.val))) → mismatch 0x0D9) ∧
      (∀ o : Nat → CycOffer, op = 3 → agree → (members t l).Nodup → (∀ g ∈ members t l, (t.gang g).offer = some (o g)) →
        ((∃ i ∈ members t l, ∃ j ∈ members t l, (o i).tol ≠ (o j).tol ∨ (o i).max ≠ (o j).max ∨ (o i).rel ≠ (o j).rel ∨ (o i).set ≠ (o j).set) →
          mismatch 0x16A) ∧
        (∀ (c : CycState) (r : BitVec 32), (∀ i ∈ members t l, ∀ j ∈ members t l,
            (o i).tol = (o j).tol ∧ (o i).max = (o j).max ∧ (o i).rel = (o j).rel ∧ (o i).set = (o j).set) →
          (∀ g ∈ members t l, (t.gang g).cyc = c ∧ (o g).resid ≤ r) → (∃ g ∈ members t l, (o g).resid = r) →
          let cnt := c.cnt + 1
          let r0 := if cnt = 1 then r else c.resid0
          -- a finite non-negative FP32 value in units of 2^-149
          let units := fun (x : BitVec 32) => if x.toNat / 2 ^ 23 = 0 then x.toNat % 2 ^ 23 else (2 ^ 23 + x.toNat % 2 ^ 23) * 2 ^ (x.toNat / 2 ^ 23 - 1)
          let inf := fun (x : BitVec 32) => x = 0x7F800000
          let conv := if c.rel = false then r ≤ c.tol
            else if inf c.tol ∨ inf r0 then (if c.tol = 0 ∨ r0 = 0 then r = 0 else True)
            else ¬ inf r ∧ units r * 2 ^ 149 ≤ units c.tol * units r0
          (∀ x ∈ [r, c.tol, r0], x ≤ 0x7F800000) →
          ∀ yes out : Bool, (yes = true ↔ conv) → (out = true ↔ conv ∨ c.max ≤ cnt) →
            ∃ u : State, exec (.collectiveResolve l) t = .next u ∧ closes u out ∧ ∀ g ∈ members t l, (u.gang g).offer = none ∧
              (u.gang g).cyc = { c with resid := r, cnt := cnt, resid0 := r0, converged := if out then yes else c.converged,
                                        exhausted := if out then !yes else c.exhausted }))) ∧
    (Takes { s := s, xOk := true, parks := true, a := [rs1] } st t →
      let v := (t.gang g).vote t.self.votes
      let mine := (t.me, op, decide (t.cx.ra rs1 ≠ 0))
      let offers := fun (u : State) => (u.gang g).vote t.self.votes
      (t.isEntry = false → exec (.cvote s rd rs1 op) st = .next (t.raise (trapInfo 0x0DC))) ∧
      (t.isEntry = true → t.self.voted = true → v.result = none → exec (.cvote s rd rs1 op) st = .next (t.park (.vote t.self.votes))) ∧
      (t.isEntry = true → t.self.voted = true → v.result = some none →
        exec (.cvote s rd rs1 op) st = .next ((t.setSelf { t.self with voted := false, votes := t.self.votes + 1 }).raise (trapInfo 0x0DB))) ∧
      (∀ b, t.isEntry = true → t.self.voted = true → v.result = some (some b) → ∃ (u : State) (c : Ctxt),
        exec (.cvote s rd rs1 op) st = .next ((u.setCx c).finish) ∧ WritesA rd (if b then 1 else 0) t.cx c ∧
        u = t.setSelf { t.self with voted := false, votes := t.self.votes + 1 }) ∧
      (t.isEntry = true → t.self.voted = false → v.result = none → (∃ c ∈ liveEntries t g, c ≠ t.me ∧ ∀ o ∈ v.offers, o.1 ≠ c) → ∃ u : State,
        exec (.cvote s rd rs1 op) st = .next (u.park (.vote t.self.votes)) ∧ (offers u).offers = v.offers ++ [mine] ∧ (offers u).result = none ∧
        u.self = { t.self with voted := true } ∧ u.mem = t.mem) ∧
      (t.isEntry = true → t.self.voted = false → v.result = none → (∀ o ∈ v.offers, o.2.1 = op) →
        (∀ c ∈ liveEntries t g, c = t.me ∨ ∃ o ∈ v.offers, o.1 = c) → ∃ (u : State) (c : Ctxt),
          exec (.cvote s rd rs1 op) st = .next ((u.setCx c).finish) ∧ u.mem = t.mem ∧
          WritesA rd (if reduceVotes op (v.offers.map (fun o => o.2.2) ++ [decide (t.cx.ra rs1 ≠ 0)]) then 1 else 0) t.cx c))

/-- Supersteps and the exchange phase (R252, R294 to R296, R364): SSEND takes an entry task to the gang barrier; the last marker token begins the
phase, and every live entry task goes on after its SSEND; XMIT and XSEL join the phase, with the bytes an XMIT takes as it issues, and trap where
they may not stand; a paired transfer delivers the shorter length; XEND ends the phase for a task with its status. Where the manual leaves it open,
what is said rests on entry 36 of the assumption log. -/
def Obligations.ExchangePhases : Prop :=
  ∀ (st t : State) (s : Bool) (rd rs1 : BitVec 5) (len : BitVec 2) (dir : BitVec 3) (off slot : BitVec 6) (k : CoreId) (g n j : Nat) (x : Gang),
    (Takes { s := true } st t → exec (.ssend s) st = .next
      (if t.self.role ≠ .entry then t.raise (trapInfo 0x0D0) else if t.self.speculative = true then t.park .certain
       else (t.setSelf { t.self with ssended := true }).park .ssend)) ∧
    ((t.gangs.map (fun p => p.1)).Nodup → (g, x) ∈ t.gangs → x.status = .running → x.atCut = false → (∃ c ∈ x.held, c.core = k) → (t.core k).markers.contains g = false →
      (∀ c ∈ x.held, c.core ≠ k → (t.core c.core).markers.contains g = true) → liveEntries t g ≠ [] → (liveEntries t g).Nodup →
      (∀ c ∈ liveEntries t g, (t.slot c).ssended = true ∧ (t.slot c).cx.delay = none) → ∃ u : State, exec (.markerToken k) t = .next u ∧ u.mem = t.mem ∧
        (u.gang g).xops = [] ∧ ∀ c ∈ liveEntries t g, (u.slot c).inXchg = true ∧ (u.slot c).wait = none ∧ (u.slot c).ssended = false ∧
          (u.slot c).cx = { (t.slot c).cx with pc := (t.slot c).cx.pc + 4, order := (t.slot c).cx.order + 1 }) ∧
    (Takes { s := s, xOk := true, a := [rs1] } st t →
      let ea := t.cx.ra rs1 + BitVec.ofNat 64 (32 * off.toNat)
      let w := 32 * 2 ^ len.toNat
      let gg := t.gang t.myGang
      ∀ p ∈ [(Instr.xmit s len dir rs1 off slot, false), (.xsel s len dir rs1 off slot, true)],
        let acc : BitVec 2 := if p.2 then 1 else 0
        (t.self.inXchg = false → exec p.1 st = .next (t.raise (trapInfo 0x0D0))) ∧
        (t.self.inXchg = true → ea.toNat % 32 ≠ 0 → exec p.1 st = .next (t.raise (trapInfo 0x040 ea acc))) ∧
        (∀ o, t.self.inXchg = true → ea.toNat % 32 = 0 → form ea = .priv o → t.ownsPriv t.me o w = true → (p.2 = true → t.guarded t.cur o w = false) →
          (neighbour gg t.cur.cl dir.toNat = none → exec p.1 st = .next (t.raise (trapInfo 0x0D2))) ∧
          (neighbour gg t.cur.cl dir.toNat ≠ none →
            ((∃ y ∈ gg.xops, y.isRecv = p.2 ∧ y.owner.core.cl = t.cur.cl ∧ y.dir = dir.toNat ∧ y.slot = slot.toNat) →
              exec p.1 st = .next (t.raise (trapInfo 0x0D1))) ∧
            ((∀ y ∈ gg.xops, ¬ (y.isRecv = p.2 ∧ y.owner.core.cl = t.cur.cl ∧ y.dir = dir.toNat ∧ y.slot = slot.toNat)) →
              (p.2 = false → t.poisoned (privLoc t.cur o) w = false) → ∃ (u : State) (y : XOp), exec p.1 st = .next u.finish ∧ u = { t with gangs := u.gangs } ∧
                (u.gang t.myGang).xops = gg.xops ++ [y] ∧ y.owner = t.me ∧ y.isRecv = p.2 ∧ y.dir = dir.toNat ∧ y.slot = slot.toNat ∧ y.off = o ∧ y.len = w ∧
                y.result = 0 ∧ (p.2 = false → y.bytes = (List.range w).map (fun i => Memory.get t.mem (privLoc t.cur o + i))))))) ∧
    (∀ r, (t.gang g).xops[n]? = some r → r.isRecv = true → r.result = 0 → (t.gang g).xops.findIdx? (fun y => y.result = 0 && y.pairs (t.gang g) r) = some j →
      Memory.wf t.mem = true → ∀ y, (t.gang g).xops[j]? = some y → r.len % 32 = 0 → y.len % 32 = 0 → y.bytes.length = y.len →
        let w := Nat.min r.len y.len
        ∃ u : State, exec (.exchangeDelivery g n) t = .next u ∧
          (∀ b < w, some (Memory.get u.mem (privLoc r.owner.core r.off + b)) = y.bytes[b]?) ∧
          (∀ a, a < privLoc r.owner.core r.off ∨ privLoc r.owner.core r.off + w ≤ a → Memory.get u.mem a = Memory.get t.mem a) ∧
          ∀ i, (u.gang g).xops[i]? = ((t.gang g).xops[i]?).map (fun z => if i = n ∨ i = j then { z with result := if r.len = y.len then 1 else 3 } else z)) ∧
    (Takes { s := s, xOk := true } st t →
      (t.self.inXchg = false → exec (.xend s rd) st = .next (t.raise (trapInfo 0x0D0))) ∧
      (t.self.inXchg = true → (∀ y ∈ (t.gang t.myGang).xops, y.owner = t.me → y.result ≠ 0) → ∃ (u : State) (c : Ctxt) (v : DWord),
        exec (.xend s rd) st = .next ((u.setCx c).finish) ∧ WritesA rd v t.cx c ∧ u.self.inXchg = false ∧ u.mem = t.mem ∧
        let mine := (t.gang t.myGang).xops.filter (fun y => y.owner = t.me)
        v.toNat = (if mine.any (fun y => y.result = 3) then 4 else 0) + (if mine.any (fun y => y.isRecv && y.result = 2) then 2 else 0) +
          (if mine.any (fun y => !y.isRecv && y.result = 2) then 1 else 0)))

/-- Layer-parallel cycles (R272, R300, R301): CYCB opens a gang's sequence with its parameters, or joins it where they are the same, once the sequence
before it has closed; CYCRES raises the pending residual, but in the delay slot of the task's own CYCT, where it counts toward the next cycle, parks
(R322); CYCE leaves the sequence, which closes with the last live entry task; each traps where it
may not stand, and what would not trap parks while the task is speculative. Where the manual leaves
it open, what is said rests on entry 35 of the assumption log. -/
def Obligations.CyclesOpenAndClose : Prop :=
  ∀ (st t : State) (s rel : Bool) (rs1 : BitVec 5) (set : BitVec 6),
    let v := t.cx.ra rs1
    let g := t.myGang
    let c := (t.gang g).cyc
    let k := t.self.cycs
    let plus := fun (x : BitVec 32) => if x = 0x80000000 then 0 else x
    (Takes { s := s, a := [rs1] } st t →
      let tol : BitVec 32 := v.setWidth 32
      let max : BitVec 32 := (v >>> 32).setWidth 32
      let bad := 0x7F800000 < tol.toNat ∧ tol ≠ 0x80000000
      let has := (t.wset t.cur.cl.m t.self.pid set).isSome
      (t.isResident = false → exec (.cycb s rs1 set rel) st = .next (t.raise (trapInfo 0x0D8))) ∧
      (t.isResident = true → t.isEntry = false → exec (.cycb s rs1 set rel) st = .next (t.raise (trapInfo 0x0DA))) ∧
      (t.isResident = true → t.isEntry = true →
        (t.self.cycOwn = true → exec (.cycb s rs1 set rel) st = .next (t.raise (trapInfo 0x168))) ∧
        (t.self.cycOwn = false → bad → exec (.cycb s rs1 set rel) st = .next (t.raise (trapInfo 0x169))) ∧
        (t.self.cycOwn = false → ¬ bad → has = false → exec (.cycb s rs1 set rel) st = .next (t.raise (trapInfo 0x160))) ∧
        (t.self.cycOwn = false → ¬ bad → has = true →
          let mine := t.setSelf { t.self with cycOwn := true, cycs := k + 1 }
          let same := c.tol = plus tol ∧ c.max = max ∧ c.rel = rel ∧ c.set = set
          (t.self.speculative = true → exec (.cycb s rs1 set rel) st = .next (t.park .certain)) ∧
          (t.self.speculative = false → c.closed < k → exec (.cycb s rs1 set rel) st = .next (t.park (.cycSeq k))) ∧
          (t.self.speculative = false → k ≤ c.closed → c.opened ≤ k → ∃ u : State, exec (.cycb s rs1 set rel) st = .next u.finish ∧
            u = { mine with gangs := u.gangs } ∧
            (u.gang g).cyc = { c with tol := plus tol, max := max, rel := rel, set := set, cnt := 0, converged := false, exhausted := false,
                                      isOpen := true, pend := 0, opened := k + 1, enders := [] }) ∧
          (t.self.speculative = false → k ≤ c.closed → k < c.opened → same → exec (.cycb s rs1 set rel) st = .next mine.finish) ∧
          (t.self.speculative = false → k ≤ c.closed → k < c.opened → ¬ same → exec (.cycb s rs1 set rel) st = .next (t.raise (trapInfo 0x16A)))))) ∧
    (∀ (d : Delay) (r : CollRef), Takes { s := s, parks := true, a := [rs1] } st t → c.isOpen = true → v.toNat % 2 ^ 32 ≤ 0x7F800000 ∨ v.toNat % 2 ^ 32 = 2 ^ 31 →
      t.cx.delay = some d → d.coll = some r → r.op = 3 → ∃ u : State, exec (.cycres s rs1) st = .next (switchPoint u t.cur) ∧ u.mem = t.mem ∧
        u.self.ck.isSome = true ∧ u.self.wait.isSome = true ∧ (u.gang g).cyc.pend ≤ c.pend ∧ ∀ e, e ≠ t.me → u.slot e = t.slot e) ∧
    (Takes { s := s, parks := true, a := [rs1] } st t →
      (c.isOpen = false → exec (.cycres s rs1) st = .next (t.raise (trapInfo 0x168))) ∧
      (c.isOpen = true → 0x7F800000 < v.toNat % 2 ^ 32 → v.toNat % 2 ^ 32 ≠ 2 ^ 31 → exec (.cycres s rs1) st = .next (t.raise (trapInfo 0x169))) ∧
      (c.isOpen = true → v.toNat % 2 ^ 32 ≤ 0x7F800000 ∨ v.toNat % 2 ^ 32 = 2 ^ 31 →
        (∀ d r, t.cx.delay = some d → d.coll = some r → r.op ≠ 3) → ∃ u : State, exec (.cycres s rs1) st = .next u.finish ∧
        u = { t with gangs := u.gangs } ∧ (u.gang g).cyc = { c with pend := if c.pend < plus (v.setWidth 32) then plus (v.setWidth 32) else c.pend })) ∧
    (Takes { s := s } st t →
      (t.isEntry = false → exec (.cyce s) st = .next (t.raise (trapInfo 0x0DA))) ∧
      (t.isEntry = true → t.self.cycOwn = false → exec (.cyce s) st = .next (t.raise (trapInfo 0x168))) ∧
      (t.isEntry = true → t.self.cycOwn = true → t.self.speculative = true → exec (.cyce s) st = .next (t.park .certain)) ∧
      (t.isEntry = true → t.self.cycOwn = true → t.self.speculative = false → ∃ u : State, exec (.cyce s) st = .next u.finish ∧ u.mem = t.mem ∧
        u.self = { t.self with cycOwn := false } ∧
        ((∃ d ∈ liveEntries t g, d ≠ t.me ∧ d ∉ c.enders) → (u.gang g).cyc = { c with enders := t.me :: c.enders }) ∧
        (c.isOpen = true → (∀ d ∈ liveEntries t g, d = t.me ∨ d ∈ c.enders) →
          (u.gang g).cyc = { c with enders := t.me :: c.enders, isOpen := false, closed := c.closed + 1 })))

/-! ## Launches -/

/-- LAUNCH, LCANCEL, LWAIT and RETIRE (R242, R263, R285, R297 to R299): a record that keeps its rules is accepted, its launch stands in the table
with a new LAUNCHID, which rd takes, and another leaves only its status in rd; LCANCEL marks an uncompleted launch of the process, and is REFUSED where
no ring reaches its origin; LWAIT waits for
it and answers the word kept of it; RETIRE ends the task and leaves its slot idle, once its engine work is at an end. With the last task of a block
of a launch that keeps digests the block's digest is formed from the tasks' in ascending TASKID order, 0 taken as 1, and written into the table
(R370); where the table checks, a digest that agrees lets the task retire, and another traps the RETIRE with DIGEST_MISMATCH at the table's entry, sets
SERIAL and counts the block as faulting (R371); a RETIRE after that compares no more. Where the manual leaves it open, what is said rests on entries
8, 37, 57 and 59 of the assumption log. -/
def Obligations.LaunchInstructions : Prop :=
  ∀ (st t : State) (s kill : Bool) (rd rs1 : BitVec 5) (imm : BitVec 12) (ds : List Nat) (r : LaunchRec) (ns : List (Option Node)),
    let ea := t.cx.ra rs1 + imm.signExtend 64
    let m := t.cur.cl.m
    let lid : BitVec 32 := (t.cx.ra rs1).setWidth 32
    (Takes { s := s, parks := true, a := [rs1] } st t →
      (ea.toNat % 64 ≠ 0 → exec (.launch s rd rs1 imm) st = .next (t.raise (trapInfo 0x040 ea))) ∧
      (ea.toNat % 64 = 0 → (form ea).isPriv = false → (form ea).isVirt = false → exec (.launch s rd rs1 imm) st = .next (t.raise (trapInfo 0x041 ea))) ∧
      (∀ ok, ea.toNat % 64 = 0 → (form ea).isVirt = true ∨ ((form ea).isPriv = true ∧ recordCheck t t.me ea 64 256 = none) →
        readDwords t t.me ea 32 = .ok ds → (∀ e ∈ t.cx.rb, e.returned = true) → launchRecOf ds m = (r, ok) →
        (if ok && r.graph ≠ 0 then graphNodes t (t.whoIs t.me) r else .ok []) = .ok ns →
        let x : Launch := { Launch.reset with lid := newLid t (t.launches.length + 1) t.fresh, pid := t.self.pid, origin := m, rc := r,
                                              nodes := withParents (ns.filterMap id), img := (t.launchOf t.me).img, fin := false }
        let code := launchStatus t (t.whoIs t.me) x ok ns
        (code ≠ 0 → ∃ c, exec (.launch s rd rs1 imm) st = .next ((t.setCx c).finish) ∧ WritesA rd (BitVec.ofNat 64 (code * 2 ^ 56)) t.cx c) ∧
        (code = 0 → ∃ (u : State) (c : Ctxt), exec (.launch s rd rs1 imm) st = .next ((u.setCx c).finish) ∧ WritesA rd (x.lid.setWidth 64) t.cx c ∧
          u.launch t.fresh = x ∧ (∀ l, l ≠ t.fresh → u.launch l = t.launch l) ∧ u.mem = t.mem ∧ u.cores = t.cores)) ∧
      (∀ l, findLaunch t t.self.pid lid (fun l => l.cancel.isNone) = some l → t.reaches m (t.launch l).origin = false →
        exec (.lcancel s rs1 kill) st = .next (t.raise (trapInfo 0x051))) ∧
      (∀ l, findLaunch t t.self.pid lid (fun l => l.cancel.isNone) = some l → t.reaches m (t.launch l).origin = true → ∃ u : State, exec (.lcancel s rs1 kill) st = .next u.finish ∧
        u = { t with launches := u.launches } ∧ u.launch l = { t.launch l with cancel := some kill } ∧ ∀ j, j ≠ l → u.launch j = t.launch j) ∧
      (findLaunch t t.self.pid lid (fun l => l.cancel.isNone) = none → exec (.lcancel s rs1 kill) st = .next t.finish)) ∧
    (Takes { s := s, a := [rs1] } st t →
      (∀ l, findLaunch t t.self.pid lid (fun l => l.origin = m) = some l → exec (.lwait s rd rs1) st = .next (t.park (.launchEnd lid))) ∧
      (findLaunch t t.self.pid lid (fun l => l.origin = m) = none →
        (∀ k, (t.module m).kept.find? (fun k => k.1 = t.self.pid && k.2.1 = lid) = some k → ∃ c, exec (.lwait s rd rs1) st = .next ((t.setCx c).finish) ∧
          WritesA rd k.2.2 t.cx c) ∧
        ((t.module m).kept.find? (fun k => k.1 = t.self.pid && k.2.1 = lid) = none → exec (.lwait s rd rs1) st = .next (t.raise (trapInfo 0x0E0))))) ∧
    (Takes { s := true, control := true, parks := true } st t →
      (t.isEntry = true → t.self.cycOwn = true → exec (.retire s) st = .next (t.raise (trapInfo 0x168))) ∧
      (t.isEntry = false ∨ t.self.cycOwn = false →
        (workPending t t.me = true → ∃ u : State, exec (.retire s) st = .next (u.park .work) ∧ u.mem = t.mem) ∧
        (workPending t t.me = false →
          let x := t.gang t.myGang
          let l := t.launch x.launch
          let digest := (t.launchOf t.me).rc.digest
          let retires := fun (v : State) => ∃ u : State, exec (.retire s) st = .next (switchPoint u t.cur) ∧ u.mem = v.mem ∧
            (u.slot t.me).phase = .idle ∧ (u.slot t.me).gang = none ∧ (u.slot t.me).cx = { Ctxt.reset with a := t.cx.a } ∧
            (u.gang t.myGang).digests = (t.self.taskId, t.self.digest) :: x.digests
          (digest = false ∨ x.digested = true ∨ lastOfGang t t.myGang t.me = false → retires t) ∧
          (∀ (order : List (DWord × DWord)) (h : Nat), digest = true → x.digested = false → lastOfGang t t.myGang t.me = true →
            order.Perm ((t.self.taskId, t.self.digest) :: x.digests) → order.Pairwise (fun p q => p.1 < q.1) →
            let fold := order.foldl (fun d p => gen (d ^^^ p.2) p.1) (gen l.rc.seed (BitVec.ofNat 64 x.block))
            let d : DWord := if fold = 0 then 1 else fold
            let table := l.rc.summary + 192
            let ent := table + BitVec.ofNat 64 (8 + 8 * x.block)
            readMem t l.who table 8 = .val h →
            (∀ v, h % 2 = 0 → whoWrite t l.who ent [d.toNat] = .ok v → retires v) ∧
            (h % 2 = 1 → readMem t l.who ent 8 = .val d.toNat → retires t) ∧
            (∀ e v, h % 2 = 1 → readMem t l.who ent 8 = .val e → e ≠ d.toNat → whoWrite t l.who table [h ||| 2] = .ok v →
              ∃ (u : State) (f : FaultRec), exec (.retire s) st = .next (u.raise (trapInfo 0x170 ent)) ∧ u.mem = v.mem ∧
                (u.gang t.myGang).digested = true ∧ (u.launch x.launch).faults = l.faults ++ [f] ∧ f.block = x.block ∧
                f.taskId = t.self.taskId ∧ f.cause = 0x170 ∧ f.eaddr = ent)))))

/-- The dispatchers (R251, R256 to R258, R260, R263): a launch whose dependences are met enters the queues with all its blocks, in issue order, and one that is
cancelled or whose counter is refused with every block withdrawn; a child that has room is dealt the next blocks; a block starts at a place that is
free, its entry tasks live at the record's entry with their indices, every gang of a RESIDENT launch at once, and the blocks of a serialised launch
one after another in ascending order (R372), which its table says when it can be read; no gang starts on a module in a power state; a dispatcher
handles a cancel and withdraws what it holds; a launch whose blocks have all ended is over, with its word kept for LWAIT, and a summary that reaches a poisoned unit is not written, POISONED joining
the causes (R260). A task fault (R229, R261,
R262, R352, R362): SLOTCTL END of a FORWARDED slot, and ERET END of the handler's trapped slot, record the slot's task, cause and trap registers in
its launch, kill its gang, empty its slot, and under policy LAUNCH cancel the launch. Where the manual leaves it open, what is said rests on entries
37, 38 and 57 of the assumption log. -/
def Obligations.DispatchersAndTaskFaults : Prop :=
  (∀ (s : State) (l x y : Nat) (node p : DispNode) (kids : Nat), (s.launch l).fin = false →
    let r := s.launch l
    (∀ b, r.queued = none → issuedBefore s l = false → r.cancel = none → depsOf s r r.rc.deps = .met →
      (r.rc.digest = false ∧ b = false ∨ r.rc.digest = true ∧ ∃ h, readMem s r.who (r.rc.summary + 192) 8 = .val h ∧ b = h.testBit 1) →
      ∃ u : State, exec (.launchDependenceMet l) s = .next u ∧
      u.launch l = { r with queued := some s.fresh, ranges := firstRanges r, serial := b } ∧ u.mem = s.mem ∧ u.cores = s.cores) ∧
    (r.queued = none → r.cancel = none → depsOf s r r.rc.deps = .met → r.rc.digest = true → readMem s r.who (r.rc.summary + 192) 8 = .retry →
      exec (.launchDependenceMet l) s = .next s) ∧
    (∀ kill, r.queued = none → issuedBefore s l = false → r.cancel = some kill → depsOf s r r.rc.deps = .met → ∃ u : State,
      exec (.launchDependenceMet l) s = .next u ∧ u.launch l = { r with queued := some s.fresh, withdrawn := r.rc.grid } ∧ u.mem = s.mem ∧ u.cores = s.cores) ∧
    (∀ code a, r.queued = none → issuedBefore s l = false → depsOf s r r.rc.deps = .refused code a → ∃ u : State, exec (.launchDependenceMet l) s = .next u ∧
      u.launch l = { r with queued := some s.fresh, withdrawn := r.rc.grid, depFault := some (code, a), endCause := code :: r.endCause } ∧
      u.mem = s.mem ∧ u.cores = s.cores) ∧
    (r.queued = none → depsOf s r r.rc.deps = .waits ∨ issuedBefore s l = true → exec (.launchDependenceMet l) s = .next s) ∧
    (r.queued.isSome = true → node.parent r = some (p, kids) → nodeServes s r node = true → node ∉ r.handled → p ∉ r.handled → r.blocksAt p ≠ 0 →
      let t := takeBlocks (Nat.max 1 ((r.blocksAt p + 2 * kids - 1) / (2 * kids))) (kget r.ranges p [])
      (hasRoom s r node = false → exec (.blockRangeRequest node l) s = .next s) ∧
      (hasRoom s r node = true → p ≠ node → ∃ u : State, exec (.blockRangeRequest node l) s = .next u ∧
        kget (u.launch l).ranges node [] = kget r.ranges node [] ++ t.1 ∧ kget (u.launch l).ranges p [] = t.2 ∧ u.mem = s.mem ∧ u.cores = s.cores)) ∧
    (∀ a b rest held, r.rc.resident = false → nodeServes s r node = true → node.level = r.rc.level → node ∉ r.handled → inTurn s node l = true →
      (r.serial = true → blockRuns s l = false ∧ r.startsBefore a = false) → kget r.ranges node [] = (a, b) :: rest → fitsArea r.rc node x y = true → s.starts r.origin node.mod = true →
      placeAt s r.rc r.pid node.mod x y = some held → ∃ u : State, exec (.gangStart node l x y) s = .next u ∧
        (u.gang s.fresh).launch = l ∧ (u.gang s.fresh).block = a ∧ (u.gang s.fresh).held = held ∧ (u.gang s.fresh).status = .running ∧
        kget (u.launch l).ranges node [] = (if a + 1 < b then (a + 1, b) :: rest else rest) ∧
        let es := (u.gang s.fresh).entries
        (es.Nodup → ∀ i c, es[i]? = some c → (u.slot c).phase = .live ∧ (u.slot c).role = .entry ∧ (u.slot c).cx.pc = r.rc.entry ∧
          (u.slot c).gang = some s.fresh ∧ (u.slot c).taskId = BitVec.ofNat 64 (a * (r.rc.wd * r.rc.ht * r.rc.c * r.rc.n) + i))) ∧
    (∀ a b rest, r.rc.resident = false → kget r.ranges node [] = (a, b) :: rest → r.serial = true → blockRuns s l = true ∨ r.startsBefore a = true →
      exec (.gangStart node l x y) s = .next s) ∧
    ((s.module node.mod).power ≠ .run → r.rc.resident = false → exec (.gangStart node l x y) s = .next s) ∧
    (r.rc.resident = true → (∃ i < r.rc.mods, (s.module (r.rc.m0 + i)).power ≠ .run) → exec (.gangStart node l x y) s = .next s) ∧
    (∀ t, r.rc.resident = true → nodeServes s r node = true → node.level = 0 → node ∉ r.handled → inTurn s node l = true → kget r.ranges node [] ≠ [] →
      (∀ i < r.rc.mods, s.starts r.origin (r.rc.m0 + i) = true) → reserveGangs (s.setLaunch l { r with ranges := [] }) l = some t →
      ∃ u : State, exec (.gangStart node l x y) s = .next u ∧ (u.launch l).ranges = [] ∧
        ∀ b < r.rc.grid, (u.gang (s.fresh + b)).launch = l ∧ (u.gang (s.fresh + b)).block = b ∧ (u.gang (s.fresh + b)).status = .running) ∧
    (∀ kill, r.cancel = some kill → r.queued.isSome = true → nodeServes s r node = true → node ∉ r.handled →
      (∀ q, node.parent r = some q → q.1 ∈ r.handled) → ∃ u : State, exec (.cancelAtDispatcher node l) s = .next u ∧
        (kill = false → u.mem = s.mem ∧ u.cores = s.cores ∧
          u.launch l = { r with handled := node :: r.handled, withdrawn := r.withdrawn + r.blocksAt node, ranges := kset r.ranges node [] }) ∧
        (kill = true → ∀ g ∈ s.gangs, g.2.launch = l → g.2.by_ = node → (u.gang g.1).status = .killed ∨ (u.gang g.1).status = .retired)) ∧
    (r.queued.isSome = true → r.retired + r.withdrawn + r.killed = r.rc.grid → r.rc.counter = 0 →
      (let marked := ∃ i < (summaryOf s r).length, ∃ x, access s r.who (r.rc.summary + BitVec.ofNat 64 (8 * i)) 8 .write = .loc x ∧ s.poisoned x 8 = true
       ∀ v, r.rc.summary ≠ 0 → whoWrite s r.who r.rc.summary (summaryOf s r) = .ok v → ∃ u : State, exec (.launchComplete l) s = .next u ∧ (u.launch l).fin = true ∧
        (¬ marked → u.mem = v.mem ∧ (u.launch l).endCause = r.endCause) ∧ (marked → u.mem = s.mem ∧ (u.launch l).endCause = 0x050 :: r.endCause)) ∧
      (r.rc.summary = 0 → ∃ u : State, exec (.launchComplete l) s = .next u ∧ u.mem = s.mem ∧ u.launch l = { r with fin := true } ∧
        (u.module r.origin).kept.find? (fun k => k.1 = r.pid && k.2.1 = r.lid) = some (r.pid, r.lid, BitVec.ofNat 64 (r.status * 2 ^ 62 + r.nfaults))))) ∧
  (∀ (s t : State) (b : Bool) (c : CtxId) (g : Nat), (t.slot c).gang = some g → (t.gang g).status = .running → c ∈ (t.gang g).held → (t.slot c).digestSeen = false →
    let l := (t.gang g).launch
    let faulted := fun (u : State) => (u.gang g).status = .killed ∧ (u.slot c).phase = .idle ∧ (u.launch l).killed = (t.launch l).killed + 1 ∧
      (u.launch l).nfaults = Nat.min (2 ^ 32 - 1) ((t.launch l).nfaults + 1) ∧
      (u.launch l).faults = (t.launch l).faults ++ [⟨(t.gang g).block, (t.slot c).taskId, (t.slot c).epc, (t.slot c).eaddr, (t.slot c).einfo, c, (t.slot c).cause.setWidth 9⟩] ∧
      ((t.launch l).rc.policy = true → (t.launch l).cancel = none → (u.launch l).cancel = some true)
    (c.who ≠ 4 → (t.slot c).phase = .forwarded → ∃ u : State, exec (.slotctlEnd c) t = .next u ∧ faulted u) ∧
    (Takes { s := b, control := true, hOk := true } s t → t.me.who = 4 → t.mirror t.cur = some c → (t.slot c).phase = .trapped → c.who ≠ 4 →
      ∃ u : State, exec (.eret b 1) s = .next (switchPoint u t.cur) ∧ faulted u ∧ (u.slot ⟨t.cur, 4⟩).phase = .idle))

/-! ## Stopping and resuming gangs -/

/-- Gang-stop, checkpoint and resume (R275, R282, R358 to R361, R365, R366, R374): a stop takes each task of a gang, and of every member of a RESIDENT
launch with it, at its instruction boundary, and keeps the location named for the image; a checkpoint waits for the cut, where the stop begins. Shown
for a launch that is not RESIDENT: a stop whose gang has drained saves the slots and the bytes of its local stores in the image at that location,
leaves its slots idle and writes no other byte; a resume from the image at a location puts them back as they were saved, keeps the image, and brings
a killed gang's block back; a gang that may not resume waits. A gang to which a message is on its way has not drained. An access refused with RETRY is issued again. Where the manual leaves it open, what is
said rests on entries 42, 43 and 57 of the assumption log. -/
def Obligations.GangsStopAndResume : Prop :=
  ∀ (s : State) (g a : Nat) (c : CtxId),
    let x := s.gang g
    (x.status = .running → (∀ h ∈ together s g, (s.gang h).status = .running ∧ gangInXchg s h = false ∧
      ∀ d ∈ gangTasks s h, (s.slot d).phase = .live ∧ (s.slot d).storing = false ∧ (s.slot d).cx.delay = none) →
      ∃ u : State, exec (.gangStop ⟨g, a⟩) s = .next u ∧ u.mem = s.mem ∧ ∀ h ∈ together s g, (u.gang h).status = .stopping ∧ (u.gang h).imageAt = a ∧
        ∀ d ∈ gangTasks s h, (u.slot d).stopped = true ∧ (u.slot d).cx = (s.slot d).cx) ∧
    ((s.launch x.launch).rc.resident = false →
      (x.status = .running → atCut s g = false → exec (.checkpoint ⟨g, a⟩) s = .next (s.setGang g { x with cutAt := some a })) ∧
      (x.status = .running → atCut s g = true → gangInXchg s g = false →
        (∀ d ∈ gangTasks s g, (s.slot d).phase = .live ∧ (s.slot d).storing = false ∧ (s.slot d).cx.delay = none) →
        ∃ u : State, exec (.checkpoint ⟨g, a⟩) s = .next u ∧ u.mem = s.mem ∧ (u.gang g).status = .stopping ∧ (u.gang g).imageAt = a ∧
          ∀ d ∈ gangTasks s g, (u.slot d).stopped = true ∧ (u.slot d).cx = (s.slot d).cx) ∧
      (drained s g = true → (∀ d ∈ gangTasks s g, (s.slot d).chain = [] ∧ (s.slot d).ck = none ∧ (s.slot d).cx.rb = []) →
        ∃ (u : State) (i : Image), exec (.gangStopComplete g) s = .next u ∧ (u.gang g).status = .stopped ∧ (u.gang g).image x.imageAt = some i ∧
          i.held = x.held ∧ i.slots = (gangTasks s g).map (fun d => (d, { s.slot d with stopped := false })) ∧
          i.mem = s.mem.filter (fun b => inRanges x.ranges b.1) ∧ i.bars = x.bars ∧ i.cyc = x.cyc ∧ i.overflow = x.overflow ∧
          (∀ b, b < x.imageAt ∨ x.imageAt + x.imageRoom (s.launch x.launch).rc.c ≤ b → Memory.get u.mem b = Memory.get s.mem b) ∧
          ∀ d ∈ gangTasks s g, (u.slot d).phase = .idle ∧ (u.slot d).gang = none) ∧
      (∀ i, canResume s a g = true → x.image a = some i → i.cut = false → i.overflow = [] → Memory.wf s.mem = true → Memory.wf i.mem = true →
        (i.slots.map (fun p => p.1)).Nodup → (∀ p ∈ i.slots, p.2.phase = .live) → ∃ u : State, exec (.gangResume ⟨g, a⟩) s = .next u ∧
          (u.gang g).status = .running ∧ (u.gang g).held = i.held ∧ (u.gang g).bars = i.bars ∧ (u.gang g).cyc = i.cyc ∧ (u.gang g).images = x.images ∧
          (u.launch x.launch).killed = (s.launch x.launch).killed - (if x.status = .killed then 1 else 0) ∧
          (∀ p ∈ i.slots, u.slot p.1 = { p.2 with gens := (s.slot p.1).gens, lastPid := some (s.launch x.launch).pid }) ∧
          ∀ b ∈ i.mem, Memory.get u.mem b.1 = b.2) ∧
      (canResume s a g = false → exec (.gangResume ⟨g, a⟩) s = .next s)) ∧
    ((∃ m ∈ s.msgs, m.acked = false ∧ m.retry = false ∧ (x.owns m.addr = true)) → drained s g = false) ∧
    (∀ as, (s.slot c).wait = some (.reissue as) → exec (.remoteReissue c) s = .next (s.setSlot c { s.slot c with wait := none, reissued := true }))

/-! ## The fabric -/

/-- Requests of other agents (R153, R175, R329, R378): one that its owner or station allows reads, writes, or changes the masked bits in one step,
and is answered; one that is refused is answered with its cause and changes nothing; one for a module in a power state is held and wakes it. Where
the manual leaves it open, what is said rests on entries 48 and 49 of the assumption log. -/
def Obligations.RequestsAreServed : Prop :=
  ∀ (s : State) (r : RemoteReq) (l v : Nat), (form r.addr).isGlob = true ∨ (form r.addr).isRemote = true → Memory.wf s.mem = true →
    let m := moduleOf 0 r.addr
    let answered := fun (u : State) (v : Option Nat) (code : BitVec 9) => u.replies = s.replies ++ [(r, v, code)]
    let only := fun (u : State) (w : Nat) => Memory.getN u.mem l r.size = w % 2 ^ (8 * r.size) ∧
      ∀ a, a < l ∨ l + r.size ≤ a → Memory.get u.mem a = Memory.get s.mem a
    let masked := fun (v : Nat) => (v &&& (2 ^ (8 * r.size) - 1 - r.mask)) ||| (r.data &&& r.mask)
    ((s.module m).power ≠ .run → ∀ p ∈ [(Instr.remoteAccessArrival r, HeldReq.remote r), (.subByteMessage r, .bits r)],
      exec p.1 s = .next (s.setModule m { s.module m with waking := true, heldReqs := (s.module m).heldReqs ++ [p.2] })) ∧
    ((s.module m).power = .run →
      (∀ f, access s (reqWho r) r.addr r.size r.acc = .fault f → ∃ u : State, exec (.remoteAccessArrival r) s = .next u ∧ answered u none f.code ∧
        u = { s with replies := u.replies }) ∧
      (access s (reqWho r) r.addr r.size r.acc = .loc l →
        (r.acc = .read → s.homeRead l r.size = some v → ∃ u : State, exec (.remoteAccessArrival r) s = .next u ∧ answered u (some v) 0 ∧
          u = { s with replies := u.replies }) ∧
        (r.acc = .write → isHbm l = false → locRegion l = 4 → l % 2 ^ 15 = 0x018 → 2 ≤ r.data % 4 → ∃ u : State, exec (.remoteAccessArrival r) s = .next u ∧
          answered u none 0x051 ∧ u = { s with replies := u.replies }) ∧
        (r.acc = .write → isHbm l = true ∨ (locRegion l ≠ 3 ∧ locRegion l ≠ 4) → ∃ u : State, exec (.remoteAccessArrival r) s = .next u ∧
          answered u (some 0) 0 ∧ only u r.data) ∧
        (r.acc = .readWrite → s.homeRead l r.size = some v → ∃ u : State, exec (.remoteAccessArrival r) s = .next u ∧
          answered u (some v) 0 ∧ only u (masked v)))) ∧
    ((s.module m).power = .run → access s (reqWho r) r.addr r.size .write = .loc l → isHbm l = true ∨ locRegion l < 2 ∨ 8 ≤ locRegion l → ∃ u : State, exec (.subByteMessage r) s = .next u ∧
      answered u (some 0) 0 ∧ only u (masked (Memory.getN s.mem l r.size)) ∧ u.poison = s.poison) ∧
    (∀ f, (s.module m).power = .run → access s (reqWho r) r.addr r.size .write = .fault f → ∃ u : State, exec (.subByteMessage r) s = .next u ∧ answered u none f.code ∧
      u = { s with replies := u.replies })

/-- Stations, slot tables and ports (R306, R309, R310, R312, R333 to R335): a station keeps the leaf of a walk; an invalidation drops the
translations of its PID that overlap its range, or all of them, and no other; a reservation takes the slot of every output of its path or of none,
and a release gives them back; a replay changes nothing but its count, and a failed port goes down. Where the manual leaves it open, what is said
rests on entries 47 and 48 of the assumption log. -/
def Obligations.FabricTablesAreKept : Prop :=
  ∀ (s : State) (m : Nat) (pid : BitVec 8) (va req : DWord) (acc : Access) (e : TlbEntry) (k : CoreId) (port : BitVec 4),
    (m < s.modCount → (form va).isVirt = true → cached s m pid va.toNat = none → pageWalk s m pid va.toNat = .leaf e →
      ∃ u : State, exec (.stationTranslation m pid va acc) s = .next u ∧ u = { s with tlb := u.tlb } ∧ e ∈ u.tlb ∧
        (∀ x ∈ u.tlb, x = e ∨ x ∈ s.tlb) ∧ ∀ x ∈ s.tlb, (x.m = m → x.station ≠ e.station) → x ∈ u.tlb) ∧
    (bits req.toNat 3 0 = 0 → ∃ u : State, exec (.invalidation m req) s = .next u ∧ u = { s with tlb := u.tlb } ∧
      let p := bits req.toNat 55 40
      let lo := bits req.toNat 39 4 * 65536
      ∀ x, x ∈ u.tlb ↔ x ∈ s.tlb ∧ ¬ (x.m = m ∧ x.pid = BitVec.ofNat 8 (bits req.toNat 63 56) ∧ (p = 0 ∨ (x.va < lo + p * 65536 ∧ lo < x.va + x.size)))) ∧
    (∀ p, requestPath k req = some p →
      let n := bits req.toNat 31 26
      let here := fun (u : State) (o : (ClusterId × Nat) × Nat) => ∃ e ∈ (u.module k.cl.m).slotTab, e.1 = (o.1.1, o.1.2, n) ∧ e.2.2 = req >>> 32
      (req.getLsbD 25 = false → (∃ o ∈ p, slotEntry s o.1.1 o.1.2 n ≠ 0) → ∃ u : State, exec (.streamReserve k req) s = .next u ∧
        u.modules = s.modules ∧ (u.core k).allocSt = 5) ∧
      (req.getLsbD 25 = false → (∀ o ∈ p, slotEntry s o.1.1 o.1.2 n = 0) → ∃ u : State, exec (.streamReserve k req) s = .next u ∧
        (u.core k).allocSt = 4 ∧ (∀ o ∈ p, here u o) ∧ u.mem = s.mem) ∧
      (req.getLsbD 25 = true → ∃ u : State, exec (.streamRelease k req) s = .next u ∧ (u.core k).allocSt = 4 ∧ (∀ o ∈ p, ¬ here u o) ∧ u.mem = s.mem)) ∧
    (∃ u : State, exec (.levanterReplay m port) s = .next u ∧ u = { s with modules := u.modules } ∧
      (u.module m).errors = kset (s.module m).errors 0x122 (kget (s.module m).errors 0x122 0 + 1)) ∧
    (s.portUp m port.toNat = true → ∃ u : State, exec (.levanterPortFailure m port) s = .next u ∧ u = { s with modules := u.modules } ∧ u.portUp m port.toNat = false ∧
      kget (u.module m).errors 0x125 0 = kget (s.module m).errors 0x125 0 + 1)

/-! ## Energy, faults of the hardware and spares -/

/-- The energy budget and hardware faults (R254, R346, R373 to R376): the end of a window sets STATE from the energy and the budget; a passed limit
lowers the budget; after 16 windows the quadrant's gangs are killed; each with a fault record of POWER_KILL; a check that fails once is counted TRANSIENT and changes nothing, and one that
fails again LASTING, with a failed read's unit marked and the cluster fenced; a spare takes a fenced cluster's place. Where the manual leaves it
open, what is said rests on entries 8, 45 and 46 of the assumption log. -/
def Obligations.RecoverySteps : Prop :=
  ∀ (s : State) (m e : Nat) (q : BitVec 2) (b : BitVec 32) (l : Nat) (cl : ClusterId) (u : HwUnit),
    (∃ t : State, exec (.energyWindowEnd m q e) s = .next t ∧ t = { s with modules := t.modules } ∧
      let budget := (s.module m).pwrbud[q.toNat].toNat % 2 ^ 32
      (t.module m).pwrbud[q.toNat].toNat = (if budget = 0 ∨ e ≤ budget then 0 else if 4 * e ≤ 5 * budget then 1 else 2) * 2 ^ 32 + budget) ∧
    (b ≠ 0 → (s.module m).pwrbud[q.toNat].toNat % 2 ^ 32 = 0 ∨ b.toNat < (s.module m).pwrbud[q.toNat].toNat % 2 ^ 32 →
      ∃ t : State, exec (.thermalLimit m q b) s = .next t ∧ t.mem = s.mem ∧ (t.module m).pwrbud[q.toNat].toNat % 2 ^ 32 = b.toNat ∧ (t.module m).overWin[q.toNat] ≠ 0) ∧
    ((s.module m).overWin[q.toNat] ≤ 16 → exec (.powerKill m q) s = .next s) ∧
    (16 < (s.module m).overWin[q.toNat] → ∃ t : State, exec (.powerKill m q) s = .next t ∧ (t.module m).overWin[q.toNat] = 0 ∧
      ∀ g ∈ gangsWhere s (fun g => g.m = m && g.held.any (fun c => quadrantOf c.core.cl = q.toNat)), (s.gang g).status.onChip = true →
        (t.gang g).status = .killed ∧
        ∃ f ∈ (t.launch (s.gang g).launch).faults, f.block = (s.gang g).block ∧ f.cause = 0x178) ∧
    exec (.marginReplan m q) s = .next (s.countError m 0x13C) ∧
    ((∀ m p, u ≠ .levanter m p) → exec (.hardwareCheckFailure u true) s = .next (s.countError (hwModule u) (hwCode (hwSource u) 2))) ∧
    (∃ t : State, exec (.hardwareCheckFailure (.coreSram l) false) s = .next t ∧
      kget (t.module (locModule l)).errors 0x103 0 = kget (s.module (locModule l)).errors 0x103 0 + 1 ∧ (t.cluster (locCluster l)).fenced = true ∧
      (hwLost s (.coreSram l) = [] → ∃ p ∈ t.poison, p.1 = unitOf l)) ∧
    (∃ t : State, exec (.hardwareCheckFailure (.hbm l) false) s = .next t ∧ t.mem = s.mem ∧
      kget (t.module (locModule l)).errors 0x12B 0 = kget (s.module (locModule l)).errors 0x12B 0 + 1 ∧ (∃ p ∈ t.poison, p.1 = unitOf l) ∧ t.clusters = s.clusters) ∧
    ((s.cluster cl).fenced = true → gangsWhere s (fun g => g.covers cl) = [] → quadrantOf cl < 4 →
      let left := (s.module cl.m).spares.toList.getD (quadrantOf cl) 0
      (left = 0 → ∃ t : State, exec (.spareReplacement cl) s = .next t ∧ t = { s with modules := t.modules } ∧ (t.cluster cl).fenced = true) ∧
      (left ≠ 0 → Memory.wf s.mem = true → (∀ g ∈ s.gangs, g.2.status ≠ .stopped) → ∃ t : State, exec (.spareReplacement cl) s = .next t ∧ (t.cluster cl).fenced = false ∧
        (t.module cl.m).spares.toList.getD (quadrantOf cl) 0 = left - 1 ∧ (t.cluster cl).jobs = [] ∧
        ∀ a, Memory.get t.mem a = if isHbm a = false ∧ locCluster a = cl then 0 else Memory.get s.mem a))

/-! ## Power states and the host -/

/-- Power states and the host port (R26, R338, R339, R377, R378): an idle module enters the lowest state whose exit its tolerance allows; a host
write, a doorbell or an event to a module in such a state begins its exit and is held, and a host read is held and begins none; the exit ends in Run
with the held requests performed in their order, each as its own step performs it in Run; a window access of a module in Run is performed under its
PID, page by page, and one past the window has no effect; a doorbell is queued in order; a Function Level Reset cancels the launches that began there
and no other, kills the module's gangs, clears its local stores and leaves HBM, where the killed gangs had no engine work that it ends. Where the
manual leaves it open, what is said rests on entries 3, 49, 50 and 57 of the assumption log. -/
def Obligations.PowerAndHostPort : Prop :=
  ∀ (s : State) (m off size n l v : Nat) (w : Option Nat), Memory.wf s.mem = true →
    let x := s.module m
    let tol := x.lattol.toNat % 2 ^ 32
    let held := fun (h : HeldReq) (wakes : Bool) => s.setModule m { x with waking := x.waking || wakes, heldReqs := x.heldReqs ++ [h] }
    let r := windowReq s m off size w
    let window := Instr.hostWindowAccess m off size w
    let inPage := 0 < size ∧ (x.wbase + BitVec.ofNat 64 off).toNat % 65536 + size ≤ 65536 ∧ ∀ v, w = some v → v < 2 ^ (8 * size)
    (moduleIdle s m = true → x.power = .run → exec (.powerStateEntry m) s = .next (s.setModule m { x with power :=
      if tol = 2 ^ 32 - 1 ∨ Power.calm.exitTime ≤ tol then .calm else if Power.lull.exitTime ≤ tol then .lull else if Power.doze.exitTime ≤ tol then .doze else .run })) ∧
    (moduleIdle s m = false → exec (.powerStateEntry m) s = .next s) ∧
    (x.power ≠ .run → exec (.wakeEvent m n) s = .next (held (.other n) true) ∧ exec (.hostDoorbell m n) s = .next (held (.doorbell n) true) ∧
      (off + size ≤ 2 ^ 36 → exec window s = .next (held (.window off size w) w.isSome))) ∧
    (x.waking = true → exec (.powerExitComplete m) s =
      .next (x.heldReqs.foldl (proceed m) (s.setModule m { x with power := .run, waking := false, heldReqs := [] }))) ∧
    (x.waking = false → exec (.powerExitComplete m) s = .next s) ∧
    (x.power = .run →
      exec (.hostDoorbell m n) s = .next (proceed m s (.doorbell n)) ∧
      (off + size ≤ 2 ^ 36 → exec window s = .next (proceed m s (.window off size w))) ∧
      (∀ q : RemoteReq, formsRequest q.addr = true → moduleOf 0 q.addr = m →
        exec (.remoteAccessArrival q) s = .next (proceed m s (.remote q)) ∧ exec (.subByteMessage q) s = .next (proceed m s (.bits q))) ∧
      (∀ (q : SysReg) (b : DWord), bar0Of q = some m → exec (.systemWindowWrite q b) s = .next (proceed m s (.bar0 q b))) ∧
      (∀ (q : MgmtReq) (key : BitVec 512) (on : Bool) (img : FwImage), ∀ p ∈ [(Instr.telemetry m q, MgmtKind.telemetry), (.managementReset m q, .reset),
          (.keyEnrolment m q key, .enrol key), (.testMode m q on, .test on), (.firmwareDelivery m q img, .firmware img)],
        exec p.1 s = .next (proceed m s (.mgmt p.2 q))) ∧
      exec (.hostDoorbell m n) s = .next (s.setModule m { x with doorbells := x.doorbells ++ [n] }) ∧
      (2 ^ 36 < off + size → exec window s = .next s) ∧
      (off + size ≤ 2 ^ 36 → inPage → x.wpid = 0 → exec window s = .next (reply s r none 0)) ∧
      (off + size ≤ 2 ^ 36 → inPage → x.wpid ≠ 0 → (form r.addr).isVirt = true →
        (∀ f, stationAccess s m x.wpid r.addr.toNat size r.acc r.addr = .fault f → exec window s = .next (reply s r none f.code)) ∧
        (stationAccess s m x.wpid r.addr.toNat size r.acc r.addr = .loc l →
          (w = none → s.homeRead l size = some v → exec window s = .next (reply s r (some v) 0)) ∧
          (w = some v → ∃ u : State, exec window s = .next u ∧ u.replies = s.replies ++ [(r, some 0, 0)] ∧
            Memory.getN u.mem l size = v ∧ ∀ a, a < l ∨ l + size ≤ a → Memory.get u.mem a = Memory.get s.mem a))) ∧
      (let k := 65536 - (x.wbase + BitVec.ofNat 64 off).toNat % 65536
       k < size → size ≤ 65536 → off + size ≤ 2 ^ 36 → ∃ u : State,
         exec (.hostWindowAccess m off k (w.map (fun v => v % 2 ^ (8 * k)))) s = .next u ∧
         exec window s = exec (.hostWindowAccess m (off + k) (size - k) (w.map (fun v => v / 2 ^ (8 * k)))) u)) ∧
    (∃ u : State, exec (.functionLevelReset m) s = .next u ∧
      (∀ g ∈ s.gangs, g.2.m = m → (u.gang g.1).status = .killed ∨ (u.gang g.1).status = .retired) ∧
      (∀ i, (u.launch i).cancel = if (s.launch i).origin = m ∧ (s.launch i).fin = false ∧ (s.launch i).cancel = none then some true else (s.launch i).cancel) ∧
      ((∀ g ∈ s.gangs, g.2.m = m → (∀ p ∈ s.jobs, p.2.gang ≠ g.1) ∧ ∀ p ∈ s.allParts, p.gang ≠ g.1) →
        ∀ a, isHbm a = true → Memory.get u.mem a = Memory.get s.mem a) ∧
      (∀ c : CtxId, c.core.cl.m = m → c.who ≠ 4 → (u.slot c).phase = .idle) ∧ ∀ a, inModule m a = true → Memory.get u.mem a = 0)

/-! ## Management and modes -/

/-- Management requests and modes (R15, R25, R340 to R343, R367, R376): a request whose key is enrolled, whose counter is above the last and whose
signature verifies is answered with a signed reply and moves the counter, and any other has no effect; identity and attestation answer in every
state; the others do what they name. A reset accepts an image by the checks of the ROM, from the source that the fuses select: the header's magic,
zero field, version, length, digest of the body, and signature. The service cores enter and leave RECOVERY, and a management request sets and ends
TEST; RECOVERY goes before TEST, and each is unchanged by the other. Where the manual leaves it open, what is said rests on entries 6, 51, 52 and 57
of the assumption log. -/
def Obligations.ManagementIsServed : Prop :=
  ∀ (s : State) (m : Nat) (r : MgmtReq) (img : FwImage) (key : BitVec 512) (nonce : BitVec 256) (on : Bool),
    let x := s.module m
    let signed := fun (u : State) (b : List Byte) =>
      (u.module m).mgmtCounter = r.counter ∧ (u.module m).replies = x.replies ++ [(b, Config.identitySign (sha256 b))]
    let modeOf := fun (recovery test : Bool) => if recovery then OpMode.recovery else if test then .test else if x.started then .normal else .startup
    (mgmtOk s m r = false → exec (.identityRequest m r) s = .next s ∧ exec (.attestation m r nonce) s = .next s ∧ (x.power = .run →
      ∀ i ∈ [Instr.firmwareDelivery m r img, .telemetry m r, .managementReset m r, .keyEnrolment m r key, .testMode m r on], exec i s = .next s)) ∧
    ((r.key = Config.operatorKey ∨ r.key ∈ x.keys) → x.mgmtCounter < r.counter → ecdsaVerify r.key (sha256 r.bytes) r.sig = true →
      (∃ u : State, exec (.identityRequest m r) s = .next u ∧ signed u identityBytes ∧ u = { s with modules := u.modules }) ∧
      (∃ u : State, exec (.attestation m r nonce) s = .next u ∧ signed u (attestationRecord s m nonce) ∧ u.mem = s.mem) ∧
      (x.power = .run →
        (∃ (u : State) (b : List Byte), exec (.firmwareDelivery m r img) s = .next u ∧ signed u b ∧ (u.module m).delivered = some img ∧ u.mem = s.mem) ∧
        (x.clustersOn = true →
          (∃ u : State, exec (.telemetry m r) s = .next u ∧ signed u (telemetryBytes x) ∧ u = { s with modules := u.modules }) ∧
          (∃ (u : State) (b : List Byte), exec (.keyEnrolment m r key) s = .next u ∧ signed u b ∧ key ∈ (u.module m).keys ∧ u.mem = s.mem) ∧
          (∃ (u : State) (b : List Byte), exec (.testMode m r on) s = .next u ∧ signed u b ∧ u.mem = s.mem ∧ (u.module m).mode = modeOf x.recovery on) ∧
          (∃ (u : State) (b : List Byte), exec (.managementReset m r) s = .next u ∧ signed u b ∧ (u.module m).clustersOn = false ∧ (u.module m).mode = .startup))) ∧
      (x.power ≠ .run → ∃ u : State, exec (.telemetry m r) s = .next u ∧ (u.module m).waking = true ∧ (u.module m).replies = x.replies)) ∧
    (let source := if Config.firmwareFromNetwork then x.delivered else some img
     let good := fun (i : FwImage) =>
       let le := fun (a n : Nat) => ofBytes ((i.bytes.drop a).take n)
       let be := fun (a n : Nat) => ofBytes ((i.bytes.drop a).take n).reverse
       128 ≤ i.bytes.length ∧ le 0 4 = 0x4C585246 ∧ le 48 16 = 0 ∧ x.rollback.toNat ≤ le 4 4 ∧
       (sha256 ((i.bytes.drop 128).take (le 8 8))).toNat = be 16 32 ∧ sha256 (beBytes 64 i.key.toNat) = Config.fusedKeyHash ∧
       ecdsaVerify i.key (sha256 (i.bytes.take 64)) (BitVec.ofNat 512 (be 64 64)) = true
     (∀ i, source = some i → good i → ∃ u : State, exec (.moduleReset m img) s = .next u ∧ (u.module m).clustersOn = true ∧ (u.module m).mode = .startup ∧
       (u.module m).firmware = some i.digest ∧ (u.module m).rollback = BitVec.ofNat 32 (ofBytes ((i.bytes.drop 4).take 4))) ∧
     ((∀ i, source = some i → ¬ good i) → ∃ u : State, exec (.moduleReset m img) s = .next u ∧ (u.module m).clustersOn = false ∧
       (u.module m).mode = .startup ∧ (u.module m).firmware = Module.reset.firmware ∧ (u.module m).rollback = x.rollback)) ∧
    (∃ u : State, exec (.operatingMode m .recovery) s = .next u ∧ (u.module m).mode = .recovery ∧ u = { s with modules := u.modules }) ∧
    (∃ u : State, exec (.operatingMode m .normal) s = .next u ∧ (u.module m).mode = modeOf false x.test ∧ u = { s with modules := u.modules })

/-! ## Invariants -/

/-- Memory stands in its canonical form after reset: locations strictly rising, and none that holds what an unlisted location reads as. -/
def Obligations.ResetMemoryIsCanonical : Prop :=
  Memory.wf State.reset.mem = true ∧ ∀ a, Memory.get State.reset.mem a = 0

/-- Every step of the pod, whatever it is, keeps memory in its canonical form, from every state that has it (R185; the form is the model's own,
entry 3 of the assumption log). -/
def Obligations.StepsKeepMemoryCanonical : Prop :=
  ∀ s t : State, Memory.wf s.mem = true → step s = .next t → Memory.wf t.mem = true
end

