-- ==== Sys2Proof/Laws/State.lean ====
section
/-! SUPPORT. What each update of the state leaves alone, one lemma for each field and each update, and what the accessors of
cores, slots and contexts read after an update. -/

namespace Sys2Proof.Machine

@[simp] theorem State.setCore_agenda (s : State) (k : CoreId) (x : Core) : (s.setCore k x).agenda = s.agenda := rfl
@[simp] theorem State.setCore_cur (s : State) (k : CoreId) (x : Core) : (s.setCore k x).cur = s.cur := rfl
@[simp] theorem State.setCore_fresh (s : State) (k : CoreId) (x : Core) : (s.setCore k x).fresh = s.fresh := rfl
@[simp] theorem State.setCore_now (s : State) (k : CoreId) (x : Core) : (s.setCore k x).now = s.now := rfl
@[simp] theorem State.setCore_dims (s : State) (k : CoreId) (x : Core) : (s.setCore k x).dims = s.dims := rfl
@[simp] theorem State.setCore_mem (s : State) (k : CoreId) (x : Core) : (s.setCore k x).mem = s.mem := rfl
@[simp] theorem State.setCore_poison (s : State) (k : CoreId) (x : Core) : (s.setCore k x).poison = s.poison := rfl
@[simp] theorem State.setCore_clusters (s : State) (k : CoreId) (x : Core) : (s.setCore k x).clusters = s.clusters := rfl
@[simp] theorem State.setCore_gangs (s : State) (k : CoreId) (x : Core) : (s.setCore k x).gangs = s.gangs := rfl
@[simp] theorem State.setCore_launches (s : State) (k : CoreId) (x : Core) : (s.setCore k x).launches = s.launches := rfl
@[simp] theorem State.setCore_modules (s : State) (k : CoreId) (x : Core) : (s.setCore k x).modules = s.modules := rfl
@[simp] theorem State.setCore_kettles (s : State) (k : CoreId) (x : Core) : (s.setCore k x).kettles = s.kettles := rfl
@[simp] theorem State.setCore_decoders (s : State) (k : CoreId) (x : Core) : (s.setCore k x).decoders = s.decoders := rfl
@[simp] theorem State.setCore_tlb (s : State) (k : CoreId) (x : Core) : (s.setCore k x).tlb = s.tlb := rfl
@[simp] theorem State.setCore_msgs (s : State) (k : CoreId) (x : Core) : (s.setCore k x).msgs = s.msgs := rfl
@[simp] theorem State.setCore_windows (s : State) (k : CoreId) (x : Core) : (s.setCore k x).windows = s.windows := rfl
@[simp] theorem State.setCore_sent (s : State) (k : CoreId) (x : Core) : (s.setCore k x).sent = s.sent := rfl
@[simp] theorem State.setCore_noRoom (s : State) (k : CoreId) (x : Core) : (s.setCore k x).noRoom = s.noRoom := rfl
@[simp] theorem State.setCore_replies (s : State) (k : CoreId) (x : Core) : (s.setCore k x).replies = s.replies := rfl
@[simp] theorem State.setCore_breaks (s : State) (k : CoreId) (x : Core) : (s.setCore k x).breaks = s.breaks := rfl
@[simp] theorem State.setCore_armed (s : State) (k : CoreId) (x : Core) : (s.setCore k x).armed = s.armed := rfl
@[simp] theorem State.setCore_watches (s : State) (k : CoreId) (x : Core) : (s.setCore k x).watches = s.watches := rfl

@[simp] theorem State.setSlot_agenda (s : State) (c : CtxId) (x : Slot) : (s.setSlot c x).agenda = s.agenda := rfl
@[simp] theorem State.setSlot_cur (s : State) (c : CtxId) (x : Slot) : (s.setSlot c x).cur = s.cur := rfl
@[simp] theorem State.setSlot_fresh (s : State) (c : CtxId) (x : Slot) : (s.setSlot c x).fresh = s.fresh := rfl
@[simp] theorem State.setSlot_now (s : State) (c : CtxId) (x : Slot) : (s.setSlot c x).now = s.now := rfl
@[simp] theorem State.setSlot_dims (s : State) (c : CtxId) (x : Slot) : (s.setSlot c x).dims = s.dims := rfl
@[simp] theorem State.setSlot_mem (s : State) (c : CtxId) (x : Slot) : (s.setSlot c x).mem = s.mem := rfl
@[simp] theorem State.setSlot_poison (s : State) (c : CtxId) (x : Slot) : (s.setSlot c x).poison = s.poison := rfl
@[simp] theorem State.setSlot_clusters (s : State) (c : CtxId) (x : Slot) : (s.setSlot c x).clusters = s.clusters := rfl
@[simp] theorem State.setSlot_gangs (s : State) (c : CtxId) (x : Slot) : (s.setSlot c x).gangs = s.gangs := rfl
@[simp] theorem State.setSlot_launches (s : State) (c : CtxId) (x : Slot) : (s.setSlot c x).launches = s.launches := rfl
@[simp] theorem State.setSlot_modules (s : State) (c : CtxId) (x : Slot) : (s.setSlot c x).modules = s.modules := rfl
@[simp] theorem State.setSlot_kettles (s : State) (c : CtxId) (x : Slot) : (s.setSlot c x).kettles = s.kettles := rfl
@[simp] theorem State.setSlot_decoders (s : State) (c : CtxId) (x : Slot) : (s.setSlot c x).decoders = s.decoders := rfl
@[simp] theorem State.setSlot_tlb (s : State) (c : CtxId) (x : Slot) : (s.setSlot c x).tlb = s.tlb := rfl
@[simp] theorem State.setSlot_msgs (s : State) (c : CtxId) (x : Slot) : (s.setSlot c x).msgs = s.msgs := rfl
@[simp] theorem State.setSlot_windows (s : State) (c : CtxId) (x : Slot) : (s.setSlot c x).windows = s.windows := rfl
@[simp] theorem State.setSlot_sent (s : State) (c : CtxId) (x : Slot) : (s.setSlot c x).sent = s.sent := rfl
@[simp] theorem State.setSlot_noRoom (s : State) (c : CtxId) (x : Slot) : (s.setSlot c x).noRoom = s.noRoom := rfl
@[simp] theorem State.setSlot_replies (s : State) (c : CtxId) (x : Slot) : (s.setSlot c x).replies = s.replies := rfl
@[simp] theorem State.setSlot_breaks (s : State) (c : CtxId) (x : Slot) : (s.setSlot c x).breaks = s.breaks := rfl
@[simp] theorem State.setSlot_armed (s : State) (c : CtxId) (x : Slot) : (s.setSlot c x).armed = s.armed := rfl
@[simp] theorem State.setSlot_watches (s : State) (c : CtxId) (x : Slot) : (s.setSlot c x).watches = s.watches := rfl

@[simp] theorem State.setCx_agenda (s : State) (x : Ctxt) : (s.setCx x).agenda = s.agenda := rfl
@[simp] theorem State.setCx_cur (s : State) (x : Ctxt) : (s.setCx x).cur = s.cur := rfl
@[simp] theorem State.setCx_fresh (s : State) (x : Ctxt) : (s.setCx x).fresh = s.fresh := rfl
@[simp] theorem State.setCx_now (s : State) (x : Ctxt) : (s.setCx x).now = s.now := rfl
@[simp] theorem State.setCx_dims (s : State) (x : Ctxt) : (s.setCx x).dims = s.dims := rfl
@[simp] theorem State.setCx_mem (s : State) (x : Ctxt) : (s.setCx x).mem = s.mem := rfl
@[simp] theorem State.setCx_poison (s : State) (x : Ctxt) : (s.setCx x).poison = s.poison := rfl
@[simp] theorem State.setCx_clusters (s : State) (x : Ctxt) : (s.setCx x).clusters = s.clusters := rfl
@[simp] theorem State.setCx_gangs (s : State) (x : Ctxt) : (s.setCx x).gangs = s.gangs := rfl
@[simp] theorem State.setCx_launches (s : State) (x : Ctxt) : (s.setCx x).launches = s.launches := rfl
@[simp] theorem State.setCx_modules (s : State) (x : Ctxt) : (s.setCx x).modules = s.modules := rfl
@[simp] theorem State.setCx_kettles (s : State) (x : Ctxt) : (s.setCx x).kettles = s.kettles := rfl
@[simp] theorem State.setCx_decoders (s : State) (x : Ctxt) : (s.setCx x).decoders = s.decoders := rfl
@[simp] theorem State.setCx_tlb (s : State) (x : Ctxt) : (s.setCx x).tlb = s.tlb := rfl
@[simp] theorem State.setCx_msgs (s : State) (x : Ctxt) : (s.setCx x).msgs = s.msgs := rfl
@[simp] theorem State.setCx_windows (s : State) (x : Ctxt) : (s.setCx x).windows = s.windows := rfl
@[simp] theorem State.setCx_sent (s : State) (x : Ctxt) : (s.setCx x).sent = s.sent := rfl
@[simp] theorem State.setCx_noRoom (s : State) (x : Ctxt) : (s.setCx x).noRoom = s.noRoom := rfl
@[simp] theorem State.setCx_replies (s : State) (x : Ctxt) : (s.setCx x).replies = s.replies := rfl
@[simp] theorem State.setCx_breaks (s : State) (x : Ctxt) : (s.setCx x).breaks = s.breaks := rfl
@[simp] theorem State.setCx_armed (s : State) (x : Ctxt) : (s.setCx x).armed = s.armed := rfl
@[simp] theorem State.setCx_watches (s : State) (x : Ctxt) : (s.setCx x).watches = s.watches := rfl

@[simp] theorem State.setCluster_agenda (s : State) (k : ClusterId) (x : Cluster) : (s.setCluster k x).agenda = s.agenda := rfl
@[simp] theorem State.setCluster_cur (s : State) (k : ClusterId) (x : Cluster) : (s.setCluster k x).cur = s.cur := rfl
@[simp] theorem State.setCluster_fresh (s : State) (k : ClusterId) (x : Cluster) : (s.setCluster k x).fresh = s.fresh := rfl
@[simp] theorem State.setCluster_now (s : State) (k : ClusterId) (x : Cluster) : (s.setCluster k x).now = s.now := rfl
@[simp] theorem State.setCluster_dims (s : State) (k : ClusterId) (x : Cluster) : (s.setCluster k x).dims = s.dims := rfl
@[simp] theorem State.setCluster_mem (s : State) (k : ClusterId) (x : Cluster) : (s.setCluster k x).mem = s.mem := rfl
@[simp] theorem State.setCluster_poison (s : State) (k : ClusterId) (x : Cluster) : (s.setCluster k x).poison = s.poison := rfl
@[simp] theorem State.setCluster_cores (s : State) (k : ClusterId) (x : Cluster) : (s.setCluster k x).cores = s.cores := rfl
@[simp] theorem State.setCluster_gangs (s : State) (k : ClusterId) (x : Cluster) : (s.setCluster k x).gangs = s.gangs := rfl
@[simp] theorem State.setCluster_launches (s : State) (k : ClusterId) (x : Cluster) : (s.setCluster k x).launches = s.launches := rfl
@[simp] theorem State.setCluster_modules (s : State) (k : ClusterId) (x : Cluster) : (s.setCluster k x).modules = s.modules := rfl
@[simp] theorem State.setCluster_kettles (s : State) (k : ClusterId) (x : Cluster) : (s.setCluster k x).kettles = s.kettles := rfl
@[simp] theorem State.setCluster_decoders (s : State) (k : ClusterId) (x : Cluster) : (s.setCluster k x).decoders = s.decoders := rfl
@[simp] theorem State.setCluster_tlb (s : State) (k : ClusterId) (x : Cluster) : (s.setCluster k x).tlb = s.tlb := rfl
@[simp] theorem State.setCluster_msgs (s : State) (k : ClusterId) (x : Cluster) : (s.setCluster k x).msgs = s.msgs := rfl
@[simp] theorem State.setCluster_windows (s : State) (k : ClusterId) (x : Cluster) : (s.setCluster k x).windows = s.windows := rfl
@[simp] theorem State.setCluster_sent (s : State) (k : ClusterId) (x : Cluster) : (s.setCluster k x).sent = s.sent := rfl
@[simp] theorem State.setCluster_noRoom (s : State) (k : ClusterId) (x : Cluster) : (s.setCluster k x).noRoom = s.noRoom := rfl
@[simp] theorem State.setCluster_replies (s : State) (k : ClusterId) (x : Cluster) : (s.setCluster k x).replies = s.replies := rfl
@[simp] theorem State.setCluster_breaks (s : State) (k : ClusterId) (x : Cluster) : (s.setCluster k x).breaks = s.breaks := rfl
@[simp] theorem State.setCluster_armed (s : State) (k : ClusterId) (x : Cluster) : (s.setCluster k x).armed = s.armed := rfl
@[simp] theorem State.setCluster_watches (s : State) (k : ClusterId) (x : Cluster) : (s.setCluster k x).watches = s.watches := rfl

@[simp] theorem State.setGang_agenda (s : State) (g : Nat) (x : Gang) : (s.setGang g x).agenda = s.agenda := rfl
@[simp] theorem State.setGang_cur (s : State) (g : Nat) (x : Gang) : (s.setGang g x).cur = s.cur := rfl
@[simp] theorem State.setGang_fresh (s : State) (g : Nat) (x : Gang) : (s.setGang g x).fresh = s.fresh := rfl
@[simp] theorem State.setGang_now (s : State) (g : Nat) (x : Gang) : (s.setGang g x).now = s.now := rfl
@[simp] theorem State.setGang_dims (s : State) (g : Nat) (x : Gang) : (s.setGang g x).dims = s.dims := rfl
@[simp] theorem State.setGang_mem (s : State) (g : Nat) (x : Gang) : (s.setGang g x).mem = s.mem := rfl
@[simp] theorem State.setGang_poison (s : State) (g : Nat) (x : Gang) : (s.setGang g x).poison = s.poison := rfl
@[simp] theorem State.setGang_cores (s : State) (g : Nat) (x : Gang) : (s.setGang g x).cores = s.cores := rfl
@[simp] theorem State.setGang_clusters (s : State) (g : Nat) (x : Gang) : (s.setGang g x).clusters = s.clusters := rfl
@[simp] theorem State.setGang_launches (s : State) (g : Nat) (x : Gang) : (s.setGang g x).launches = s.launches := rfl
@[simp] theorem State.setGang_modules (s : State) (g : Nat) (x : Gang) : (s.setGang g x).modules = s.modules := rfl
@[simp] theorem State.setGang_kettles (s : State) (g : Nat) (x : Gang) : (s.setGang g x).kettles = s.kettles := rfl
@[simp] theorem State.setGang_decoders (s : State) (g : Nat) (x : Gang) : (s.setGang g x).decoders = s.decoders := rfl
@[simp] theorem State.setGang_tlb (s : State) (g : Nat) (x : Gang) : (s.setGang g x).tlb = s.tlb := rfl
@[simp] theorem State.setGang_msgs (s : State) (g : Nat) (x : Gang) : (s.setGang g x).msgs = s.msgs := rfl
@[simp] theorem State.setGang_windows (s : State) (g : Nat) (x : Gang) : (s.setGang g x).windows = s.windows := rfl
@[simp] theorem State.setGang_sent (s : State) (g : Nat) (x : Gang) : (s.setGang g x).sent = s.sent := rfl
@[simp] theorem State.setGang_noRoom (s : State) (g : Nat) (x : Gang) : (s.setGang g x).noRoom = s.noRoom := rfl
@[simp] theorem State.setGang_replies (s : State) (g : Nat) (x : Gang) : (s.setGang g x).replies = s.replies := rfl
@[simp] theorem State.setGang_breaks (s : State) (g : Nat) (x : Gang) : (s.setGang g x).breaks = s.breaks := rfl
@[simp] theorem State.setGang_armed (s : State) (g : Nat) (x : Gang) : (s.setGang g x).armed = s.armed := rfl
@[simp] theorem State.setGang_watches (s : State) (g : Nat) (x : Gang) : (s.setGang g x).watches = s.watches := rfl

@[simp] theorem State.setLaunch_agenda (s : State) (l : Nat) (x : Launch) : (s.setLaunch l x).agenda = s.agenda := rfl
@[simp] theorem State.setLaunch_cur (s : State) (l : Nat) (x : Launch) : (s.setLaunch l x).cur = s.cur := rfl
@[simp] theorem State.setLaunch_fresh (s : State) (l : Nat) (x : Launch) : (s.setLaunch l x).fresh = s.fresh := rfl
@[simp] theorem State.setLaunch_now (s : State) (l : Nat) (x : Launch) : (s.setLaunch l x).now = s.now := rfl
@[simp] theorem State.setLaunch_dims (s : State) (l : Nat) (x : Launch) : (s.setLaunch l x).dims = s.dims := rfl
@[simp] theorem State.setLaunch_mem (s : State) (l : Nat) (x : Launch) : (s.setLaunch l x).mem = s.mem := rfl
@[simp] theorem State.setLaunch_poison (s : State) (l : Nat) (x : Launch) : (s.setLaunch l x).poison = s.poison := rfl
@[simp] theorem State.setLaunch_cores (s : State) (l : Nat) (x : Launch) : (s.setLaunch l x).cores = s.cores := rfl
@[simp] theorem State.setLaunch_clusters (s : State) (l : Nat) (x : Launch) : (s.setLaunch l x).clusters = s.clusters := rfl
@[simp] theorem State.setLaunch_gangs (s : State) (l : Nat) (x : Launch) : (s.setLaunch l x).gangs = s.gangs := rfl
@[simp] theorem State.setLaunch_modules (s : State) (l : Nat) (x : Launch) : (s.setLaunch l x).modules = s.modules := rfl
@[simp] theorem State.setLaunch_kettles (s : State) (l : Nat) (x : Launch) : (s.setLaunch l x).kettles = s.kettles := rfl
@[simp] theorem State.setLaunch_decoders (s : State) (l : Nat) (x : Launch) : (s.setLaunch l x).decoders = s.decoders := rfl
@[simp] theorem State.setLaunch_tlb (s : State) (l : Nat) (x : Launch) : (s.setLaunch l x).tlb = s.tlb := rfl
@[simp] theorem State.setLaunch_msgs (s : State) (l : Nat) (x : Launch) : (s.setLaunch l x).msgs = s.msgs := rfl
@[simp] theorem State.setLaunch_windows (s : State) (l : Nat) (x : Launch) : (s.setLaunch l x).windows = s.windows := rfl
@[simp] theorem State.setLaunch_sent (s : State) (l : Nat) (x : Launch) : (s.setLaunch l x).sent = s.sent := rfl
@[simp] theorem State.setLaunch_noRoom (s : State) (l : Nat) (x : Launch) : (s.setLaunch l x).noRoom = s.noRoom := rfl
@[simp] theorem State.setLaunch_replies (s : State) (l : Nat) (x : Launch) : (s.setLaunch l x).replies = s.replies := rfl
@[simp] theorem State.setLaunch_breaks (s : State) (l : Nat) (x : Launch) : (s.setLaunch l x).breaks = s.breaks := rfl
@[simp] theorem State.setLaunch_armed (s : State) (l : Nat) (x : Launch) : (s.setLaunch l x).armed = s.armed := rfl
@[simp] theorem State.setLaunch_watches (s : State) (l : Nat) (x : Launch) : (s.setLaunch l x).watches = s.watches := rfl

@[simp] theorem State.setModule_agenda (s : State) (m : Nat) (x : Module) : (s.setModule m x).agenda = s.agenda := rfl
@[simp] theorem State.setModule_cur (s : State) (m : Nat) (x : Module) : (s.setModule m x).cur = s.cur := rfl
@[simp] theorem State.setModule_fresh (s : State) (m : Nat) (x : Module) : (s.setModule m x).fresh = s.fresh := rfl
@[simp] theorem State.setModule_now (s : State) (m : Nat) (x : Module) : (s.setModule m x).now = s.now := rfl
@[simp] theorem State.setModule_dims (s : State) (m : Nat) (x : Module) : (s.setModule m x).dims = s.dims := rfl
@[simp] theorem State.setModule_mem (s : State) (m : Nat) (x : Module) : (s.setModule m x).mem = s.mem := rfl
@[simp] theorem State.setModule_poison (s : State) (m : Nat) (x : Module) : (s.setModule m x).poison = s.poison := rfl
@[simp] theorem State.setModule_cores (s : State) (m : Nat) (x : Module) : (s.setModule m x).cores = s.cores := rfl
@[simp] theorem State.setModule_clusters (s : State) (m : Nat) (x : Module) : (s.setModule m x).clusters = s.clusters := rfl
@[simp] theorem State.setModule_gangs (s : State) (m : Nat) (x : Module) : (s.setModule m x).gangs = s.gangs := rfl
@[simp] theorem State.setModule_launches (s : State) (m : Nat) (x : Module) : (s.setModule m x).launches = s.launches := rfl
@[simp] theorem State.setModule_kettles (s : State) (m : Nat) (x : Module) : (s.setModule m x).kettles = s.kettles := rfl
@[simp] theorem State.setModule_decoders (s : State) (m : Nat) (x : Module) : (s.setModule m x).decoders = s.decoders := rfl
@[simp] theorem State.setModule_tlb (s : State) (m : Nat) (x : Module) : (s.setModule m x).tlb = s.tlb := rfl
@[simp] theorem State.setModule_msgs (s : State) (m : Nat) (x : Module) : (s.setModule m x).msgs = s.msgs := rfl
@[simp] theorem State.setModule_windows (s : State) (m : Nat) (x : Module) : (s.setModule m x).windows = s.windows := rfl
@[simp] theorem State.setModule_sent (s : State) (m : Nat) (x : Module) : (s.setModule m x).sent = s.sent := rfl
@[simp] theorem State.setModule_noRoom (s : State) (m : Nat) (x : Module) : (s.setModule m x).noRoom = s.noRoom := rfl
@[simp] theorem State.setModule_replies (s : State) (m : Nat) (x : Module) : (s.setModule m x).replies = s.replies := rfl
@[simp] theorem State.setModule_breaks (s : State) (m : Nat) (x : Module) : (s.setModule m x).breaks = s.breaks := rfl
@[simp] theorem State.setModule_armed (s : State) (m : Nat) (x : Module) : (s.setModule m x).armed = s.armed := rfl
@[simp] theorem State.setModule_watches (s : State) (m : Nat) (x : Module) : (s.setModule m x).watches = s.watches := rfl

@[simp] theorem State.setKettle_agenda (s : State) (m k : Nat) (x : Kettle) : (s.setKettle m k x).agenda = s.agenda := rfl
@[simp] theorem State.setKettle_cur (s : State) (m k : Nat) (x : Kettle) : (s.setKettle m k x).cur = s.cur := rfl
@[simp] theorem State.setKettle_fresh (s : State) (m k : Nat) (x : Kettle) : (s.setKettle m k x).fresh = s.fresh := rfl
@[simp] theorem State.setKettle_now (s : State) (m k : Nat) (x : Kettle) : (s.setKettle m k x).now = s.now := rfl
@[simp] theorem State.setKettle_dims (s : State) (m k : Nat) (x : Kettle) : (s.setKettle m k x).dims = s.dims := rfl
@[simp] theorem State.setKettle_mem (s : State) (m k : Nat) (x : Kettle) : (s.setKettle m k x).mem = s.mem := rfl
@[simp] theorem State.setKettle_poison (s : State) (m k : Nat) (x : Kettle) : (s.setKettle m k x).poison = s.poison := rfl
@[simp] theorem State.setKettle_cores (s : State) (m k : Nat) (x : Kettle) : (s.setKettle m k x).cores = s.cores := rfl
@[simp] theorem State.setKettle_clusters (s : State) (m k : Nat) (x : Kettle) : (s.setKettle m k x).clusters = s.clusters := rfl
@[simp] theorem State.setKettle_gangs (s : State) (m k : Nat) (x : Kettle) : (s.setKettle m k x).gangs = s.gangs := rfl
@[simp] theorem State.setKettle_launches (s : State) (m k : Nat) (x : Kettle) : (s.setKettle m k x).launches = s.launches := rfl
@[simp] theorem State.setKettle_modules (s : State) (m k : Nat) (x : Kettle) : (s.setKettle m k x).modules = s.modules := rfl
@[simp] theorem State.setKettle_decoders (s : State) (m k : Nat) (x : Kettle) : (s.setKettle m k x).decoders = s.decoders := rfl
@[simp] theorem State.setKettle_tlb (s : State) (m k : Nat) (x : Kettle) : (s.setKettle m k x).tlb = s.tlb := rfl
@[simp] theorem State.setKettle_msgs (s : State) (m k : Nat) (x : Kettle) : (s.setKettle m k x).msgs = s.msgs := rfl
@[simp] theorem State.setKettle_windows (s : State) (m k : Nat) (x : Kettle) : (s.setKettle m k x).windows = s.windows := rfl
@[simp] theorem State.setKettle_sent (s : State) (m k : Nat) (x : Kettle) : (s.setKettle m k x).sent = s.sent := rfl
@[simp] theorem State.setKettle_noRoom (s : State) (m k : Nat) (x : Kettle) : (s.setKettle m k x).noRoom = s.noRoom := rfl
@[simp] theorem State.setKettle_replies (s : State) (m k : Nat) (x : Kettle) : (s.setKettle m k x).replies = s.replies := rfl
@[simp] theorem State.setKettle_breaks (s : State) (m k : Nat) (x : Kettle) : (s.setKettle m k x).breaks = s.breaks := rfl
@[simp] theorem State.setKettle_armed (s : State) (m k : Nat) (x : Kettle) : (s.setKettle m k x).armed = s.armed := rfl
@[simp] theorem State.setKettle_watches (s : State) (m k : Nat) (x : Kettle) : (s.setKettle m k x).watches = s.watches := rfl

@[simp] theorem State.tick_agenda (s : State) : (s.tick).agenda = s.agenda := rfl
@[simp] theorem State.tick_cur (s : State) : (s.tick).cur = s.cur := rfl
@[simp] theorem State.tick_now (s : State) : (s.tick).now = s.now := rfl
@[simp] theorem State.tick_dims (s : State) : (s.tick).dims = s.dims := rfl
@[simp] theorem State.tick_mem (s : State) : (s.tick).mem = s.mem := rfl
@[simp] theorem State.tick_poison (s : State) : (s.tick).poison = s.poison := rfl
@[simp] theorem State.tick_cores (s : State) : (s.tick).cores = s.cores := rfl
@[simp] theorem State.tick_clusters (s : State) : (s.tick).clusters = s.clusters := rfl
@[simp] theorem State.tick_gangs (s : State) : (s.tick).gangs = s.gangs := rfl
@[simp] theorem State.tick_launches (s : State) : (s.tick).launches = s.launches := rfl
@[simp] theorem State.tick_modules (s : State) : (s.tick).modules = s.modules := rfl
@[simp] theorem State.tick_kettles (s : State) : (s.tick).kettles = s.kettles := rfl
@[simp] theorem State.tick_decoders (s : State) : (s.tick).decoders = s.decoders := rfl
@[simp] theorem State.tick_tlb (s : State) : (s.tick).tlb = s.tlb := rfl
@[simp] theorem State.tick_msgs (s : State) : (s.tick).msgs = s.msgs := rfl
@[simp] theorem State.tick_windows (s : State) : (s.tick).windows = s.windows := rfl
@[simp] theorem State.tick_sent (s : State) : (s.tick).sent = s.sent := rfl
@[simp] theorem State.tick_noRoom (s : State) : (s.tick).noRoom = s.noRoom := rfl
@[simp] theorem State.tick_replies (s : State) : (s.tick).replies = s.replies := rfl
@[simp] theorem State.tick_breaks (s : State) : (s.tick).breaks = s.breaks := rfl
@[simp] theorem State.tick_armed (s : State) : (s.tick).armed = s.armed := rfl
@[simp] theorem State.tick_watches (s : State) : (s.tick).watches = s.watches := rfl

@[simp] theorem kget_kset_self {κ α : Type} [DecidableEq κ] (l : List (κ × α)) (k : κ) (v d : α) : kget (kset l k v) k d = v := by
  induction l with
  | nil => simp [kset, kget]
  | cons p r ih => by_cases h : p.1 = k <;> simp [kset, kget, h, ih]
theorem kget_kset_ne {κ α : Type} [DecidableEq κ] (l : List (κ × α)) (k j : κ) (v d : α) (h : j ≠ k) :
    kget (kset l k v) j d = kget l j d := by
  induction l with
  | nil => simp [kset, kget, Ne.symm h]
  | cons p r ih =>
    by_cases hp : p.1 = k
    · simp [kset, kget, hp, Ne.symm h]
    · by_cases hj : p.1 = j <;> simp [kset, kget, hp, hj, ih, h]

@[simp] theorem State.core_setCore (s : State) (k : CoreId) (c : Core) : (s.setCore k c).core k = c := kget_kset_self ..
theorem State.core_setCore_ne (s : State) (k j : CoreId) (c : Core) (h : j ≠ k) : (s.setCore k c).core j = s.core j :=
  kget_kset_ne _ _ _ _ _ h
@[simp] theorem State.slot_setSlot (s : State) (c : CtxId) (v : Slot) : (s.setSlot c v).slot c = v := by
  simp [State.slot, State.setSlot, State.modCore]
theorem State.slot_setSlot_ne (s : State) (c d : CtxId) (v : Slot) (h : d ≠ c) : (s.setSlot c v).slot d = s.slot d := by
  by_cases hk : d.core = c.core
  · have hw : c.who.val ≠ d.who.val := fun e => h (by
      cases c; cases d; simp_all [Fin.ext_iff])
    simp [State.slot, State.setSlot, State.modCore, hk, hw]
  · simp [State.slot, State.setSlot, State.modCore, State.core_setCore_ne _ _ _ _ hk]
/-- A slot's update changes nothing else of its core. -/
@[simp] theorem State.core_setSlot (s : State) (c : CtxId) (v : Slot) :
    (s.setSlot c v).core c.core = { s.core c.core with slots := (s.core c.core).slots.set c.who.val v } := by
  simp [State.setSlot, State.modCore]
theorem State.core_setSlot_ne (s : State) (c : CtxId) (v : Slot) (j : CoreId) (h : j ≠ c.core) :
    (s.setSlot c v).core j = s.core j := by
  simp [State.setSlot, State.modCore, State.core_setCore_ne _ _ _ _ h]
theorem State.core_setSlot_issuing (s : State) (c : CtxId) (v : Slot) (j : CoreId) :
    ((s.setSlot c v).core j).issuing = (s.core j).issuing := by
  by_cases h : j = c.core
  · subst h; simp
  · rw [State.core_setSlot_ne _ _ _ _ h]
@[simp] theorem State.setSelf_cur (s : State) (v : Slot) : (s.setSelf v).cur = s.cur := rfl
@[simp] theorem State.me_setSlot (s : State) (c : CtxId) (v : Slot) : (s.setSlot c v).me = s.me := by
  simp only [State.me, State.setSlot_cur, State.core_setSlot_issuing]
@[simp] theorem State.me_setSelf (s : State) (v : Slot) : (s.setSelf v).me = s.me := State.me_setSlot ..
@[simp] theorem State.me_setCx (s : State) (x : Ctxt) : (s.setCx x).me = s.me := State.me_setSlot ..
@[simp] theorem State.self_setSelf (s : State) (v : Slot) : (s.setSelf v).self = v := by
  rw [State.self, State.me_setSelf, State.setSelf, State.slot_setSlot]
@[simp] theorem State.self_setCx (s : State) (x : Ctxt) : (s.setCx x).self = { s.self with cx := x } :=
  State.self_setSelf ..
@[simp] theorem State.cx_setCx (s : State) (x : Ctxt) : (s.setCx x).cx = x := by simp [State.cx]
theorem State.slot_me (s : State) : s.slot s.me = s.self := rfl
theorem State.slot_setCx_ne (s : State) (x : Ctxt) (d : CtxId) (h : d ≠ s.me) : (s.setCx x).slot d = s.slot d :=
  State.slot_setSlot_ne _ _ _ _ h
theorem kset_kset {κ α : Type} [DecidableEq κ] (l : List (κ × α)) (k : κ) (v w : α) :
    kset (kset l k v) k w = kset l k w := by
  induction l with
  | nil => simp [kset]
  | cons p r ih => by_cases h : p.1 = k <;> simp [kset, h, ih]
@[simp] theorem State.setSlot_setSlot (s : State) (c : CtxId) (v w : Slot) : (s.setSlot c v).setSlot c w = s.setSlot c w := by
  simp [State.setSlot, State.modCore, State.setCore, State.core, kset_kset, Vector.set_set]
@[simp] theorem State.setSelf_setSelf (s : State) (v w : Slot) : (s.setSelf v).setSelf w = s.setSelf w := by
  simp only [State.setSelf, State.me_setSlot, State.setSlot_setSlot]
@[simp] theorem State.setCx_setCx (s : State) (x y : Ctxt) : (s.setCx x).setCx y = s.setCx y := by
  simp only [State.setCx, State.self_setSelf, State.setSelf_setSelf]

end Sys2Proof.Machine
end

