-- ==== Sys2Proof/Laws/Issue.lean ====
section
/-! SUPPORT. What surrounds an instruction: where its checks pass, the instruction has its own effect; where one does not, which
trap or wait follows; and what the retirement of an instruction changes. -/

namespace Sys2Proof.Machine

/-- The checks of an instruction pass, so it has its own effect. -/
theorem issue_takes {q : Iss} {s t : State} {body : State → State} (h : Takes q s t) : issue q s body = body t := by
  obtain ⟨h1, h2, h3, h4, h5, h6⟩ := h
  have rest : ∀ u : State, u = t → (if u.self.inXchg && !q.xOk then u.raise (trapInfo 0x0D0)
      else if q.parks && u.self.speculative then u.park .certain
      else match firstMark (u.cx.marks q.a q.v) with
        | some m => u.raise m.trap
        | none => body u) = body t := by
    rintro u rfl
    rw [if_neg (by simpa using h4), if_neg (by simpa using h5), h6]
  unfold issue
  rw [if_neg (by simpa using h1), if_neg (by simpa using h2)]
  by_cases hm : q.s = true ∨ (q.long = true ∧ 8 ≤ s.cx.outstanding)
  · rw [if_pos hm] at h3
    obtain ⟨hr, c, hc, rfl⟩ := h3
    simp only [ge_iff_le]
    rw [if_pos (by simpa using hm)]
    unfold marker
    rw [if_pos (by simpa [List.all_eq_true] using hr), hc]
    exact rest _ rfl
  · rw [if_neg hm] at h3
    subst h3
    simp only [ge_iff_le]
    rw [if_neg (by simpa using hm)]
    exact rest _ rfl

theorem takes_cur {q : Iss} {s t : State} (h : Takes q s t) : t.cur = s.cur := by
  obtain ⟨-, -, h3, -⟩ := h
  split at h3
  · obtain ⟨-, c, -, rfl⟩ := h3; rfl
  · rw [h3]
theorem takes_me {q : Iss} {s t : State} (h : Takes q s t) : t.me = s.me := by
  obtain ⟨-, -, h3, -⟩ := h
  split at h3
  · obtain ⟨-, c, -, rfl⟩ := h3; simp
  · rw [h3]
theorem takes_mem {q : Iss} {s t : State} (h : Takes q s t) : t.mem = s.mem := by
  obtain ⟨-, -, h3, -⟩ := h
  split at h3
  · obtain ⟨-, c, -, rfl⟩ := h3; rfl
  · rw [h3]

/-- The slots of other contexts after a slot has changed. -/
theorem sameOutside_setSlot (s : State) (c : CtxId) (v : Slot) : SameOutside c s (s.setSlot c v) :=
  ⟨rfl, fun d h => s.slot_setSlot_ne c d v h, fun k h => s.core_setSlot_ne c v k h, by simp⟩
theorem sameOutside_setSelf (s : State) (v : Slot) : SameOutside s.me s (s.setSelf v) := sameOutside_setSlot ..
theorem sameOutside_setCx (s : State) (x : Ctxt) : SameOutside s.me s (s.setCx x) := sameOutside_setSelf ..

/-- Outside the delay slot of a collective branch an instruction's retirement changes its own slot only. -/
theorem finish_eq (s : State) (len : Nat) (h : ∀ d, s.cx.delay = some d → d.coll = none) :
    s.finish len = s.setSelf (s.self.finish len) := by
  unfold State.finish State.finishAt State.modSlot
  have : (s.slot s.me).cx.delay = s.cx.delay := rfl
  rw [this]
  cases hd : s.cx.delay with
  | none => rfl
  | some d => simp only [h d hd]; rfl
@[simp] theorem Slot.metReissue_cx (sl : Slot) : sl.metReissue.cx = sl.cx := by unfold Slot.metReissue; split <;> rfl
/-- The context after an instruction outside a delay slot (R51, R246). -/
theorem finish_cx (s : State) (len : Nat) (h : s.cx.delay = none) :
    (s.finish len).cx = { s.cx with pc := s.cx.pc + BitVec.ofNat 64 len, order := s.cx.order + 1 } := by
  rw [finish_eq _ _ (by simp [h])]
  have hd : s.self.cx.delay = none := h
  simp only [State.cx, State.self_setSelf, Slot.finish, Slot.metReissue_cx, hd, Slot.retireOne]
  split <;> rfl
/-- The context after the instruction in a branch's delay slot (R51). -/
theorem finish_cx_delay (s : State) (len : Nat) (d : Delay) (h : s.cx.delay = some d) (hc : d.coll = none) :
    (s.finish len).cx = { s.cx with pc := d.target.getD (s.cx.pc + BitVec.ofNat 64 len), delay := none, order := s.cx.order + 1 } := by
  rw [finish_eq _ _ (by simp [h, hc])]
  have hd : s.self.cx.delay = some d := h
  simp only [State.cx, State.self_setSelf, Slot.finish, Slot.metReissue_cx, hd, hc, Slot.retireOne]
  split <;> rfl

/-- A short-class write of an a-register. -/
theorem Ctxt.wa_writesA (c : Ctxt) (r : BitVec 5) (v : DWord) : WritesA r v c (c.wa r v) := by
  refine ⟨?_, ?_, ?_, ?_⟩
  · by_cases h : r = 0#5 <;> simp [Ctxt.ra, Ctxt.wa, Ctxt.putA, h]
  · intro h
    replace h : ¬ r = 0#5 := h
    simp [Ctxt.wa, Ctxt.putA, h]
  · intro q hq
    have : r.toNat ≠ q.toNat := fun e => hq (BitVec.eq_of_toNat_eq e.symm)
    by_cases h : r = 0#5 <;> simp [Ctxt.ra, Ctxt.wa, Ctxt.putA, h, this]
  · by_cases h : r = 0#5 <;> simp [Ctxt.wa, Ctxt.putA, h]

/-- The offset of a branch counts halfwords from the branch (R37). -/
theorem halfwords_eq {w : Nat} (off : BitVec w) : halfwords off = BitVec.ofInt 64 (2 * off.toInt) := by
  rw [halfwords, BitVec.shiftLeft_eq_mul_twoPow, BitVec.mul_comm, BitVec.ofInt_mul]
  rfl

/-- Every instruction that has an encoding passes the checks of `issue` before its own effect. -/
theorem exec_issue (i : Instr) (q : Iss) (h : i.iss = some q) (s : State) : ∃ body, exec i s = .next (issue q s body) := by
  cases i <;> cases h <;> exact ⟨_, rfl⟩

/-! ## Running ahead -/

/-- With nothing done ahead, an instruction runs as its own meaning says. -/
theorem runIn_nothing_ahead (i : Instr) (s : State) (h : s.cx.ahead = []) : runIn i s = exec i s := by simp [runIn, h]
/-- A step that leaves a context, and whether it goes on, as they were leaves what was done ahead. -/
theorem settle_unchanged (c : CtxId) (old : Slot) (t : State) (hg : old.goesOn = (t.slot c).goesOn) :
    settle c old (t.slot c).cx t = t := by simp [settle, hg]
/-- A context that waits for no queue does not run ahead. -/
theorem runAhead_no_wait (s : State) (c : CtxId) (h : (s.slot c).queueWait = false) : runAhead s c = s := by simp [runAhead, h]
/-- Running ahead leaves the state as it is, or changes a context's queues and what it notes of them. -/
theorem runAhead_cases (s : State) (c : CtxId) :
    runAhead s c = s ∨ ∃ w n l e, runAhead s c = s.modCx c (fun x => { x.setQue w n l with ahead := x.ahead ++ [e] }) := by
  have keep : s = s ∨ ∃ w n l e, s = s.modCx c (fun x => { x.setQue w n l with ahead := x.ahead ++ [e] }) := .inl rfl
  have give : ∀ i w n, giveEarly s c i w n = s ∨
      ∃ w' n' l e, giveEarly s c i w n = s.modCx c (fun x => { x.setQue w' n' l with ahead := x.ahead ++ [e] }) := by
    intro i w n
    simp only [giveEarly]
    split
    · exact .inl rfl
    · exact .inr ⟨w, n, _, _, rfl⟩
  have take : ∀ i w n, takeEarly s c i w n = s ∨
      ∃ w' n' l e, takeEarly s c i w n = s.modCx c (fun x => { x.setQue w' n' l with ahead := x.ahead ++ [e] }) := by
    intro i w n
    simp only [takeEarly]
    split
    · exact .inr ⟨w, n, _, _, rfl⟩
    · exact .inl rfl
  unfold runAhead
  extract_lets sl
  split
  · exact keep
  · split
    · exact keep
    · split
      · exact keep
      · exact give _ _ _
      · exact take _ _ _

end Sys2Proof.Machine
end

