-- ==== Sys2Proof/Laws/Memory.lean ====
section
/-! SUPPORT. Memory: every operation keeps the canonical form, a byte read after a write is the byte written, and a write
leaves every other byte alone. -/

namespace Sys2Proof.Machine

theorem Memory.wf_cons (c : Host.Cell) (r : List Host.Cell) :
    Memory.wf (c :: r) = true ↔ c.2 ≠ Memory.unlisted ∧ (∀ d ∈ r, c.1 < d.1) ∧ Memory.wf r = true := by
  induction r generalizing c with
  | nil => simp [Memory.wf]
  | cons d r ih =>
    simp only [Memory.wf, Bool.and_eq_true, decide_eq_true_eq, bne_iff_ne, List.mem_cons]
    constructor
    · rintro ⟨⟨h0, h1⟩, h2⟩
      refine ⟨h0, ?_, h2⟩
      rintro e (rfl | he)
      · exact h1
      · exact Nat.lt_trans h1 (((ih d).1 h2).2.1 e he)
    · rintro ⟨h0, h1, h2⟩
      exact ⟨⟨h0, h1 d (Or.inl rfl)⟩, h2⟩

theorem Memory.wf_iff (m : List Host.Cell) :
    Memory.wf m = true ↔ (∀ c ∈ m, c.2 ≠ Memory.unlisted) ∧ m.Pairwise (fun c d => c.1 < d.1) := by
  induction m with
  | nil => simp [Memory.wf]
  | cons c r ih =>
    rw [Memory.wf_cons, ih, List.pairwise_cons]
    simp only [List.mem_cons, forall_eq_or_imp]
    tauto

theorem Memory.get_below (m : List Host.Cell) (a : Nat) (h : ∀ d ∈ m, a < d.1) : Memory.get m a = Memory.unlisted := by
  cases m with
  | nil => rfl
  | cons c r =>
    have := h c (by simp)
    simp [Memory.get, Nat.ne_of_gt this, this]

theorem Memory.mem_set (m : List Host.Cell) (a : Nat) (b : Byte) (e : Host.Cell) (h : e ∈ Memory.set m a b) :
    e = (a, b) ∨ e ∈ m := by
  induction m with
  | nil =>
    unfold Memory.set at h
    split at h <;> simp_all
  | cons c r ih =>
    unfold Memory.set at h
    split at h
    · split at h
      · exact Or.inr (List.mem_cons_of_mem _ h)
      · rcases List.mem_cons.1 h with h | h
        · exact Or.inl h
        · exact Or.inr (List.mem_cons_of_mem _ h)
    · split at h
      · split at h
        · exact Or.inr h
        · exact List.mem_cons.1 h
      · rcases List.mem_cons.1 h with h | h
        · exact Or.inr (by simp [h])
        · exact (ih h).imp_right (List.mem_cons_of_mem _)

/-- A byte written keeps the canonical form. -/
theorem Memory.wf_set (m : List Host.Cell) (a : Nat) (b : Byte) (h : Memory.wf m = true) :
    Memory.wf (Memory.set m a b) = true := by
  induction m with
  | nil => by_cases hb : b = Memory.unlisted <;> simp [Memory.set, Memory.wf, hb]
  | cons c r ih =>
    obtain ⟨h0, h1, h2⟩ := (Memory.wf_cons c r).1 h
    unfold Memory.set
    split
    · rename_i hc
      split
      · exact h2
      · exact (Memory.wf_cons _ _).2 ⟨‹_›, fun d hd => hc ▸ h1 d hd, h2⟩
    · split
      · rename_i hlt
        split
        · exact h
        · refine (Memory.wf_cons _ _).2 ⟨‹_›, ?_, h⟩
          intro d hd
          rcases List.mem_cons.1 hd with rfl | hd
          · exact hlt
          · exact Nat.lt_trans hlt (h1 d hd)
      · refine (Memory.wf_cons _ _).2 ⟨h0, ?_, ih h2⟩
        intro d hd
        rcases Memory.mem_set r a b d hd with rfl | hd
        · dsimp only; omega
        · exact h1 d hd

/-- A byte read where one was written. -/
theorem Memory.get_set_self (m : List Host.Cell) (a : Nat) (b : Byte) (h : Memory.wf m = true) :
    Memory.get (Memory.set m a b) a = b := by
  induction m with
  | nil => by_cases hb : b = Memory.unlisted <;> simp [Memory.set, Memory.get, hb]
  | cons c r ih =>
    obtain ⟨-, h1, h2⟩ := (Memory.wf_cons c r).1 h
    unfold Memory.set
    split
    · rename_i hc
      split
      · rename_i hb
        exact (Memory.get_below r a (fun d hd => hc ▸ h1 d hd)).trans hb.symm
      · simp [Memory.get]
    · split
      · rename_i hlt
        split
        · rename_i hb; simp [Memory.get, hlt, ‹¬c.1 = a›, hb]
        · simp [Memory.get]
      · simp [Memory.get, *]

/-- A byte read anywhere else. -/
theorem Memory.get_set_ne (m : List Host.Cell) (a x : Nat) (b : Byte) (h : Memory.wf m = true) (hx : x ≠ a) :
    Memory.get (Memory.set m a b) x = Memory.get m x := by
  induction m with
  | nil => by_cases hb : b = Memory.unlisted <;> simp [Memory.set, Memory.get, hb, Ne.symm hx]
  | cons c r ih =>
    obtain ⟨-, h1, h2⟩ := (Memory.wf_cons c r).1 h
    unfold Memory.set
    split
    · rename_i hc
      split
      · by_cases hlt : x < a
        · rw [Memory.get_below r x (fun d hd => Nat.lt_trans hlt (hc ▸ h1 d hd))]
          simp [Memory.get, hc, Ne.symm hx, hlt]
        · simp [Memory.get, hc, Ne.symm hx, hlt]
      · simp [Memory.get, hc, Ne.symm hx]
    · split
      · split
        · rfl
        · rw [Memory.get.eq_def ((a, b) :: c :: r) x]
          dsimp only
          rw [if_neg (Ne.symm hx)]
          by_cases hlt : x < a
          · rw [if_pos hlt, Memory.get_below]
            intro d hd
            rcases List.mem_cons.1 hd with rfl | hd
            · omega
            · have := h1 d hd; omega
          · rw [if_neg hlt]
      · simp only [Memory.get, ih h2]

theorem Memory.wf_setN (m : List Host.Cell) (a n v : Nat) (h : Memory.wf m = true) : Memory.wf (Memory.setN m a n v) = true := by
  induction n generalizing m a v with
  | zero => exact h
  | succ n ih => exact ih _ _ _ (Memory.wf_set _ _ _ h)

/-- A byte outside the span written. -/
theorem Memory.get_setN_out (m : List Host.Cell) (a n v x : Nat) (h : Memory.wf m = true) (hx : x < a ∨ a + n ≤ x) :
    Memory.get (Memory.setN m a n v) x = Memory.get m x := by
  induction n generalizing m a v with
  | zero => rfl
  | succ n ih =>
    rw [Memory.setN, ih _ _ _ (Memory.wf_set _ _ _ h) (by omega), Memory.get_set_ne _ _ _ _ h (by omega)]

/-- A byte of the span written: byte `i` of the value, little-endian (R5). -/
theorem Memory.get_setN_in (m : List Host.Cell) (a n v i : Nat) (h : Memory.wf m = true) (hi : i < n) :
    Memory.get (Memory.setN m a n v) (a + i) = BitVec.ofNat 8 (v / 256 ^ i) := by
  induction n generalizing m a v i with
  | zero => omega
  | succ n ih =>
    rw [Memory.setN]
    cases i with
    | zero => rw [Memory.get_setN_out _ _ _ _ _ (Memory.wf_set _ _ _ h) (by omega), Nat.add_zero, Memory.get_set_self _ _ _ h]; simp
    | succ i =>
      rw [show a + (i + 1) = a + 1 + i by omega, ih _ _ _ _ (Memory.wf_set _ _ _ h) (by omega), Nat.div_div_eq_div_mul,
        Nat.pow_succ, Nat.mul_comm]

theorem Memory.getN_congr (m m' : List Host.Cell) (a n : Nat) (h : ∀ i < n, Memory.get m (a + i) = Memory.get m' (a + i)) :
    Memory.getN m a n = Memory.getN m' a n := by
  induction n generalizing a with
  | zero => rfl
  | succ n ih =>
    rw [Memory.getN, Memory.getN, ih (a + 1) (fun i hi => by have := h (i + 1) (by omega); rwa [show a + 1 + i = a + (i + 1) by omega])]
    have := h 0 (by omega)
    rw [Nat.add_zero] at this
    rw [this]

/-- A value read where one was written. -/
theorem Memory.getN_setN (m : List Host.Cell) (a n v : Nat) (h : Memory.wf m = true) :
    Memory.getN (Memory.setN m a n v) a n = v % 256 ^ n := by
  induction n generalizing m a v with
  | zero => simp [Memory.getN, Nat.mod_one]
  | succ n ih =>
    rw [Memory.setN, Memory.getN, ih _ _ _ (Memory.wf_set _ _ _ h),
      Memory.get_setN_out _ _ _ _ _ (Memory.wf_set _ _ _ h) (by omega), Memory.get_set_self _ _ _ h, BitVec.toNat_ofNat,
      show 256 ^ (n + 1) = 256 * 256 ^ n from Nat.pow_succ', Nat.mod_mul]

theorem Memory.wf_clear (m : List Host.Cell) (a n : Nat) (h : Memory.wf m = true) : Memory.wf (Memory.clear m a n) = true := by
  rw [Memory.wf_iff] at h ⊢
  exact ⟨fun c hc => h.1 c (List.mem_filter.1 hc).1, h.2.sublist List.filter_sublist⟩

@[simp] theorem State.write_mem (s : State) (l n v : Nat) : (s.write l n v).mem = Memory.setN s.mem l n v := rfl
@[simp] theorem State.poke_mem (s : State) (l n v : Nat) : (s.poke l n v).mem = Memory.setN s.mem l n v := rfl
@[simp] theorem State.write_cores (s : State) (l n v : Nat) : (s.write l n v).cores = s.cores := rfl
@[simp] theorem State.poke_cores (s : State) (l n v : Nat) : (s.poke l n v).cores = s.cores := rfl
@[simp] theorem State.write_gangs (s : State) (l n v : Nat) : (s.write l n v).gangs = s.gangs := rfl
@[simp] theorem State.write_clusters (s : State) (l n v : Nat) : (s.write l n v).clusters = s.clusters := rfl
@[simp] theorem State.write_cur (s : State) (l n v : Nat) : (s.write l n v).cur = s.cur := rfl

/-- A write keeps the canonical form. -/
theorem State.write_wf (s : State) (l n v : Nat) (h : Memory.wf s.mem = true) : Memory.wf (s.write l n v).mem = true :=
  Memory.wf_setN _ _ _ _ h
theorem State.poke_wf (s : State) (l n v : Nat) (h : Memory.wf s.mem = true) : Memory.wf (s.poke l n v).mem = true :=
  Memory.wf_setN _ _ _ _ h

end Sys2Proof.Machine
end

