-- ==== Sys2Proof/Laws/PerInstr.lean ====
section
/-! SUPPORT. Per-instruction laws, one lemma per constructor: the encoding of an instruction is one halfword or two, and the events of the
manual have none. -/

namespace Sys2Proof.Laws.Encodes

/-- An encoding is 16 or 32 bits long (R32). -/
def Statement (i : Instr) : Prop := ∀ n w, encode i = some (n, w) → n = 16 ∨ n = 32

theorem add (s : Bool) (rd : BitVec 5) (rs1 : BitVec 5) (rs2 : BitVec 5) : Statement (.add s rd rs1 rs2) := fun _ _ h => .inr (by cases h; rfl)
theorem sub (s : Bool) (rd : BitVec 5) (rs1 : BitVec 5) (rs2 : BitVec 5) : Statement (.sub s rd rs1 rs2) := fun _ _ h => .inr (by cases h; rfl)
theorem and (s : Bool) (rd : BitVec 5) (rs1 : BitVec 5) (rs2 : BitVec 5) : Statement (.and s rd rs1 rs2) := fun _ _ h => .inr (by cases h; rfl)
theorem or (s : Bool) (rd : BitVec 5) (rs1 : BitVec 5) (rs2 : BitVec 5) : Statement (.or s rd rs1 rs2) := fun _ _ h => .inr (by cases h; rfl)
theorem xor (s : Bool) (rd : BitVec 5) (rs1 : BitVec 5) (rs2 : BitVec 5) : Statement (.xor s rd rs1 rs2) := fun _ _ h => .inr (by cases h; rfl)
theorem andn (s : Bool) (rd : BitVec 5) (rs1 : BitVec 5) (rs2 : BitVec 5) : Statement (.andn s rd rs1 rs2) := fun _ _ h => .inr (by cases h; rfl)
theorem sll (s : Bool) (rd : BitVec 5) (rs1 : BitVec 5) (rs2 : BitVec 5) : Statement (.sll s rd rs1 rs2) := fun _ _ h => .inr (by cases h; rfl)
theorem srl (s : Bool) (rd : BitVec 5) (rs1 : BitVec 5) (rs2 : BitVec 5) : Statement (.srl s rd rs1 rs2) := fun _ _ h => .inr (by cases h; rfl)
theorem sra (s : Bool) (rd : BitVec 5) (rs1 : BitVec 5) (rs2 : BitVec 5) : Statement (.sra s rd rs1 rs2) := fun _ _ h => .inr (by cases h; rfl)
theorem slt (s : Bool) (rd : BitVec 5) (rs1 : BitVec 5) (rs2 : BitVec 5) : Statement (.slt s rd rs1 rs2) := fun _ _ h => .inr (by cases h; rfl)
theorem sltu (s : Bool) (rd : BitVec 5) (rs1 : BitVec 5) (rs2 : BitVec 5) : Statement (.sltu s rd rs1 rs2) := fun _ _ h => .inr (by cases h; rfl)
theorem min (s : Bool) (rd : BitVec 5) (rs1 : BitVec 5) (rs2 : BitVec 5) : Statement (.min s rd rs1 rs2) := fun _ _ h => .inr (by cases h; rfl)
theorem max (s : Bool) (rd : BitVec 5) (rs1 : BitVec 5) (rs2 : BitVec 5) : Statement (.max s rd rs1 rs2) := fun _ _ h => .inr (by cases h; rfl)
theorem minu (s : Bool) (rd : BitVec 5) (rs1 : BitVec 5) (rs2 : BitVec 5) : Statement (.minu s rd rs1 rs2) := fun _ _ h => .inr (by cases h; rfl)
theorem maxu (s : Bool) (rd : BitVec 5) (rs1 : BitVec 5) (rs2 : BitVec 5) : Statement (.maxu s rd rs1 rs2) := fun _ _ h => .inr (by cases h; rfl)
theorem mul (s : Bool) (rd : BitVec 5) (rs1 : BitVec 5) (rs2 : BitVec 5) : Statement (.mul s rd rs1 rs2) := fun _ _ h => .inr (by cases h; rfl)
theorem mulh (s : Bool) (rd : BitVec 5) (rs1 : BitVec 5) (rs2 : BitVec 5) : Statement (.mulh s rd rs1 rs2) := fun _ _ h => .inr (by cases h; rfl)
theorem mulhu (s : Bool) (rd : BitVec 5) (rs1 : BitVec 5) (rs2 : BitVec 5) : Statement (.mulhu s rd rs1 rs2) := fun _ _ h => .inr (by cases h; rfl)
theorem div (s : Bool) (rd : BitVec 5) (rs1 : BitVec 5) (rs2 : BitVec 5) : Statement (.div s rd rs1 rs2) := fun _ _ h => .inr (by cases h; rfl)
theorem divu (s : Bool) (rd : BitVec 5) (rs1 : BitVec 5) (rs2 : BitVec 5) : Statement (.divu s rd rs1 rs2) := fun _ _ h => .inr (by cases h; rfl)
theorem rem (s : Bool) (rd : BitVec 5) (rs1 : BitVec 5) (rs2 : BitVec 5) : Statement (.rem s rd rs1 rs2) := fun _ _ h => .inr (by cases h; rfl)
theorem remu (s : Bool) (rd : BitVec 5) (rs1 : BitVec 5) (rs2 : BitVec 5) : Statement (.remu s rd rs1 rs2) := fun _ _ h => .inr (by cases h; rfl)
theorem clz (s : Bool) (rd : BitVec 5) (rs1 : BitVec 5) : Statement (.clz s rd rs1) := fun _ _ h => .inr (by cases h; rfl)
theorem ctz (s : Bool) (rd : BitVec 5) (rs1 : BitVec 5) : Statement (.ctz s rd rs1) := fun _ _ h => .inr (by cases h; rfl)
theorem popc (s : Bool) (rd : BitVec 5) (rs1 : BitVec 5) : Statement (.popc s rd rs1) := fun _ _ h => .inr (by cases h; rfl)
theorem addw (s : Bool) (rd : BitVec 5) (rs1 : BitVec 5) (rs2 : BitVec 5) : Statement (.addw s rd rs1 rs2) := fun _ _ h => .inr (by cases h; rfl)
theorem subw (s : Bool) (rd : BitVec 5) (rs1 : BitVec 5) (rs2 : BitVec 5) : Statement (.subw s rd rs1 rs2) := fun _ _ h => .inr (by cases h; rfl)
theorem mulw (s : Bool) (rd : BitVec 5) (rs1 : BitVec 5) (rs2 : BitVec 5) : Statement (.mulw s rd rs1 rs2) := fun _ _ h => .inr (by cases h; rfl)
theorem sllw (s : Bool) (rd : BitVec 5) (rs1 : BitVec 5) (rs2 : BitVec 5) : Statement (.sllw s rd rs1 rs2) := fun _ _ h => .inr (by cases h; rfl)
theorem srlw (s : Bool) (rd : BitVec 5) (rs1 : BitVec 5) (rs2 : BitVec 5) : Statement (.srlw s rd rs1 rs2) := fun _ _ h => .inr (by cases h; rfl)
theorem sraw (s : Bool) (rd : BitVec 5) (rs1 : BitVec 5) (rs2 : BitVec 5) : Statement (.sraw s rd rs1 rs2) := fun _ _ h => .inr (by cases h; rfl)
theorem addi (s : Bool) (rd : BitVec 5) (rs1 : BitVec 5) (imm : BitVec 12) : Statement (.addi s rd rs1 imm) := fun _ _ h => .inr (by cases h; rfl)
theorem andi (s : Bool) (rd : BitVec 5) (rs1 : BitVec 5) (imm : BitVec 12) : Statement (.andi s rd rs1 imm) := fun _ _ h => .inr (by cases h; rfl)
theorem ori (s : Bool) (rd : BitVec 5) (rs1 : BitVec 5) (imm : BitVec 12) : Statement (.ori s rd rs1 imm) := fun _ _ h => .inr (by cases h; rfl)
theorem xori (s : Bool) (rd : BitVec 5) (rs1 : BitVec 5) (imm : BitVec 12) : Statement (.xori s rd rs1 imm) := fun _ _ h => .inr (by cases h; rfl)
theorem slti (s : Bool) (rd : BitVec 5) (rs1 : BitVec 5) (imm : BitVec 12) : Statement (.slti s rd rs1 imm) := fun _ _ h => .inr (by cases h; rfl)
theorem sltiu (s : Bool) (rd : BitVec 5) (rs1 : BitVec 5) (imm : BitVec 12) : Statement (.sltiu s rd rs1 imm) := fun _ _ h => .inr (by cases h; rfl)
theorem slli (s : Bool) (rd : BitVec 5) (rs1 : BitVec 5) (imm : BitVec 6) : Statement (.slli s rd rs1 imm) := fun _ _ h => .inr (by cases h; rfl)
theorem srli (s : Bool) (rd : BitVec 5) (rs1 : BitVec 5) (imm : BitVec 6) : Statement (.srli s rd rs1 imm) := fun _ _ h => .inr (by cases h; rfl)
theorem srai (s : Bool) (rd : BitVec 5) (rs1 : BitVec 5) (imm : BitVec 6) : Statement (.srai s rd rs1 imm) := fun _ _ h => .inr (by cases h; rfl)
theorem addiw (s : Bool) (rd : BitVec 5) (rs1 : BitVec 5) (imm : BitVec 12) : Statement (.addiw s rd rs1 imm) := fun _ _ h => .inr (by cases h; rfl)
theorem mkhi (s : Bool) (rd : BitVec 5) (imm : BitVec 17) : Statement (.mkhi s rd imm) := fun _ _ h => .inr (by cases h; rfl)
theorem mkga (s : Bool) (rd : BitVec 5) (rs1 : BitVec 5) (rs2 : BitVec 5) (region : BitVec 7) : Statement (.mkga s rd rs1 rs2 region) := fun _ _ h => .inr (by cases h; rfl)
theorem peera (s : Bool) (rd : BitVec 5) (rs1 : BitVec 5) (imm : BitVec 12) : Statement (.peera s rd rs1 imm) := fun _ _ h => .inr (by cases h; rfl)
theorem beq (s : Bool) (rs1 : BitVec 5) (rs2 : BitVec 5) (off : BitVec 12) : Statement (.beq s rs1 rs2 off) := fun _ _ h => .inr (by cases h; rfl)
theorem bne (s : Bool) (rs1 : BitVec 5) (rs2 : BitVec 5) (off : BitVec 12) : Statement (.bne s rs1 rs2 off) := fun _ _ h => .inr (by cases h; rfl)
theorem blt (s : Bool) (rs1 : BitVec 5) (rs2 : BitVec 5) (off : BitVec 12) : Statement (.blt s rs1 rs2 off) := fun _ _ h => .inr (by cases h; rfl)
theorem bge (s : Bool) (rs1 : BitVec 5) (rs2 : BitVec 5) (off : BitVec 12) : Statement (.bge s rs1 rs2 off) := fun _ _ h => .inr (by cases h; rfl)
theorem bltu (s : Bool) (rs1 : BitVec 5) (rs2 : BitVec 5) (off : BitVec 12) : Statement (.bltu s rs1 rs2 off) := fun _ _ h => .inr (by cases h; rfl)
theorem bgeu (s : Bool) (rs1 : BitVec 5) (rs2 : BitVec 5) (off : BitVec 12) : Statement (.bgeu s rs1 rs2 off) := fun _ _ h => .inr (by cases h; rfl)
theorem loop (s : Bool) (rs1 : BitVec 5) (off : BitVec 12) : Statement (.loop s rs1 off) := fun _ _ h => .inr (by cases h; rfl)
theorem jal (s : Bool) (rd : BitVec 5) (off : BitVec 17) : Statement (.jal s rd off) := fun _ _ h => .inr (by cases h; rfl)
theorem jr (s : Bool) (rd : BitVec 5) (rs1 : BitVec 5) (imm : BitVec 12) : Statement (.jr s rd rs1 imm) := fun _ _ h => .inr (by cases h; rfl)
theorem nop (s : Bool) : Statement (.nop s) := fun _ _ h => .inr (by cases h; rfl)
theorem yield (s : Bool) : Statement (.yield s) := fun _ _ h => .inr (by cases h; rfl)
theorem retire (s : Bool) : Statement (.retire s) := fun _ _ h => .inr (by cases h; rfl)
theorem vlq (s : Bool) (rd : BitVec 5) : Statement (.vlq s rd) := fun _ _ h => .inr (by cases h; rfl)
theorem ldb (s : Bool) (rd : BitVec 5) (rs1 : BitVec 5) (imm : BitVec 12) : Statement (.ldb s rd rs1 imm) := fun _ _ h => .inr (by cases h; rfl)
theorem ldbz (s : Bool) (rd : BitVec 5) (rs1 : BitVec 5) (imm : BitVec 12) : Statement (.ldbz s rd rs1 imm) := fun _ _ h => .inr (by cases h; rfl)
theorem ldh (s : Bool) (rd : BitVec 5) (rs1 : BitVec 5) (imm : BitVec 12) : Statement (.ldh s rd rs1 imm) := fun _ _ h => .inr (by cases h; rfl)
theorem ldhz (s : Bool) (rd : BitVec 5) (rs1 : BitVec 5) (imm : BitVec 12) : Statement (.ldhz s rd rs1 imm) := fun _ _ h => .inr (by cases h; rfl)
theorem ldw (s : Bool) (rd : BitVec 5) (rs1 : BitVec 5) (imm : BitVec 12) : Statement (.ldw s rd rs1 imm) := fun _ _ h => .inr (by cases h; rfl)
theorem ldwz (s : Bool) (rd : BitVec 5) (rs1 : BitVec 5) (imm : BitVec 12) : Statement (.ldwz s rd rs1 imm) := fun _ _ h => .inr (by cases h; rfl)
theorem ldd (s : Bool) (rd : BitVec 5) (rs1 : BitVec 5) (imm : BitVec 12) : Statement (.ldd s rd rs1 imm) := fun _ _ h => .inr (by cases h; rfl)
theorem stb (s : Bool) (rs2 : BitVec 5) (rs1 : BitVec 5) (imm : BitVec 12) : Statement (.stb s rs2 rs1 imm) := fun _ _ h => .inr (by cases h; rfl)
theorem sth (s : Bool) (rs2 : BitVec 5) (rs1 : BitVec 5) (imm : BitVec 12) : Statement (.sth s rs2 rs1 imm) := fun _ _ h => .inr (by cases h; rfl)
theorem stw (s : Bool) (rs2 : BitVec 5) (rs1 : BitVec 5) (imm : BitVec 12) : Statement (.stw s rs2 rs1 imm) := fun _ _ h => .inr (by cases h; rfl)
theorem std (s : Bool) (rs2 : BitVec 5) (rs1 : BitVec 5) (imm : BitVec 12) : Statement (.std s rs2 rs1 imm) := fun _ _ h => .inr (by cases h; rfl)
theorem rld (s : Bool) (rd : BitVec 5) (rs1 : BitVec 5) (cls : BitVec 3) (zx : Bool) (size : BitVec 2) : Statement (.rld s rd rs1 cls zx size) := fun _ _ h => .inr (by cases h; rfl)
theorem rst (s : Bool) (rs1 : BitVec 5) (rs2 : BitVec 5) (cls : BitVec 3) (size : BitVec 2) : Statement (.rst s rs1 rs2 cls size) := fun _ _ h => .inr (by cases h; rfl)
theorem sdef (s : Bool) (n : BitVec 5) (rs1 : BitVec 5) (imm : BitVec 12) : Statement (.sdef s n rs1 imm) := fun _ _ h => .inr (by cases h; rfl)
theorem sgo (s : Bool) (p : BitVec 2) (q : BitVec 2) (isW : Bool) : Statement (.sgo s p q isW) := fun _ _ h => .inr (by cases h; rfl)
theorem shalt (s : Bool) (p : BitVec 2) : Statement (.shalt s p) := fun _ _ h => .inr (by cases h; rfl)
theorem sq (s : Bool) (rd : BitVec 5) (p : BitVec 2) : Statement (.sq s rd p) := fun _ _ h => .inr (by cases h; rfl)
theorem qpush (s : Bool) (n : BitVec 5) (rs1 : BitVec 5) (fmt : BitVec 7) : Statement (.qpush s n rs1 fmt) := fun _ _ h => .inr (by cases h; rfl)
theorem qpop (s : Bool) (rd : BitVec 5) (n : BitVec 5) : Statement (.qpop s rd n) := fun _ _ h => .inr (by cases h; rfl)
theorem bind (s : Bool) (n : BitVec 5) (rs1 : BitVec 5) (rs2 : BitVec 5) (lg : BitVec 6) (bar : Bool) : Statement (.bind s n rs1 rs2 lg bar) := fun _ _ h => .inr (by cases h; rfl)
theorem unbind (s : Bool) (n : BitVec 5) : Statement (.unbind s n) := fun _ _ h => .inr (by cases h; rfl)
theorem acq (s : Bool) (rd : BitVec 5) (rs1 : BitVec 5) (scope : BitVec 3) : Statement (.acq s rd rs1 scope) := fun _ _ h => .inr (by cases h; rfl)
theorem rel (s : Bool) (rs1 : BitVec 5) (scope : BitVec 3) : Statement (.rel s rs1 scope) := fun _ _ h => .inr (by cases h; rfl)
theorem fence (s : Bool) (scope : BitVec 3) : Statement (.fence s scope) := fun _ _ h => .inr (by cases h; rfl)
theorem lbfence (s : Bool) : Statement (.lbfence s) := fun _ _ h => .inr (by cases h; rfl)
theorem aadd (s : Bool) (rd : BitVec 5) (rs1 : BitVec 5) (rs2 : BitVec 5) (size : BitVec 2) (uns : Bool) : Statement (.aadd s rd rs1 rs2 size uns) := fun _ _ h => .inr (by cases h; rfl)
theorem amin (s : Bool) (rd : BitVec 5) (rs1 : BitVec 5) (rs2 : BitVec 5) (size : BitVec 2) (uns : Bool) : Statement (.amin s rd rs1 rs2 size uns) := fun _ _ h => .inr (by cases h; rfl)
theorem amax (s : Bool) (rd : BitVec 5) (rs1 : BitVec 5) (rs2 : BitVec 5) (size : BitVec 2) (uns : Bool) : Statement (.amax s rd rs1 rs2 size uns) := fun _ _ h => .inr (by cases h; rfl)
theorem aand (s : Bool) (rd : BitVec 5) (rs1 : BitVec 5) (rs2 : BitVec 5) (size : BitVec 2) (uns : Bool) : Statement (.aand s rd rs1 rs2 size uns) := fun _ _ h => .inr (by cases h; rfl)
theorem aor (s : Bool) (rd : BitVec 5) (rs1 : BitVec 5) (rs2 : BitVec 5) (size : BitVec 2) (uns : Bool) : Statement (.aor s rd rs1 rs2 size uns) := fun _ _ h => .inr (by cases h; rfl)
theorem axor (s : Bool) (rd : BitVec 5) (rs1 : BitVec 5) (rs2 : BitVec 5) (size : BitVec 2) (uns : Bool) : Statement (.axor s rd rs1 rs2 size uns) := fun _ _ h => .inr (by cases h; rfl)
theorem axchg (s : Bool) (rd : BitVec 5) (rs1 : BitVec 5) (rs2 : BitVec 5) (size : BitVec 2) (uns : Bool) : Statement (.axchg s rd rs1 rs2 size uns) := fun _ _ h => .inr (by cases h; rfl)
theorem acas (s : Bool) (rd : BitVec 5) (rs1 : BitVec 5) (rs2 : BitVec 5) (size : BitVec 2) (uns : Bool) : Statement (.acas s rd rs1 rs2 size uns) := fun _ _ h => .inr (by cases h; rfl)
theorem cwait (s : Bool) (rd : BitVec 5) (rs1 : BitVec 5) (rs2 : BitVec 5) (nowait : Bool) : Statement (.cwait s rd rs1 rs2 nowait) := fun _ _ h => .inr (by cases h; rfl)
theorem cadd (s : Bool) (rs1 : BitVec 5) (rs2 : BitVec 5) (scope : BitVec 3) : Statement (.cadd s rs1 rs2 scope) := fun _ _ h => .inr (by cases h; rfl)
theorem bari (s : Bool) (rs1 : BitVec 5) (n : BitVec 6) : Statement (.bari s rs1 n) := fun _ _ h => .inr (by cases h; rfl)
theorem bara (s : Bool) (rd : BitVec 5) (n : BitVec 6) (pz : Bool) : Statement (.bara s rd n pz) := fun _ _ h => .inr (by cases h; rfl)
theorem barw (s : Bool) (rd : BitVec 5) (n : BitVec 6) : Statement (.barw s rd n) := fun _ _ h => .inr (by cases h; rfl)
theorem baraw (s : Bool) (rd : BitVec 5) (n : BitVec 6) (pz : Bool) : Statement (.baraw s rd n pz) := fun _ _ h => .inr (by cases h; rfl)
theorem barq (s : Bool) (rd : BitVec 5) (n : BitVec 6) : Statement (.barq s rd n) := fun _ _ h => .inr (by cases h; rfl)
theorem talloc (s : Bool) (n : BitVec 5) (rs1 : BitVec 5) (imm : BitVec 12) : Statement (.talloc s n rs1 imm) := fun _ _ h => .inr (by cases h; rfl)
theorem tfree (s : Bool) (h : BitVec 5) : Statement (.tfree s h) := fun _ _ h => .inr (by cases h; rfl)
theorem tstat (s : Bool) (rd : BitVec 5) (h : BitVec 5) : Statement (.tstat s rd h) := fun _ _ h => .inr (by cases h; rfl)
theorem twait (s : Bool) (h : BitVec 5) : Statement (.twait s h) := fun _ _ h => .inr (by cases h; rfl)
theorem tset (s : Bool) (h : BitVec 5) (ready : Bool) (tag : BitVec 4) : Statement (.tset s h ready tag) := fun _ _ h => .inr (by cases h; rfl)
theorem cpstage (s : Bool) (n : BitVec 8) : Statement (.cpstage s n) := fun _ _ h => .inr (by cases h; rfl)
theorem cpq (s : Bool) (rd : BitVec 5) (rs1 : BitVec 5) : Statement (.cpq s rd rs1) := fun _ _ h => .inr (by cases h; rfl)
theorem cpcancel (s : Bool) (rs1 : BitVec 5) : Statement (.cpcancel s rs1) := fun _ _ h => .inr (by cases h; rfl)
theorem mxsub (s : Bool) (rd : BitVec 5) (rs1 : BitVec 5) (imm : BitVec 12) : Statement (.mxsub s rd rs1 imm) := fun _ _ h => .inr (by cases h; rfl)
theorem mxpoll (s : Bool) (rd : BitVec 5) (rs1 : BitVec 5) : Statement (.mxpoll s rd rs1) := fun _ _ h => .inr (by cases h; rfl)
theorem mxwait (s : Bool) (rs1 : BitVec 5) : Statement (.mxwait s rs1) := fun _ _ h => .inr (by cases h; rfl)
theorem puts (s : Bool) (rs1 : BitVec 5) (cls : BitVec 3) : Statement (.puts s rs1 cls) := fun _ _ h => .inr (by cases h; rfl)
theorem get (s : Bool) (rs1 : BitVec 5) (cls : BitVec 3) : Statement (.get s rs1 cls) := fun _ _ h => .inr (by cases h; rfl)
theorem radd (s : Bool) (rs1 : BitVec 5) (cls : BitVec 3) : Statement (.radd s rs1 cls) := fun _ _ h => .inr (by cases h; rfl)
theorem evwait (s : Bool) (rd : BitVec 5) (rs1 : BitVec 5) (n : BitVec 2) : Statement (.evwait s rd rs1 n) := fun _ _ h => .inr (by cases h; rfl)
theorem kcmd (s : Bool) (rd : BitVec 5) (rs1 : BitVec 5) (imm : BitVec 12) : Statement (.kcmd s rd rs1 imm) := fun _ _ h => .inr (by cases h; rfl)
theorem kfence (s : Bool) : Statement (.kfence s) := fun _ _ h => .inr (by cases h; rfl)
theorem kpoll (s : Bool) (rd : BitVec 5) (rs1 : BitVec 5) : Statement (.kpoll s rd rs1) := fun _ _ h => .inr (by cases h; rfl)
theorem wseal (s : Bool) (rd : BitVec 5) (rs1 : BitVec 5) (n : BitVec 6) : Statement (.wseal s rd rs1 n) := fun _ _ h => .inr (by cases h; rfl)
theorem wq (s : Bool) (rd : BitVec 5) (n : BitVec 6) : Statement (.wq s rd n) := fun _ _ h => .inr (by cases h; rfl)
theorem spawn (s : Bool) (rd : BitVec 5) (off : BitVec 17) : Statement (.spawn s rd off) := fun _ _ h => .inr (by cases h; rfl)
theorem spawnc (s : Bool) (rs1 : BitVec 5) (side : Bool) (p8 : BitVec 8) (off : BitVec 8) : Statement (.spawnc s rs1 side p8 off) := fun _ _ h => .inr (by cases h; rfl)
theorem cres (s : Bool) (rs1 : BitVec 5) (rs2 : BitVec 5) (opn : Bool) : Statement (.cres s rs1 rs2 opn) := fun _ _ h => .inr (by cases h; rfl)
theorem cbr (s : Bool) (rs1 : BitVec 5) (op : BitVec 2) (pred : Bool) (off : BitVec 12) : Statement (.cbr s rs1 op pred off) := fun _ _ h => .inr (by cases h; rfl)
theorem cvote (s : Bool) (rd : BitVec 5) (rs1 : BitVec 5) (op : BitVec 2) : Statement (.cvote s rd rs1 op) := fun _ _ h => .inr (by cases h; rfl)
theorem ssend (s : Bool) : Statement (.ssend s) := fun _ _ h => .inr (by cases h; rfl)
theorem xend (s : Bool) (rd : BitVec 5) : Statement (.xend s rd) := fun _ _ h => .inr (by cases h; rfl)
theorem xmit (s : Bool) (len : BitVec 2) (dir : BitVec 3) (rs1 : BitVec 5) (off : BitVec 6) (slot : BitVec 6) : Statement (.xmit s len dir rs1 off slot) := fun _ _ h => .inr (by cases h; rfl)
theorem xsel (s : Bool) (len : BitVec 2) (dir : BitVec 3) (rs1 : BitVec 5) (off : BitVec 6) (slot : BitVec 6) : Statement (.xsel s len dir rs1 off slot) := fun _ _ h => .inr (by cases h; rfl)
theorem launch (s : Bool) (rd : BitVec 5) (rs1 : BitVec 5) (imm : BitVec 12) : Statement (.launch s rd rs1 imm) := fun _ _ h => .inr (by cases h; rfl)
theorem lcancel (s : Bool) (rs1 : BitVec 5) (kill : Bool) : Statement (.lcancel s rs1 kill) := fun _ _ h => .inr (by cases h; rfl)
theorem lwait (s : Bool) (rd : BitVec 5) (rs1 : BitVec 5) : Statement (.lwait s rd rs1) := fun _ _ h => .inr (by cases h; rfl)
theorem cycb (s : Bool) (rs1 : BitVec 5) (set : BitVec 6) (rel : Bool) : Statement (.cycb s rs1 set rel) := fun _ _ h => .inr (by cases h; rfl)
theorem cycres (s : Bool) (rs1 : BitVec 5) : Statement (.cycres s rs1) := fun _ _ h => .inr (by cases h; rfl)
theorem cyce (s : Bool) : Statement (.cyce s) := fun _ _ h => .inr (by cases h; rfl)
theorem cyct (s : Bool) (pred : Bool) (off : BitVec 12) : Statement (.cyct s pred off) := fun _ _ h => .inr (by cases h; rfl)
theorem sysrd (s : Bool) (rd : BitVec 5) (sel : BitVec 12) : Statement (.sysrd s rd sel) := fun _ _ h => .inr (by cases h; rfl)
theorem syswr (s : Bool) (rs1 : BitVec 5) (sel : BitVec 12) : Statement (.syswr s rs1 sel) := fun _ _ h => .inr (by cases h; rfl)
theorem trap (s : Bool) (rs1 : BitVec 5) (code : BitVec 12) : Statement (.trap s rs1 code) := fun _ _ h => .inr (by cases h; rfl)
theorem eret (s : Bool) (mode : BitVec 2) : Statement (.eret s mode) := fun _ _ h => .inr (by cases h; rfl)
theorem brk (s : Bool) (n : BitVec 8) : Statement (.brk s n) := fun _ _ h => .inr (by cases h; rfl)
theorem wdog (s : Bool) (rd : BitVec 5) (rs1 : BitVec 5) : Statement (.wdog s rd rs1) := fun _ _ h => .inr (by cases h; rfl)
theorem pwrhint (s : Bool) (c : BitVec 8) : Statement (.pwrhint s c) := fun _ _ h => .inr (by cases h; rfl)
theorem vmov (s : Bool) (d : BitVec 6) (a : BitVec 6) (k : BitVec 3) (z : Bool) : Statement (.vmov s d a k z) := fun _ _ h => .inr (by cases h; rfl)
theorem vadd (s : Bool) (d : BitVec 6) (a : BitVec 6) (b : BitVec 6) (k : BitVec 3) (z : Bool) : Statement (.vadd s d a b k z) := fun _ _ h => .inr (by cases h; rfl)
theorem vsub (s : Bool) (d : BitVec 6) (a : BitVec 6) (b : BitVec 6) (k : BitVec 3) (z : Bool) : Statement (.vsub s d a b k z) := fun _ _ h => .inr (by cases h; rfl)
theorem vmul (s : Bool) (d : BitVec 6) (a : BitVec 6) (b : BitVec 6) (k : BitVec 3) (z : Bool) : Statement (.vmul s d a b k z) := fun _ _ h => .inr (by cases h; rfl)
theorem vfma (s : Bool) (d : BitVec 6) (a : BitVec 6) (b : BitVec 6) (k : BitVec 3) (z : Bool) : Statement (.vfma s d a b k z) := fun _ _ h => .inr (by cases h; rfl)
theorem vfms (s : Bool) (d : BitVec 6) (a : BitVec 6) (b : BitVec 6) (k : BitVec 3) (z : Bool) : Statement (.vfms s d a b k z) := fun _ _ h => .inr (by cases h; rfl)
theorem vmax (s : Bool) (d : BitVec 6) (a : BitVec 6) (b : BitVec 6) (k : BitVec 3) (z : Bool) : Statement (.vmax s d a b k z) := fun _ _ h => .inr (by cases h; rfl)
theorem vmin (s : Bool) (d : BitVec 6) (a : BitVec 6) (b : BitVec 6) (k : BitVec 3) (z : Bool) : Statement (.vmin s d a b k z) := fun _ _ h => .inr (by cases h; rfl)
theorem vand (s : Bool) (d : BitVec 6) (a : BitVec 6) (b : BitVec 6) (k : BitVec 3) (z : Bool) : Statement (.vand s d a b k z) := fun _ _ h => .inr (by cases h; rfl)
theorem vor (s : Bool) (d : BitVec 6) (a : BitVec 6) (b : BitVec 6) (k : BitVec 3) (z : Bool) : Statement (.vor s d a b k z) := fun _ _ h => .inr (by cases h; rfl)
theorem vxor (s : Bool) (d : BitVec 6) (a : BitVec 6) (b : BitVec 6) (k : BitVec 3) (z : Bool) : Statement (.vxor s d a b k z) := fun _ _ h => .inr (by cases h; rfl)
theorem vandn (s : Bool) (d : BitVec 6) (a : BitVec 6) (b : BitVec 6) (k : BitVec 3) (z : Bool) : Statement (.vandn s d a b k z) := fun _ _ h => .inr (by cases h; rfl)
theorem vsll (s : Bool) (d : BitVec 6) (a : BitVec 6) (b : BitVec 6) (k : BitVec 3) (z : Bool) : Statement (.vsll s d a b k z) := fun _ _ h => .inr (by cases h; rfl)
theorem vsrl (s : Bool) (d : BitVec 6) (a : BitVec 6) (b : BitVec 6) (k : BitVec 3) (z : Bool) : Statement (.vsrl s d a b k z) := fun _ _ h => .inr (by cases h; rfl)
theorem vsra (s : Bool) (d : BitVec 6) (a : BitVec 6) (b : BitVec 6) (k : BitVec 3) (z : Bool) : Statement (.vsra s d a b k z) := fun _ _ h => .inr (by cases h; rfl)
theorem vabs (s : Bool) (d : BitVec 6) (a : BitVec 6) (k : BitVec 3) (z : Bool) : Statement (.vabs s d a k z) := fun _ _ h => .inr (by cases h; rfl)
theorem vneg (s : Bool) (d : BitVec 6) (a : BitVec 6) (k : BitVec 3) (z : Bool) : Statement (.vneg s d a k z) := fun _ _ h => .inr (by cases h; rfl)
theorem vmulh (s : Bool) (d : BitVec 6) (a : BitVec 6) (b : BitVec 6) (k : BitVec 3) (z : Bool) : Statement (.vmulh s d a b k z) := fun _ _ h => .inr (by cases h; rfl)
theorem vcmpeq (s : Bool) (d : BitVec 6) (a : BitVec 6) (b : BitVec 6) (k : BitVec 3) (z : Bool) : Statement (.vcmpeq s d a b k z) := fun _ _ h => .inr (by cases h; rfl)
theorem vcmpne (s : Bool) (d : BitVec 6) (a : BitVec 6) (b : BitVec 6) (k : BitVec 3) (z : Bool) : Statement (.vcmpne s d a b k z) := fun _ _ h => .inr (by cases h; rfl)
theorem vcmplt (s : Bool) (d : BitVec 6) (a : BitVec 6) (b : BitVec 6) (k : BitVec 3) (z : Bool) : Statement (.vcmplt s d a b k z) := fun _ _ h => .inr (by cases h; rfl)
theorem vcmple (s : Bool) (d : BitVec 6) (a : BitVec 6) (b : BitVec 6) (k : BitVec 3) (z : Bool) : Statement (.vcmple s d a b k z) := fun _ _ h => .inr (by cases h; rfl)
theorem kand (s : Bool) (d : BitVec 6) (a : BitVec 6) (b : BitVec 6) (k : BitVec 3) (z : Bool) : Statement (.kand s d a b k z) := fun _ _ h => .inr (by cases h; rfl)
theorem kor (s : Bool) (d : BitVec 6) (a : BitVec 6) (b : BitVec 6) (k : BitVec 3) (z : Bool) : Statement (.kor s d a b k z) := fun _ _ h => .inr (by cases h; rfl)
theorem kxor (s : Bool) (d : BitVec 6) (a : BitVec 6) (b : BitVec 6) (k : BitVec 3) (z : Bool) : Statement (.kxor s d a b k z) := fun _ _ h => .inr (by cases h; rfl)
theorem kandn (s : Bool) (d : BitVec 6) (a : BitVec 6) (b : BitVec 6) (k : BitVec 3) (z : Bool) : Statement (.kandn s d a b k z) := fun _ _ h => .inr (by cases h; rfl)
theorem vwhile (s : Bool) (d : BitVec 6) (a : BitVec 6) (b : BitVec 6) (esize : BitVec 3) : Statement (.vwhile s d a b esize) := fun _ _ h => .inr (by cases h; rfl)
theorem vaddi (s : Bool) (d : BitVec 6) (a : BitVec 6) (imm : BitVec 8) (k : BitVec 2) : Statement (.vaddi s d a imm k) := fun _ _ h => .inr (by cases h; rfl)
theorem vmovi (s : Bool) (d : BitVec 6) (imm : BitVec 8) (k : BitVec 2) : Statement (.vmovi s d imm k) := fun _ _ h => .inr (by cases h; rfl)
theorem vslli (s : Bool) (d : BitVec 6) (a : BitVec 6) (imm : BitVec 8) (k : BitVec 2) : Statement (.vslli s d a imm k) := fun _ _ h => .inr (by cases h; rfl)
theorem vsrli (s : Bool) (d : BitVec 6) (a : BitVec 6) (imm : BitVec 8) (k : BitVec 2) : Statement (.vsrli s d a imm k) := fun _ _ h => .inr (by cases h; rfl)
theorem vsrai (s : Bool) (d : BitVec 6) (a : BitVec 6) (imm : BitVec 8) (k : BitVec 2) : Statement (.vsrai s d a imm k) := fun _ _ h => .inr (by cases h; rfl)
theorem vrcpe (s : Bool) (d : BitVec 6) (a : BitVec 6) (k : BitVec 3) (z : Bool) : Statement (.vrcpe s d a k z) := fun _ _ h => .inr (by cases h; rfl)
theorem vrsqe (s : Bool) (d : BitVec 6) (a : BitVec 6) (k : BitVec 3) (z : Bool) : Statement (.vrsqe s d a k z) := fun _ _ h => .inr (by cases h; rfl)
theorem vsin (s : Bool) (d : BitVec 6) (a : BitVec 6) (k : BitVec 3) (z : Bool) : Statement (.vsin s d a k z) := fun _ _ h => .inr (by cases h; rfl)
theorem vcos (s : Bool) (d : BitVec 6) (a : BitVec 6) (k : BitVec 3) (z : Bool) : Statement (.vcos s d a k z) := fun _ _ h => .inr (by cases h; rfl)
theorem vexp2 (s : Bool) (d : BitVec 6) (a : BitVec 6) (k : BitVec 3) (z : Bool) : Statement (.vexp2 s d a k z) := fun _ _ h => .inr (by cases h; rfl)
theorem vlog2 (s : Bool) (d : BitVec 6) (a : BitVec 6) (k : BitVec 3) (z : Bool) : Statement (.vlog2 s d a k z) := fun _ _ h => .inr (by cases h; rfl)
theorem vsqrt (s : Bool) (d : BitVec 6) (a : BitVec 6) (k : BitVec 3) (z : Bool) : Statement (.vsqrt s d a k z) := fun _ _ h => .inr (by cases h; rfl)
theorem vrcps (s : Bool) (d : BitVec 6) (a : BitVec 6) (b : BitVec 6) (k : BitVec 3) (z : Bool) : Statement (.vrcps s d a b k z) := fun _ _ h => .inr (by cases h; rfl)
theorem vrsqs (s : Bool) (d : BitVec 6) (a : BitVec 6) (b : BitVec 6) (k : BitVec 3) (z : Bool) : Statement (.vrsqs s d a b k z) := fun _ _ h => .inr (by cases h; rfl)
theorem vdiv (s : Bool) (d : BitVec 6) (a : BitVec 6) (b : BitVec 6) (k : BitVec 3) (z : Bool) : Statement (.vdiv s d a b k z) := fun _ _ h => .inr (by cases h; rfl)
theorem vcvt (s : Bool) (d : BitVec 6) (a : BitVec 6) (fmt : BitVec 6) (k : BitVec 3) (z : Bool) : Statement (.vcvt s d a fmt k z) := fun _ _ h => .inr (by cases h; rfl)
theorem vtag (s : Bool) (d : BitVec 6) (a : BitVec 6) (fmt : BitVec 6) : Statement (.vtag s d a fmt) := fun _ _ h => .inr (by cases h; rfl)
theorem vrq (s : Bool) (d : BitVec 6) (a : BitVec 6) (tgt : BitVec 3) (m : BitVec 3) (k : BitVec 3) (z : Bool) : Statement (.vrq s d a tgt m k z) := fun _ _ h => .inr (by cases h; rfl)
theorem vperm (s : Bool) (d : BitVec 6) (a : BitVec 6) (b : BitVec 6) (k : BitVec 3) (z : Bool) : Statement (.vperm s d a b k z) := fun _ _ h => .inr (by cases h; rfl)
theorem vbcast (s : Bool) (d : BitVec 6) (a : BitVec 6) (lane : BitVec 6) (k : BitVec 3) (z : Bool) : Statement (.vbcast s d a lane k z) := fun _ _ h => .inr (by cases h; rfl)
theorem vslide (s : Bool) (d : BitVec 6) (a : BitVec 6) (imm : BitVec 8) (k : BitVec 2) : Statement (.vslide s d a imm k) := fun _ _ h => .inr (by cases h; rfl)
theorem vext (s : Bool) (d : BitVec 6) (a : BitVec 6) (lane : BitVec 6) (k : BitVec 3) (z : Bool) : Statement (.vext s d a lane k z) := fun _ _ h => .inr (by cases h; rfl)
theorem vins (s : Bool) (d : BitVec 6) (a : BitVec 6) (lane : BitVec 6) (k : BitVec 3) (z : Bool) : Statement (.vins s d a lane k z) := fun _ _ h => .inr (by cases h; rfl)
theorem vzip2 (s : Bool) (d : BitVec 6) (a : BitVec 6) (lane : BitVec 6) (k : BitVec 3) (z : Bool) : Statement (.vzip2 s d a lane k z) := fun _ _ h => .inr (by cases h; rfl)
theorem vzip3 (s : Bool) (d : BitVec 6) (a : BitVec 6) (lane : BitVec 6) (k : BitVec 3) (z : Bool) : Statement (.vzip3 s d a lane k z) := fun _ _ h => .inr (by cases h; rfl)
theorem vzip4 (s : Bool) (d : BitVec 6) (a : BitVec 6) (lane : BitVec 6) (k : BitVec 3) (z : Bool) : Statement (.vzip4 s d a lane k z) := fun _ _ h => .inr (by cases h; rfl)
theorem vunzip2 (s : Bool) (d : BitVec 6) (a : BitVec 6) (lane : BitVec 6) (k : BitVec 3) (z : Bool) : Statement (.vunzip2 s d a lane k z) := fun _ _ h => .inr (by cases h; rfl)
theorem vunzip3 (s : Bool) (d : BitVec 6) (a : BitVec 6) (lane : BitVec 6) (k : BitVec 3) (z : Bool) : Statement (.vunzip3 s d a lane k z) := fun _ _ h => .inr (by cases h; rfl)
theorem vunzip4 (s : Bool) (d : BitVec 6) (a : BitVec 6) (lane : BitVec 6) (k : BitVec 3) (z : Bool) : Statement (.vunzip4 s d a lane k z) := fun _ _ h => .inr (by cases h; rfl)
theorem vrsum (s : Bool) (d : BitVec 6) (a : BitVec 6) (k : BitVec 3) : Statement (.vrsum s d a k) := fun _ _ h => .inr (by cases h; rfl)
theorem vrmax (s : Bool) (d : BitVec 6) (a : BitVec 6) (k : BitVec 3) : Statement (.vrmax s d a k) := fun _ _ h => .inr (by cases h; rfl)
theorem vrmin (s : Bool) (d : BitVec 6) (a : BitVec 6) (k : BitVec 3) : Statement (.vrmin s d a k) := fun _ _ h => .inr (by cases h; rfl)
theorem vrand (s : Bool) (d : BitVec 6) (a : BitVec 6) (k : BitVec 3) : Statement (.vrand s d a k) := fun _ _ h => .inr (by cases h; rfl)
theorem vror (s : Bool) (d : BitVec 6) (a : BitVec 6) (k : BitVec 3) : Statement (.vror s d a k) := fun _ _ h => .inr (by cases h; rfl)
theorem vrxor (s : Bool) (d : BitVec 6) (a : BitVec 6) (k : BitVec 3) : Statement (.vrxor s d a k) := fun _ _ h => .inr (by cases h; rfl)
theorem vld (s : Bool) (d : BitVec 6) (b : BitVec 5) (fmt : BitVec 4) (off : BitVec 5) (k : BitVec 2) : Statement (.vld s d b fmt off k) := fun _ _ h => .inr (by cases h; rfl)
theorem vst (s : Bool) (d : BitVec 6) (b : BitVec 5) (fmt : BitVec 4) (off : BitVec 5) (k : BitVec 2) : Statement (.vst s d b fmt off k) := fun _ _ h => .inr (by cases h; rfl)
theorem vgather (s : Bool) (d : BitVec 6) (b : BitVec 5) (fmt : BitVec 4) (vx : BitVec 5) (k : BitVec 2) : Statement (.vgather s d b fmt vx k) := fun _ _ h => .inr (by cases h; rfl)
theorem vscatter (s : Bool) (d : BitVec 6) (b : BitVec 5) (fmt : BitVec 4) (vx : BitVec 5) (k : BitVec 2) : Statement (.vscatter s d b fmt vx k) := fun _ _ h => .inr (by cases h; rfl)
theorem vflrd (s : Bool) (d : BitVec 6) : Statement (.vflrd s d) := fun _ _ h => .inr (by cases h; rfl)
theorem vflclr (s : Bool) (a : BitVec 6) : Statement (.vflclr s a) := fun _ _ h => .inr (by cases h; rfl)
theorem vmov16 (s : Bool) (d : BitVec 5) (vs : BitVec 5) : Statement (.vmov16 s d vs) := fun _ _ h => .inl (by cases h; rfl)
theorem vadd16 (s : Bool) (d : BitVec 5) (vs : BitVec 5) : Statement (.vadd16 s d vs) := fun _ _ h => .inl (by cases h; rfl)
theorem vsub16 (s : Bool) (d : BitVec 5) (vs : BitVec 5) : Statement (.vsub16 s d vs) := fun _ _ h => .inl (by cases h; rfl)
theorem vmul16 (s : Bool) (d : BitVec 5) (vs : BitVec 5) : Statement (.vmul16 s d vs) := fun _ _ h => .inl (by cases h; rfl)
theorem vfmal (s : Bool) (d : BitVec 5) (vs : BitVec 5) : Statement (.vfmal s d vs) := fun _ _ h => .inl (by cases h; rfl)
theorem vmax16 (s : Bool) (d : BitVec 5) (vs : BitVec 5) : Statement (.vmax16 s d vs) := fun _ _ h => .inl (by cases h; rfl)
theorem vmin16 (s : Bool) (d : BitVec 5) (vs : BitVec 5) : Statement (.vmin16 s d vs) := fun _ _ h => .inl (by cases h; rfl)
theorem vand16 (s : Bool) (d : BitVec 5) (vs : BitVec 5) : Statement (.vand16 s d vs) := fun _ _ h => .inl (by cases h; rfl)
theorem vor16 (s : Bool) (d : BitVec 5) (vs : BitVec 5) : Statement (.vor16 s d vs) := fun _ _ h => .inl (by cases h; rfl)
theorem vxor16 (s : Bool) (d : BitVec 5) (vs : BitVec 5) : Statement (.vxor16 s d vs) := fun _ _ h => .inl (by cases h; rfl)
theorem vneg16 (s : Bool) (d : BitVec 5) (vs : BitVec 5) : Statement (.vneg16 s d vs) := fun _ _ h => .inl (by cases h; rfl)
theorem vabs16 (s : Bool) (d : BitVec 5) (vs : BitVec 5) : Statement (.vabs16 s d vs) := fun _ _ h => .inl (by cases h; rfl)
theorem vsll16 (s : Bool) (d : BitVec 5) (vs : BitVec 5) : Statement (.vsll16 s d vs) := fun _ _ h => .inl (by cases h; rfl)
theorem vsrl16 (s : Bool) (d : BitVec 5) (vs : BitVec 5) : Statement (.vsrl16 s d vs) := fun _ _ h => .inl (by cases h; rfl)
theorem vqpop (s : Bool) (d : BitVec 5) (n : BitVec 5) : Statement (.vqpop s d n) := fun _ _ h => .inl (by cases h; rfl)
theorem vqpush (s : Bool) (d : BitVec 5) (n : BitVec 5) : Statement (.vqpush s d n) := fun _ _ h => .inl (by cases h; rfl)
theorem waitall : Statement .waitall := fun _ _ h => .inl (by cases h; rfl)
theorem longResultReturn (c : CtxId) (n : Nat) : Statement (.longResultReturn c n) := fun _ _ h => nomatch h
theorem storeConfirmation (c : CtxId) : Statement (.storeConfirmation c) := fun _ _ h => nomatch h
theorem waitSatisfied (c : CtxId) : Statement (.waitSatisfied c) := fun _ _ h => nomatch h
theorem handlerDispatch (k : CoreId) : Statement (.handlerDispatch k) := fun _ _ h => nomatch h
theorem handlerWatchdogExpiry (k : CoreId) : Statement (.handlerWatchdogExpiry k) := fun _ _ h => nomatch h
theorem watchdog (c : CtxId) : Statement (.watchdog c) := fun _ _ h => nomatch h
theorem quantumEnd (c : CtxId) : Statement (.quantumEnd c) := fun _ _ h => nomatch h
theorem contextLost (c : CtxId) : Statement (.contextLost c) := fun _ _ h => nomatch h
theorem gangStop (r : ImageReq) : Statement (.gangStop r) := fun _ _ h => nomatch h
theorem checkpoint (r : ImageReq) : Statement (.checkpoint r) := fun _ _ h => nomatch h
theorem gangStopComplete (g : Nat) : Statement (.gangStopComplete g) := fun _ _ h => nomatch h
theorem gangResume (r : ImageReq) : Statement (.gangResume r) := fun _ _ h => nomatch h
theorem remoteReissue (c : CtxId) : Statement (.remoteReissue c) := fun _ _ h => nomatch h
theorem mxJobStart (cl : ClusterId) (j : Nat) : Statement (.mxJobStart cl j) := fun _ _ h => nomatch h
theorem mxJobComplete (cl : ClusterId) (j : Nat) : Statement (.mxJobComplete cl j) := fun _ _ h => nomatch h
theorem copyEntryPass (cl : ClusterId) (g : Nat) (n : Nat) : Statement (.copyEntryPass cl g n) := fun _ _ h => nomatch h
theorem copyIn (cl : ClusterId) (j : Nat) : Statement (.copyIn cl j) := fun _ _ h => nomatch h
theorem copyOut (cl : ClusterId) (j : Nat) : Statement (.copyOut cl j) := fun _ _ h => nomatch h
theorem multicast (cl : ClusterId) (j : Nat) : Statement (.multicast cl j) := fun _ _ h => nomatch h
theorem decode (cl : ClusterId) (j : Nat) : Statement (.decode cl j) := fun _ _ h => nomatch h
theorem wbload (cl : ClusterId) (j : Nat) : Statement (.wbload cl j) := fun _ _ h => nomatch h
theorem copyEntryComplete (cl : ClusterId) (j : Nat) : Statement (.copyEntryComplete cl j) := fun _ _ h => nomatch h
theorem decoderFrame (m : Nat) (dec : Nat) : Statement (.decoderFrame m dec) := fun _ _ h => nomatch h
theorem rradd (m kt : Nat) (cmd : Nat) : Statement (.rradd m kt cmd) := fun _ _ h => nomatch h
theorem axpy (m kt : Nat) (cmd : Nat) : Statement (.axpy m kt cmd) := fun _ _ h => nomatch h
theorem fade (m kt : Nat) (cmd : Nat) : Statement (.fade m kt cmd) := fun _ _ h => nomatch h
theorem kettleCopy (m kt : Nat) (cmd : Nat) : Statement (.kettleCopy m kt cmd) := fun _ _ h => nomatch h
theorem kettleFill (m kt : Nat) (cmd : Nat) : Statement (.kettleFill m kt cmd) := fun _ _ h => nomatch h
theorem scale (m kt : Nat) (cmd : Nat) : Statement (.scale m kt cmd) := fun _ _ h => nomatch h
theorem kettlePartEnd (m kt : Nat) (cmd : Nat) : Statement (.kettlePartEnd m kt cmd) := fun _ _ h => nomatch h
theorem receiveAreaContribution (m kt : Nat) (msg : Nat) : Statement (.receiveAreaContribution m kt msg) := fun _ _ h => nomatch h
theorem remoteAddMessage (msg : Nat) : Statement (.remoteAddMessage msg) := fun _ _ h => nomatch h
theorem putsTransfer (cl : ClusterId) (j : Nat) : Statement (.putsTransfer cl j) := fun _ _ h => nomatch h
theorem getTransfer (cl : ClusterId) (j : Nat) : Statement (.getTransfer cl j) := fun _ _ h => nomatch h
theorem raddTransfer (cl : ClusterId) (j : Nat) : Statement (.raddTransfer cl j) := fun _ _ h => nomatch h
theorem putsMessage (msg : Nat) : Statement (.putsMessage msg) := fun _ _ h => nomatch h
theorem oneSidedRetry (msg : Nat) : Statement (.oneSidedRetry msg) := fun _ _ h => nomatch h
theorem oneSidedComplete (cl : ClusterId) (j : Nat) : Statement (.oneSidedComplete cl j) := fun _ _ h => nomatch h
theorem remoteAccessArrival (r : RemoteReq) : Statement (.remoteAccessArrival r) := fun _ _ h => nomatch h
theorem subByteMessage (r : RemoteReq) : Statement (.subByteMessage r) := fun _ _ h => nomatch h
theorem stationTranslation (m : Nat) (pid : BitVec 8) (va : DWord) (acc : Access) : Statement (.stationTranslation m pid va acc) := fun _ _ h => nomatch h
theorem invalidation (m : Nat) (req : DWord) : Statement (.invalidation m req) := fun _ _ h => nomatch h
theorem streamInputFill (c : CtxId) (p : BitVec 2) : Statement (.streamInputFill c p) := fun _ _ h => nomatch h
theorem streamOutputDrain (c : CtxId) (p : BitVec 2) : Statement (.streamOutputDrain c p) := fun _ _ h => nomatch h
theorem launchDependenceMet (l : Nat) : Statement (.launchDependenceMet l) := fun _ _ h => nomatch h
theorem blockRangeRequest (node : DispNode) (l : Nat) : Statement (.blockRangeRequest node l) := fun _ _ h => nomatch h
theorem gangStart (node : DispNode) (l : Nat) (x y : Nat) : Statement (.gangStart node l x y) := fun _ _ h => nomatch h
theorem segmentTake (c : CtxId) : Statement (.segmentTake c) := fun _ _ h => nomatch h
theorem conditionalNode (g : Nat) (n : Nat) : Statement (.conditionalNode g n) := fun _ _ h => nomatch h
theorem whileNode (g : Nat) (n : Nat) : Statement (.whileNode g n) := fun _ _ h => nomatch h
theorem launchComplete (l : Nat) : Statement (.launchComplete l) := fun _ _ h => nomatch h
theorem cancelAtDispatcher (node : DispNode) (l : Nat) : Statement (.cancelAtDispatcher node l) := fun _ _ h => nomatch h
theorem conditionOutcomeArrival (cl : ClusterId) (g : Nat) (word : Nat) : Statement (.conditionOutcomeArrival cl g word) := fun _ _ h => nomatch h
theorem collectiveResolve (l : Nat) : Statement (.collectiveResolve l) := fun _ _ h => nomatch h
theorem markerToken (k : CoreId) : Statement (.markerToken k) := fun _ _ h => nomatch h
theorem exchangeDelivery (g : Nat) (n : Nat) : Statement (.exchangeDelivery g n) := fun _ _ h => nomatch h
theorem energyWindowEnd (m : Nat) (q : BitVec 2) (e : Nat) : Statement (.energyWindowEnd m q e) := fun _ _ h => nomatch h
theorem thermalLimit (m : Nat) (q : BitVec 2) (budget : BitVec 32) : Statement (.thermalLimit m q budget) := fun _ _ h => nomatch h
theorem powerKill (m : Nat) (q : BitVec 2) : Statement (.powerKill m q) := fun _ _ h => nomatch h
theorem marginReplan (m : Nat) (q : BitVec 2) : Statement (.marginReplan m q) := fun _ _ h => nomatch h
theorem hardwareCheckFailure (u : HwUnit) (retryOk : Bool) : Statement (.hardwareCheckFailure u retryOk) := fun _ _ h => nomatch h
theorem spareReplacement (cl : ClusterId) : Statement (.spareReplacement cl) := fun _ _ h => nomatch h
theorem levanterReplay (m : Nat) (port : BitVec 4) : Statement (.levanterReplay m port) := fun _ _ h => nomatch h
theorem levanterPortFailure (m : Nat) (port : BitVec 4) : Statement (.levanterPortFailure m port) := fun _ _ h => nomatch h
theorem powerStateEntry (m : Nat) : Statement (.powerStateEntry m) := fun _ _ h => nomatch h
theorem wakeEvent (m : Nat) (req : Nat) : Statement (.wakeEvent m req) := fun _ _ h => nomatch h
theorem powerExitComplete (m : Nat) : Statement (.powerExitComplete m) := fun _ _ h => nomatch h
theorem hostWindowAccess (m : Nat) (off : Nat) (size : Nat) (wdata : Option Nat) : Statement (.hostWindowAccess m off size wdata) := fun _ _ h => nomatch h
theorem hostDoorbell (m : Nat) (n : Nat) : Statement (.hostDoorbell m n) := fun _ _ h => nomatch h
theorem functionLevelReset (m : Nat) : Statement (.functionLevelReset m) := fun _ _ h => nomatch h
theorem identityRequest (m : Nat) (r : MgmtReq) : Statement (.identityRequest m r) := fun _ _ h => nomatch h
theorem attestation (m : Nat) (r : MgmtReq) (nonce : BitVec 256) : Statement (.attestation m r nonce) := fun _ _ h => nomatch h
theorem firmwareDelivery (m : Nat) (r : MgmtReq) (img : FwImage) : Statement (.firmwareDelivery m r img) := fun _ _ h => nomatch h
theorem telemetry (m : Nat) (r : MgmtReq) : Statement (.telemetry m r) := fun _ _ h => nomatch h
theorem managementReset (m : Nat) (r : MgmtReq) : Statement (.managementReset m r) := fun _ _ h => nomatch h
theorem keyEnrolment (m : Nat) (r : MgmtReq) (key : BitVec 512) : Statement (.keyEnrolment m r key) := fun _ _ h => nomatch h
theorem testMode (m : Nat) (r : MgmtReq) (on : Bool) : Statement (.testMode m r on) := fun _ _ h => nomatch h
theorem moduleReset (m : Nat) (img : FwImage) : Statement (.moduleReset m img) := fun _ _ h => nomatch h
theorem slotctlResume (c : CtxId) : Statement (.slotctlResume c) := fun _ _ h => nomatch h
theorem slotctlEnd (c : CtxId) : Statement (.slotctlEnd c) := fun _ _ h => nomatch h
theorem tvecWrite (k : CoreId) (va : DWord) : Statement (.tvecWrite k va) := fun _ _ h => nomatch h
theorem streamReserve (k : CoreId) (req : DWord) : Statement (.streamReserve k req) := fun _ _ h => nomatch h
theorem streamRelease (k : CoreId) (req : DWord) : Statement (.streamRelease k req) := fun _ _ h => nomatch h
theorem wsetCreate (k : CoreId) (w : WsetCmd) : Statement (.wsetCreate k w) := fun _ _ h => nomatch h
theorem wsetDelete (k : CoreId) (w : WsetCmd) : Statement (.wsetDelete k w) := fun _ _ h => nomatch h
theorem systemWindowWrite (r : SysReg) (v : DWord) : Statement (.systemWindowWrite r v) := fun _ _ h => nomatch h
theorem operatingMode (m : Nat) (mode : OpMode) : Statement (.operatingMode m mode) := fun _ _ h => nomatch h

end Sys2Proof.Laws.Encodes
end

