-- ==== Sys2Proof/Laws/Rounding.lean ====
section
/-! SUPPORT. Rounding: the machine's rounding of a magnitude is the one nearest pattern, ties to even, with the flags the
independent reading of Safety gives it, and its elements read as that reading's values. -/

namespace Sys2Proof.Machine

/-- A magnitude names a real value: exactly, or by its lower bound in units where `more`. -/
def Mag.names (x : Mag) (v : ℝ) : Prop :=
  if x.more then (x.m : ℝ) * 2 ^ x.e < v ∧ v < (x.m + 1) * 2 ^ x.e else v = x.m * 2 ^ x.e

/-- A magnitude rounded to units of 2^`q`: within half a unit, at half a unit even, and inexact where it differs. -/
theorem roundUnits_spec (x : Mag) (q : Int) (v : ℝ) (hv : x.names v) (hq : x.more = true → x.e < q) :
    let r := roundUnits x q false
    |v - r.1 * 2 ^ q| ≤ 2 ^ q / 2 ∧ (|v - r.1 * 2 ^ q| = 2 ^ q / 2 → r.1 % 2 = 0) ∧ (r.2 = false ↔ v = r.1 * 2 ^ q) := by
  have hu : (0 : ℝ) < 2 ^ x.e := by positivity
  have hw : (0 : ℝ) < 2 ^ q := by positivity
  by_cases h : q - x.e ≤ 0
  · have hm : x.more = false := by
      cases hm : x.more with
      | false => rfl
      | true => have := hq hm; omega
    have e : x.e = q + ((q - x.e).natAbs : ℕ) := by omega
    have hv' : v = ((x.m <<< (q - x.e).natAbs : ℕ) : ℝ) * 2 ^ q := by
      have hz : (2 : ℝ) ^ x.e = 2 ^ q * 2 ^ (q - x.e).natAbs := by rw [← zpow_natCast, ← zpow_add₀ (by norm_num), ← e]
      have : v = x.m * 2 ^ x.e := by simpa [Mag.names, hm] using hv
      rw [this, hz, Nat.shiftLeft_eq]
      push_cast
      ring
    have hr : roundUnits x q false = (x.m <<< (q - x.e).natAbs, x.more) := by simp [roundUnits, h]
    simp only [hr]
    rw [← hv']
    refine ⟨by rw [sub_self, abs_zero]; positivity, fun h0 => ?_, by simp [hm]⟩
    rw [sub_self, abs_zero] at h0
    linarith
  · obtain ⟨n, hn⟩ : ∃ n : ℕ, (q - x.e).natAbs = n + 1 := ⟨(q - x.e).natAbs - 1, by omega⟩
    have hz : (2 : ℝ) ^ q = 2 ^ x.e * (2 * 2 ^ n) := by
      have e : q = x.e + ((n + 1 : ℕ) : ℤ) := by omega
      rw [e, zpow_add₀ (by norm_num), zpow_natCast]; ring
    obtain ⟨d, hd, h0, h1, hdm⟩ : ∃ d : ℝ, v = 2 ^ x.e * (x.m + d) ∧ 0 ≤ d ∧ d < 1 ∧ (d = 0 ↔ x.more = false) := by
      refine ⟨v / 2 ^ x.e - x.m, by field_simp; ring, ?_⟩
      cases hm : x.more with
      | false =>
        have : v = x.m * 2 ^ x.e := by simpa [Mag.names, hm] using hv
        simp [this, hu.ne']
      | true =>
        have hv2 : (x.m : ℝ) * 2 ^ x.e < v ∧ v < (x.m + 1) * 2 ^ x.e := by simpa [Mag.names, hm] using hv
        have a : (x.m : ℝ) < v / 2 ^ x.e := by rw [lt_div_iff₀ hu]; exact hv2.1
        have b : v / 2 ^ x.e < x.m + 1 := by rw [div_lt_iff₀ hu]; exact hv2.2
        exact ⟨by linarith, by linarith, fun h => by linarith, fun h => by simp at h⟩
    have hN : 0 < 2 ^ n := by positivity
    obtain ⟨hi, lo, hlo, hm⟩ : ∃ hi lo : ℕ, lo < 2 * 2 ^ n ∧ x.m = 2 * 2 ^ n * hi + lo :=
      ⟨x.m / (2 * 2 ^ n), x.m % (2 * 2 ^ n), Nat.mod_lt _ (by positivity), (Nat.div_add_mod _ _).symm⟩
    have e1 : x.m >>> (n + 1) = hi := by
      rw [Nat.shiftRight_eq_div_pow, pow_succ, mul_comm (2 ^ n) 2, hm, Nat.mul_add_div (by positivity), Nat.div_eq_of_lt hlo, add_zero]
    have e2 : x.m % 2 ^ (n + 1) = lo := by
      rw [pow_succ, mul_comm (2 ^ n) 2, hm, Nat.mul_add_mod, Nat.mod_eq_of_lt hlo]
    have hmr : (x.m : ℝ) = 2 * 2 ^ n * hi + lo := by rw [hm]; push_cast; ring
    have key : ∀ r : ℕ, v - r * 2 ^ q = 2 ^ x.e * (lo + d - (r - hi) * (2 * 2 ^ n)) := by
      intro r; rw [hd, hz, hmr]; ring
    have hlor : (lo : ℝ) + 1 ≤ 2 * 2 ^ n := by exact_mod_cast hlo
    have hh : (2 : ℝ) ^ q / 2 = 2 ^ x.e * 2 ^ n := by rw [hz]; ring
    have hNr : (1 : ℝ) ≤ 2 ^ n := by exact_mod_cast hN
    simp only [roundUnits, h, if_false, hn, e1, e2, Nat.add_sub_cancel, Bool.or_false]
    rw [hh]
    by_cases hup : 2 ^ n < lo ∨ (lo = 2 ^ n ∧ (x.more = true ∨ hi % 2 = 1))
    · rw [if_pos (by simpa using hup), key]
      have hlo2 : (2 : ℝ) ^ n ≤ lo := by
        rcases hup with g | g
        · exact_mod_cast g.le
        · exact_mod_cast g.1.ge
      have ea : |(2 : ℝ) ^ x.e * (lo + d - (((hi + 1 : ℕ) : ℝ) - hi) * (2 * 2 ^ n))| = 2 ^ x.e * (2 * 2 ^ n - lo - d) := by
        rw [abs_of_nonpos]
        · push_cast; ring
        · push_cast; apply mul_nonpos_of_nonneg_of_nonpos hu.le; linarith
      rw [ea]
      refine ⟨mul_le_mul_of_nonneg_left (by linarith) hu.le, fun g => ?_, ?_⟩
      · have g := mul_left_cancel₀ hu.ne' g
        have d0 : d = 0 := by linarith
        have l0 : (lo : ℝ) = 2 ^ n := by linarith
        have l1 : lo = 2 ^ n := by exact_mod_cast l0
        have m0 := hdm.1 d0
        rcases hup with g | g
        · omega
        · simp [m0] at g; omega
      · constructor
        · intro g; simp at g
          exfalso; have : lo = 0 := g.1; have : (lo : ℝ) = 0 := by exact_mod_cast this
          linarith
        · intro g
          have := key (hi + 1)
          rw [← g, sub_self] at this
          have := (mul_eq_zero.1 this.symm).resolve_left hu.ne'
          push_cast at this
          linarith
    · rw [if_neg (by simpa using hup), key]
      have ea : |(2 : ℝ) ^ x.e * (lo + d - ((hi : ℝ) - hi) * (2 * 2 ^ n))| = 2 ^ x.e * (lo + d) := by
        rw [abs_of_nonneg]
        · ring
        · have : (0 : ℝ) ≤ lo := by positivity
          apply mul_nonneg hu.le; linarith
      rw [ea]
      have hl : lo < 2 ^ n ∨ (lo = 2 ^ n ∧ x.more = false ∧ hi % 2 = 0) := by
        rcases lt_trichotomy lo (2 ^ n) with g | g | g
        · exact .inl g
        · right; refine ⟨g, ?_, ?_⟩
          · cases hm : x.more <;> simp_all
          · by_contra c; exact hup (.inr ⟨g, .inr (by omega)⟩)
        · exact absurd (.inl g) hup
      refine ⟨mul_le_mul_of_nonneg_left ?_ hu.le, fun g => ?_, ?_⟩
      · rcases hl with g | ⟨g, m0, _⟩
        · have : (lo : ℝ) + 1 ≤ 2 ^ n := by exact_mod_cast g
          linarith
        · have := hdm.2 m0; rw [g, this]; push_cast; linarith
      · have g := mul_left_cancel₀ hu.ne' g
        rcases hl with k | k
        · have : (lo : ℝ) + 1 ≤ 2 ^ n := by exact_mod_cast k
          linarith
        · exact k.2.2
      · constructor
        · intro g; simp at g
          have := hdm.2 g.2
          have k := key hi
          rw [this, g.1] at k; push_cast at k
          linarith [k]
        · intro g
          have := key hi
          rw [← g, sub_self] at this
          have := (mul_eq_zero.1 this.symm).resolve_left hu.ne'
          have p : (0 : ℝ) ≤ lo := by positivity
          have d0 : d = 0 := by linarith
          have l0 : (lo : ℝ) = 0 := by linarith
          have l1 : lo = 0 := by exact_mod_cast l0
          simp [l1, hdm.1 d0]


/-- The leading place of a magnitude: its value lies in the binade of that place. -/
theorem mag_binade (x : Mag) (v : ℝ) (hv : x.names v) (hm : x.m ≠ 0) :
    (2 : ℝ) ^ (x.e + bitLen x.m - 1) ≤ v ∧ v < 2 ^ (x.e + bitLen x.m) := by
  have hu : (0 : ℝ) < 2 ^ x.e := by positivity
  have hb : bitLen x.m = Nat.log2 x.m + 1 := by simp [bitLen, hm]
  have l1 : 2 ^ Nat.log2 x.m ≤ x.m := Nat.log2_self_le hm
  have l2 : x.m < 2 ^ (Nat.log2 x.m + 1) := Nat.lt_log2_self
  have l1r : (2 : ℝ) ^ Nat.log2 x.m ≤ x.m := by exact_mod_cast l1
  have l2r : (x.m : ℝ) + 1 ≤ 2 ^ (Nat.log2 x.m + 1) := by exact_mod_cast l2
  have ea : (2 : ℝ) ^ (x.e + bitLen x.m - 1) = 2 ^ x.e * 2 ^ Nat.log2 x.m := by
    rw [hb, ← zpow_natCast, ← zpow_add₀ (by norm_num)]; congr 1; push_cast; ring
  have eb : (2 : ℝ) ^ (x.e + bitLen x.m) = 2 ^ x.e * 2 ^ (Nat.log2 x.m + 1) := by
    rw [hb, ← zpow_natCast, ← zpow_add₀ (by norm_num)]
  rw [ea, eb]
  have a := mul_le_mul_of_nonneg_left l1r hu.le
  have b := mul_le_mul_of_nonneg_left l2r hu.le
  unfold Mag.names at hv
  split at hv
  · exact ⟨by linarith, by linarith⟩
  · rw [hv]; exact ⟨by linarith, by linarith⟩

/-- The value of a pattern by its sign and its magnitude field: a whole number of units of its exponent. -/
theorem ieeeVal_of (f : Ieee) (neg : Bool) (ex fr : ℕ) (h1 : ex < 2 ^ f.eb) (h2 : fr < 2 ^ f.fb) :
    let b := f.zero neg + (ex * 2 ^ f.fb + fr)
    b < 2 ^ (f.eb + f.fb + 1) ∧ ieeeExp f b = ex ∧ ieeeFrac f b = fr ∧ ieeeSign f b = neg := by
  have p : 0 < 2 ^ f.fb := by positivity
  have q : 0 < 2 ^ f.eb := by positivity
  have h3 : ex * 2 ^ f.fb + fr < 2 ^ (f.eb + f.fb) := by
    rw [pow_add]; nlinarith
  have e0 : 2 ^ (f.eb + f.fb) = 2 ^ f.fb * 2 ^ f.eb := by rw [pow_add, mul_comm]
  simp only [Ieee.zero, ieeeExp, ieeeFrac, ieeeSign]
  refine ⟨?_, ?_, ?_, ?_⟩
  · rw [pow_succ]; cases neg <;> simp <;> omega
  · cases neg
    · simp only [Bool.false_eq_true, if_false, zero_add]
      rw [mul_comm, Nat.mul_add_div p, Nat.div_eq_of_lt h2, add_zero, Nat.mod_eq_of_lt h1]
    · simp only [if_true, e0]
      rw [← add_assoc, mul_comm ex, ← mul_add, Nat.mul_add_div p, Nat.div_eq_of_lt h2, add_zero, Nat.add_mod_left, Nat.mod_eq_of_lt h1]
  · cases neg
    · simp only [Bool.false_eq_true, if_false, zero_add]
      rw [mul_comm, Nat.mul_add_mod, Nat.mod_eq_of_lt h2]
    · simp only [if_true, e0]
      rw [← add_assoc, mul_comm ex, ← mul_add, Nat.mul_add_mod, Nat.mod_eq_of_lt h2]
  · cases neg
    · simp only [Bool.false_eq_true, if_false, zero_add]
      rw [Nat.div_eq_of_lt h3]; simp
    · simp only [if_true]
      rw [Nat.add_div_left _ (by positivity), Nat.div_eq_of_lt h3]; simp


/-- Every finite value is a whole number of units of 2^`q`, or is less than 2^(`q` + fb), the least of the binades with such units; the subnormal
unit divides every value. -/
theorem ieeeVal_units (f : Ieee) (q : Int) (b : ℕ) :
    (∃ k : ℤ, (ieeeVal f b : ℝ) = k * 2 ^ q) ∨ (|(ieeeVal f b : ℝ)| < 2 ^ (q + f.fb) ∧ 1 - ieeeBias f - f.fb < q) := by
  obtain ⟨s, m, g, hs, hm, hg, he⟩ : ∃ (s : ℤ) (m : ℕ) (g : ℤ), (s = 1 ∨ s = -1) ∧ m < 2 ^ (f.fb + 1) ∧ 1 - ieeeBias f - f.fb ≤ g ∧
      (ieeeVal f b : ℝ) = s * m * 2 ^ g := by
    have hfr : ieeeFrac f b < 2 ^ f.fb := Nat.mod_lt _ (by positivity)
    refine ⟨if ieeeSign f b then -1 else 1, if ieeeExp f b = 0 then ieeeFrac f b else 2 ^ f.fb + ieeeFrac f b,
      if ieeeExp f b = 0 then 1 - ieeeBias f - f.fb else (ieeeExp f b : ℤ) - ieeeBias f - f.fb, ?_, ?_, ?_, ?_⟩
    · split <;> simp
    · rw [pow_succ]; split <;> omega
    · split <;> omega
    · unfold ieeeVal
      split <;> split <;> push_cast <;> ring
  rw [he]
  rcases le_or_gt q g with h | h
  · left
    refine ⟨s * m * 2 ^ (g - q).toNat, ?_⟩
    have : g = ((g - q).toNat : ℤ) + q := by omega
    have e : (2 : ℝ) ^ g = 2 ^ (g - q).toNat * 2 ^ q := by rw [← zpow_natCast, ← zpow_add₀ (by norm_num), ← this]
    rw [e]; push_cast; ring
  · right
    refine ⟨?_, by omega⟩
    have a : |((s : ℝ) * m * 2 ^ g)| = m * 2 ^ g := by
      rcases hs with rfl | rfl <;> simp [abs_mul]
    rw [a]
    have hmr : (m : ℝ) < 2 ^ (f.fb + 1) := by exact_mod_cast hm
    calc (m : ℝ) * 2 ^ g < 2 ^ (f.fb + 1) * 2 ^ g := by
          apply mul_lt_mul_of_pos_right hmr; positivity
      _ = 2 ^ (((f.fb + 1 : ℕ) : ℤ) + g) := by rw [zpow_add₀ (by norm_num), zpow_natCast]
      _ ≤ 2 ^ (q + f.fb) := by apply zpow_le_zpow_right₀ (by norm_num); push_cast; omega

/-- A value rounded within half a unit is nearest among whole numbers of units and values below the binade. -/
theorem nearest_of_units (v u w : ℝ) (n t : ℕ) (hu : 0 < u) (h1 : |v - n * u| ≤ u / 2) (h2 : |v - n * u| = u / 2 → n % 2 = 0)
    (hw : (∃ k : ℤ, w = k * u) ∨ (|w| < t * u ∧ t * u ≤ v)) :
    |v - n * u| ≤ |v - w| ∧ (|v - n * u| = |v - w| → w ≠ n * u → n % 2 = 0) := by
  have base : ∀ k : ℤ, |v - n * u| ≤ |v - k * u| ∧ (|v - n * u| = |v - k * u| → (k : ℝ) * u ≠ n * u → n % 2 = 0) := by
    intro k
    by_cases hk : k = n
    · subst hk; simp
    · have hd : u ≤ |(n : ℝ) * u - k * u| := by
        rw [← sub_mul, abs_mul, abs_of_pos hu]
        have : (1 : ℝ) ≤ |(n : ℝ) - k| := by
          have : (1 : ℤ) ≤ |(n : ℤ) - k| := Int.one_le_abs (by omega)
          exact_mod_cast this
        nlinarith
      have tri : |(n : ℝ) * u - k * u| ≤ |v - n * u| + |v - k * u| := by
        have : (n : ℝ) * u - k * u = -(v - n * u) + (v - k * u) := by ring
        rw [this]; exact (abs_add_le _ _).trans (by rw [abs_neg])
      exact ⟨by linarith, fun e _ => h2 (by linarith)⟩
  rcases hw with ⟨k, rfl⟩ | ⟨a, b⟩
  · exact base k
  · have c := (base t).1
    push_cast at c
    rw [abs_of_nonneg (show 0 ≤ v - t * u by linarith)] at c
    have d : v - t * u < |v - w| := by
      have := abs_lt.1 a
      exact lt_of_lt_of_le (by linarith) (le_abs_self _)
    exact ⟨by linarith, fun e _ => by linarith⟩


theorem ieeeBias_eq (f : Ieee) : ieeeBias f = (f.bias : ℤ) := by
  have : 1 ≤ 2 ^ (f.eb - 1) := Nat.one_le_two_pow
  simp only [ieeeBias, Ieee.bias, Nat.cast_sub this]
  push_cast; ring

/-- A field and a whole number of its units make a pattern of that value: the pattern goes on from one binade to the next. -/
theorem pattern_of_units (f : Ieee) (g n : ℕ) (h1 : n ≤ 2 ^ (f.fb + 1)) (h2 : g ≠ 0 → 2 ^ f.fb ≤ n)
    (h3 : g * 2 ^ f.fb + n < (2 ^ f.eb - 1) * 2 ^ f.fb) (neg : Bool) :
    let b := f.zero neg + (g * 2 ^ f.fb + n)
    b < 2 ^ (f.eb + f.fb + 1) ∧ ieeeFin f b = true ∧ ieeeSign f b = neg ∧
      ieeeVal f b = (if neg then -1 else 1) * (n * (2 : ℚ) ^ ((g : ℤ) + 1 - ieeeBias f - f.fb)) := by
  have hp : 0 < 2 ^ f.fb := by positivity
  have he : 0 < 2 ^ f.eb := by positivity
  obtain ⟨ex, fr, hb, hfr, hval⟩ : ∃ ex fr : ℕ, g * 2 ^ f.fb + n = ex * 2 ^ f.fb + fr ∧ fr < 2 ^ f.fb ∧
      (if ex = 0 then (fr : ℚ) * 2 ^ (1 - ieeeBias f - f.fb) else ((2 ^ f.fb + fr : ℕ) : ℚ) * 2 ^ ((ex : ℤ) - ieeeBias f - f.fb)) =
        n * (2 : ℚ) ^ ((g : ℤ) + 1 - ieeeBias f - f.fb) := by
    rcases lt_or_ge n (2 ^ f.fb) with h | h
    · have hg : g = 0 := by by_contra c; exact absurd (h2 c) (by omega)
      exact ⟨0, n, by rw [hg], h, by simp [hg]⟩
    · rcases Nat.lt_or_ge n (2 ^ (f.fb + 1)) with k | k
      · refine ⟨g + 1, n - 2 ^ f.fb, ?_, by rw [pow_succ] at k; omega, ?_⟩
        · rw [add_mul]; omega
        · simp only [Nat.add_eq_zero_iff, one_ne_zero, and_false, if_false]
          rw [show 2 ^ f.fb + (n - 2 ^ f.fb) = n by omega]
          push_cast; ring_nf
      · have hn : n = 2 * 2 ^ f.fb := by rw [pow_succ] at h1 k; omega
        refine ⟨g + 2, 0, ?_, hp, ?_⟩
        · rw [hn, add_mul, add_zero]
        · simp only [Nat.add_eq_zero_iff, OfNat.ofNat_ne_zero, and_false, if_false]
          rw [hn, show ((g + 2 : ℕ) : ℤ) - ieeeBias f - f.fb = 1 + ((g : ℤ) + 1 - ieeeBias f - f.fb) by push_cast; ring, zpow_add₀ (by norm_num)]
          push_cast; ring
  have hex : ex < 2 ^ f.eb - 1 := by
    by_contra c
    have := Nat.mul_le_mul_right (2 ^ f.fb) (Nat.not_lt.1 c)
    omega
  have hx := ieeeVal_of f neg ex fr (by omega) hfr
  rw [← hb] at hx
  refine ⟨hx.1, ?_, hx.2.2.2, ?_⟩
  · simp only [ieeeFin, hx.2.1]; simp; omega
  · rw [← hval]
    unfold ieeeVal
    rw [hx.2.1, hx.2.2.1, hx.2.2.2]


/-- A value rounded to units reaches an even number of them from half a unit below it on. -/
theorem reaches_even (v u : ℝ) (n t : ℕ) (hu : 0 < u) (h1 : |v - n * u| ≤ u / 2) (h2 : |v - n * u| = u / 2 → n % 2 = 0) (ht : t % 2 = 0) :
    t ≤ n ↔ (t - 1 / 2) * u ≤ v := by
  have a := abs_le.1 h1
  constructor
  · intro h
    have : (t : ℝ) ≤ n := by exact_mod_cast h
    nlinarith
  · intro h
    by_contra c
    have k : (n : ℝ) + 1 ≤ t := by exact_mod_cast Nat.not_le.1 c
    have l : v - n * u ≤ u / 2 := a.2
    have m : (t : ℝ) - 1 ≤ n := by nlinarith
    have e : (n : ℝ) + 1 = t := by linarith
    have en : n + 1 = t := by exact_mod_cast e
    have hv : v - n * u = u / 2 := by
      have : u / 2 ≤ v - n * u := by rw [← e] at h; linarith
      linarith
    have := h2 (by rw [hv, abs_of_pos (by linarith)])
    omega

/-- What rounding into an IEEE format does: the pattern and its flags are the signed value rounded once (R74, R76). A magnitude that is only bounded
has more places than the format. -/
theorem roundIeee_roundsTo (f : Ieee) (h2 : 2 ≤ f.eb) (h1 : 1 ≤ f.fb) (neg : Bool) (x : Mag) (v : ℝ) (hv : x.names v)
    (hmore : x.more = true → f.fb + 2 ≤ bitLen x.m) :
    RoundsTo f ((if neg then -1 else 1) * v) neg (roundIeee f neg x) := by
  have hB := ieeeBias_eq f
  have hB1 : (1 : ℤ) ≤ ieeeBias f := by
    have : 2 ^ 1 ≤ 2 ^ (f.eb - 1) := Nat.pow_le_pow_right (by norm_num) (by omega)
    rw [hB, Ieee.bias]; omega
  have heb : (2 : ℤ) ^ f.eb = 2 * ieeeBias f + 2 := by
    have : f.eb = (f.eb - 1) + 1 := by omega
    unfold ieeeBias
    rw [this, pow_succ, Nat.add_sub_cancel]; ring
  have htop : (0 : ℝ) < (2 - (2 : ℝ) ^ (-1 - (f.fb : Int))) * (2 : ℝ) ^ ieeeBias f := by
    have : (2 : ℝ) ^ (-1 - (f.fb : Int)) ≤ 2 ^ (0 : ℤ) := zpow_le_zpow_right₀ (by norm_num) (by omega)
    apply mul_pos _ (by positivity)
    rw [zpow_zero] at this; linarith
  by_cases hz : x.m = 0
  · have hm : x.more = false := by
      cases h : x.more with
      | false => rfl
      | true => have := hmore h; simp [bitLen, hz] at this
    have hv0 : v = 0 := by simpa [Mag.names, hm, hz] using hv
    have hr : roundIeee f neg x = (f.zero neg, 0) := by simp [roundIeee, hm, hz]
    have hp := pattern_of_units f 0 0 (by positivity) (by simp) (by
      have : 0 < (2 : ℤ) ^ f.eb - 1 := by rw [heb]; omega
      have h3 : 0 < 2 ^ f.eb - 1 := by zify [Nat.one_le_two_pow (n := f.eb)]; exact this
      have := Nat.mul_pos h3 (show 0 < 2 ^ f.fb by positivity)
      simpa using this) neg
    simp only [zero_mul, add_zero, Nat.cast_zero, mul_zero] at hp
    rw [hr, hv0, mul_zero]
    refine ⟨fun h => absurd h (by linarith), fun h => absurd h (by linarith), fun _ => ⟨hp.1, hp.2.1, by simp [hp.2.2.1], ?_, ?_, ?_, ?_⟩⟩
    · intro b _ _
      simp only [hp.2.2.2]
      refine ⟨by simp, fun _ _ => ?_⟩
      cases neg
      · simp [Ieee.zero]
      · simp only [Ieee.zero, if_true]
        rw [show f.eb + f.fb = (f.eb + f.fb - 1) + 1 by omega, pow_succ]; omega
    · simp
    · intro h; simp [hp.2.2.2] at h
    · intro h; simp [hp.2.2.2] at h
  · have hbl : 1 ≤ bitLen x.m := by simp [bitLen, hz]
    have hbin := mag_binade x v hv hz
    obtain ⟨e, he⟩ : ∃ e : ℤ, e = x.e + bitLen x.m - 1 := ⟨_, rfl⟩
    rw [← he, show x.e + (bitLen x.m : ℤ) = e + 1 by omega] at hbin
    have hvp : 0 < v := lt_of_lt_of_le (by positivity) hbin.1
    obtain ⟨q, hq⟩ : ∃ q : ℤ, q = max e (1 - ieeeBias f) - f.fb := ⟨_, rfl⟩
    have hs := roundUnits_spec x q v hv (fun h => by have := hmore h; omega)
    have hs2 := roundUnits_spec x (e - f.fb) v hv (fun h => by have := hmore h; omega)
    obtain ⟨n, inx, hr⟩ : ∃ n inx, roundUnits x q false = (n, inx) := ⟨_, _, rfl⟩
    obtain ⟨n2, inx2, hr2⟩ : ∃ n inx, roundUnits x (e - f.fb) false = (n, inx) := ⟨_, _, rfl⟩
    rw [hr] at hs; rw [hr2] at hs2
    obtain ⟨hs1, hs3, hs4⟩ := hs
    obtain ⟨ht1, ht3, -⟩ := hs2
    simp only at hs1 hs3 hs4 ht1 ht3
    obtain ⟨g, hg⟩ : ∃ g : ℕ, (g : ℤ) = max e (1 - ieeeBias f) - (1 - ieeeBias f) := ⟨(max e (1 - ieeeBias f) - (1 - ieeeBias f)).toNat, by omega⟩
    have hu : (0 : ℝ) < 2 ^ q := by positivity
    have hu2 : (0 : ℝ) < 2 ^ (e - (f.fb : ℤ)) := by positivity
    have hab := abs_le.1 hs1
    have hpow : ∀ (k : ℕ) (z : ℤ), (2 : ℝ) ^ ((k : ℤ) + z) = ((2 ^ k : ℕ) : ℝ) * 2 ^ z := by
      intro k z; rw [zpow_add₀ (by norm_num), zpow_natCast]; push_cast; ring
    have hn1 : n ≤ 2 ^ (f.fb + 1) := by
      have a : v < ((2 ^ (f.fb + 1) : ℕ) : ℝ) * 2 ^ q := by
        rw [← hpow]; exact lt_of_lt_of_le hbin.2 (zpow_le_zpow_right₀ (by norm_num) (by push_cast; omega))
      have b : (n : ℝ) < ((2 ^ (f.fb + 1) : ℕ) : ℝ) + 1 := by nlinarith [hab.1]
      have : n < 2 ^ (f.fb + 1) + 1 := by exact_mod_cast b
      omega
    have hge : 1 - ieeeBias f ≤ e → ((2 ^ f.fb : ℕ) : ℝ) * 2 ^ q ≤ v := by
      intro h; rw [← hpow, show (f.fb : ℤ) + q = e by omega]; exact hbin.1
    have hn2 : 1 - ieeeBias f ≤ e → 2 ^ f.fb ≤ n := by
      intro h
      have a := hge h
      have b : ((2 ^ f.fb : ℕ) : ℝ) < n + 1 := by nlinarith [hab.2]
      have : 2 ^ f.fb < n + 1 := by exact_mod_cast b
      omega
    have hfb : 0 < 2 ^ f.fb := by positivity
    have heven : 2 ^ (f.fb + 1) % 2 = 0 := by rw [pow_succ]; omega
    have hov : ((2 : ℤ) ^ f.eb - 1) * 2 ^ f.fb ≤ (g : ℤ) * 2 ^ f.fb + n ↔
        (2 - (2 : ℝ) ^ (-1 - (f.fb : Int))) * (2 : ℝ) ^ ieeeBias f ≤ v := by
      rw [heb]
      have hP : (0 : ℤ) < 2 ^ f.fb := by positivity
      rcases lt_trichotomy e (ieeeBias f) with h | h | h
      · constructor
        · intro c
          exfalso
          have a : (g : ℤ) ≤ 2 * ieeeBias f - 2 := by omega
          have b : (n : ℤ) ≤ 2 * 2 ^ f.fb := by
            have : (n : ℤ) ≤ 2 ^ (f.fb + 1) := by exact_mod_cast hn1
            rw [pow_succ] at this; linarith
          nlinarith
        · intro c
          exfalso
          have a : v < 2 ^ ieeeBias f := lt_of_lt_of_le hbin.2 (zpow_le_zpow_right₀ (by norm_num) (by omega))
          have b : (2 : ℝ) ^ (-1 - (f.fb : Int)) ≤ 2 ^ (0 : ℤ) := zpow_le_zpow_right₀ (by norm_num) (by omega)
          have d : (0 : ℝ) < 2 ^ ieeeBias f := by positivity
          rw [zpow_zero] at b
          nlinarith
      · have eq : q = ieeeBias f - f.fb := by omega
        have hgv : (g : ℤ) = 2 * ieeeBias f - 1 := by omega
        have hre := reaches_even v (2 ^ q) n (2 ^ (f.fb + 1)) hu hs1 hs3 heven
        have et : (2 - (2 : ℝ) ^ (-1 - (f.fb : Int))) * (2 : ℝ) ^ ieeeBias f = (((2 ^ (f.fb + 1) : ℕ) : ℝ) - 1 / 2) * 2 ^ q := by
          have k1 : (2 : ℝ) ^ ieeeBias f = ((2 ^ f.fb : ℕ) : ℝ) * 2 ^ q := by rw [← hpow]; congr 1; omega
          have k2 : (2 : ℝ) ^ (-1 - (f.fb : Int)) * ((2 ^ f.fb : ℕ) : ℝ) = 1 / 2 := by
            push_cast
            rw [← zpow_natCast, ← zpow_add₀ (by norm_num), show -1 - (f.fb : ℤ) + f.fb = -1 by ring]; norm_num
          rw [k1, sub_mul, ← mul_assoc, ← mul_assoc, k2, pow_succ]; push_cast; ring
        rw [et, ← hre, hgv]
        have : (n : ℤ) ≤ 2 ^ (f.fb + 1) := by exact_mod_cast hn1
        constructor
        · intro c
          have : (2 : ℤ) ^ (f.fb + 1) ≤ n := by rw [pow_succ]; linarith
          exact_mod_cast this
        · intro c
          have : (2 : ℤ) ^ (f.fb + 1) ≤ n := by exact_mod_cast c
          rw [pow_succ] at this; linarith
      · constructor
        · intro _
          have a : (2 : ℝ) ^ (1 + ieeeBias f) ≤ v := (zpow_le_zpow_right₀ (by norm_num) (by omega)).trans hbin.1
          rw [zpow_add₀ (by norm_num), zpow_one] at a
          have b : (0 : ℝ) < (2 : ℝ) ^ (-1 - (f.fb : Int)) * 2 ^ ieeeBias f := by positivity
          linarith
        · intro _
          have a : 2 * ieeeBias f ≤ (g : ℤ) := by omega
          have b : (2 : ℤ) ^ f.fb ≤ n := by exact_mod_cast hn2 (by omega)
          nlinarith
    have hlow : (decide (e < 1 - ieeeBias f) && !(decide (e = 1 - ieeeBias f - 1) && decide (2 ^ (f.fb + 1) ≤ n2))) = true ↔
        v < (2 : ℝ) ^ (1 - ieeeBias f) - (2 : ℝ) ^ (-1 - ieeeBias f - f.fb) := by
      have hlt : (2 : ℝ) ^ (-1 - ieeeBias f - f.fb) ≤ 2 ^ (- ieeeBias f) := zpow_le_zpow_right₀ (by norm_num) (by omega)
      have hpos : (0 : ℝ) < 2 ^ (-1 - ieeeBias f - f.fb) := by positivity
      have htwo : (2 : ℝ) ^ (1 - ieeeBias f) = 2 * 2 ^ (-ieeeBias f) := by
        rw [show 1 - ieeeBias f = 1 + -ieeeBias f by ring, zpow_add₀ (by norm_num), zpow_one]
      rcases lt_trichotomy e (-ieeeBias f) with h | h | h
      · have a : v < 2 ^ (-ieeeBias f) := lt_of_lt_of_le hbin.2 (zpow_le_zpow_right₀ (by norm_num) (by omega))
        simp only [show e < 1 - ieeeBias f by omega, show ¬ e = 1 - ieeeBias f - 1 by omega, decide_true, decide_false, Bool.false_and,
          Bool.not_false, Bool.and_self, true_iff]
        linarith
      · have hre := reaches_even v _ n2 (2 ^ (f.fb + 1)) hu2 ht1 ht3 heven
        have et : (((2 ^ (f.fb + 1) : ℕ) : ℝ) - 1 / 2) * 2 ^ (e - (f.fb : ℤ)) = (2 : ℝ) ^ (1 - ieeeBias f) - (2 : ℝ) ^ (-1 - ieeeBias f - f.fb) := by
          rw [sub_mul, ← hpow, show ((f.fb + 1 : ℕ) : ℤ) + (e - f.fb) = 1 - ieeeBias f by push_cast; omega]
          congr 1
          rw [show e - (f.fb : ℤ) = 1 + (-1 - ieeeBias f - f.fb) by omega, zpow_add₀ (by norm_num), zpow_one]; ring
        rw [et] at hre
        have d1 : decide (e < 1 - ieeeBias f) = true := decide_eq_true (by omega)
        have d2 : decide (e = 1 - ieeeBias f - 1) = true := decide_eq_true (by omega)
        rw [d1, d2, Bool.true_and, Bool.true_and, Bool.not_eq_true', decide_eq_false_iff_not, hre, not_le]
      · have a : (2 : ℝ) ^ (1 - ieeeBias f) ≤ v := (zpow_le_zpow_right₀ (by norm_num) (by omega)).trans hbin.1
        simp only [show ¬ e < 1 - ieeeBias f by omega, decide_false, Bool.false_and, Bool.false_eq_true, false_iff, not_lt]
        linarith
    have hfield : q + f.fb + (f.bias : ℤ) - 1 = g := by rw [← hB]; omega
    have hround : roundIeee f neg x = if ((2 : ℤ) ^ f.eb - 1) * 2 ^ f.fb ≤ (g : ℤ) * 2 ^ f.fb + n then (f.inf neg, 20) else
        (f.zero neg + (g * 2 ^ f.fb + n), (if inx then (16 : FlagBits) else 0) |||
          (if inx && (decide (e < 1 - ieeeBias f) && !(decide (e = 1 - ieeeBias f - 1) && decide (2 ^ (f.fb + 1) ≤ n2))) then 8 else 0)) := by
      have hcast : ((g : ℤ) * 2 ^ f.fb + n).toNat = g * 2 ^ f.fb + n := by
        have : (g : ℤ) * 2 ^ f.fb + n = ((g * 2 ^ f.fb + n : ℕ) : ℤ) := by push_cast; ring
        rw [this, Int.toNat_natCast]
      have hq2 : q = max e (1 - (f.bias : ℤ)) - f.fb := by rw [← hB]; exact hq
      unfold roundIeee
      rw [if_neg (by simp [hz]), hB]
      simp only [← he]
      simp only [← hq2, hr, hr2, hfield, hcast, ge_iff_le]
      rfl
    have hsgn : ∀ w : ℝ, |(if neg = true then (-1 : ℝ) else 1) * v - w| = |v - (if neg = true then (-1 : ℝ) else 1) * w| := by
      intro w
      cases neg
      · simp
      · simp only [if_true]
        rw [← abs_neg]; congr 1; ring
    have hav : |(if neg = true then (-1 : ℝ) else 1) * v| = v := by cases neg <;> simp [abs_of_pos hvp]
    rw [hround]
    by_cases ho : ((2 : ℤ) ^ f.eb - 1) * 2 ^ f.fb ≤ (g : ℤ) * 2 ^ f.fb + n
    · rw [if_pos ho]
      have hv2 := hov.1 ho
      refine ⟨fun h => ?_, fun h => ?_, fun h => absurd h (by rw [hav]; exact not_lt.2 hv2)⟩
      · cases neg
        · rfl
        · simp at h; linarith
      · cases neg
        · simp at h; linarith
        · rfl
    · rw [if_neg ho]
      have h3 : g * 2 ^ f.fb + n < (2 ^ f.eb - 1) * 2 ^ f.fb := by
        have : (1 : ℕ) ≤ 2 ^ f.eb := Nat.one_le_two_pow
        zify [this]
        exact not_le.1 ho
      have hp := pattern_of_units f g n hn1 (fun h => hn2 (by omega)) h3 neg
      simp only at hp
      obtain ⟨p1, p2, p3, p4⟩ := hp
      have hqg : (g : ℤ) + 1 - ieeeBias f - f.fb = q := by omega
      have hval : ((ieeeVal f (f.zero neg + (g * 2 ^ f.fb + n)) : ℚ) : ℝ) = (if neg = true then (-1 : ℝ) else 1) * (n * 2 ^ q) := by
        rw [p4, hqg]; cases neg <;> push_cast <;> simp
      have hss : (if neg = true then (-1 : ℝ) else 1) * (if neg = true then (-1 : ℝ) else 1) = 1 := by cases neg <;> simp
      have hex : (if neg = true then (-1 : ℝ) else 1) * v = ((ieeeVal f (f.zero neg + (g * 2 ^ f.fb + n)) : ℚ) : ℝ) ↔ inx = false := by
        rw [hs4, hval]
        cases neg <;> simp
      have hnot := mt hov.2 ho
      refine ⟨fun h => absurd ((le_abs_self _).trans_eq hav |>.trans' h) hnot, fun h => ?_, fun h => ⟨p1, p2, ?_, fun b hb hf => ?_, fun h => ?_, fun h hl => ?_, fun h hl => ?_⟩⟩
      · have := neg_le_abs ((if neg = true then (-1 : ℝ) else 1) * v)
        exact absurd (by rw [hav] at this; linarith) hnot
      · rw [p3]
        cases neg
        · simpa using hvp.le
        · simp [hvp]
      · rw [hsgn, hsgn, hval, ← mul_assoc, hss, one_mul]
        have hw := ieeeVal_units f q b
        have near := nearest_of_units v (2 ^ q) ((if neg = true then (-1 : ℝ) else 1) * (ieeeVal f b : ℝ)) n (2 ^ f.fb) hu hs1 hs3 (by
          rcases hw with ⟨k, hk⟩ | ⟨ha, hb⟩
          · left
            refine ⟨(if neg = true then -1 else 1) * k, ?_⟩
            rw [hk]; cases neg <;> push_cast <;> simp
          · right
            refine ⟨?_, hge (by omega)⟩
            rw [← hpow, add_comm]
            cases neg <;> simpa using ha)
        refine ⟨near.1, fun h1 h2 => ?_⟩
        have := near.2 h1 (fun c => h2 (by rw [← c, ← mul_assoc, hss, one_mul]))
        have z : f.zero neg % 2 = 0 := by
          cases neg
          · rfl
          · simp only [Ieee.zero, if_true]
            rw [show f.eb + f.fb = (f.eb + f.fb - 1) + 1 by omega, pow_succ]; omega
        have y : g * 2 ^ f.fb % 2 = 0 := by
          rw [show f.fb = (f.fb - 1) + 1 by omega, pow_succ, ← mul_assoc]; omega
        omega
      · rw [hex] at h; simp [h]
      · have hi : inx = true := by by_contra c; exact h (hex.2 (by simpa using c))
        rw [hav] at hl
        have := hlow.2 hl
        simp only [hi, Bool.true_and, this, if_true]; rfl
      · have hi : inx = true := by by_contra c; exact h (hex.2 (by simpa using c))
        rw [hav] at hl
        have := mt hlow.1 (not_lt.2 hl)
        simp only [hi, Bool.true_and, this, if_true]; rfl


/-! ## Elements as exact values (R67 to R69, R87) -/

/-- What a decoded element stands for; none for a NaN. -/
def Num.exact : Num → Option Exact
  | .fin n m e => some (.fin n ((if n then -1 else 1) * (m * (2 : ℚ) ^ e)))
  | .inf n => some (.inf n)
  | _ => none

theorem ieeeExp_bits (f : Ieee) (h : 1 ≤ f.eb) (b : ℕ) : bits b (f.eb + f.fb - 1) f.fb = ieeeExp f b := by
  simp only [bits, ieeeExp, Nat.shiftRight_eq_div_pow]
  rw [show f.eb + f.fb - 1 + 1 - f.fb = f.eb by omega]

theorem ieeeSign_bit (f : Ieee) (b : ℕ) : ieeeSign f b = b.testBit (f.eb + f.fb) := by
  simp [ieeeSign, Nat.testBit_eq_decide_div_mod_eq]

/-- The decoder of elements and the independent reading agree: NaNs, signalling NaNs, and the values of the others. -/
theorem num_reads (f : Ieee) (h : 1 ≤ f.eb) (h1 : 1 ≤ f.fb) (b : ℕ) :
    (f.num b).isNan = ieeeNan f b ∧ (f.num b).isSig = ieeeSig f b ∧ (ieeeNan f b = false → (f.num b).exact = some (exactOf f b)) := by
  have hB := ieeeBias_eq f
  unfold Ieee.num
  simp only [ieeeExp_bits f h, ← ieeeSign_bit]
  by_cases e : ieeeExp f b = 2 ^ f.eb - 1
  · by_cases z : b % 2 ^ f.fb = 0
    · simp [e, z, Num.isNan, Num.isSig, Num.exact, ieeeNan, ieeeSig, ieeeFin, ieeeFrac, exactOf]
    · refine ⟨?_, ?_, ?_⟩
      · simp [e, z, Num.isNan, ieeeNan, ieeeFin, ieeeFrac]
      · have hfr : b % 2 ^ f.fb < 2 ^ f.fb := Nat.mod_lt _ (by positivity)
        have p : 2 ^ f.fb = 2 * 2 ^ (f.fb - 1) := by
          conv_lhs => rw [show f.fb = (f.fb - 1) + 1 by omega, pow_succ]
          ring
        simp only [e, z, if_true, if_false, Num.isSig, ieeeSig, ieeeNan, ieeeFin, ieeeFrac]
        rw [Nat.testBit_eq_decide_div_mod_eq]
        have hd : b % 2 ^ f.fb / 2 ^ (f.fb - 1) < 2 := by
          rw [Nat.div_lt_iff_lt_mul (by positivity)]; omega
        have hd2 : b % 2 ^ f.fb / 2 ^ (f.fb - 1) = 0 ↔ b % 2 ^ f.fb < 2 ^ (f.fb - 1) := Nat.div_eq_zero_iff_lt (by positivity)
        by_cases c : b % 2 ^ f.fb < 2 ^ (f.fb - 1)
        · simp [c, hd2.2 c, z]
        · have : b % 2 ^ f.fb / 2 ^ (f.fb - 1) = 1 := by
            have n0 := mt hd2.1 c
            exact (by omega : ∀ k : ℕ, k < 2 → k ≠ 0 → k = 1) _ hd n0
          simp [c, this]
      · intro c; simp [ieeeNan, ieeeFin, ieeeFrac, e, z] at c
  · have hf : ieeeFin f b = true := by simp [ieeeFin, e]
    by_cases z : ieeeExp f b = 0
    · have e0 : (0 : ℕ) ≠ 2 ^ f.eb - 1 := by rw [z] at e; exact e
      simp [z, e0, Num.isNan, Num.isSig, Num.exact, ieeeNan, ieeeSig, hf, exactOf, ieeeVal, ieeeFrac, hB]
    · simp [e, z, Num.isNan, Num.isSig, Num.exact, ieeeNan, ieeeSig, hf, exactOf, ieeeVal, ieeeFrac, hB, add_comm]


/-- Setting one bit of a number written around it. -/
theorem set_bit_around (k hi p : ℕ) (b : Bool) (hp : p < 2 ^ k) : (2 ^ k * (2 * hi + b.toNat) + p) ||| 2 ^ k = 2 ^ k * (2 * hi + 1) + p := by
  have h0 : 2 ^ 1 * hi + 1 = 2 ^ 1 * hi ||| 1 := Nat.two_pow_add_eq_or_of_lt (by norm_num) hi
  have h1 : (2 * hi + b.toNat) ||| 1 = 2 * hi + 1 := by
    cases b
    · simpa using h0.symm
    · simp only [Bool.toNat_true]
      rw [show 2 * hi = 2 ^ 1 * hi by ring, h0, Nat.or_assoc, Nat.or_self]
  rw [Nat.two_pow_add_eq_or_of_lt hp, Nat.two_pow_add_eq_or_of_lt hp, Nat.or_assoc, Nat.or_comm p, ← Nat.or_assoc]
  congr 1
  have := Nat.shiftLeft_or_distrib (a := 2 * hi + b.toNat) (b := 1) (i := k)
  rw [h1] at this
  simpa [Nat.shiftLeft_eq, mul_comm] using this.symm

/-- A NaN operand's result: the operand with its quiet bit set (R69). -/
theorem nan_quieted (f : Ieee) (h : 1 ≤ f.eb) (h1 : 1 ≤ f.fb) (b : ℕ) (hb : b < 2 ^ (f.eb + f.fb + 1)) (hn : ieeeNan f b = true) :
    ∃ neg q p, f.num b = .nan neg q p ∧ f.nan neg p = b ||| 2 ^ (f.fb - 1) := by
  obtain ⟨he, hz⟩ : ieeeExp f b = 2 ^ f.eb - 1 ∧ b % 2 ^ f.fb ≠ 0 := by
    simp only [ieeeNan, ieeeFin, ieeeFrac, Bool.and_eq_true] at hn
    exact ⟨by simpa using hn.1, of_decide_eq_true hn.2⟩
  refine ⟨ieeeSign f b, (b % 2 ^ f.fb).testBit (f.fb - 1), b % 2 ^ f.fb % 2 ^ (f.fb - 1), ?_, ?_⟩
  · unfold Ieee.num
    simp only [ieeeExp_bits f h, ← ieeeSign_bit]
    simp [he, hz]
  · obtain ⟨k, hk⟩ : ∃ k, f.fb = k + 1 := ⟨f.fb - 1, by omega⟩
    have hp : b % 2 ^ f.fb % 2 ^ (f.fb - 1) < 2 ^ k := by rw [hk]; exact Nat.mod_lt _ (by positivity)
    have e1 : b = 2 ^ f.fb * (b / 2 ^ f.fb) + b % 2 ^ f.fb := (Nat.div_add_mod _ _).symm
    have e2 : b % 2 ^ f.fb = 2 ^ k * ((b % 2 ^ f.fb).testBit k).toNat + b % 2 ^ f.fb % 2 ^ k := by
      have hd : b % 2 ^ f.fb / 2 ^ k < 2 := by
        rw [Nat.div_lt_iff_lt_mul (by positivity)]
        have : b % 2 ^ f.fb < 2 ^ f.fb := Nat.mod_lt _ (by positivity)
        rw [hk, pow_succ] at this ⊢; omega
      have : ((b % 2 ^ f.fb).testBit k).toNat = b % 2 ^ f.fb / 2 ^ k := by
        rw [Nat.testBit_eq_decide_div_mod_eq]
        generalize b % 2 ^ f.fb / 2 ^ k = z at hd
        interval_cases z <;> rfl
      rw [this]; exact (Nat.div_add_mod _ _).symm
    have e3 : b / 2 ^ f.fb = 2 ^ f.eb * (ieeeSign f b).toNat + (2 ^ f.eb - 1) := by
      have hq : b / 2 ^ f.fb / 2 ^ f.eb < 2 := by
        rw [Nat.div_div_eq_div_mul, ← pow_add, Nat.div_lt_iff_lt_mul (by positivity), add_comm f.fb]
        rw [pow_succ] at hb; omega
      have : (ieeeSign f b).toNat = b / 2 ^ f.fb / 2 ^ f.eb := by
        unfold ieeeSign
        rw [Nat.div_div_eq_div_mul, ← pow_add, add_comm f.fb] at hq ⊢
        generalize b / 2 ^ (f.eb + f.fb) = z at hq
        interval_cases z <;> rfl
      rw [this, ← he]; exact (Nat.div_add_mod _ _).symm
    have e4 : b ||| 2 ^ (f.fb - 1) = 2 ^ k * (2 * (b / 2 ^ f.fb) + 1) + b % 2 ^ f.fb % 2 ^ (f.fb - 1) := by
      have := set_bit_around k (b / 2 ^ f.fb) (b % 2 ^ f.fb % 2 ^ (f.fb - 1)) ((b % 2 ^ f.fb).testBit k) hp
      rw [← this, show f.fb - 1 = k by omega]
      congr 1
      conv_lhs => rw [e1, e2, show (2 : ℕ) ^ f.fb = 2 * 2 ^ k by rw [hk, pow_succ]; ring]
      rw [show (2 : ℕ) ^ f.fb = 2 * 2 ^ k by rw [hk, pow_succ]; ring]; ring
    rw [e4, e3]
    unfold Ieee.nan Ieee.dnan Ieee.inf Ieee.zero
    have p1 : (2 : ℕ) ^ f.fb = 2 * 2 ^ k := by rw [hk, pow_succ]; ring
    rw [show f.fb - 1 = k by omega, pow_add, p1]
    cases ieeeSign f b <;> simp <;> ring

/-- The rule of NaN operands as the machine takes it is R69's. -/
theorem propagate_withNans (f : Ieee) (h : 1 ≤ f.eb) (h1 : 1 ≤ f.fb) (l : List ℕ) (hl : ∀ b ∈ l, b < 2 ^ (f.eb + f.fb + 1)) (r : Nat × FlagBits)
    (rule : Prop) (hr : (∀ b ∈ l, ieeeNan f b = false) → rule) :
    WithNans f l false ((propagate f (l.map f.num)).getD r) rule := by
  have hfind : (l.map f.num).find? Num.isNan = (l.find? (ieeeNan f)).map f.num := by
    rw [List.find?_map]; congr 1
    congr 1; funext b; exact (num_reads f h h1 b).1
  have hany : (l.map f.num).any Num.isSig = l.any (ieeeSig f) := by
    rw [List.any_map]; congr 1; funext b; exact (num_reads f h h1 b).2.1
  unfold WithNans propagate
  rw [hfind, hany]
  cases hc : l.find? (ieeeNan f) with
  | none => exact hr (by simpa using hc)
  | some b =>
    have hn : ieeeNan f b = true := by simpa using List.find?_some hc
    obtain ⟨neg, q, p, e, hq⟩ := nan_quieted f h h1 b (hl b (List.mem_of_find?_eq_some hc)) hn
    simp [e, hq, fInvalid]

end Sys2Proof.Machine
end

