-- ==== Sys2Proof/Tests/Slice0.lean ====
section
/-! SUPPORT. Small tests: what the well-formedness checks refuse, every encoding of the opcode table decoded from a word written from the table,
and for each statement of `Obligations.lean` with hypotheses a concrete state that meets them, with what one step gives there. Expected results are
worked out from the rules the theorems name. -/

namespace Sys2Proof.Machine

set_option Elab.async false

/-! ## Helpers -/

/-- The checks of `Takes` for an instruction with no switch marker to commit. -/
def takesB (q : Iss) (s : State) : Bool :=
  !(q.control && s.cx.delay.isSome) && !(decide (s.me.who = 4) && !q.hOk) && !(q.s || (q.long && decide (8 ≤ s.cx.outstanding))) &&
  !(s.self.inXchg && !q.xOk) && !(q.parks && s.self.speculative) && (firstMark (s.cx.marks q.a q.v)).isNone

theorem takes_of_takesB {q : Iss} {s : State} (h : takesB q s = true) : Takes q s s := by
  simp only [takesB, Bool.and_eq_true, Bool.not_eq_true', Bool.and_eq_false_iff, Bool.or_eq_false_iff, Option.isNone_iff_eq_none,
    decide_eq_false_iff_not] at h
  obtain ⟨⟨⟨⟨⟨h1, h2⟩, h3⟩, h4⟩, h5⟩, h6⟩ := h
  refine ⟨?_, ?_, ?_, ?_, ?_, h6⟩
  · rintro c
    rcases h1 with h | h
    · simp [c] at h
    · simpa using h
  · rintro c
    rcases h2 with h | h
    · exact absurd c h
    · simpa using h
  · rw [if_neg]
    rintro (h | ⟨h, k⟩)
    · simp [h3.1] at h
    · rcases h3.2 with g | g
      · simp [g] at h
      · exact g k
  · rintro c
    rcases h4 with h | h
    · simp [c] at h
    · simpa using h
  · rintro c
    rcases h5 with h | h
    · simp [c] at h
    · exact h

/-- The state after a switch marker has committed a context's results. -/
def committed (s : State) : State := match commitList s.cx.rb s.cx with | .ok c => s.setCx c | _ => s

/-- The checks of `Takes` for an instruction with a switch marker. -/
def marksB (q : Iss) (s : State) : Bool :=
  !(q.control && s.cx.delay.isSome) && !(decide (s.me.who = 4) && !q.hOk) && q.s && s.cx.rb.all (fun e => e.returned) &&
  (match commitList s.cx.rb s.cx with | .ok _ => true | _ => false) &&
  !((committed s).self.inXchg && !q.xOk) && !(q.parks && (committed s).self.speculative) && (firstMark ((committed s).cx.marks q.a q.v)).isNone

theorem takes_of_marksB {q : Iss} {s : State} (h : marksB q s = true) : Takes q s (committed s) := by
  simp only [marksB, Bool.and_eq_true, Bool.not_eq_true', Bool.and_eq_false_iff, Option.isNone_iff_eq_none,
    decide_eq_false_iff_not, List.all_eq_true] at h
  obtain ⟨⟨⟨⟨⟨⟨⟨h1, h2⟩, h3⟩, hr⟩, hc⟩, h4⟩, h5⟩, h6⟩ := h
  refine ⟨?_, ?_, ?_, ?_, ?_, h6⟩
  · rintro c
    rcases h1 with h | h
    · simp [c] at h
    · simpa using h
  · rintro c
    rcases h2 with h | h
    · exact absurd c h
    · simpa using h
  · rw [if_pos (Or.inl h3)]
    refine ⟨hr, ?_⟩
    revert hc
    cases hl : commitList s.cx.rb s.cx with
    | ok c => exact fun _ => ⟨c, rfl, by simp [committed, hl]⟩
    | trap c t => simp
    | wait c r => simp
  · rintro c
    rcases h4 with h | h
    · simp [c] at h
    · simpa using h
  · rintro c
    rcases h5 with h | h
    · simp [c] at h
    · exact h

/-- One live task of a running gang of one slot on core 0, with its pc in a mapped page and nothing on the agenda. -/
def base : State := { State.withFetchWord State.reset 32 0x00000009 with agenda := [] }
def ctx0 : CtxId := ⟨⟨⟨0, 0, 0⟩, 0⟩, 0⟩
def cl0 : ClusterId := ⟨0, 0, 0⟩
/-- A change of the issuing context. -/
def State.onCx (s : State) (f : Ctxt → Ctxt) : State := s.setCx (f s.cx)
/-- The issuing context's a-registers set to values. -/
def State.withA (s : State) (l : List (Nat × DWord)) : State :=
  s.onCx fun c => { c with a := l.foldl (fun a p => a.setIfInBounds p.1 p.2) c.a }
/-- The state after a step, read by a test. -/
def gives (o : Host.Outcome State Fault Refusal) (p : State → Bool) : Bool := match o with | .next u => p u | _ => false
/-- The trap that the issuing context takes: its cause, and the slot TRAPPED or FORWARDED. -/
def traps (o : Host.Outcome State Fault Refusal) (code : Nat) (c : CtxId := ctx0) : Bool :=
  gives o fun u => (u.slot c).cause.toNat == code && ((u.slot c).phase == .trapped || (u.slot c).phase == .forwarded)

/-! ## Well-formedness -/

/-- A reserved value in a field: RLD's class 6, a format tag 0 in VLD, an unassigned selector, a MKGA region 5 (R53). -/
theorem test_wf_refuses_reserved_fields :
    (Instr.rld false 1 2 6 false 0).fieldsOk = false ∧ (Instr.vld false 1 2 0 0 0).fieldsOk = false ∧
    (Instr.sysrd false 1 0x24).fieldsOk = false ∧ (Instr.mkga false 1 2 3 5).fieldsOk = false ∧
    (Instr.rld false 1 2 6 false 0).wf = false := by decide
/-- A specifier of 58 to 62 (R41). -/
theorem test_wf_refuses_reserved_specifiers :
    (Instr.vadd false 1 58 2 0 false).specsInRange = false ∧ (Instr.vadd false 1 2 62 0 false).wf = false := by decide
/-- A queue as a destination, a w queue as a source, a broadcast as a destination (R41). -/
theorem test_wf_refuses_specifier_directions :
    (Instr.vadd false 44 1 2 0 false).specsDirOk = false ∧ (Instr.vadd false 1 48 2 0 false).specsDirOk = false ∧
    (Instr.vadd false 50 1 2 0 false).wf = false ∧ (Instr.vfma false 48 1 2 0 false).wf = false := by decide
/-- A cluster, a core, a Kettle, a decoder and a dispatcher that no module has (R7, R21, R24, R256). -/
theorem test_wf_refuses_places :
    (Instr.mxJobStart ⟨0, 192, 0⟩ 1).wf = false ∧ (Instr.handlerDispatch ⟨⟨0, 0, 0⟩, 8⟩).wf = false ∧ (Instr.rradd 0 12 1).wf = false ∧
    (Instr.decoderFrame 0 32).wf = false ∧ (Instr.blockRangeRequest (.band 0 0 12) 1).wf = false ∧ (Instr.watchdog ⟨⟨⟨1024, 0, 0⟩, 0⟩, 0⟩).wf = false := by
  decide

/-! ## Decoding -/

theorem test_decode_add_to_maxu :
    decodeTableWord 32 0x00EA9C09 = some (.add false 7 21 14) ∧
    decodeTableWord 32 0x03B64C0B = some (.sub true 19 12 27) ∧
    decodeTableWord 32 0x04B2F009 = some (.and false 28 5 11) ∧
    decodeTableWord 32 0x066F240B = some (.or true 9 30 6) ∧
    decodeTableWord 32 0x0998D809 = some (.xor false 22 17 25) ∧
    decodeTableWord 32 0x0AEA9C0B = some (.andn true 7 21 14) ∧
    decodeTableWord 32 0x0DB64C09 = some (.sll false 19 12 27) ∧
    decodeTableWord 32 0x0EB2F00B = some (.srl true 28 5 11) ∧
    decodeTableWord 32 0x106F2409 = some (.sra false 9 30 6) ∧
    decodeTableWord 32 0x1398D80B = some (.slt true 22 17 25) ∧
    decodeTableWord 32 0x14EA9C09 = some (.sltu false 7 21 14) ∧
    decodeTableWord 32 0x17B64C0B = some (.min true 19 12 27) ∧
    decodeTableWord 32 0x18B2F009 = some (.max false 28 5 11) ∧
    decodeTableWord 32 0x1A6F240B = some (.minu true 9 30 6) ∧
    decodeTableWord 32 0x1D98D809 = some (.maxu false 22 17 25) := by
  decide
theorem test_decode_mul_to_srlw :
    decodeTableWord 32 0x1EEA9C0B = some (.mul true 7 21 14) ∧
    decodeTableWord 32 0x21B64C09 = some (.mulh false 19 12 27) ∧
    decodeTableWord 32 0x22B2F00B = some (.mulhu true 28 5 11) ∧
    decodeTableWord 32 0x246F2409 = some (.div false 9 30 6) ∧
    decodeTableWord 32 0x2798D80B = some (.divu true 22 17 25) ∧
    decodeTableWord 32 0x28EA9C09 = some (.rem false 7 21 14) ∧
    decodeTableWord 32 0x2BB64C0B = some (.remu true 19 12 27) ∧
    decodeTableWord 32 0x2C02F009 = some (.clz false 28 5) ∧
    decodeTableWord 32 0x2E0F240B = some (.ctz true 9 30) ∧
    decodeTableWord 32 0x3008D809 = some (.popc false 22 17) ∧
    decodeTableWord 32 0x40EA9C0B = some (.addw true 7 21 14) ∧
    decodeTableWord 32 0x43B64C09 = some (.subw false 19 12 27) ∧
    decodeTableWord 32 0x44B2F00B = some (.mulw true 28 5 11) ∧
    decodeTableWord 32 0x466F2409 = some (.sllw false 9 30 6) ∧
    decodeTableWord 32 0x4998D80B = some (.srlw true 22 17 25) := by
  decide
theorem test_decode_sraw_to_beq :
    decodeTableWord 32 0x4AEA9C09 = some (.sraw false 7 21 14) ∧
    decodeTableWord 32 0x2D764C13 = some (.addi true 19 12 0x2d7) ∧
    decodeTableWord 32 0x9A52F019 = some (.andi false 28 5 0x9a5) ∧
    decodeTableWord 32 0x63CF2423 = some (.ori true 9 30 0x63c) ∧
    decodeTableWord 32 0xF018D829 = some (.xori false 22 17 0xf01) ∧
    decodeTableWord 32 0x2D7A9C33 = some (.slti true 7 21 0x2d7) ∧
    decodeTableWord 32 0x9A564C39 = some (.sltiu false 19 12 0x9a5) ∧
    decodeTableWord 32 0x02D2F043 = some (.slli true 28 5 45) ∧
    decodeTableWord 32 0x026F2449 = some (.srli false 9 30 38) ∧
    decodeTableWord 32 0x0338D853 = some (.srai true 22 17 51) ∧
    decodeTableWord 32 0x9A5A9C59 = some (.addiw false 7 21 0x9a5) ∧
    decodeTableWord 32 0x91A5CC63 = some (.mkhi true 19 0x1234b) ∧
    decodeTableWord 32 0x06B2F069 = some (.mkga false 28 5 11 3) ∧
    decodeTableWord 32 0xFFBF2473 = some (.peera true 9 30 0xffb) ∧
    decodeTableWord 32 0x81DCC481 = some (.beq false 17 25 0x81d) := by
  decide
theorem test_decode_bne_to_ldh :
    decodeTableWord 32 0xE397548B = some (.bne true 21 14 0xe39) ∧
    decodeTableWord 32 0x4B6DB091 = some (.blt false 12 27 0x4b6) ∧
    decodeTableWord 32 0x81D5949B = some (.bge true 5 11 0x81d) ∧
    decodeTableWord 32 0xE39378A1 = some (.bltu false 30 6 0xe39) ∧
    decodeTableWord 32 0x4B6CC4AB = some (.bgeu true 17 25 0x4b6) ∧
    decodeTableWord 32 0x81D054B1 = some (.loop false 21 0x81d) ∧
    decodeTableWord 32 0xE6F1CCBB = some (.jal true 19 0x1cde3) ∧
    decodeTableWord 32 0x9A52F0C1 = some (.jr false 28 5 0x9a5) ∧
    decodeTableWord 32 0x000000CB = some (.nop true) ∧
    decodeTableWord 32 0x100000C9 = some (.yield false) ∧
    decodeTableWord 32 0x200000CB = some (.retire true) ∧
    decodeTableWord 32 0x30004CC9 = some (.vlq false 19) ∧
    decodeTableWord 32 0x63C2F103 = some (.ldb true 28 5 0x63c) ∧
    decodeTableWord 32 0xF01F2509 = some (.ldbz false 9 30 0xf01) ∧
    decodeTableWord 32 0x2D78D913 = some (.ldh true 22 17 0x2d7) := by
  decide
theorem test_decode_ldhz_to_qpush :
    decodeTableWord 32 0x9A5A9D19 = some (.ldhz false 7 21 0x9a5) ∧
    decodeTableWord 32 0x63C64D23 = some (.ldw true 19 12 0x63c) ∧
    decodeTableWord 32 0xF012F129 = some (.ldwz false 28 5 0xf01) ∧
    decodeTableWord 32 0x2D7F2533 = some (.ldd true 9 30 0x2d7) ∧
    decodeTableWord 32 0x9A58E541 = some (.stb false 25 17 0x9a5) ∧
    decodeTableWord 32 0x63CAB94B = some (.sth true 14 21 0x63c) ∧
    decodeTableWord 32 0xF0166D51 = some (.stw false 27 12 0xf01) ∧
    decodeTableWord 32 0x2D72AD5B = some (.std true 11 5 0x2d7) ∧
    decodeTableWord 32 0x023F2581 = some (.rld false 9 30 3 false 2) ∧
    decodeTableWord 32 0x6998818B = some (.rst true 17 25 4 3) ∧
    decodeTableWord 32 0xF01A8991 = some (.sdef false 2 21 0xf01) ∧
    decodeTableWord 32 0x0160019B = some (.sgo true 2 1 true) ∧
    decodeTableWord 32 0x10100199 = some (.shalt false 1) ∧
    decodeTableWord 32 0x2030259B = some (.sq true 9 3) ∧
    decodeTableWord 32 0x0C088DA1 = some (.qpush false 3 17 6) := by
  decide
theorem test_decode_qpop_to_acas :
    decodeTableWord 32 0x00009DAB = some (.qpop true 7 1) ∧
    decodeTableWord 32 0x47B619C1 = some (.bind false 6 12 27 35 false) ∧
    decodeTableWord 32 0x000015CB = some (.unbind true 5) ∧
    decodeTableWord 32 0x003F25D1 = some (.acq false 9 30 3) ∧
    decodeTableWord 32 0x002881DB = some (.rel true 17 2) ∧
    decodeTableWord 32 0x004001E1 = some (.fence false 4) ∧
    decodeTableWord 32 0x000001EB = some (.lbfence true) ∧
    decodeTableWord 32 0x0EB2F201 = some (.aadd false 28 5 11 3 true) ∧
    decodeTableWord 32 0x0E6F260B = some (.amin true 9 30 6 3 true) ∧
    decodeTableWord 32 0x0798DA11 = some (.amax false 22 17 25 3 false) ∧
    decodeTableWord 32 0x06EA9E1B = some (.aand true 7 21 14 3 false) ∧
    decodeTableWord 32 0x0FB64E21 = some (.aor false 19 12 27 3 true) ∧
    decodeTableWord 32 0x0EB2F22B = some (.axor true 28 5 11 3 true) ∧
    decodeTableWord 32 0x066F2631 = some (.axchg false 9 30 6 3 false) ∧
    decodeTableWord 32 0x0598DA3B = some (.acas true 22 17 25 2 false) := by
  decide
theorem test_decode_cwait_to_cpcancel :
    decodeTableWord 32 0x02EA9E41 = some (.cwait false 7 21 14 true) ∧
    decodeTableWord 32 0x03B6024B = some (.cadd true 12 27 1) ∧
    decodeTableWord 32 0x02928251 = some (.bari false 5 41) ∧
    decodeTableWord 32 0x12302653 = some (.bara true 9 35 false) ∧
    decodeTableWord 32 0x21605A51 = some (.barw false 22 22) ∧
    decodeTableWord 32 0x37401E53 = some (.baraw true 7 52 true) ∧
    decodeTableWord 32 0x40B04E51 = some (.barq false 19 11) ∧
    decodeTableWord 32 0x63C2AE5B = some (.talloc true 11 5 0x63c) ∧
    decodeTableWord 32 0x00068261 = some (.tfree false 13) ∧
    decodeTableWord 32 0x1004DA63 = some (.tstat true 22 9) ∧
    decodeTableWord 32 0x20050261 = some (.twait false 10) ∧
    decodeTableWord 32 0x3B060263 = some (.tset true 12 false 11) ∧
    decodeTableWord 32 0x0B200269 = some (.cpstage false 0xb2) ∧
    decodeTableWord 32 0x100F266B = some (.cpq true 9 30) ∧
    decodeTableWord 32 0x20088269 = some (.cpcancel false 17) := by
  decide
theorem test_decode_mxsub_to_cres :
    decodeTableWord 32 0x63CA9E73 = some (.mxsub true 7 21 0x63c) ∧
    decodeTableWord 32 0x00064E79 = some (.mxpoll false 19 12) ∧
    decodeTableWord 32 0x1002827B = some (.mxwait true 5) ∧
    decodeTableWord 32 0x0A0F0281 = some (.puts false 30 5) ∧
    decodeTableWord 32 0x0808828B = some (.get true 17 4) ∧
    decodeTableWord 32 0x060A8291 = some (.radd false 21 3) ∧
    decodeTableWord 32 0x00264E9B = some (.evwait true 19 12 2) ∧
    decodeTableWord 32 0x9A52F2A1 = some (.kcmd false 28 5 0x9a5) ∧
    decodeTableWord 32 0x000002AB = some (.kfence true) ∧
    decodeTableWord 32 0x1008DAA9 = some (.kpoll false 22 17) ∧
    decodeTableWord 32 0x02CA9EB3 = some (.wseal true 7 21 44) ∧
    decodeTableWord 32 0x11304EB1 = some (.wq false 19 19) ∧
    decodeTableWord 32 0x5F77F2C3 = some (.spawn true 28 0xbeef) ∧
    decodeTableWord 32 0xA75CCAC9 = some (.spawnc false 18 true 0x5c 0xa7) ∧
    decodeTableWord 32 0x039882D3 = some (.cres true 17 25 true) := by
  decide
theorem test_decode_cbr_to_syswr :
    decodeTableWord 32 0xE390D6E1 = some (.cbr false 21 1 false 0xe39) ∧
    decodeTableWord 32 0x00264EEB = some (.cvote true 19 12 2) ∧
    decodeTableWord 32 0x000002F1 = some (.ssend false) ∧
    decodeTableWord 32 0x100026F3 = some (.xend true 9) ∧
    decodeTableWord 32 0x5A58CAF9 = some (.xmit false 2 4 17 37 22) ∧
    decodeTableWord 32 0xA72AD703 = some (.xsel true 1 5 21 50 41) ∧
    decodeTableWord 32 0xF0164F21 = some (.launch false 19 12 0xf01) ∧
    decodeTableWord 32 0x0012832B = some (.lcancel true 5 true) ∧
    decodeTableWord 32 0x000F2731 = some (.lwait false 9 30) ∧
    decodeTableWord 32 0x03288343 = some (.cycb true 17 50 false) ∧
    decodeTableWord 32 0x100A8341 = some (.cycres false 21) ∧
    decodeTableWord 32 0x20000343 = some (.cyce true) ∧
    decodeTableWord 32 0xE3900349 = some (.cyct false false 0xe39) ∧
    decodeTableWord 32 0x14A02783 = some (.sysrd true 9 0x14a) ∧
    decodeTableWord 32 0x01C88389 = some (.syswr false 17 28) := by
  decide
theorem test_decode_trap_to_vor :
    decodeTableWord 32 0x158A8393 = some (.trap true 21 0x158) ∧
    decodeTableWord 32 0x00200399 = some (.eret false 2) ∧
    decodeTableWord 32 0x19C0039B = some (.brk true 0x9c) ∧
    decodeTableWord 32 0x200F2799 = some (.wdog false 9 30) ∧
    decodeTableWord 32 0x3020039B = some (.pwrhint true 2) ∧
    decodeTableWord 32 0x502C8C0D = some (.vmov false 35 44 5 false) ∧
    decodeTableWord 32 0x2D2C8C17 = some (.vadd true 35 44 52 2 false) ∧
    decodeTableWord 32 0xED2C8C1D = some (.vsub false 35 44 52 6 true) ∧
    decodeTableWord 32 0xBD2C8C27 = some (.vmul true 35 44 52 3 true) ∧
    decodeTableWord 32 0x5D2C8C2D = some (.vfma false 35 44 52 5 false) ∧
    decodeTableWord 32 0x2D2C8C37 = some (.vfms true 35 44 52 2 false) ∧
    decodeTableWord 32 0xED2C8C3D = some (.vmax false 35 44 52 6 true) ∧
    decodeTableWord 32 0xBD2C8C47 = some (.vmin true 35 44 52 3 true) ∧
    decodeTableWord 32 0x5D2C8C4D = some (.vand false 35 44 52 5 false) ∧
    decodeTableWord 32 0x2D2C8C57 = some (.vor true 35 44 52 2 false) := by
  decide
theorem test_decode_vxor_to_kxor :
    decodeTableWord 32 0xED2C8C5D = some (.vxor false 35 44 52 6 true) ∧
    decodeTableWord 32 0xBD2C8C67 = some (.vandn true 35 44 52 3 true) ∧
    decodeTableWord 32 0x5D2C8C6D = some (.vsll false 35 44 52 5 false) ∧
    decodeTableWord 32 0x2D2C8C77 = some (.vsrl true 35 44 52 2 false) ∧
    decodeTableWord 32 0xED2C8C7D = some (.vsra false 35 44 52 6 true) ∧
    decodeTableWord 32 0xB02C8C87 = some (.vabs true 35 44 3 true) ∧
    decodeTableWord 32 0x502C8C8D = some (.vneg false 35 44 5 false) ∧
    decodeTableWord 32 0x2D2C8C97 = some (.vmulh true 35 44 52 2 false) ∧
    decodeTableWord 32 0xED2C18A5 = some (.vcmpeq false 6 44 52 6 true) ∧
    decodeTableWord 32 0xBD2C18AF = some (.vcmpne true 6 44 52 3 true) ∧
    decodeTableWord 32 0x5D2C18B5 = some (.vcmplt false 6 44 52 5 false) ∧
    decodeTableWord 32 0x2D2C18BF = some (.vcmple true 6 44 52 2 false) ∧
    decodeTableWord 32 0xE14318C5 = some (.kand false 6 3 5 6 true) ∧
    decodeTableWord 32 0xB14318CF = some (.kor true 6 3 5 3 true) ∧
    decodeTableWord 32 0x514318D5 = some (.kxor false 6 3 5 5 false) := by
  decide
theorem test_decode_kandn_to_vrcps :
    decodeTableWord 32 0x214318DF = some (.kandn true 6 3 5 2 false) ∧
    decodeTableWord 32 0x2E3518E5 = some (.vwhile false 6 53 56 2) ∧
    decodeTableWord 32 0xA9AC8D07 = some (.vaddi true 35 44 0xa6 2) ∧
    decodeTableWord 32 0xA9BF8D0D = some (.vmovi false 35 0xa6 2) ∧
    decodeTableWord 32 0xA9AC8D17 = some (.vslli true 35 44 0xa6 2) ∧
    decodeTableWord 32 0xA9AC8D1D = some (.vsrli false 35 44 0xa6 2) ∧
    decodeTableWord 32 0xA9AC8D27 = some (.vsrai true 35 44 0xa6 2) ∧
    decodeTableWord 32 0x502C8D45 = some (.vrcpe false 35 44 5 false) ∧
    decodeTableWord 32 0x206C8D47 = some (.vrsqe true 35 44 2 false) ∧
    decodeTableWord 32 0xE0AC8D45 = some (.vsin false 35 44 6 true) ∧
    decodeTableWord 32 0xB0EC8D47 = some (.vcos true 35 44 3 true) ∧
    decodeTableWord 32 0x512C8D45 = some (.vexp2 false 35 44 5 false) ∧
    decodeTableWord 32 0x216C8D47 = some (.vlog2 true 35 44 2 false) ∧
    decodeTableWord 32 0xE1AC8D45 = some (.vsqrt false 35 44 6 true) ∧
    decodeTableWord 32 0xBD2C8D4F = some (.vrcps true 35 44 52 3 true) := by
  decide
theorem test_decode_vrsqs_to_vunzip3 :
    decodeTableWord 32 0x5D2C8D55 = some (.vrsqs false 35 44 52 5 false) ∧
    decodeTableWord 32 0x2D2C8D5F = some (.vdiv true 35 44 52 2 false) ∧
    decodeTableWord 32 0xE26C8D65 = some (.vcvt false 35 44 9 6 true) ∧
    decodeTableWord 32 0x032C8D6F = some (.vtag true 35 44 12) ∧
    decodeTableWord 32 0x586C8D75 = some (.vrq false 35 44 1 4 5 false) ∧
    decodeTableWord 32 0x2D2C8D87 = some (.vperm true 35 44 52 2 false) ∧
    decodeTableWord 32 0xE2EC8D8D = some (.vbcast false 35 44 11 6 true) ∧
    decodeTableWord 32 0xA9AC8D97 = some (.vslide true 35 44 0xa6 2) ∧
    decodeTableWord 32 0x52EC8D9D = some (.vext false 35 44 11 5 false) ∧
    decodeTableWord 32 0x22EC8DA7 = some (.vins true 35 44 11 2 false) ∧
    decodeTableWord 32 0xE05789C5 = some (.vzip2 false 34 23 1 6 true) ∧
    decodeTableWord 32 0xB09889CF = some (.vzip3 true 34 24 2 3 true) ∧
    decodeTableWord 32 0x50D989D5 = some (.vzip4 false 34 25 3 5 false) ∧
    decodeTableWord 32 0x205789DF = some (.vunzip2 true 34 23 1 2 false) ∧
    decodeTableWord 32 0xE09889E5 = some (.vunzip3 false 34 24 2 6 true) := by
  decide
theorem test_decode_vunzip4_to_vadd16 :
    decodeTableWord 32 0xB0D989EF = some (.vunzip4 true 34 25 3 3 true) ∧
    decodeTableWord 32 0x502C8E05 = some (.vrsum false 35 44 5) ∧
    decodeTableWord 32 0x206C8E07 = some (.vrmax true 35 44 2) ∧
    decodeTableWord 32 0x60AC8E05 = some (.vrmin false 35 44 6) ∧
    decodeTableWord 32 0x30EC8E07 = some (.vrand true 35 44 3) ∧
    decodeTableWord 32 0x512C8E05 = some (.vror false 35 44 5) ∧
    decodeTableWord 32 0x216C8E07 = some (.vrxor true 35 44 2) ∧
    decodeTableWord 32 0xA77D8E45 = some (.vld false 35 29 11 19 2) ∧
    decodeTableWord 32 0xF69E8E4F = some (.vst true 35 30 4 27 3) ∧
    decodeTableWord 32 0x63398E55 = some (.vgather false 35 25 9 17 1) ∧
    decodeTableWord 32 0xA4BB8E5F = some (.vscatter true 35 27 5 18 2) ∧
    decodeTableWord 32 0x003F8E85 = some (.vflrd false 35) ∧
    decodeTableWord 32 0x0076FE87 = some (.vflclr true 54) ∧
    decodeTableWord 16 0xD340 = some (.vmov16 false 13 26) ∧
    decodeTableWord 16 0xD386 = some (.vadd16 true 14 26) := by
  decide
theorem test_decode_vsub16_to_waitall :
    decodeTableWord 16 0xD3C8 = some (.vsub16 false 15 26) ∧
    decodeTableWord 16 0xD40E = some (.vmul16 true 16 26) ∧
    decodeTableWord 16 0xD450 = some (.vfmal false 17 26) ∧
    decodeTableWord 16 0xD496 = some (.vmax16 true 18 26) ∧
    decodeTableWord 16 0xD4D8 = some (.vmin16 false 19 26) ∧
    decodeTableWord 16 0xD51E = some (.vand16 true 20 26) ∧
    decodeTableWord 16 0xD360 = some (.vor16 false 13 26) ∧
    decodeTableWord 16 0xD3A6 = some (.vxor16 true 14 26) ∧
    decodeTableWord 16 0xD3E8 = some (.vneg16 false 15 26) ∧
    decodeTableWord 16 0xD42E = some (.vabs16 true 16 26) ∧
    decodeTableWord 16 0xD470 = some (.vsll16 false 17 26) ∧
    decodeTableWord 16 0xD4B6 = some (.vsrl16 true 18 26) ∧
    decodeTableWord 16 0x1678 = some (.vqpop false 25 2) ∧
    decodeTableWord 16 0x0EBE = some (.vqpush true 26 1) ∧
    decodeTableWord 16 0x0002 = some (.waitall) := by
  decide

/-! ## Witnesses: decoding, stepping, retirement and traps -/

theorem witness_EncodingRoundTrips :
    (Instr.vrq true 39 43 1 5 7 true).wf = true ∧ encode (.vrq true 39 43 1 5 7 true) = some (32, 0xFA6B9D77) ∧ (Instr.waitall).wf = true ∧
    encode .waitall = some (16, 2) := by decide

/-- ADD a24, a24, a7 at the pc, issued from the agenda, and issued by the core whose turn it is. -/
def atAdd : State := State.withFetchWord State.reset 32 0x007C6009

theorem witness_StepRunsTheDecodedInstruction :
    (∃ t, IssuesFrom atAdd atAdd.cur t ∧ BytesAt t t.me (.add false 24 24 7)) ∧
    (∃ t, IssuesFrom { atAdd with agenda := [] } atAdd.cur t ∧ BytesAt t t.me (.add false 24 24 7)) := by
  refine ⟨⟨{ atAdd with agenda := [] }, ⟨{ atAdd with agenda := [] }, Or.inl ⟨[], by decide +kernel, by decide +kernel⟩, by decide +kernel⟩,
      by decide +kernel, hbmLoc 0 65536, ⟨by decide +kernel, by decide +kernel, by decide +kernel, by decide +kernel⟩,
      Or.inr ⟨by decide +kernel, hbmLoc 0 65538, ⟨by decide +kernel, by decide +kernel, by decide +kernel, by decide +kernel⟩, by decide +kernel⟩⟩,
    ⟨{ atAdd with agenda := [] }, ⟨{ atAdd with agenda := [] }, Or.inr ⟨by decide +kernel, by decide +kernel, ⟨[], by decide +kernel⟩, by decide +kernel⟩,
      by decide +kernel⟩, by decide +kernel, hbmLoc 0 65536, ⟨by decide +kernel, by decide +kernel, by decide +kernel, by decide +kernel⟩,
      Or.inr ⟨by decide +kernel, hbmLoc 0 65538, ⟨by decide +kernel, by decide +kernel, by decide +kernel, by decide +kernel⟩, by decide +kernel⟩⟩⟩

theorem witness_nothing_done_ahead : atAdd.cx.ahead = [] ∧ (∀ c, (State.reset.slot c).cx.ahead = []) ∧ (State.reset.slot ctx0).queueWait = false :=
  ⟨by decide +kernel, fun c => (by decide +kernel : ∀ w : Fin 5, (Core.reset.slots[w]).cx.ahead = []) c.who, by decide +kernel⟩

/-- VQPOP v1, q0 at the pc, with QPUSH q0, a8, INT64 after it. -/
def atPop : State :=
  let s := State.withFetchWord State.reset 16 (14 * 2 ^ 2 + 2 ^ 6)
  { s.onCx (fun c => c.putA 8 5 none) with mem := Memory.setN s.mem (hbmLoc 0 65538) 4 (13 * 2 ^ 25 + 8 * 2 ^ 15 + 52 * 2 ^ 3 + 1) }

/-- A pop of an empty queue comes to wait; the address front end pushes the entry it waits for, and the slot keeps the issue; the pop takes the
entry, and the push comes once (R42, R43, R244). -/
theorem test_pop_before_its_push :
    (match step atPop with
     | .next u =>
       (u.slot ctx0).wait == none && (u.cx.qOf 0).length == 1 && u.cx.ahead == [.gave false 0] && u.cx.pc == atPop.cx.pc &&
       (match step { u with agenda := [.issue u.cur] } with
        | .next v =>
          v.cx.qOf 0 == [] && v.cx.rb.length == 1 &&
          (match step { v with agenda := [.issue v.cur] } with
           | .next w => w.cx.qOf 0 == [] && w.cx.ahead == [] && w.cx.pc == atPop.cx.pc + 6
           | _ => false)
        | _ => false)
     | _ => false) = true := by decide +kernel

/-- Bytes that are no instruction at the pc (R54): each of the seven causes. -/
theorem witness_StepsThatRunNoInstruction :
    (∀ p ∈ [(0x00000000, DecodeError.zeroHalfword, 0x000), (0x000003F9, .reservedMajor, 0x001), (0x80000009, .reservedMinor, 0x002),
            (0x003A0015, .reservedSpecifier, 0x003), (0x0000B015, .specifierDirection, 0x004), (0x000002A9 + 1024, .reservedField, 0x005),
            (0x2038, .queueNumber, 0x006)],
      let s := State.withFetchWord State.reset 32 p.1
      decode (leBytes 4 p.1) = .error p.2.1 ∧ traps (step s) p.2.2 = true) ∧
    (let s := ({ atAdd with agenda := [] }).onCx (fun c => { c with pc := c.pc + 1 })
     s.cx.pc.toNat % 2 = 1 ∧ IssuesFrom s s.cur s ∧ traps (step s) 0x010 = true) ∧
    (let s := ({ atAdd with agenda := [] }).onCx (fun c => { c with pc := 0x100 })
     (form s.cx.pc).isVirt = false ∧ IssuesFrom s s.cur s ∧ traps (step s) 0x041 = true) ∧
    (let s := { base with agenda := [.event (.quantumEnd ctx0)] }
     encode (.quantumEnd ctx0) = none ∧ gives (step s) (fun u => u == base) = true) ∧
    (let s := { base with agenda := [.elapse 5] }
     gives (step s) (fun u => u.now == 5 && (u.slot ctx0).wcount == 5) = true) := by
  refine ⟨by decide +kernel, ⟨by decide +kernel, ⟨({ atAdd with agenda := [] }).onCx (fun c => { c with pc := c.pc + 1 }),
      Or.inr ⟨by decide +kernel, by decide +kernel, ⟨[], by decide +kernel⟩, by decide +kernel⟩, by decide +kernel⟩, by decide +kernel⟩,
    ⟨by decide +kernel, ⟨({ atAdd with agenda := [] }).onCx (fun c => { c with pc := 0x100 }),
      Or.inr ⟨by decide +kernel, by decide +kernel, ⟨[], by decide +kernel⟩, by decide +kernel⟩, by decide +kernel⟩, by decide +kernel⟩,
    by decide +kernel, by decide +kernel⟩

/-- Steps that leave the slot in a queue wait: one that the front ends meet, one that they do not, and an instruction that waits for nothing (R42, R48). -/
theorem witness_steps_that_stay :
    (let s := atPop.park (.qPop 0)
     (s.slot ctx0).queueWait = true ∧ (s.slot ctx0).wait = some (.qPop 0) ∧ waitMet (runAhead s ctx0) ctx0 (.qPop 0) = true) ∧
    (let s := base.park (.qPop 3)
     (s.slot ctx0).queueWait = true ∧ waitMet (runAhead s ctx0) ctx0 (.qPop 3) = false) ∧
    (∀ u, exec (.add false 24 24 7) atAdd = .next u → (u.slot atAdd.me).queueWait = false) ∧ atAdd.cx.ahead = [] ∧ atAdd.armed = [] := by
  refine ⟨by decide +kernel, by decide +kernel, ?_, by decide +kernel, by decide +kernel⟩
  intro u h
  have g : gives (exec (.add false 24 24 7) atAdd) (fun u => !(u.slot atAdd.me).queueWait) = true := by decide +kernel
  rw [h] at g
  simpa [gives] using g

/-- `atAdd` in a run of a loaded object (R389). -/
def atAddRun : State := atAdd.setLaunch 1 { atAdd.launch 1 with img := some 0, fin := false }

/-- An error armed on the unit of the instruction's bytes takes effect, in a run, in the step that fetches them; one elsewhere does not, nor does one
before a run (R237). -/
theorem witness_armed_errors :
    (let u := unitOf (hbmLoc 0 65536)
     let s := { atAddRun with armed := [u] }
     isHbm u = true ∧ s.inRun = true ∧ gives (step { atAdd with armed := [u] }) (fun t => t.armed == [u] && t.cx.pc == atAdd.cx.pc + 4) = true ∧ gives (stepOnce s) (fun t => gives (stepOnce (markUnit s u)) (fun t' => t.unmarked u != t'.unmarked u)) = true ∧
     gives (step s) (fun t => t.armed == [] && t.self.cause == 0x050 && kget (t.module 0).errors 0x129 0 == 1) = true) ∧
    (let u := unitOf (hbmLoc 0 0x90000)
     let s := { atAddRun with armed := [u] }
     isHbm u = true ∧ s.inRun = true ∧ gives (stepOnce s) (fun t => gives (stepOnce (markUnit s u)) (fun t' => t.unmarked u == t'.unmarked u)) = true ∧
     gives (step s) (fun t => t.armed == [u] && t.cx.pc == atAdd.cx.pc + 4) = true) := by
  decide +kernel

/-- An instruction at the pc, with an address in a7, in a run of a loaded object. -/
def atLoad (i : Instr) (off : DWord) : State :=
  let s := State.withFetchWord State.reset 32 (bitsOf i)
  let s := s.onCx (fun c => c.putA 7 (s.cx.pc + off) none)
  let e := (s.tlb.map (fun e => { e with r := true }))
  { s.setLaunch 1 { s.launch 1 with img := some 0, fin := false } with tlb := e, mem := Memory.setN s.mem (hbmLoc 0 65600) 8 0x99 }

/-- One step that reads two units with armed errors, one whose own bytes stand in a unit with one, and a load of a watched doubleword whose last write
its task does not see (R148, R232, R237). -/
theorem witness_two_armed_errors_and_a_watch :
    (let u := unitOf (hbmLoc 0 65600)
     let v := unitOf (hbmLoc 0 65664)
     let s := { atLoad (.vld false 5 7 11 0 0) 112 with armed := [u, v] }
     u ≠ v ∧ isHbm u = true ∧ isHbm v = true ∧ s.inRun = true ∧ (∀ w ∈ [u, v], (pick (markUnit s w)).1.ins = (pick s).1.ins) ∧
     gives (stepOnce s) (fun t => gives (stepOnce (markUnit s u)) (fun a => t.unmarked u != a.unmarked u) &&
       gives (stepOnce (markUnit s v)) (fun b => t.unmarked v != b.unmarked v)) = true ∧
     gives (stepOnce (markUnit (markUnit s u) v)) (fun x => x.armed == s.armed) = true ∧
     gives (step s) (fun y => y.armed == [] && kget (y.module 0).errors 0x129 0 == 2) = true) ∧
    (let u := unitOf (hbmLoc 0 65536)
     let v := unitOf (hbmLoc 0 65600)
     let s := { atLoad (.ldd false 3 7 64) 0 with armed := [u, v] }
     (pick s).1.ins.isSome = true ∧ (pick (markUnit s u)).1.ins = none ∧ (pick (markUnit s v)).1.ins = (pick s).1.ins ∧
     gives (stepOnce s) (fun t => gives (stepOnce (markUnit s u)) (fun a => t.unmarked u != a.unmarked u)) = true ∧
     gives (step s) (fun y => y.armed == [v] && kget (y.module 0).errors 0x129 0 == 1) = true) ∧
    (let w : Watch := ⟨0, 1, (atLoad (.nop false) 0).cx.pc + 64, hbmLoc 0 65600, 0x77, [⟨0x99, 255, .other, none, [], []⟩], [], []⟩
     let s := { atLoad (.ldd false 3 7 64) 0 with watches := [w] }
     s.watches ≠ [] ∧ s.armed = [] ∧
     gives (step (atLoad (.ldd false 3 7 64) 0)) (fun t => t.cx.rb.map (fun e => e.result) == [.scalar 0x99]) = true ∧
     gives (step s) (fun t => t.cx.rb.map (fun e => e.result) == [.scalar 0x77] && t.watches.length == 1) = true) := by
  decide +kernel

/-- An ordinary instruction, one in a branch's delay slot, one at the end of a quantum, and the delay slot of a collective (R51, R246, R280). -/
theorem witness_InstructionsRetire :
    ((base.finish 2).cx.pc = base.cx.pc + 2 ∧ (base.finish 2).cx.order = 1) ∧
    (let s := base.onCx (fun c => { c with delay := some ⟨0x100, some 0x200, none⟩ })
     (∀ d, s.cx.delay = some d → d.coll = none) ∧ (s.finish).cx.pc = 0x200 ∧ (s.finish).cx.delay = none) ∧
    (let s := base.setSelf { base.self with quantum := 1 }
     s.self.quantum ≠ 0 ∧ (s.finish).self.quantum = 0 ∧ (s.finish).self.qend = true) ∧
    (let r : CollRef := ⟨0, 1, true, 0x4000, 0, true⟩
     let s := (base.onCx (fun c => { c with delay := some ⟨0x100, none, some r⟩ }))
     let s := s.setSelf { s.self with gang := none }
     s.cx.delay = some ⟨0x100, none, some r⟩ ∧ s.self.gang = none ∧ (s.finish).cx.pc = 0x4000 ∧ (s.finish).self.speculative = true) := by
  refine ⟨by decide +kernel, ⟨?_, by decide +kernel⟩, by decide +kernel, by decide +kernel⟩
  intro d h
  have : d = ⟨0x100, some 0x200, none⟩ := by
    have h2 : (base.onCx (fun c => { c with delay := some ⟨0x100, some 0x200, none⟩ })).cx.delay = some ⟨0x100, some 0x200, none⟩ := by decide +kernel
    rw [h2] at h
    exact (Option.some.inj h).symm
  rw [this]

/-- `base` as a task of a RESIDENT launch, serial where `b` says so. -/
def inResident (s : State) (b : Bool) : State := s.setLaunch 1 { s.launch 1 with serial := b, rc := { (s.launch 1).rc with resident := true } }

/-- The offer made as a CYCT's delay slot completes, with the collected CYCRES, and the wait in a serial launch (R280, R302, R372). -/
theorem witness_collective_offers :
    (let r : CollRef := ⟨0, 3, true, 0x4000, 0, true⟩
     let s := (inResident base false).onCx (fun c => { c with delay := some ⟨0x100, none, some r⟩ })
     let s := s.setGang 1 { s.gang 1 with cyc := { (s.gang 1).cyc with isOpen := true, pend := 7 } }
     s.cx.delay = some ⟨0x100, none, some r⟩ ∧ s.self.gang = some 1 ∧ (s.launch (s.gang 1).launch).serial = false ∧ (s.finish).cx.pc = 0x4000 ∧
       (s.finish).self.speculative = true ∧ (s.finish).self.wait = none ∧ liveEntries s.finish 1 = [ctx0] ∧
       ((s.finish).gang 1).offer.map (fun o => o.resid) = some 7 ∧ ((s.finish).gang 1).cyc.pend = 0) ∧
    (let r : CollRef := ⟨0, 1, true, 0x4000, 0, true⟩
     let s := (inResident base true).onCx (fun c => { c with delay := some ⟨0x100, none, some r⟩ })
     (s.launch (s.gang 1).launch).serial = true ∧ (s.finish).self.wait = some (.collective 0) ∧ ((s.finish).gang 1).offer = none) := by
  decide +kernel

/-- QPUSH of a full q0 at the pc, with BEQ after it and VQPOP v1, q0 in its delay slot. -/
def fullPush : State :=
  let s := State.withFetchWord State.reset 32 (bitsOf (.qpush false 0 8 13))
  let m := Memory.setN (Memory.setN s.mem (hbmLoc 0 65540) 4 (bitsOf (.beq false 0 0 8))) (hbmLoc 0 65544) 2 (bitsOf (.vqpop false 1 0))
  { s.onCx (fun c => (c.putA 8 5 none).setQue false 0 (List.replicate 16 ⟨7, .int64, none⟩)) with mem := m }

/-- A front end goes on into the delay slot of a branch that the other has not issued (R42, R51). -/
theorem test_pop_in_a_delay_slot : (match step fullPush with
     | .next u => (u.slot ctx0).wait == none && (u.cx.qOf 0).length == 15 && u.cx.ahead.length == 1 && u.cx.pc == fullPush.cx.pc &&
        (match step { u with agenda := [.issue u.cur] } with
        | .next v => v.cx.pc == fullPush.cx.pc + 4 && (v.cx.qOf 0).length == 16
        | _ => false)
     | _ => false) = true := by decide +kernel

/-- VQPOP v1, q0 at the pc, with CBR after it and QPUSH q0 in its delay slot. -/
def collPush : State :=
  let s := State.withFetchWord State.reset 16 (bitsOf (.vqpop false 1 0))
  let m := Memory.setN (Memory.setN s.mem (hbmLoc 0 65538) 4 (bitsOf (.cbr false 0 1 true 8))) (hbmLoc 0 65542) 4 (bitsOf (.qpush false 0 8 13))
  inResident { s.onCx (fun c => c.putA 8 5 none) with mem := m } false

/-- The push in the delay slot of a collective's branch is met, and no offer is made (R42, R391). -/
theorem test_push_in_a_collective_delay_slot : (match step collPush with
     | .next u => (u.slot ctx0).wait == none && (u.cx.qOf 0).length == 1 && u.cx.ahead == [.gave false 0] && u.cx.pc == collPush.cx.pc && (u.gangs == collPush.gangs)
     | _ => false) = true := by decide +kernel

/-- A trap with a handler installed, with none, in a delay slot, in a speculative slot and in the handler context (R52, R348, R351). -/
theorem witness_TrapsAreTaken :
    (ctx0.who ≠ 4 ∧ (base.core base.cur).tvec = 0 ∧ ((takeTrap base ctx0 (trapInfo 0x009) false).slot ctx0).phase = .forwarded) ∧
    (let s := (base.modCore base.cur (fun k => { k with tvec := 0x100000000 })).onCx (fun c => { c with delay := some ⟨0x123456, none, none⟩ })
     let u := takeTrap s ctx0 (trapInfo 0x1FF 77 5) true
     ¬ ((s.core s.cur).tvec = 0 ∨ (s.core s.cur).halted = true) ∧ (u.slot ctx0).phase = .trapped ∧ (u.core s.cur).trapq = [0] ∧
       (u.slot ctx0).epc = 0x123456 ∧ (u.slot ctx0).cause = 0x1FF ∧ (u.slot ctx0).eaddr = 77) ∧
    (base.me.who ≠ 4 ∧ base.self.speculative = false) ∧
    (let s := base.setSelf { base.self with chain := [⟨0, true, 1⟩] }
     s.me.who ≠ 4 ∧ s.self.speculative = true ∧ gives (.next (s.raise (trapInfo 0x009))) (fun u => (u.slot ctx0).held == some (trapInfo 0x009)) = true) ∧
    (let s := base.modCore base.cur (fun k => { k with issuing := 4, trapq := [0, 1] })
     s.me.who = 4 ∧ gives (.next (s.raise (trapInfo 0x009))) (fun u => (u.core base.cur).halted && (u.core base.cur).trapq == []) = true) := by
  decide +kernel

theorem witness_ChecksBeforeAnInstruction :
    (let s := base.onCx (fun c => { c with delay := some ⟨0, none, none⟩ })
     s.cx.delay.isSome = true ∧ traps (exec (.beq true 1 2 5) s) 0x007 = true ∧ traps (exec (.cyct false true 5) s) 0x007 = true) ∧
    (let s := base.modCore base.cur (fun k => { k with issuing := 4 })
     s.cx.delay = none ∧ s.me.who = 4 ∧ gives (exec (.yield false) s) (fun u => (u.core base.cur).halted) = true) ∧
    (let e : RbEntry := ⟨.areg 3, .scalar 5, 0, false, false, false, false, 0, 0⟩
     let s := base.onCx (fun c => { c with rb := List.replicate 8 e })
     s.cx.rb.any (fun e => !e.returned) = true ∧ 8 ≤ s.cx.rb.length ∧ gives (exec (.nop true) s) (fun u => (u.slot ctx0).wait == some .marker) = true ∧
     gives (exec (.div false 1 2 3) s) (fun u => (u.slot ctx0).wait == some .marker) = true) ∧
    (let s := base.setSelf { base.self with inXchg := true }
     s.me.who ≠ 4 ∧ s.self.inXchg = true ∧ traps (exec (.bara false 1 2 false) s) 0x0D0 = true) ∧
    (let s := base.setSelf { base.self with chain := [⟨0, true, 1⟩] }
     s.me.who ≠ 4 ∧ s.self.inXchg = false ∧ s.self.speculative = true ∧ gives (exec (.kcmd false 1 2 0) s) (fun u => (u.slot ctx0).wait == some .certain) = true) ∧
    (let m : Mark := ⟨trapInfo 0x045 64, 0⟩
     let s := base.onCx (fun c => { c with am := c.am.set 7 (some m) })
     s.self.inXchg = false ∧ s.cx.am[7] = some m ∧ s.cx.am[3] = none ∧ traps (exec (.add false 7 3 7) s) 0x045 = true) := by
  decide +kernel

theorem witness_MarkersCommitResults :
    let e : RbEntry := ⟨.areg 3, .scalar 5, 1, false, true, false, false, 0, 0⟩
    let f : RbEntry := ⟨.areg 3, .fault ⟨trapInfo 0x045 64, 0⟩, 0, false, true, false, false, 0, 0⟩
    e.dest = .areg 3 ∧ e.result = .scalar 5 ∧ f.superseded = false ∧ f.result = .fault ⟨trapInfo 0x045 64, 0⟩ ∧ (3 : BitVec 5) ≠ 0 ∧
      (match commitList [e] base.cx with | .ok c => c.ra 3 == 5 && c.flags == 1 && c.rb == [] | _ => false) = true := by
  decide +kernel

/-! ## Witnesses: address-stream arithmetic and control flow -/

theorem witness_IntegerResults :
    (let s := base.withA [(7, 0x8000000000000000), (9, 65)]
     Takes { s := false, hOk := true, xOk := true, a := [7, 9] } s s ∧ Takes { s := false, hOk := true, xOk := true, a := [7] } s s ∧
     gives (exec (.sra false 3 7 9) s) (fun u => u.cx.ra 3 == 0xC000000000000000) = true ∧
     gives (exec (.mulh false 3 7 7) s) (fun u => u.cx.ra 3 == 0x4000000000000000) = true ∧
     gives (exec (.mulhu false 3 7 9) s) (fun u => u.cx.ra 3 == 32) = true ∧
     gives (exec (.add false 0 7 9) s) (fun u => u.cx.ra 0 == 0 && u.cx.pc == s.cx.pc + 4) = true ∧
     decode (leBytes 4 0x2C149C09) = .error .reservedField ∧ gives (exec (.clz false 3 9) s) (fun u => u.cx.ra 3 == 57) = true ∧ gives (exec (.ctz false 3 0) s) (fun u => u.cx.ra 3 == 64) = true) :=
  ⟨takes_of_takesB (by decide +kernel), takes_of_takesB (by decide +kernel), by decide +kernel⟩

/-- The word forms give the low 32 bits extended by sign (R140). -/
theorem test_word_forms :
    (let s := base.withA [(7, 0x7FFFFFFF), (9, 33)]
     gives (exec (.addw false 3 7 7) s) (fun u => u.cx.ra 3 == 0xFFFFFFFFFFFFFFFE) = true ∧
     gives (exec (.sllw false 3 7 9) s) (fun u => u.cx.ra 3 == 0xFFFFFFFFFFFFFFFE) = true ∧
     gives (exec (.addiw false 3 7 1) s) (fun u => u.cx.ra 3 == 0xFFFFFFFF80000000) = true) := by decide +kernel

theorem witness_ImmediateResults :
    (let s := base.withA [(9, 65)]
     Takes { s := false, hOk := true, xOk := true, a := [9] } s s ∧ Takes { s := false, hOk := true, xOk := true } s s ∧
     decode (leBytes 4 0x04049C41) = .error .reservedField ∧ gives (exec (.sltiu false 3 9 0xFFF) s) (fun u => u.cx.ra 3 == 1) = true ∧
     gives (exec (.mkhi false 5 0x10000) s) (fun u => u.cx.ra 5 == 0x8000000000000000) = true) :=
  ⟨takes_of_takesB (by decide +kernel), takes_of_takesB (by decide +kernel), by decide +kernel⟩

theorem witness_DivisionsWaitInTheReturnBuffer :
    (let s := base.withA [(7, 0x8000000000000000), (9, BitVec.allOnes 64)]
     Takes { s := false, long := true, hOk := true, xOk := true, a := [7, 9] } s s ∧ (s.cx.ra 7).toInt = -(2 ^ 63) ∧ (s.cx.ra 9).toInt = -1 ∧
     Takes { s := false, long := true, hOk := true, xOk := true, a := [7, 0] } s s ∧ s.cx.ra 0 = 0 ∧
     gives (exec (.div false 3 7 9) s) (fun u => u.cx.ra 3 == 0 && u.cx.rb.map (fun e => (e.dest, e.result)) == [(.areg 3, .scalar 0x8000000000000000)]) = true ∧
     gives (exec (.rem false 3 7 0) s) (fun u => u.cx.rb.map (fun e => e.result) == [.scalar 0x8000000000000000]) = true) :=
  ⟨takes_of_takesB (by decide +kernel), by decide +kernel, by decide +kernel, takes_of_takesB (by decide +kernel), by decide +kernel, by decide +kernel, by decide +kernel⟩

/-- Boundary locators and offsets of MKGA, and offsets and cores of PEERA (R144, R145). -/
theorem witness_AddressesAreMade :
    (let s := base.withA [(7, 0x3FF00005 + 167 * 4096 + 191 * 16), (9, 0x7FFF), (10, 0x8000), (11, 0x3FF00005 + 168 * 4096)]
     Takes { s := false, a := [7, 9] } s s ∧ Takes { s := false, a := [9] } s s ∧ s.cur.cl.ok = true ∧ (4 : BitVec 7).toNat ≤ 4 ∧
     gives (exec (.mkga false 3 7 9 4) s) (fun u => (u.cx.ra 3).toNat == 2 ^ 63 + 1023 * 2 ^ 52 + 167 * 2 ^ 44 + 191 * 2 ^ 36 + 5 * 2 ^ 33 + 4 * 2 ^ 15 + 0x7FFF) = true ∧
     traps (exec (.mkga false 3 7 10 4) s) 0x042 = true ∧ traps (exec (.mkga false 3 11 9 4) s) 0x042 = true ∧
     gives (exec (.mkga false 3 7 10 1) s) (fun u => (u.cx.ra 3).toNat == 2 ^ 63 + 1023 * 2 ^ 52 + 167 * 2 ^ 44 + 191 * 2 ^ 36 + 5 * 2 ^ 33 + 1 * 2 ^ 15) = true ∧
     gives (exec (.peera false 3 9 0xFFF) s) (fun u => (u.cx.ra 3).toNat == 2 ^ 63 + 7 * 2 ^ 33 + 0x7FFF) = true ∧
     traps (exec (.peera false 3 10 1) s) 0x041 = true) :=
  ⟨takes_of_takesB (by decide +kernel), takes_of_takesB (by decide +kernel), by decide +kernel, by decide +kernel, by decide +kernel, by decide +kernel,
    by decide +kernel, by decide +kernel, by decide +kernel, by decide +kernel⟩

theorem witness_BranchesAndJumpsTransfer :
    (let s := base.withA [(7, 5), (9, 0x100000001), (10, 0x100000002)]
     Takes { s := false, control := true, hOk := true, xOk := true, a := [7, 9] } s s ∧ Takes { s := false, control := true, hOk := true, xOk := true } s s ∧
     Takes { s := false, control := true, hOk := true, xOk := true, a := [9] } s s ∧
     fetchHalf s s.me (s.cx.pc + 4) (s.cx.pc + 4) = .ok 0 ∧
     gives (exec (.blt false 7 9 0xFFE) s) (fun u => (u.cx.delay.map (fun d => d.target)) == some (some (s.cx.pc - 4)) && u.cx.pc == s.cx.pc + 4) = true ∧
     gives (exec (.jal false 3 4) s) (fun u => u.cx.ra 3 == s.cx.pc + 6 && (u.cx.delay.map (fun d => d.target)) == some (some (s.cx.pc + 8))) = true ∧
     traps (exec (.jr false 3 9 0) s) 0x010 = true ∧
     gives (exec (.jr false 10 10 0) s) (fun u => u.cx.ra 10 == s.cx.pc + 6 && (u.cx.delay.map (fun d => d.target)) == some (some 0x100000002)) = true) :=
  ⟨takes_of_takesB (by decide +kernel), takes_of_takesB (by decide +kernel), takes_of_takesB (by decide +kernel), by decide +kernel, by decide +kernel,
    by decide +kernel, by decide +kernel, by decide +kernel⟩

theorem witness_LoopCountsDown :
    (let s := base.withA [(5, 1), (6, 2)]
     Takes { s := false, control := true, hOk := true, xOk := true, a := [5] } s s ∧
     gives (exec (.loop false 5 0xFFE) s) (fun u => u.cx.ra 5 == 0 && (u.cx.delay.map (fun d => d.target)) == some none) = true ∧
     gives (exec (.loop false 6 0xFFE) s) (fun u => u.cx.ra 6 == 1 && (u.cx.delay.map (fun d => d.target)) == some (some (s.cx.pc - 4))) = true ∧
     gives (exec (.loop false 0 0xFFE) s) (fun u => u.cx.ra 0 == 0 && (u.cx.delay.map (fun d => d.target)) == some (some (s.cx.pc - 4))) = true) :=
  ⟨takes_of_takesB (by decide +kernel), by decide +kernel⟩

/-! ## Witnesses: system instructions and handlers -/

theorem witness_SmallInstructionsComplete :
    (let s := base.withA [(7, 100)]
     Takes { s := false, hOk := true, xOk := true } s s ∧ Takes { s := true, len := 2 } s (committed s) ∧ Takes { s := false } s s ∧
     Takes { s := false, a := [7] } s s ∧ gives (exec .waitall s) (fun u => u.cx.pc == s.cx.pc + 2) = true ∧
     gives (exec (.vlq false 3) s) (fun u => u.cx.ra 3 == 256) = true ∧
     gives (exec (.wdog false 3 7) s) (fun u => u.self.wlimit == 100 && u.cx.ra 3 == 0x4000000) = true ∧
     gives (exec (.wdog false 3 0) s) (fun u => u.self.wlimit == 0x4000000) = true ∧
     gives (exec (.pwrhint false 3) s) (fun u => u.self.eclass == 3) = true) :=
  ⟨takes_of_takesB (by decide +kernel), takes_of_marksB (by decide +kernel), takes_of_takesB (by decide +kernel), takes_of_takesB (by decide +kernel),
    by decide +kernel, by decide +kernel, by decide +kernel, by decide +kernel, by decide +kernel⟩

theorem witness_SystemRegistersAreReadAndWritten :
    (let s := base.withA [(7, 0x1FF)]
     let h := s.modCore s.cur (fun k => { k with issuing := 4, tscr0 := 11, hslot := 2 })
     Takes { s := true, hOk := true, xOk := true } s (committed s) ∧ s.me.who ≠ 4 ∧ Takes { s := true, hOk := true, a := [7] } s (committed s) ∧
     Takes { s := true, hOk := true, xOk := true } h (committed h) ∧ h.me.who = 4 ∧ Takes { s := true, hOk := true, a := [7] } h (committed h) ∧
     gives (exec (.sysrd false 3 0x10) s) (fun u => u.cx.ra 3 == 0x4000000) = true ∧ traps (exec (.sysrd false 3 0x20) s) 0x018 = true ∧
     gives (exec (.syswr false 7 0x0E) s) (fun u => u.cx.flags == 0x7F && u.self.einfo == 0x100) = true ∧
     traps (exec (.syswr false 7 0x1F) s) 0x019 = true ∧ traps (exec (.syswr false 7 0x23) s) 0x018 = true ∧
     gives (exec (.sysrd false 3 0x21) h) (fun u => u.cx.ra 3 == 2) = true ∧
     gives (exec (.syswr false 3 0x22) h) (fun u => (u.core u.cur).tscr0 == 0) = true) :=
  ⟨takes_of_marksB (by decide +kernel), by decide +kernel, takes_of_marksB (by decide +kernel), takes_of_marksB (by decide +kernel), by decide +kernel,
    takes_of_marksB (by decide +kernel), by decide +kernel, by decide +kernel, by decide +kernel, by decide +kernel, by decide +kernel, by decide +kernel,
    by decide +kernel⟩

/-- A handler that runs for the trapped slot 1 of its core. -/
def handling : State :=
  let s := base.setSlot ⟨base.cur, 1⟩ { base.self with phase := .trapped, epc := 0x100000400, gang := some 1, wcount := 9, cause := 0x145, taskId := 77 }
  let s := s.setGang 1 { s.gang 1 with held := [⟨base.cur, 0⟩, ⟨base.cur, 1⟩] }
  let s := s.setSlot ⟨base.cur, 4⟩ { Slot.reset with phase := .live }
  s.modCore base.cur (fun k => { k with issuing := 4, hslot := 1, huid := base.self.uid, tvec := 0x100000800 })

/-- Mirror selectors, HSLOT, PWRBUD and LATTOL as a handler writes them, and the mirror of a slot that has gone (R362). -/
theorem witness_mirror_writes :
    (let h := (handling.modCore base.cur (fun k => { k with tvec := 0 })).onCx (fun c => c.putA 7 0x1FF none)
     h.me.who = 4 ∧ h.mirror h.cur = some ⟨h.cur, 1⟩ ∧ Takes { s := true, hOk := true, a := [7] } h (committed h) ∧ (committed h).mirror h.cur = some ⟨h.cur, 1⟩ ∧
     gives (exec (.sysrd false 3 0x10A) h) (fun u => u.cx.ra 3 == 0x145) = true ∧
     gives (exec (.syswr false 7 0x10A) h) (fun u => (u.slot ⟨u.cur, 1⟩).cause == 0x1FF) = true ∧
     gives (exec (.syswr false 7 0x147) h) (fun u => (u.slot ⟨u.cur, 1⟩).cx.ra 7 == 0x1FF) = true ∧
     gives (exec (.syswr false 7 0x10C) h) (fun u => (u.slot ⟨u.cur, 1⟩).einfo == 0x1FC && u.self.einfo == 0x100) = true ∧
     gives (exec (.syswr false 7 0x21) h) (fun u => (u.core u.cur).hslot == 3) = true ∧
     gives (exec (.syswr false 7 0x1E) h) (fun u => u.pwrbud u.cur.cl == 0x1FF) = true ∧
     gives (exec (.syswr false 7 0x1F) h) (fun u => (u.module 0).lattol == 0x1FF && !(u.module 0).waking) = true ∧
     (let n := h.modCore base.cur (fun k => { k with huid := 999 })
      n.mirror n.cur = none ∧ gives (exec (.syswr false 7 0x10A) n) (fun u => (u.slot ⟨u.cur, 1⟩).cause == 0x145) = true ∧
        gives (exec (.sysrd false 3 0x10A) n) (fun u => u.cx.ra 3 == 0) = true)) :=
  ⟨by decide +kernel, by decide +kernel, takes_of_marksB (by decide +kernel), by decide +kernel⟩

/-- Slot image windows, reserved bits and halted cores (R8, R351, R362). -/
theorem witness_window_writes :
    (let s := base.setSelf { base.self with phase := .forwarded }
     let w := fun (b : Option CoreId) (off : Nat) (v : DWord) => step { s with agenda := [.window b base.cur off v] }
     windowWord s base.cur 0x150 = s.self.cause ∧ s.armed = [] ∧
     gives (w none (0x100 + 8 * 0x0A) 0xFFFF) (fun u => u.self.cause == 0x1FF) = true ∧
     gives (w none (0x100 + 8 * 0x0E) 0xFFFF) (fun u => u.cx.flags == 0x7F && u.self.einfo == 0x100) = true ∧
     gives (w none (0x100 + 8 * 37) 5) (fun u => u.cx.ra 5 == 5) = true ∧
     gives (step { base with agenda := [.window none base.cur (0x100 + 8 * 0x0A) 0xFFFF] }) (fun u => u.self.cause == 0) = true ∧
     gives (w (some base.cur) 0x30 1) (fun u => (u.slot ⟨base.cur, 4⟩).einfo == 0x100) = true ∧
     (let h := s.modCore base.cur (fun k => { k with halted := true })
      gives (step { h with agenda := [.window (some base.cur) base.cur 0 8] }) (fun u => (u.core u.cur).tvec == 8 && (u.core u.cur).halted) = true ∧
      gives (step { h with agenda := [.window none base.cur 0 8] }) (fun u => (u.core u.cur).tvec == 8 && !(u.core u.cur).halted) = true)) := by
  decide +kernel

theorem witness_SoftwareTrapsAndTheReturn :
    (let s := base.withA [(7, 100)]
     Takes { s := false, control := true, a := [7] } s s ∧ (0x17F : BitVec 12).toNat < 0x180 ∧ Takes { s := false } s s ∧
     Takes { s := false, control := true, hOk := true } s s ∧ s.me.who ≠ 4 ∧
     traps (exec (.trap false 7 0x17F) s) 0x17F = true ∧ traps (exec (.brk false 0xFF) s) 0x148 = true ∧ traps (exec (.eret false 0) s) 0x018 = true) ∧
    (Takes { s := false, control := true, hOk := true } handling handling ∧ handling.me.who = 4 ∧
     handling.mirror handling.cur = some ⟨handling.cur, 1⟩ ∧ (handling.slot ⟨handling.cur, 1⟩).phase = .trapped ∧
     gives (exec (.eret false 0) handling) (fun u => (u.slot ⟨base.cur, 1⟩).phase == .live && (u.slot ⟨base.cur, 1⟩).cx.pc == 0x100000400) = true ∧
     gives (exec (.eret false 2) handling) (fun u => (u.slot ⟨base.cur, 1⟩).phase == .forwarded && (u.slot ⟨base.cur, 4⟩).phase == .idle) = true) :=
  ⟨⟨takes_of_takesB (by decide +kernel), by decide +kernel, takes_of_takesB (by decide +kernel), takes_of_takesB (by decide +kernel), by decide +kernel,
    by decide +kernel, by decide +kernel, by decide +kernel⟩,
   takes_of_takesB (by decide +kernel), by decide +kernel, by decide +kernel, by decide +kernel, by decide +kernel, by decide +kernel⟩

theorem witness_HandlerAndServiceSteps :
    (let k := base.cur
     let s := base.modCore k (fun x => { x with trapq := [1], tvec := 0x100000800 })
     (s.core k).trapq = 1 :: [] ∧ (s.slot ⟨k, 4⟩).phase = .idle ∧ (s.core k).halted = false ∧
     gives (exec (.handlerDispatch k) s) (fun u => (u.core k).hslot == 1 && (u.slot ⟨k, 4⟩).cx.pc == 0x100000800) = true) ∧
    (let s := (handling.modCore base.cur (fun x => { x with hwdog := 100 })).setSlot ⟨base.cur, 4⟩ { Slot.reset with phase := .live, wcount := 100 }
     (s.slot ⟨base.cur, 4⟩).phase = .live ∧ (s.core base.cur).hwdog.toNat ≤ (s.slot ⟨base.cur, 4⟩).wcount ∧
     gives (exec (.handlerWatchdogExpiry base.cur) s) (fun u => (u.core base.cur).halted) = true) ∧
    (let s := base.setSelf { base.self with phase := .forwarded, epc := 0x100000004 }
     ctx0.who ≠ 4 ∧ (s.slot ctx0).phase = .forwarded ∧ gives (exec (.slotctlResume ctx0) s) (fun u => (u.slot ctx0).cx.pc == 0x100000004) = true) ∧
    ((base.slot ctx0).phase ≠ .forwarded ∧ (base.slot ctx0).phase = .live ∧ (base.slot ctx0).held = none ∧ (base.slot ctx0).wcount < (base.slot ctx0).wlimit ∧
      (base.slot ctx0).qend = false ∧ (base.slot ctx0).lost = false ∧ (base.slot ctx0).stopped = false ∧ (base.slot ctx0).speculative = false ∧
      traps (exec (.contextLost ctx0) base) 0x109 = true ∧
      gives (exec (.systemWindowWrite (.pidEntry 3 9) 0x5555) base) (fun u => kget (u.module 3).pids 9 0 == 0x5555) = true) ∧
    (let s := base.setSelf { base.self with wcount := 100, wlimit := 100 }
     (s.slot ctx0).wlimit ≤ (s.slot ctx0).wcount ∧ traps (exec (.watchdog ctx0) s) 0x140 = true) ∧
    (let s := base.setSelf { base.self with qend := true }
     (s.slot ctx0).qend = true ∧ (s.slot ctx0).cx.delay = none ∧ traps (exec (.quantumEnd ctx0) s) 0x141 = true) := by
  decide +kernel

theorem witness_WaitsEnd :
    (let e : RbEntry := ⟨.areg 3, .scalar 5, 0, false, false, false, false, 0, 7⟩
     let s := (base.onCx (fun c => { c with rb := [e] })).park .marker
     (s.slot ctx0).wait = some .marker ∧ gives (exec (.waitSatisfied ctx0) s) (fun u => u == s) = true ∧
     gives (exec (.longResultReturn ctx0 7) s) (fun u => gives (exec (.waitSatisfied ctx0) u) (fun v => (v.slot ctx0).wait == none)) = true) ∧
    (let s := base.park (.wPush 1)
     (s.slot ctx0).wait = some (.wPush 1) ∧ ((s.slot ctx0).cx.wOf 1).length < 16 ∧ gives (exec (.waitSatisfied ctx0) s) (fun v => (v.slot ctx0).wait == none) = true) ∧
    (let s := base.park (.qPop 3)
     (s.slot ctx0).wait = some (.qPop 3) ∧ gives (exec (.waitSatisfied ctx0) s) (fun v => v == s) = true) ∧
    (let s := base.park (.barrier 63)
     (s.slot ctx0).wait = some (.barrier 63) ∧ gives (exec (.waitSatisfied ctx0) s) (fun v => (v.slot ctx0).wait == none) = true) := by
  decide +kernel

/-- A trap raised in a slot that already holds a CONTEXT_LOST, one counted in the handler context and one in an idle slot, and held traps at a
boundary (R272, R346, R347, R349). -/
theorem witness_held_traps :
    (let s := base.setSelf { base.self with chain := [⟨0, true, 1⟩], held := some (trapInfo 0x109) }
     s.self.speculative = true ∧ (s.raise (trapInfo 0x009)).self.lost = true ∧ (s.raise (trapInfo 0x009)).self.held = some (trapInfo 0x009)) ∧
    (let n := fun (u : State) => kget (u.module 0).errors 0x109 0
     gives (exec (.contextLost ⟨base.cur, 4⟩) base) (fun u => n u == n base + 1 && (u.slot ctx0 == base.slot ctx0)) = true ∧ (base.slot ⟨base.cur, 2⟩).phase = .idle ∧
     gives (exec (.contextLost ⟨base.cur, 2⟩) base) (fun u => n u == n base + 1) = true ∧
     (let s := base.setSelf { base.self with phase := .trapped }
      gives (exec (.contextLost ctx0) s) (fun u => u.self.lost && gives (exec (.contextLost ctx0) u) (fun v => n v == n base + 2)) = true)) ∧
    ([0x109, 0x140, 0x050].all (fun (k : BitVec 9) =>
      let s := base.setSelf { base.self with held := some (trapInfo k), wcount := if k = 0x140 then 2 ^ 40 else 0 }
      !(base.slot ctx0).lost && decide ((base.slot ctx0).gang = some 1) && decide ((base.gang 1).status = .running) && (match boundary s ctx0 with
      | some (.next u) => (u.slot ctx0).cause == k.setWidth 64 && (u.slot ctx0).einfo.getLsbD 7 | _ => false)) = true) := by
  decide +kernel

/-- The selectors of a gang's membership, cycle and weight set as a task reads them (R353, R355). -/
theorem test_selectors_of_the_gang :
    let w : Wset := ⟨base.self.pid, 5, 0x100010000, 0x100020000, 64, 9⟩
    let s := (inResident base false).setModule 0 { (base.module 0) with wsets := [w] }
    let s := s.setGang 1 { s.gang 1 with block := 3, cyc := { (s.gang 1).cyc with isOpen := true, rel := true, set := 5, converged := true } }
    let r := fun (n : BitVec 12) => match exec (.sysrd false 3 n) s with | .next u => u.cx.ra 3 | _ => 1
    (r 0x16, r 0x17, r 0x18, r 0x19, r 0x1C) = (0xC501, 0x10000, 1, 3, 9) := by
  decide +kernel

/-- An instruction issued again after a RETRY (R245, R361), and writes of SLOTCTL with no command of its (R362). -/
theorem witness_reissue_and_slotctl :
    (let s := (base.park (.reissue [8]))
     (s.slot ctx0).wait = some (.reissue [8]) ∧ gives (exec (.remoteReissue ctx0) s) (fun u => u.self.wait == none && u.self.reissued) = true) ∧
    (let e : StoreElem := ⟨0x8000000000000000 + 4 * 2 ^ 15 + 0x18, 8, 102, 2 ^ 64 - 1⟩
     let c : CtxId := ⟨base.cur, 4⟩
     let s := (base.setSlot c { Slot.reset with phase := .live, wait := some (.confirm [e]), pid := 0 }).modCore base.cur (fun k => { k with issuing := 4 })
     2 ≤ e.val % 4 ∧ (match access s (s.whoIs c) e.addr 8 .write with | .loc l => l % 2 ^ 15 == 0x18 && locRegion l == 4 && !isHbm l | _ => false) = true ∧
     gives (exec (.storeConfirmation c) s) (fun u => (u.core base.cur).halted && u.agenda == []) = true) := by
  decide +kernel

/-! ## Witnesses: scalar memory -/

/-- A task whose private region holds `FE CA 80 BE` at offset 8. -/
def withBytes : State := { base with mem := Memory.setN base.mem (privLoc base.cur 8) 4 0xBE80CAFE }

theorem witness_ScalarLoadsAndTheirChecks :
    (let s := withBytes.withA [(7, 8), (8, 9), (9, 0x8000000000008000), (10, 0x6000), (11, 0x1FFF)]
     Takes { s := false, long := true, hOk := true, a := [7] } s s ∧ Takes { s := false, hOk := true, a := [7, 9] } s s ∧
     s.self.speculative = false ∧ issueCheck s s.me 8 2 .read formsOwn = none ∧ issueCheck s s.me 0x1FFF 1 .read formsOwn = none ∧
     access s (s.whoIs s.me) 8 2 .read = .loc (privLoc s.cur 8) ∧ s.homeRead (privLoc s.cur 8) 2 = some 0xCAFE ∧
     gives (exec (.ldh false 3 7 0) s) (fun u => u.cx.rb.map (fun e => e.result) == [.scalar 0xFFFFFFFFFFFFCAFE]) = true ∧
     gives (exec (.rld false 3 7 0 true 1) s) (fun u => u.cx.rb.map (fun e => e.result) == [.scalar 0xCAFE]) = true ∧
     gives (exec (.ldw false 3 7 0) s) (fun u => u.cx.rb.map (fun e => e.result) == [.scalar 0xFFFFFFFFBE80CAFE]) = true ∧
     traps (exec (.ldh false 3 8 0) s) 0x040 = true ∧ (form (s.cx.ra 9)).isGlob = true ∧ traps (exec (.ldb false 3 9 0) s) 0x041 = true ∧
     s.ownsPriv s.me 0x6000 1 = false ∧ traps (exec (.ldb false 3 10 0) s) 0x041 = true ∧ traps (exec (.std false 3 8 0) s) 0x040 = true ∧
     traps (exec (.stb false 3 9 0) s) 0x041 = true) :=
  ⟨takes_of_takesB (by decide +kernel), takes_of_takesB (by decide +kernel), by decide +kernel⟩

/-- An address that no page maps: the load waits with a deferred fault in the return buffer (R153, R156); a store into a tile that is not READY is
TILE_GUARDED (R178). -/
theorem witness_ScalarFaults :
    (let s := withBytes.withA [(7, 0x200000000)]
     Takes { s := false, long := true, hOk := true, a := [7] } s s ∧ issueCheck s s.me 0x200000000 8 .read formsOwn = none ∧
     gives (.next s) (fun s => match access s (s.whoIs s.me) 0x200000000 8 .read with | .fault _ => true | _ => false) = true ∧
     gives (exec (.ldd false 3 7 0) s) (fun u => u.cx.rb.map (fun e => match e.result with | .fault _ => true | _ => false) == [true]) = true) ∧
    (let s := (withBytes.withA [(7, 0x20)]).onCx (fun c => { c with tiles := c.tiles.set 0 ⟨true, 0x20, .int8, .empty, false, 0⟩ })
     s.ownsPriv s.me 0x20 1 = true ∧ s.guarded s.cur 0x20 1 = true ∧ traps (exec (.stb false 3 7 0) s) 0x088 = true) :=
  ⟨⟨takes_of_takesB (by decide +kernel), by decide +kernel⟩, by decide +kernel⟩

theorem witness_ScalarStoresAreMade :
    (let s := withBytes.withA [(7, 8), (9, 0x123456789)]
     Takes { s := false, hOk := true, a := [7, 9] } s s ∧ issueCheck s s.me 8 4 .write formsOwn = none ∧ issueCheck s s.me 8 8 .write formsAll = none ∧
     s.self.speculative = false ∧ Memory.wf s.mem = true ∧
     gives (exec (.stw false 9 7 0) s) (fun u => Memory.getN u.mem (privLoc s.cur 8) 8 == 0x23456789 && u.cx.pc == s.cx.pc + 4) = true ∧
     gives (exec (.rst false 7 9 0 3) s) (fun u => Memory.getN u.mem (privLoc s.cur 8) 8 == 0x123456789) = true) ∧
    (let e : StoreElem := ⟨0x8000000000000010, 8, 0x1122334455667788, 2 ^ 64 - 1⟩
     let s := withBytes.park (.confirm [e])
     (s.slot ctx0).wait = some (.confirm [e]) ∧ e.mask = 2 ^ (8 * e.size) - 1 ∧ e.val < 2 ^ (8 * e.size) ∧ [e].any (fun e => !(form e.addr).isPriv) = true ∧
     access s (s.whoIs ctx0) e.addr 8 .write = .loc (globLoc 0 0 0 0 0 16) ∧ isHbm (globLoc 0 0 0 0 0 16) = false ∧ locRegion (globLoc 0 0 0 0 0 16) ≠ 4 ∧
     gives (exec (.storeConfirmation ctx0) s) (fun u => Memory.getN u.mem (globLoc 0 0 0 0 0 16) 8 == 0x1122334455667788 && (u.slot ctx0).wait == none) = true) ∧
    (let e : StoreElem := ⟨0x200000000, 8, 1, 2 ^ 64 - 1⟩
     let s := withBytes.park (.confirm [e])
     (match access s (s.whoIs ctx0) e.addr 8 .write with | .fault _ => true | _ => false) = true ∧ traps (exec (.storeConfirmation ctx0) s) 0x048 = true) ∧
    (let e : StoreElem := ⟨8, 8, 1, 2 ^ 64 - 1⟩
     let s := withBytes.setSelf { withBytes.self with ck := some ⟨withBytes.cx, ⟨0, 0, true, 0, 0, true⟩, 0, 0, false, 0, 0, 0⟩ }
     s.self.ck.isSome = true ∧ (s.cluster s.cur.cl).drafts.length < 1024 ∧
     gives (.next (doStore s [e])) (fun u => (u.cluster cl0).drafts.map (fun d => d.elems) == [[e]] && u.mem == s.mem) = true) :=
  ⟨⟨takes_of_takesB (by decide +kernel), by decide +kernel⟩, by decide +kernel, by decide +kernel, by decide +kernel⟩

/-! ## Witnesses: the vector lanes -/

/-- `withBytes` in a speculative segment, with two drafts of its own for offset 8 (R270). -/
def speculated : State :=
  let s := withBytes.setSelf { withBytes.self with chain := [⟨0, true, 1⟩], parents := [] }
  let d := fun (n v : Nat) => ({ owner := s.self.uid, gang := 1, n := n, elems := [⟨8, 1, v, 255⟩], opc := 0 } : Draft)
  s.setCluster cl0 { Cluster.reset with drafts := [d 0 0x11, d 1 0x22] }

/-- Loads that see the segment's drafts, stores inside and outside the gang's regions, and the tile guard (R169, R176, R270). -/
theorem witness_drafts_and_guards :
    (let s := speculated.withA [(7, 8), (8, 0x200000000)]
     let r := fun (u : State) => u.cx.rb.map (fun e => e.result)
     Takes { s := false, long := true, hOk := true, a := [7] } s s ∧ s.self.speculative = true ∧ draftBytes (draftView s s.me) 8 1 = (255, 0x22) ∧
     (draftBytes (draftView s s.me) 8 2).1 = 255 ∧ (draftBytes (draftView s s.me) 0x200000000 1).1 = 0 ∧
     gives (exec (.ldbz false 3 7 0) s) (fun u => r u == [.scalar 0x22]) = true ∧ gives (exec (.ldhz false 3 7 0) s) (fun u => r u == [.scalar 0xCA22]) = true ∧
     gives (exec (.ldbz false 3 8 0) s) (fun u => (r u).all (fun x => match x with | .fault _ => true | _ => false)) = true) ∧
    (let s := speculated.withA [(7, 0x1FF8), (8, 0x2000), (9, 0x55)]
     let g := s.setGang 1 { s.gang 1 with held := [ctx0, ⟨base.cur, 1⟩] }
     gives (exec (.std false 9 7 0) s) (fun u => Memory.getN u.mem (privLoc u.cur 0x1FF8) 8 == 0x55 && (u.cluster cl0).drafts.length == 2) = true ∧
     gives (exec (.std false 9 8 0) g) (fun u => u.mem == g.mem && (u.cluster cl0).drafts.map (fun d => d.elems.map (fun e => e.val)) == [[0x11], [0x22], [0x55]]) = true ∧
     gives (.next (doStore g [⟨0x1FF8, 8, 1, 2 ^ 64 - 1⟩, ⟨0x2000, 8, 2, 2 ^ 64 - 1⟩])) (fun u => Memory.getN u.mem (privLoc u.cur 0x1FF8) 8 == 1 &&
       Memory.getN u.mem (privLoc u.cur 0x2000) 8 == 0 && ((u.cluster cl0).drafts.getLastD ⟨0, 0, 0, 0, []⟩).elems.map (fun e => e.val) == [2]) = true) ∧
    (let s := withBytes.withA [(7, 0x2000), (8, 0x20)]
     let g := s.onCx (fun c => { c with tiles := c.tiles.set 0 ⟨true, 0x20, .int8, .empty, false, 0⟩ })
     s.ownsPriv s.me 0x2000 8 = false ∧ traps (exec (.std false 3 7 0) s) 0x041 = true ∧ g.guarded g.cur 0x20 8 = true ∧
     traps (exec (.ldd false 3 8 0) g) 0x088 = true ∧ traps (exec (.rld false 3 8 0 false 3) g) 0x088 = true ∧ traps (exec (.rst false 8 3 0 3) g) 0x088 = true) :=
  ⟨⟨takes_of_takesB (by decide +kernel), by decide +kernel⟩, by decide +kernel, by decide +kernel⟩

/-- A store's confirmation at a core's system window, and into the inbox of a stopping gang with no room (R360, R362). -/
theorem witness_confirmation_at_a_window :
    (let e : StoreElem := ⟨0x8000000000000000 + 4 * 2 ^ 15 + 0x18, 8, 100, 2 ^ 64 - 1⟩
     let s := (base.setSlot ⟨base.cur, 4⟩ { Slot.reset with phase := .live, wait := some (.confirm [e]), pid := 0 }).modCore base.cur (fun k => { k with issuing := 4 })
     let c : CtxId := ⟨base.cur, 4⟩
     (match access s (s.whoIs c) e.addr 8 .write with | .loc l => locRegion l == 4 && !isHbm l | _ => false) = true ∧
     gives (exec (.storeConfirmation c) s) (fun u => u.mem == s.mem && u.agenda == [.window (some base.cur) base.cur 0x18 100] && (u.slot c).wait == none) = true) := by
  decide +kernel

/-- `base` with its gang stopping and a store of its task to the task's own inbox on its way. -/
def arriving : State :=
  let s := base.setSelf { base.self with wait := some (.confirm [⟨0x8000000000000000 + 3 * 2 ^ 15, 8, 100, 2 ^ 64 - 1⟩]) }
  s.setGang 1 { s.gang 1 with status := .stopping }
/-- A store to a full inbox: the overflow area takes it while it has room (R360); when the inbox is full is a free value. -/
theorem witness_overflows :
    (match access arriving (arriving.whoIs ctx0) (0x8000000000000000 + 3 * 2 ^ 15) 8 .write with
      | .loc l => inboxAt l == some ctx0 && !isHbm l && locRegion l == 3 | _ => false) = true ∧
    ∀ l, inboxAt l = some ctx0 → (Config.freeValue arriving.fresh).getLsbD 0 = false →
      (Config.overflowHead ≤ 65528 → arriving.room l 8 = .area ctx0 1) ∧ (65528 < Config.overflowHead → arriving.room l 8 = .full) := by
  refine ⟨by decide +kernel, ?_⟩
  intro l hl hf
  have h1 : (arriving.slot ctx0).gang.getD 0 = 1 := by decide +kernel
  have h2 : (arriving.gang 1).status = .stopping := by decide +kernel
  have h3 : (arriving.gang 1).overflowed ctx0.core.cl = 0 := by decide +kernel
  have e : arriving.room l 8 = if 65536 < 0 + 8 + Config.overflowHead then .full else .area ctx0 1 := by
    simp only [State.room, hl, h1, h2, h3, hf]; rfl
  exact ⟨fun h => by rw [e, if_neg (by omega)], fun h => by rw [e, if_pos (by omega)]⟩

theorem vectorTakes_of {q : VIss} {s : State} {os : List Opnd} (h1 : takesB q.iss s = true) (h2 : operands s.cx [] q.srcs = some os)
    (h3 : firstMark (os.filterMap Opnd.mark?) = none)
    (h4 : (q.isLong || !(q.d == 48 || q.d == 49) || decide ((s.cx.wOf (q.d.toNat - 48)).length < 16)) = true) : VectorTakes q s s os :=
  ⟨takes_of_takesB h1, h2, h3, fun h hd => Or.inr (by
    rcases hd with hd | hd <;> simpa [h, hd] using h4)⟩

/-- v1 to v4 and o0 to o2 set to values under one tag. -/
def State.withV (s : State) (t : Tag) (l : List (Nat × VBits)) : State :=
  s.onCx fun c => l.foldl (fun c p => c.putV (BitVec.ofNat 6 p.1) ⟨p.2, t, none⟩) c
/-- 1.5 and 2.0 in lane 0 of FP32 registers, -1 in lane 7. -/
def fp32s : State := base.withV .fp32 [(1, 0xBF8000000000000000000000000000000000000000000000000000003FC00000), (2, 0x40000000), (3, 0x40400000)]
def int32s : State := base.withV .int32 [(1, 0xFFFFFFFF0000000000000000000000000000000000000000000000007FFFFFFF), (2, 2), (3, 5), (4, 0x00000007_00000006_00000005_00000004_00000003_00000002_00000001_00000000)]

/-- The commits at a marker: a0's fault, a full w, a long-class vector, a poisoned one, vz, predicates and w pushes (R49, R92, R105, R111). -/
theorem witness_MarkersCommitResults_of_every_kind :
    (let s := base.onCx (fun c => { c with rb := [⟨.areg 0, .fault ⟨trapInfo 0x045 64, 0⟩, 0, false, true, false, false, 0, 0⟩] })
     (match commitList s.cx.rb s.cx with | .trap _ x => x.dfr | _ => false) = true ∧ traps (exec (.nop true) s) 0x045 = true) ∧
    (let s := base.onCx (fun c => { c with w := c.w.set 1 (List.replicate 16 ⟨0, .int32, none⟩), rb := [⟨.vec 49, .vector 5 .int32, 3, false, true, false, false, 0, 0⟩] })
     (match commitList s.cx.rb s.cx with | .wait _ w => w == .wPush 1 | _ => false) = true ∧
       gives (exec (.nop true) s) (fun u => (u.slot ctx0).wait == some (.wPush 1) && u.cx.flags == 0 && u.cx.rb.length == 1) = true) ∧
    (let e := fun (d : RbDest) (r : RbResult) (l : Bool) => (⟨d, r, 2, l, true, false, false, 0, 0⟩ : RbEntry)
     let f : RbResult := .fault ⟨trapInfo 0x045 64, 0⟩
     let c := (base.withV .int32 [(5, 77)]).cx
     (match commitList [e (.vec 5) (.vector 9 .fp32) true] c with | .ok y => y.vreg 5 == ⟨9, .fp32, none⟩ && (y.l[0]).bits == 9 && y.flags == 2 | _ => false) = true ∧
     (match commitList [e (.vec 5) f false] c with | .ok y => (y.vreg 5).bits == 77 && (y.vreg 5).tag == .int32 && (y.vreg 5).mark.isSome | _ => false) = true ∧
     (match commitList [e (.vec 63) f false] c with | .trap _ x => x.code == 0x045 | _ => false) = true ∧
     (match commitList [e (.pred 3) (.pred 0xF0) false] c with | .ok y => y.rk 3 == 0xF0 | _ => false) = true ∧
     (match commitList [e (.pred 3) f false] c with | .trap _ x => x.dfr | _ => false) = true ∧
     (match commitList [e (.vec 49) f false, e (.vec 49) (.vector 4 .int8) false] c with | .ok y => (y.wOf 1).map (fun q => (q.tag, q.mark.isSome)) == [(.none, true), (.int8, false)] | _ => false) = true ∧
     (c.wOf 1).length < 16) := by
  decide +kernel

theorem witness_LaneResults :
    (let os := [Opnd.reg (fp32s.cx.vreg 1), .reg (fp32s.cx.vreg 2)]
     VectorTakes { s := false, d := 5, srcs := [1, 2] } fp32s fp32s os ∧ typeOf fp32s.cx os 5 tyFpInt = .ok .fp32 ∧
     VectorTakes { s := false, d := 5, srcs := [1, 2], long := true } fp32s fp32s os ∧ typeOf fp32s.cx os 5 tyFp3 = .ok .fp32 ∧
     VectorTakes { s := false, d := 5, srcs := [1] } fp32s fp32s [.reg (fp32s.cx.vreg 1)] ∧
     gives (exec (.vadd false 5 1 2 0 false) fp32s) (fun u => laneOf 32 (u.cx.vreg 5).bits 0 == 0x40600000 && laneOf 32 (u.cx.vreg 5).bits 7 == 0xBF800000) = true ∧
     gives (exec (.vmul false 5 1 2 0 false) fp32s) (fun u => laneOf 32 (u.cx.vreg 5).bits 0 == 0x40400000 && (u.cx.vreg 5).tag == .fp32) = true ∧
     gives (exec (.vmul false 5 1 2 0 false) fp32s) (fun u => laneOf 32 (u.cx.l[0]).bits 0 == 0x40400000) = true ∧
     gives (exec (.vdiv false 5 3 2 0 false) fp32s) (fun u => u.cx.rb.map (fun e => match e.result with | .vector v _ => laneOf 32 v 0 | _ => 0) == [0x3FC00000]) = true ∧
     gives (exec (.vneg false 5 1 1 false) fp32s) (fun u => (u.cx.vreg 5).bits == 0) = true) ∧
    (let os := [Opnd.reg (int32s.cx.vreg 1), .reg (int32s.cx.vreg 2)]
     VectorTakes { s := false, d := 5, srcs := [1, 2] } int32s int32s os ∧ typeOf int32s.cx os 5 tyInt = .ok .int32 ∧
     gives (exec (.vadd false 5 1 2 0 false) int32s) (fun u => laneOf 32 (u.cx.vreg 5).bits 0 == 0x80000001 && u.cx.flags == 0) = true ∧
     gives (exec (.vmulh false 5 1 1 0 false) int32s) (fun u => laneOf 32 (u.cx.vreg 5).bits 0 == 0x3FFFFFFF) = true ∧
     gives (exec (.vsra false 5 1 2 0 false) int32s) (fun u => laneOf 32 (u.cx.vreg 5).bits 0 == 0x1FFFFFFF && laneOf 32 (u.cx.vreg 5).bits 7 == 0xFFFFFFFF) = true) :=
  ⟨⟨vectorTakes_of (by decide +kernel) (by decide +kernel) (by decide +kernel) (by decide +kernel), by decide +kernel,
    vectorTakes_of (by decide +kernel) (by decide +kernel) (by decide +kernel) (by decide +kernel), by decide +kernel,
    vectorTakes_of (by decide +kernel) (by decide +kernel) (by decide +kernel) (by decide +kernel), by decide +kernel⟩,
   vectorTakes_of (by decide +kernel) (by decide +kernel) (by decide +kernel) (by decide +kernel), by decide +kernel⟩

theorem witness_FusedShortAndImmediateResults :
    (let os := [Opnd.reg (fp32s.cx.vreg 1), .reg (fp32s.cx.vreg 2), .reg (fp32s.cx.vreg 3)]
     VectorTakes { s := false, d := 3, srcs := [1, 2, 3] } fp32s fp32s os ∧ typeOf fp32s.cx os 3 tyFp = .ok .fp32 ∧
     gives (exec (.vfma false 3 1 2 0 false) fp32s) (fun u => laneOf 32 (u.cx.vreg 3).bits 0 == 0x40C00000) = true) ∧
    (let os := [Opnd.reg (fp32s.cx.vreg 1), .reg (fp32s.cx.vreg 2)]
     VectorTakes { s := false, len := 2, d := spec5 1, srcs := [1, 2].map spec5 } fp32s fp32s os ∧ typeOf fp32s.cx os (spec5 1) tyFpInt = .ok .fp32 ∧
     gives (exec (.vadd16 false 1 2) fp32s) (fun u => laneOf 32 (u.cx.vreg 1).bits 0 == 0x40600000 && u.cx.pc == fp32s.cx.pc + 2) = true) ∧
    (let os := [Opnd.reg (int32s.cx.vreg 4)]
     VectorTakes { s := false, d := 5, srcs := [4] } int32s int32s os ∧ typeOf int32s.cx os 5 tyInt = .ok .int32 ∧ typeOf int32s.cx os 5 tyAny = .ok .int32 ∧
     gives (exec (.vaddi false 5 4 0xFF 0) int32s) (fun u => laneOf 32 (u.cx.vreg 5).bits 0 == 0xFFFFFFFF && laneOf 32 (u.cx.vreg 5).bits 7 == 6) = true ∧
     gives (exec (.vslide false 5 4 0xFF 0) int32s) (fun u => laneOf 32 (u.cx.vreg 5).bits 0 == 1 && laneOf 32 (u.cx.vreg 5).bits 7 == 0) = true) :=
  ⟨⟨vectorTakes_of (by decide +kernel) (by decide +kernel) (by decide +kernel) (by decide +kernel), by decide +kernel⟩,
   ⟨vectorTakes_of (by decide +kernel) (by decide +kernel) (by decide +kernel) (by decide +kernel), by decide +kernel⟩,
   vectorTakes_of (by decide +kernel) (by decide +kernel) (by decide +kernel) (by decide +kernel), by decide +kernel⟩

/-- Patterns at the ends of the ranges: a sum past the largest value, a product below the smallest, signed zeros, signalling and quiet NaNs, infinities
that cancel, a division by zero, a root of a negative value, the estimates of 1 and of a power of 2, and the special functions' exact cases (R69, R87,
R112 to R115). -/
theorem witness_floating_patterns :
    (Tag.fp32, (⟨8, 23⟩ : Ieee)) ∈ ieeeLayouts ∧ 0xFFFFFFFF < 2 ^ 32 ∧
    laneAdd .fp32 0x7F7FFFFF 0x7F7FFFFF = (0x7F800000, 20) ∧ laneMul .fp32 0x00000001 0x3F000000 = (0, 24) ∧ laneAdd .fp32 0x80000000 0 = (0, 0) ∧
    laneAdd .fp32 0x80000000 0x80000000 = (0x80000000, 0) ∧ laneMul .fp32 0x7F800001 0xFFFFFFFF = (0x7FC00001, 1) ∧ laneSub .fp32 0x7F800000 0x7F800000 = (0x7FC00000, 1) ∧
    laneMul .fp32 0x7F800000 0x80000000 = (0x7FC00000, 1) ∧ laneMax .fp32 0x80000000 0 = (0, 0) ∧ laneNeg .fp32 0xFFFFFFFF = (0x7FFFFFFF, 0) ∧
    fp2 fpDiv .fp32 0xBF800000 0 = (0xFF800000, 2) ∧ fp2 fpDiv .fp32 0 0x80000000 = (0x7FC00000, 1) ∧ fp2 fpDiv .fp32 0x3F800000 0x40400000 = (0x3EAAAAAB, 16) ∧
    fp1 fpSqrt .fp32 0xBF800000 = (0x7FC00000, 1) ∧ fp1 fpSqrt .fp32 0x40000000 = (0x3FB504F3, 16) ∧ fp1 fpSqrt .fp32 0x80000000 = (0x80000000, 0) ∧
    fp1 fpRcpe .fp32 0x80000000 = (0xFF800000, 0) ∧ fp1 fpRsqe .fp32 0x7F800000 = (0, 0) ∧ fp2 fpRcps .fp32 0x7F800000 0 = (0x3F800000, 0) ∧
    fp1 fpSin .fp32 0x7F800000 = (0x7FC00001, 64) ∧ fp1 fpCos .fp32 0x80000000 = (0x3F800000, 0) ∧ fp1 fpExp2 .fp32 0xC0000000 = (0x3E800000, 0) ∧
    fp1 fpLog2 .fp32 0x41000000 = (0x40400000, 0) ∧ fp1 fpLog2 .fp32 0 = (0xFF800000, 2) ∧
    laneFma .fp32 false 0x7F800000 0 0x7F800001 = (0x7FC00001, 1) ∧ laneFma .fp32 true 0x3F800000 0x3F800000 0x3F800000 = (0, 0) ∧
    laneFmal .fp32 0x3F800000 0x40000000 0x40400000 = (0x40E00000, 0) := by
  decide +kernel

theorem witness_TypesAndIntegerLanes :
    (let x := fp32s.cx.vreg 1
     let y := int32s.cx.vreg 1
     x.tag ≠ .none ∧ (base.cx.vreg 5).tag = .none ∧ y.tag ≠ x.tag ∧ y.tag ≠ .none ∧ (5 : BitVec 6).toNat < 40) ∧
    (let os := [Opnd.reg (base.cx.vreg 1), .reg (base.cx.vreg 2)]
     VectorTakes { s := false, d := 5, srcs := [1, 2] } base base os ∧ typeOf base.cx os 5 tyFpInt = .error 0x009 ∧
     traps (exec (.vadd false 5 1 2 0 false) base) 0x009 = true) ∧
    (Tag.isInt .int4 = true ∧ Tag.iw .int4 ≤ 4 ∧ 3 < Tag.iw .int4 ∧ (laneAdd .int4 0x07 0x01).1 = 0xF8 ∧ laneSra .int4 0xF8 4 = 0xFF ∧ Tag.isInt .uint8 = true ∧
      (laneMul .uint8 200 2).1 = 144 ∧ laneMulh .uint8 200 200 = 156 ∧ (laneMax .int8 0x80 0x7F).1 = 0x7F) :=
  ⟨by decide +kernel, ⟨vectorTakes_of (by decide +kernel) (by decide +kernel) (by decide +kernel) (by decide +kernel), by decide +kernel⟩, by decide +kernel⟩

theorem witness_ComparesAndPredicates :
    (let os := [Opnd.reg (fp32s.cx.vreg 1), .reg (fp32s.cx.vreg 2)]
     VectorTakes { s := false, d := 63, srcs := [1, 2], l := false } fp32s fp32s os ∧ typeOf fp32s.cx os 63 tyFpInt = .ok .fp32 ∧
     gives (exec (.vcmplt false 7 1 2 0 false) fp32s) (fun u => u.cx.rk 7 == 0xF000000F) = true ∧
     gives (exec (.vcmplt false 0 1 2 0 false) fp32s) (fun u => u.cx.rk 0 == 0xFFFFFFFF) = true) ∧
    (let s := (base.onCx (fun c => { c with k := (c.k.set 1 0xF0F0).set 2 0xFF00 })).withA [(24, 2), (25, 7)]
     Takes { s := false } s s ∧ Takes { s := false, v := [50, 51] } s s ∧ (7 : BitVec 6).toNat < 8 ∧
     gives (exec (.kandn false 7 2 1 0 false) s) (fun u => u.cx.rk 7 == 0x0F00) = true ∧
     gives (exec (.kxor false 7 1 2 1 true) s) (fun u => u.cx.rk 7 == 0x00F0) = true ∧
     gives (exec (.vwhile false 7 50 51 2) s) (fun u => u.cx.rk 7 == 0x000FFFFF) = true) :=
  ⟨⟨vectorTakes_of (by decide +kernel) (by decide +kernel) (by decide +kernel) (by decide +kernel), by decide +kernel⟩,
   takes_of_takesB (by decide +kernel), takes_of_takesB (by decide +kernel), by decide +kernel⟩

theorem witness_PermutesAndReductions :
    (let s := int32s
     let o := s.cx.vreg 4
     VectorTakes { s := false, d := 5, srcs := [4, 4] } s s [.reg o, .reg o] ∧ o.tag = .int32 ∧ o.tag.isInt = true ∧
     VectorTakes { s := false, d := 5, srcs := [4] } s s [.reg o] ∧ typeOf s.cx [.reg o] 5 tyAny = .ok .int32 ∧ (7 : BitVec 6).toNat < Tag.lanes .int32 ∧
     VectorTakes { s := false, d := 5, srcs := [4, 5] } s s [.reg o, .reg (s.cx.vreg 5)] ∧ destTag s.cx 5 = .none ∧
     VectorTakes { s := false, d := 5, srcs := [1, 2, 3, 4] } s s [.reg (s.cx.vreg 1), .reg (s.cx.vreg 2), .reg (s.cx.vreg 3), .reg o] ∧
     gives (exec (.vperm false 5 4 1 0 false) s) (fun u => laneOf 32 (u.cx.vreg 5).bits 0 == 0 && laneOf 32 (u.cx.vreg 5).bits 1 == 0) = true ∧
     gives (exec (.vbcast false 5 4 7 0 false) s) (fun u => laneOf 32 (u.cx.vreg 5).bits 3 == 7) = true ∧
     gives (exec (.vins false 5 3 7 0 false) s) (fun u => laneOf 32 (u.cx.vreg 5).bits 7 == 5 && laneOf 32 (u.cx.vreg 5).bits 0 == 0) = true ∧
     gives (exec (.vzip4 false 5 1 3 0 false) s) (fun u => laneOf 32 (u.cx.vreg 5).bits 7 == 7 && laneOf 32 (u.cx.vreg 5).bits 4 == 0xFFFFFFFF) = true ∧
     gives (exec (.vunzip2 false 5 3 1 0 false) s) (fun u => laneOf 32 (u.cx.vreg 5).bits 4 == 1 && laneOf 32 (u.cx.vreg 5).bits 7 == 7) = true ∧
     gives (exec (.vrsum false 5 4 0) s) (fun u => laneOf 32 (u.cx.vreg 5).bits 0 == 28 && laneOf 32 (u.cx.vreg 5).bits 1 == 0) = true ∧
     gives (exec (.vrmin false 5 1 0) s) (fun u => laneOf 32 (u.cx.vreg 5).bits 0 == 0xFFFFFFFF) = true ∧
     gives (exec (.vrand false 5 4 7) s) (fun u => laneOf 32 (u.cx.vreg 5).bits 0 == 0xFFFFFFFF) = true) :=
  ⟨vectorTakes_of (by decide +kernel) (by decide +kernel) (by decide +kernel) (by decide +kernel), by decide +kernel, by decide +kernel,
   vectorTakes_of (by decide +kernel) (by decide +kernel) (by decide +kernel) (by decide +kernel), by decide +kernel, by decide +kernel,
   vectorTakes_of (by decide +kernel) (by decide +kernel) (by decide +kernel) (by decide +kernel), by decide +kernel,
   vectorTakes_of (by decide +kernel) (by decide +kernel) (by decide +kernel) (by decide +kernel), by decide +kernel⟩

theorem witness_ConversionsRetagAndRequantise :
    (VectorTakes { s := false, d := 5, srcs := [1] } fp32s fp32s [.reg (fp32s.cx.vreg 1)] ∧ (fp32s.cx.vreg 1).tag ≠ .none ∧
     gives (exec (.vcvt false 5 2 11 0 false) fp32s) (fun u => laneOf 32 (u.cx.vreg 5).bits 0 == 2 && (u.cx.vreg 5).tag == .int32) = true ∧
     gives (exec (.vtag false 5 2 12) fp32s) (fun u => laneOf 32 (u.cx.vreg 5).bits 0 == 0x40000000 && (u.cx.vreg 5).tag == .uint32) = true) ∧
    (let s := int32s.withV .int32 [(37, 0x40000000), (38, 1), (39, 3)]
     VectorTakes { s := false, d := 5, srcs := [3, 37, 38, 39] } s s [.reg (s.cx.vreg 3), .reg (s.cx.vreg 37), .reg (s.cx.vreg 38), .reg (s.cx.vreg 39)] ∧
     (∀ x ∈ [s.cx.vreg 3, s.cx.vreg 37, s.cx.vreg 38, s.cx.vreg 39], x.tag = .int32) ∧ (5 : BitVec 3).toNat < 6 ∧
     gives (exec (.vrq false 5 3 0 5 0 false) s) (fun u => laneOf 8 (u.cx.vreg 5).bits 0 == 4 && (u.cx.vreg 5).tag == .int8) = true) :=
  ⟨⟨vectorTakes_of (by decide +kernel) (by decide +kernel) (by decide +kernel) (by decide +kernel), by decide +kernel⟩,
   vectorTakes_of (by decide +kernel) (by decide +kernel) (by decide +kernel) (by decide +kernel), by decide +kernel⟩

/-- VCVT of a broadcast and of vz takes INT64 (R116). -/
theorem witness_broadcast_conversions :
    (let s := base.withA [(24, 0xFFFFFFFFFFFFFFFF)]
     VectorTakes { s := false, d := 5, srcs := [50] } s s [.bcast 0xFFFFFFFFFFFFFFFF] ∧ VectorTakes { s := false, d := 5, srcs := [63] } s s [.zero] ∧
     gives (exec (.vcvt false 5 50 2 0 false) s) (fun u => laneOf 32 (u.cx.vreg 5).bits 3 == 0xBF800000 && laneOf 32 (u.cx.vreg 5).bits 4 == 0) = true ∧
     gives (exec (.vcvt false 5 63 2 0 false) s) (fun u => (u.cx.vreg 5).bits == 0) = true ∧
     traps (exec (.vcvt false 5 5 2 0 false) s) 0x009 = true) :=
  ⟨vectorTakes_of (by decide +kernel) (by decide +kernel) (by decide +kernel) (by decide +kernel),
   vectorTakes_of (by decide +kernel) (by decide +kernel) (by decide +kernel) (by decide +kernel), by decide +kernel⟩

theorem witness_FlagsAndQueueMoves :
    (let e : QEntry := ⟨99, .int32, none⟩
     let s := (int32s.onCx (fun c => { c with flags := 0x55, q := c.q.set 3 [e] })).withA [(24, 0x0F)]
     Takes { s := false } s s ∧ Takes { s := false, v := [50] } s s ∧ Takes { s := false, len := 2, long := true, v := [47] } s s ∧
     s.cx.qOf 3 = e :: [] ∧ e.mark = none ∧ Takes { s := false, len := 2, v := [spec5 4] } s s ∧ (s.cx.vreg (spec5 4)).tag ≠ .none ∧ (s.cx.wOf 1).length < 16 ∧
     gives (exec (.vflrd false 5) s) (fun u => (u.cx.vreg 5).bits == 0x55 && (u.cx.vreg 5).tag == .int64) = true ∧
     gives (exec (.vflclr false 50) s) (fun u => u.cx.flags == 0x50) = true ∧
     gives (exec (.vqpop false 5 3) s) (fun u => u.cx.qOf 3 == [] && u.cx.rb.map (fun e => e.result) == [.vector 99 .int32]) = true ∧
     gives (exec (.vqpush false 4 1) s) (fun u => (u.cx.wOf 1).map (fun e => e.tag) == [.int32]) = true) :=
  ⟨takes_of_takesB (by decide +kernel), takes_of_takesB (by decide +kernel), takes_of_takesB (by decide +kernel), by decide +kernel, by decide +kernel,
    takes_of_takesB (by decide +kernel), by decide +kernel, by decide +kernel, by decide +kernel⟩

/-- A compare whose source is a queue waits as a long-class result, and takes a fault entry's mark (R44, R90, R164). -/
theorem witness_compares_of_queues :
    let e : QEntry := ⟨0x7FFFFFFF, .int32, none⟩
    let m : Mark := ⟨trapInfo 0x045 64, 0⟩
    let s := int32s.onCx (fun c => { c with q := (c.q.set 3 [e]).set 2 [{ e with mark := some m }] })
    let q : VIss := { s := false, d := 63, srcs := [2, 47], l := false }
    let f : VIss := { s := false, d := 63, srcs := [2, 46], l := false }
    (VectorTakes q s s [.reg (s.cx.vreg 2), .ent ⟨0x7FFFFFFF, .int32, none⟩] ∧ Takes f.iss s s) ∧ q.isLong = true ∧
    typeOf s.cx [.reg (s.cx.vreg 2), .ent ⟨0x7FFFFFFF, .int32, none⟩] 63 tyFpInt = .ok .int32 ∧
    (operands s.cx [] [2, 46]).map (fun os => firstMark (os.filterMap Opnd.mark?)) = some (some m) ∧
    gives (exec (.vcmplt false 7 2 47 0 false) s) (fun u => u.cx.rk 7 == s.cx.rk 7 && u.cx.qOf 3 == [] && u.cx.rb.map (fun e => (e.dest, e.result)) == [(.pred 7, .pred 0x0000000F)]) = true ∧
    gives (exec (.vcmplt false 7 2 46 0 false) s) (fun u => u.cx.rb.map (fun e => (e.dest, e.result)) == [(.pred 7, .fault m)]) = true :=
  ⟨⟨vectorTakes_of (by decide +kernel) (by decide +kernel) (by decide +kernel) (by decide +kernel), takes_of_takesB (by decide +kernel)⟩, by decide +kernel⟩

/-- VFLRD to vz, and VQPOP and QPOP of fault entries and of an empty queue (R108, R157, R164); a VTAG of a broadcast or of vz is no instruction (R117). -/
theorem witness_fault_entries_move :
    (let m : Mark := ⟨trapInfo 0x045 64, 0⟩
     let e : QEntry := ⟨0, .int8, some m⟩
     let s := base.onCx (fun c => { c with q := c.q.set 3 [e], w := c.w.set 1 [e] })
     (Takes { s := false, len := 2, long := true, v := [47] } s s ∧ Takes { s := false, len := 2, long := true, v := [46] } s s ∧ Takes { s := false } s s) ∧
     s.cx.qOf 3 = e :: [] ∧ s.cx.qOf 2 = [] ∧ e.mark = some m ∧ s.cx.bound true 1 = false ∧
     gives (exec (.vflrd false 63) s) (fun u => u.cx.v == s.cx.v && u.cx.pc == s.cx.pc + 4) = true ∧
     gives (exec (.vqpop false 5 3) s) (fun u => u.cx.qOf 3 == [] && u.cx.rb.map (fun e => e.result) == [.fault m]) = true ∧
     gives (exec (.vqpop false 5 2) s) (fun u => (u.slot ctx0).wait == some (.qPop 2)) = true ∧
     gives (exec (.qpop false 5 1) s) (fun u => u.cx.wOf 1 == [] && u.cx.ra 5 == 0 && u.cx.am[5] == some m) = true) ∧
    ([50, 57, 63].all (fun a => ([0, 11, 13].all (fun f =>
      decide (decode (leBytes 4 (f * 2 ^ 22 + a * 2 ^ 16 + 5 * 2 ^ 10 + 0x2D * 2 ^ 3 + 2 ^ 2 + 1)) = .error .reservedField)))) = true) :=
  ⟨⟨⟨takes_of_takesB (by decide +kernel), takes_of_takesB (by decide +kernel), takes_of_takesB (by decide +kernel)⟩, by decide +kernel⟩, by decide +kernel⟩

/-! ## Witnesses: vector memory, streams and queues -/

theorem witness_VectorAccesses :
    (let s := (int32s.withA [(7, 0)])
     let s := { s with mem := Memory.setN s.mem (privLoc s.cur 28) 4 0x12345678 }
     Takes { s := false, long := true, a := [7] } s s ∧ Takes { s := false, long := true, a := [7], v := [spec5 4] } s s ∧ (s.cx.ra 7).toNat % Tag.align .int32 = 0 ∧
     Takes { s := false, a := [7], v := [4] } s s ∧ vecCheck s s.me 4 .read true ((List.range 8).map (fun i => BitVec.ofNat 64 (4 * i))) = none ∧
     loadElem s s.me 28 4 = .val 0x12345678 ∧ (s.cx.vreg (spec5 4)).tag.isInt = true ∧
     gives (exec (.vld false 5 7 11 0 0) s) (fun u => u.cx.rb.map (fun e => match e.result with | .vector v _ => laneOf 32 v 7 | _ => 0) == [0x12345678]) = true ∧
     gives (exec (.vgather false 5 7 11 4 0) s) (fun u => u.cx.rb.map (fun e => match e.result with | .vector v _ => laneOf 32 v 7 | _ => 0) == [0x12345678]) = true ∧
     gives (exec (.vst false 4 7 11 1 0) s) (fun u => Memory.getN u.mem (privLoc s.cur 60) 4 == 7) = true ∧
     gives (exec (.vscatter false 4 7 11 4 0) s) (fun u => Memory.getN u.mem (privLoc s.cur 24) 4 == 6) = true ∧
     traps (exec (.vst false 5 7 11 1 0) s) 0x009 = true ∧ traps (exec (.vst false 4 7 12 1 0) s) 0x008 = true) :=
  ⟨takes_of_takesB (by decide +kernel), takes_of_takesB (by decide +kernel), by decide +kernel, takes_of_takesB (by decide +kernel), by decide +kernel⟩

/-- The first refused element in lane order is the fault's (R105); an unaligned base, and a lane outside the gang's regions, trap (R103). -/
theorem witness_refused_elements :
    (let s := { (int32s.withA [(7, 0), (8, 2), (9, 0x1FF0)]) with poison := [(unitOf (privLoc base.cur 0), 255)] }
     let s := { s with mem := Memory.setN s.mem (privLoc s.cur 64) 4 9 }
     (match loadElem s s.me 0 4 with | .fault _ => true | _ => false) = true ∧
     gives (exec (.vld false 5 7 11 0 0) s) (fun u => u.cx.rb.map (fun e => match e.result with | .fault m => m.info.eaddr | _ => 1) == [0]) = true ∧
     traps (exec (.vld false 5 8 11 0 0) s) 0x040 = true ∧ traps (exec (.vst false 4 8 11 0 0) s) 0x040 = true ∧
     (vecCheck s s.me 4 .read true ((List.range 8).map (fun i => BitVec.ofNat 64 (0x1FF0 + 4 * i)))).isSome = true ∧
     traps (exec (.vld false 5 9 11 0 0) s) 0x041 = true ∧ traps (exec (.vst false 4 9 11 0 0) s) 0x041 = true ∧
     traps (exec (.vgather false 5 7 11 5 0) s) 0x009 = true ∧ traps (exec (.vgather false 5 7 10 4 0) s) 0x008 = true ∧
     gives (exec (.vst false 63 7 11 2 0) s) (fun u => Memory.getN u.mem (privLoc u.cur 64) 4 == 0) = true) := by
  decide +kernel

/-- A record of one dimension of 9 INT32 elements at stride 1 (in elements) from address 0, at offset 64. -/
def recState : State :=
  let s := base.withA [(7, 64), (8, 0x1234)]
  { s with mem := Memory.setN (Memory.setN (Memory.setN s.mem (privLoc s.cur 72) 8 0x000B) (privLoc s.cur 80) 8 9) (privLoc s.cur 88) 8 1 }

theorem witness_PatternsAndScalarQueueMoves :
    (let s := recState
     Takes { s := false, a := [7] } s s ∧ recordCheck s s.me 64 8 64 = none ∧ (s.cx.pat 3).state ≠ .running ∧
     readDwords s s.me 64 8 = .ok [0, 11, 9, 1, 0, 0, 0, 0] ∧ (patternOf 64 [0, 11, 9, 1, 0, 0, 0, 0]).isSome = true ∧
     patternOf 64 [0, 0, 9, 1, 0, 0, 0, 0] = none ∧ Takes { s := false } s s ∧ Takes { s := false, long := true } s s ∧ (s.cx.pat 3).state = .undef ∧
     traps (exec (.sgo false 3 3 false) s) 0x059 = true ∧ traps (exec (.shalt false 3) s) 0x059 = true ∧
     gives (exec (.sdef false 3 7 0) s) (fun u => (u.cx.pat 3).state == .defined && (u.cx.pat 3).total == 9 &&
       gives (exec (.sgo false 3 3 false) u) (fun v => (v.cx.pat 3).state == .running && (v.cx.pat 3).queue == 3 &&
         gives (exec (.sq false 5 3) v) (fun w => w.cx.rb.map (fun e => e.result) == [.scalar 9]) && traps (exec (.qpush false 3 8 11) v) 0x059)) = true) ∧
    (let e : QEntry := ⟨0xFFFFFFFE, .int32, none⟩
     let s := (base.withA [(8, 0x1234)]).onCx (fun c => { c with w := c.w.set 1 [e], q := c.q.set 2 (List.replicate 16 e) })
     Takes { s := false, a := [8] } s s ∧ Takes { s := false } s s ∧ s.cx.bound false 3 = false ∧ (s.cx.qOf 3).length < 16 ∧ 16 ≤ (s.cx.qOf 2).length ∧
     s.cx.bound true 1 = false ∧ s.cx.wOf 1 = e :: [] ∧ s.cx.wOf 0 = [] ∧ e.mark = none ∧ e.tag = .int32 ∧
     gives (exec (.qpush false 3 8 11) s) (fun u => (u.cx.qOf 3).map (fun e => (laneOf 32 e.bits 7, e.tag)) == [(0x1234, .int32)]) = true ∧
     gives (exec (.qpush false 2 8 11) s) (fun u => (u.slot ctx0).wait == some (.qPush 2)) = true ∧
     gives (exec (.qpop false 5 1) s) (fun u => u.cx.ra 5 == 0xFFFFFFFFFFFFFFFE && u.cx.wOf 1 == []) = true ∧
     gives (exec (.qpop false 5 0) s) (fun u => (u.slot ctx0).wait == some (.wPop 0)) = true) :=
  ⟨⟨takes_of_takesB (by decide +kernel), by decide +kernel, by decide +kernel, by decide +kernel, by decide +kernel, by decide +kernel,
    takes_of_takesB (by decide +kernel), takes_of_takesB (by decide +kernel), by decide +kernel⟩,
   takes_of_takesB (by decide +kernel), takes_of_takesB (by decide +kernel), by decide +kernel⟩

/-- SDEF of a RUNNING pattern, SQ of DEFINED and FAULT patterns, and QPOP of the short tags (R161, R166). -/
theorem witness_pattern_states_and_short_tags :
    (let m : Mark := ⟨trapInfo 0x045 64, 0⟩
     let st := fun (f : Pattern → Pattern) => recState.onCx (fun c => { c with pats := c.pats.set 3 (f { (c.pat 3) with dims := 1, n := [9] }) })
     let r := st (fun p => { p with state := .running })
     let d := st (fun p => { p with state := .defined })
     let f := st (fun p => { p with state := .fault, flt := some m })
     Takes { s := false, a := [7] } r r ∧ Takes { s := false, long := true } d d ∧ recordCheck r r.me 64 8 64 = none ∧ (r.cx.pat 3).state = .running ∧
     (d.cx.pat 3).state = .defined ∧ (f.cx.pat 3).state = .fault ∧ (f.cx.pat 3).flt = some m ∧ traps (exec (.sdef false 3 7 0) r) 0x059 = true ∧
     gives (exec (.sq false 5 3) d) (fun u => u.cx.rb.map (fun e => e.result) == [.scalar 9]) = true ∧
     gives (exec (.sq false 5 3) f) (fun u => u.cx.rb.map (fun e => e.result) == [.fault m]) = true) ∧
    ([(Tag.int4, 0xFFFFFFFFFFFFFFFB), (.int8, 0xFFFFFFFFFFFFFFFB), (.int16, 0xFFFFFFFFFFFFFAFB), (.uint8, 0xFB), (.fp16, 0xFAFB), (.bf16, 0xFAFB), (.tap8, 0xFB),
      (.tap6, 0x3B), (.uint32, 0xFCFAFAFB), (.fp64, 0x88888888FCFAFAFB)].all (fun p =>
      let s := base.onCx (fun c => { c with w := c.w.set 1 [⟨0x77_88888888_FCFAFAFB, p.1, none⟩] })
      gives (exec (.qpop false 5 1) s) (fun u => u.cx.ra 5 == p.2)) = true) :=
  ⟨⟨takes_of_takesB (by decide +kernel), takes_of_takesB (by decide +kernel), by decide +kernel⟩, by decide +kernel⟩

/-- The pattern of `recState` RUNNING on q1 with 8 of its 9 elements taken, and an output pattern on w0. -/
def streaming (isW : Bool) (pos : Nat) : State :=
  let p : Pattern := { Pattern.reset with state := .running, fmt := .int32, n := [9, 0, 0, 0], str := [1, 0, 0, 0], pos := pos, isW := isW, queue := if isW then 0 else 1 }
  let s := { base with mem := Memory.setN base.mem (privLoc base.cur 32) 4 0x55 }
  s.onCx (fun c => { c with pats := c.pats.set 0 p, w := c.w.set 0 [⟨0x77, .int32, none⟩] })

theorem witness_StreamEnginesMoveEntries :
    (let s := streaming false 8
     s.streams ctx0 = true ∧ ((s.slot ctx0).cx.pat 0).state = .running ∧ ((s.slot ctx0).cx.pat 0).isW = false ∧ ((s.slot ctx0).cx.qOf 1).length < 16 ∧
     (match gatherEntry s ctx0 ((s.slot ctx0).cx.pat 0) 8 1 with | .ok l => l == [0x55] | _ => false) = true ∧
     gives (exec (.streamInputFill ctx0 0) s) (fun u => u.cx.qOf 1 == [⟨0x55, .int32, none⟩] && (u.cx.pat 0).state == .done && (u.cx.pat 0).pos == 9) = true) ∧
    (let s := (streaming false 8).onCx (fun c => { c with pats := c.pats.set 0 { c.pat 0 with base := 0x200000000 } })
     (match gatherEntry s ctx0 ((s.slot ctx0).cx.pat 0) 8 1 with | .error (.fault _) => true | _ => false) = true ∧
     gives (exec (.streamInputFill ctx0 0) s) (fun u => (u.cx.pat 0).state == .fault && (u.cx.qOf 1).map (fun e => e.tag) == [.none]) = true) ∧
    (let s := streaming true 8
     ((s.slot ctx0).cx.pat 0).isW = true ∧ (s.slot ctx0).speculative = false ∧ (s.slot ctx0).cx.wOf 0 = ⟨0x77, .int32, none⟩ :: [] ∧
     (match scatterEntry ctx0 ((s.slot ctx0).cx.pat 0) 0x77 s 8 0 1 with | .ok _ => true | _ => false) = true ∧
     gives (exec (.streamOutputDrain ctx0 0) s) (fun u => Memory.getN u.mem (privLoc u.cur 32) 4 == 0x77 && (u.cx.pat 0).state == .done && u.cx.wOf 0 == []) = true) ∧
    (let s := (streaming true 8).onCx (fun c => { c with w := c.w.set 0 [] })
     (s.slot ctx0).cx.wOf 0 = [] ∧ gives (exec (.streamOutputDrain ctx0 0) s) (fun u => u == s) = true) := by
  decide +kernel

/-! ## Witnesses: synchronisation -/

theorem witness_BindingsCountersAndFences :
    (let s := base.withA [(7, 0x1000), (8, 63), (9, 0x8000000000000008), (10, 64), (11, 0x1001), (12, 0x8000000000000009)]
     Takes { s := false, a := [7, 8] } s s ∧ Takes { s := false } s s ∧ oneForm 0x1000 (0x1000 + BitVec.ofNat 64 (2 ^ 12 - 1)) = true ∧ (s.cx.ra 7).toNat % 2 ^ 12 = 0 ∧
     (form (s.cx.ra 9)).isGlob = true ∧
     gives (exec (.bind false 7 7 8 12 true) s) (fun u => u.cx.binds[7] == some ⟨0x1000, 12, .barrier 63⟩) = true ∧
     traps (exec (.bind false 7 7 10 12 true) s) 0x061 = true ∧ traps (exec (.bind false 7 11 8 12 true) s) 0x060 = true ∧
     gives (exec (.bind false 7 7 9 12 false) s) (fun u => u.cx.binds[7] == some ⟨0x1000, 12, .word 0x8000000000000008⟩) = true ∧
     traps (exec (.bind false 7 7 12 12 false) s) 0x061 = true ∧ gives (exec (.unbind false 7) s) (fun u => u.cx.binds[7] == none) = true) ∧
    (let s := base.withA [(7, 0x8000000000000008), (8, 5), (9, 4), (10, 0x18)]
     let l := globLoc 0 0 0 0 0 8
     let s := { s with mem := Memory.setN (Memory.setN s.mem l 8 4) (l + 16) 8 5 }
     Memory.wf s.mem = true ∧ reach s s.me 0x8000000000000008 8 true = .got l 4 ∧ reach s s.me 0x8000000000000008 8 false = .got l 4 ∧
     Takes { s := false, parks := true, a := [7] } s s ∧ Takes { s := false, parks := true, a := [7, 8] } s s ∧ Takes { s := false, a := [8, 7] } s s ∧
     Takes { s := false, a := [7, 8] } s s ∧ issueCheck s s.me 0x8000000000000008 8 .readWrite formsSync = none ∧ issueCheck s s.me 0x8000000000000008 8 .readWrite formsAll = none ∧
     issueCheck s s.me 0x18 8 .readWrite formsOwn = none ∧ reach s s.me 0x18 8 false = .got (l + 16) 5 ∧ Takes { s := false, a := [8, 10] } s s ∧ Takes { s := false } s s ∧
     gives (exec (.rel false 7 0) s) (fun u => Memory.getN u.mem l 8 == 5) = true ∧ gives (exec (.cadd false 7 8 4) s) (fun u => Memory.getN u.mem l 8 == 9) = true ∧
     gives (exec (.acq false 8 7 0) s) (fun u => (u.slot ctx0).wait == some (.counter 0x8000000000000008 5)) = true ∧
     gives (exec (.acq false 9 7 0) s) (fun u => u.cx.pc == s.cx.pc + 4) = true ∧
     gives (exec (.cwait false 3 7 9 false) s) (fun u => u.cx.ra 3 == 4) = true ∧ gives (exec (.cwait false 3 7 8 false) s) (fun u => (u.slot ctx0).wait.isSome) = true ∧
     gives (exec (.cwait false 3 7 8 true) s) (fun u => u.cx.ra 3 == 4) = true ∧
     gives (exec (.evwait false 8 10 0) s) (fun u => u.cx.pc == s.cx.pc + 4) = true ∧ gives (exec (.fence false 4) s) (fun u => u.cx.pc == s.cx.pc + 4) = true) :=
  ⟨⟨takes_of_takesB (by decide +kernel), takes_of_takesB (by decide +kernel), by decide +kernel⟩, by decide +kernel, by decide +kernel, by decide +kernel,
   takes_of_takesB (by decide +kernel), takes_of_takesB (by decide +kernel), takes_of_takesB (by decide +kernel), takes_of_takesB (by decide +kernel), by decide +kernel,
   by decide +kernel, by decide +kernel, by decide +kernel, takes_of_takesB (by decide +kernel), takes_of_takesB (by decide +kernel), by decide +kernel⟩

theorem witness_AtomicsReadAndWriteOnce :
    (let s := base.withA [(7, 0x8000000000000008), (8, 5), (3, 0xFFFFFFFF)]
     let l := globLoc 0 0 0 0 0 8
     let s := { s with mem := Memory.setN s.mem l 8 0xFFFFFFFF }
     Memory.wf s.mem = true ∧ reach s s.me 0x8000000000000008 4 true = .got l 0xFFFFFFFF ∧ issueCheck s s.me 0x8000000000000008 4 .readWrite formsAll = none ∧
     Takes { s := false, long := true, parks := true, a := [7, 8] } s s ∧ Takes { s := false, long := true, parks := true, a := [7, 8, 3] } s s ∧
     gives (exec (.aadd false 3 7 8 2 false) s) (fun u => Memory.getN u.mem l 8 == 4 && u.cx.rb.map (fun e => e.result) == [.scalar 0xFFFFFFFFFFFFFFFF]) = true ∧
     gives (exec (.amin false 3 7 8 2 false) s) (fun u => Memory.getN u.mem l 8 == 0xFFFFFFFF) = true ∧
     gives (exec (.amin false 3 7 8 2 true) s) (fun u => Memory.getN u.mem l 8 == 5 && u.cx.rb.map (fun e => e.result) == [.scalar 0xFFFFFFFF]) = true ∧
     gives (exec (.acas false 3 7 8 2 true) s) (fun u => Memory.getN u.mem l 8 == 5) = true) ∧
    (let s := base.withA [(7, 0x200000008)]
     (match reach s s.me 0x200000008 8 true with | .fault _ => true | _ => false) = true ∧
     gives (exec (.axchg false 3 7 8 3 false) s) (fun u => u.mem == s.mem && u.cx.rb.map (fun e => match e.result with | .fault _ => true | _ => false) == [true]) = true) :=
  ⟨⟨by decide +kernel, by decide +kernel, by decide +kernel, takes_of_takesB (by decide +kernel), takes_of_takesB (by decide +kernel), by decide +kernel⟩,
   by decide +kernel⟩

theorem witness_BarriersCountAndWait :
    (let s := base.setGang 1 { base.gang 1 with bars := (base.gang 1).bars.set 63 ⟨2, 0, 9, false⟩ }
     let s := s.withA [(7, 0xFFFFFFFF), (8, 0x100000000)]
     s.self.gang = some 1 ∧ Takes { s := false, parks := true } s s ∧ Takes { s := false, parks := true, a := [7] } s s ∧ Takes { s := false } s s ∧
     (s.cx.bar 63).done = true ∧ ((s.gang 1).bar 63).count + 1 < ((s.gang 1).bar 63).expect ∧ s.self.barawAt ≠ some 63 ∧ (s.cx.bar 63).taken = true ∧
     gives (exec (.bara false 3 63 true) s) (fun u => u.cx.ra 3 == 9 && ((u.gang 1).bar 63).count == 1 && ((u.gang 1).bar 63).poison && !(u.cx.bar 63).done &&
       traps (exec (.bara false 3 63 true) u) 0x0A9 && gives (exec (.barw false 3 63) u) (fun v => (v.slot ctx0).wait == some (.barrier 63))) = true ∧
     gives (exec (.baraw false 3 63 false) s) (fun u => (u.slot ctx0).wait == some (.barrier 63) && u.self.barawAt == some 63) = true ∧
     traps (exec (.barw false 3 63) s) 0x0AA = true ∧ traps (exec (.bari false 8 63) s) 0x0A8 = true ∧
     gives (exec (.bari false 7 63) s) (fun u => ((u.gang 1).bar 63).expect == 0xFFFFFFFF) = true ∧
     gives (exec (.barq false 3 63) s) (fun u => u.cx.ra 3 == 0x900000000) = true) ∧
    (let s := (base.setSelf { base.self with barawAt := some 63 }).onCx (fun c => c.setBar 63 ⟨9, true, true, false⟩)
     s.self.barawAt = some 63 ∧ (s.cx.bar 63).done = true ∧ (s.cx.bar 63).taken = false ∧
     gives (exec (.baraw false 3 63 false) s) (fun u => u.cx.ra 3 == 0x100000009 && u.self.barawAt == none && (u.cx.bar 63).taken) = true ∧
     gives (exec (.barw false 3 63) s) (fun u => u.cx.ra 3 == 0x100000009) = true) :=
  ⟨⟨by decide +kernel, takes_of_takesB (by decide +kernel), takes_of_takesB (by decide +kernel), takes_of_takesB (by decide +kernel), by decide +kernel⟩, by decide +kernel⟩

/-! ## Witnesses: tiles and engines -/

/-- The arrival that completes an episode: the records of the gang become done, a poisoned arrival marks them (R211). -/
theorem witness_episode_ends :
    (let c1 : CtxId := ⟨base.cur, 1⟩
     let s := base.setGang 1 { base.gang 1 with held := [ctx0, c1], bars := (base.gang 1).bars.set 63 ⟨2, 1, 9, true⟩ }
     let s := s.setSlot c1 { base.self with cx := base.cx.setBar 63 ⟨9, false, false, false⟩ }
     (s.cx.bar 63).done = true ∧ ((s.gang 1).bar 63).expect ≠ 0 ∧ ((s.gang 1).bar 63).expect ≤ ((s.gang 1).bar 63).count + 1 ∧ s.self.barawAt ≠ some 63 ∧ s.me ∈ (s.gang 1).held ∧
     gives (exec (.bara false 3 63 false) s) (fun u => u.cx.ra 3 == 9 && (u.gang 1).bar 63 == ⟨2, 0, 10, false⟩ && (u.slot c1).cx.bar 63 == ⟨9, true, true, false⟩ &&
       u.cx.bar 63 == ⟨9, true, true, false⟩) = true ∧
     gives (exec (.baraw false 3 63 false) s) (fun u => u.cx.ra 3 == 0x100000009 && u.cx.bar 63 == ⟨9, true, true, true⟩ && (u.slot c1).cx.bar 63 == ⟨9, true, true, false⟩) = true ∧
     gives (exec (.bari false 10 63) (s.withA [(10, 1)])) (fun u => (u.gang 1).bar 63 == ⟨1, 0, 10, false⟩ && (u.slot c1).cx.bar 63 == ⟨9, true, true, false⟩) = true) := by
  decide +kernel

/-- A tile of a tag at an offset of the private alias, allocated. -/
def tileAt (off : Nat) (t : Tag) (x : TileState) : Tile := ⟨true, BitVec.ofNat 15 off, t, x, false, 3⟩
/-- The context of `base` with tiles at handles 1, 2 and 3. -/
def tiled : State := (base.withA [(7, 0x40), (8, 0x44), (9, 0x2000), (10, 1), (11, 2)]).onCx (fun c =>
  { c with tiles := ((c.tiles.set 1 (tileAt 0x0 .int8 .ready)).set 2 (tileAt 0x400 .int8 .ready)).set 3 (tileAt 0x800 .none .empty) })
/-- An unfinished engine job of the context of `base` in cluster 0. -/
def engJob (n : Nat) (k : EKind) : EJob := { newJob base ctx0 k with uid := n }
/-- What a job on the tiles 1, 2 and 3 of `tiled` keeps of them. -/
def placed : MxPlace := ⟨.int8, 0x0, 0x400, 0x800, false⟩

theorem witness_TileInstructions :
    (let s := tiled
     (15 : BitVec 5).toNat < 16 ∧ Takes { s := false, a := [7] } s s ∧ Takes { s := false } s s ∧ Takes { s := false, long := true } s s ∧ form 0x40 = .priv 0x40 ∧
     s.ownsPriv s.me 0x40 1 = true ∧ (s.cx.tile 15).alloc = false ∧ (s.cx.tile 1).alloc = true ∧ s.ownsPriv s.me 0x2000 1 = false ∧ s.tileBusy s.me 1 = false ∧
     (∀ r : Fin 5, 0x2000 * r.val < (s.cx.tile 1).storage.toNat + tileBytes .fp64 → (s.cx.tile 1).storage.toNat < 0x2000 * (r.val + 1) → r.val < 4 →
        (⟨s.cur, r⟩ : CtxId) ∈ (s.gang s.myGang).held) ∧
     gives (exec (.talloc false 15 7 0) s) (fun u => u.cx.tile 15 == ⟨true, 0x40, .none, .empty, false, 0⟩) = true ∧
     traps (exec (.talloc false 15 8 0) s) 0x040 = true ∧ traps (exec (.talloc false 15 9 0) s) 0x041 = true ∧ traps (exec (.talloc false 1 7 0) s) 0x089 = true ∧
     traps (exec (.tfree false 15) s) 0x089 = true ∧ gives (exec (.tfree false 1) s) (fun u => u.cx.tile 1 == Tile.reset) = true ∧
     gives (exec (.twait false 3) s) (fun u => (u.slot ctx0).wait == some (.tileReady 3)) = true ∧
     gives (exec (.tset false 1 true 1) s) (fun u => (u.cx.tile 1).tag == .fp64 && (u.cx.tile 1).state == .ready) = true ∧
     gives (exec (.tstat false 5 2) s) (fun u => u.cx.rb.map (fun e => e.result) == [.scalar (BitVec.ofNat 64 (3 * 2 ^ 32 + 7 * 2 ^ 20 + 2 ^ 19 + 2 * 2 ^ 16 + 0x400))]) = true) ∧
    (let s := tiled.onCx (fun c => { c with tiles := c.tiles.set 4 (tileAt 0x7FE0 .int8 .ready) })
     s.tileBusy s.me 4 = false ∧ 0x8000 < (s.cx.tile 4).storage.toNat + tileBytes .int8 ∧ traps (exec (.tset false 4 true 7) s) 0x08A = true) ∧
    (let s := tiled.setCluster cl0 { Cluster.reset with jobs := [{ engJob 9 (.matrix 1 ⟨3, 2, 1, 0, false, false, false, false, false, false, 0, 0, 0⟩ .int32 placed) with tiles := [(ctx0, 1, false)] }] }
     s.tileBusy s.me 1 = true ∧ gives (exec (.tfree false 1) s) (fun u => (u.slot ctx0).wait == some (.tileIdle 1)) = true) :=
  ⟨⟨by decide +kernel, takes_of_takesB (by decide +kernel), takes_of_takesB (by decide +kernel), takes_of_takesB (by decide +kernel), by decide +kernel⟩,
   by decide +kernel, by decide +kernel⟩

/-- TSET to a type that does not fit the gang's regions, and TALLOC at a global address (R174, R214). -/
theorem witness_tile_ranges :
    (let s := tiled.onCx (fun c => { c with tiles := c.tiles.set 4 (tileAt 0x1C00 .int8 .ready) })
     s.tileBusy s.me 4 = false ∧ (s.cx.tile 4).storage.toNat + tileBytes .fp64 ≤ 0x8000 ∧ ⟨s.cur, 1⟩ ∉ (s.gang s.myGang).held ∧
     traps (exec (.tset false 4 true 1) s) 0x08A = true ∧ gives (exec (.tset false 4 true 8) s) (fun u => (u.cx.tile 4).tag == .uint8) = true) ∧
    (let s := tiled.withA [(7, 0x8000000000001000)]
     (form (s.cx.ra 7)).isPriv = false ∧ traps (exec (.talloc false 15 7 0) s) 0x041 = true) := by
  decide +kernel

/-- `tiled` with a job card for C = tile 3, B = tile 2, A = tile 1 at offset 0x1C40 (R124). -/
def carded : State :=
  let s := tiled.withA [(7, 0x1C40)]
  { s with mem := Memory.setN s.mem (privLoc s.cur 0x1C40) 8 (0x3 * 2 ^ 28 + 0x2 * 2 ^ 24 + 0x1 * 2 ^ 20 + 1) }

theorem witness_MatrixJobsAreSubmitted :
    (let s := carded
     let d : MxCard := ⟨3, 2, 1, 0, false, false, false, false, false, false, 0, 0, 0⟩
     Takes { s := false, a := [7] } s s ∧ Takes { s := false, long := true, a := [7] } s s ∧ (form 0x1C40).isPriv = true ∧ recordCheck s s.me 0x1C40 32 32 = none ∧
     readDwords s s.me 0x1C40 4 = .ok [0x32100001, 0, 0, 0] ∧ mxCardOf [0x32100001, 0, 0, 0] = some d ∧ mxCheck s.cx d = .ok .int32 ∧ s.self.speculative = false ∧
     (s.cluster s.cur.cl).mxCount < 16 ∧ s.cx.jobs.length < 16 ∧ mxCardOf [0x32100002, 0, 0, 0] = none ∧ mxCheck base.cx d = .error 0x092 ∧
     gives (exec (.mxsub false 5 7 0) s) (fun u => u.cx.ra 5 == 1 && u.cx.seq == 2 && (u.cx.tile 3).state == .filling && (u.cx.tile 3).tag == .int32 &&
       (u.cluster cl0).jobs.map (fun j => (j.uid, j.running)) == [(s.fresh, false)]) = true ∧
     traps (exec (.mxsub false 5 8 0) s) 0x090 = true ∧ traps (exec (.mxpoll false 5 0) s) 0x099 = true ∧ traps (exec (.mxwait false 7) s) 0x099 = true) ∧
    (let e : JobEntry := ⟨1, 7, 0, .fault, 0x21, 0x1C40⟩
     let s := tiled.onCx (fun c => { c with seq := 3, jobs := [e] })
     (s.cx.ra 10) ≠ 0 ∧ (s.cx.ra 10).toNat < s.cx.seq.toNat ∧ s.cx.job 1 = some e ∧ s.cx.job 2 = none ∧
     gives (exec (.mxpoll false 5 10) s) (fun u => u.cx.jobs == [] && u.cx.rb.map (fun e => e.result) == [.scalar 0x321]) = true ∧
     gives (exec (.mxpoll false 5 11) s) (fun u => u.cx.rb.map (fun e => e.result) == [.scalar 0x600]) = true ∧
     traps (exec (.mxwait false 10) s) 0x098 = true ∧ gives (exec (.mxwait false 11) s) (fun u => u.cx.pc == s.cx.pc + 4) = true) :=
  ⟨⟨takes_of_takesB (by decide +kernel), takes_of_takesB (by decide +kernel), by decide +kernel⟩, by decide +kernel⟩

theorem witness_MatrixJobsRun :
    (let d : MxCard := ⟨3, 2, 1, 0, false, false, false, false, false, false, 0, 0, 0⟩
     let j := { engJob 9 (.matrix 1 d .int32 placed) with foot := mxFoot tiled ctx0 d .int32, tiles := [(ctx0, 3, true), (ctx0, 1, false)] }
     let s := tiled.setCluster cl0 { Cluster.reset with jobs := [j] }
     let r := tiled.setCluster cl0 { Cluster.reset with jobs := [{ j with running := true }] }
     let b := tiled.setCluster cl0 { Cluster.reset with jobs := [{ j with uid := 8 }, j] }
     (s.cluster cl0).job 9 = some j ∧ j.running = false ∧ s.blocked cl0 j = false ∧ s.draftsFirst cl0 j = false ∧ (s.cluster cl0).mxBusy = false ∧ b.blocked cl0 j = true ∧
     gives (exec (.mxJobStart cl0 9) s) (fun u => ((u.cluster cl0).job 9).map (fun x => x.running) == some true) = true ∧
     gives (exec (.mxJobStart cl0 9) b) (fun u => u == b) = true ∧ d.ctr = 0 ∧ d.arrive = false ∧ Memory.wf r.mem = true ∧ mxFault r cl0 { j with running := true } d placed = 0 ∧
     (s.tileOf ctx0 3).alloc = true ∧ (r.dropJob cl0 9).tileJobs ctx0 3 = []) ∧
    (let d : MxCard := ⟨3, 2, 1, 0, false, false, false, false, false, false, 0, 0, 0⟩
     let j := { engJob 9 (.matrix 1 d .int32 placed) with running := true, tiles := [(ctx0, 3, true), (ctx0, 1, false)] }
     let s := { tiled.setCluster cl0 { Cluster.reset with jobs := [j] } with poison := [(privLoc base.cur 0, 0)] }
     mxFault s cl0 j d placed = 1 ∧ gives (exec (.mxJobComplete cl0 9) s) (fun u => u.mem == s.mem && (u.cluster cl0).jobs == []) = true) := by
  decide +kernel

/-- A matrix product on tiles with data, from a record with a bitmap, and one that waits for a draft it reads (R126, R128, R199, R204). -/
theorem witness_matrix_products :
    (let d : MxCard := ⟨3, 2, 1, 0, false, false, false, false, false, false, 0, 0, 0⟩
     let j := { engJob 9 (.matrix 1 d .int32 placed) with running := true, tiles := [(ctx0, 3, true), (ctx0, 1, false)], foot := mxFoot tiled ctx0 d .int32 }
     let s := tiled.setCluster cl0 { Cluster.reset with jobs := [j] }
     let s := { s with mem := Memory.setN (Memory.setN (Memory.setN s.mem (privLoc base.cur 31) 1 3) (privLoc base.cur (0x400 + 32 * 31)) 1 0xFB) (privLoc base.cur 992) 1 0x80 }
     mxCheck tiled.cx d = .ok .int32 ∧ mxFault s cl0 j d placed = 0 ∧
     (let x := mxInput s cl0 j d .int32 placed
      let c := fun (e : Nat) => mxElem x.t (x.old e) ((List.range 32).map (fun k => x.term (e / 32) (e % 32) k))
      c 0 == (0xFFFFFFF1, 0) && c 1023 == (0, 0)) = true ∧
     -- a draft of the submitting segment in A's bytes
     (let w := { j with running := false, after := [(s.self.uid, 1)] }
      let e : StoreElem := ⟨31, 1, 5, 255⟩
      let b := tiled.setCluster cl0 { Cluster.reset with jobs := [w], drafts := [⟨s.self.uid, 1, 0, 0, [e]⟩] }
      (∃ v ∈ spanRegions b w.owner e.addr e.size true, ∃ f ∈ w.foot, v.meets f = true) ∧ b.draftsFirst cl0 w = true ∧
      gives (exec (.mxJobStart cl0 9) b) (fun u => u == b) = true ∧ (tiled.setCluster cl0 { Cluster.reset with jobs := [w] }).draftsFirst cl0 w = false)) ∧
    (let d : MxCard := ⟨3, 2, 1, 0, false, false, false, false, true, false, 18, 8, 0⟩
     let s := { tiled with mem := Memory.setN (Memory.setN tiled.mem (wbufLoc cl0 8) 8 (2 * 2 ^ 21 + 1 * 2 ^ 4 + Tag.code .int8)) (wbufLoc cl0 16) 1 0x81 }
     d.bsrc = true ∧ bitsBefore s.mem (wbufLoc cl0 16) 1024 = 2 ∧ recordStart s cl0 d .int8 = some true ∧
     recordStart s cl0 { d with wlen := 17 } .int8 = none ∧ recordStart s cl0 d .uint8 = none) := by
  decide +kernel

/-- A schedule of two entries at HBM page 0x200000000 of the launch of `base`. -/
def scheduled : State :=
  let s := base.withA [(7, 1), (8, 2)]
  let s := s.setLaunch 1 { s.launch 1 with rc := { (s.launch 1).rc with sched := 0x100001000, schedLen := 2 } }
  let e : TlbEntry := { m := 0, station := stationOf 0x100001000, pid := 1, va := 0x100000000, size := 65536, pa := 65536, r := true, w := true, x := true }
  let x : CopyStatus := ⟨.queued, 0, 0, 0, false, false, 0⟩
  { s.setCluster cl0 { Cluster.reset with walk := [(1, [x, x])] } with tlb := e :: s.tlb }

theorem witness_CopySchedulesAreWalked :
    (let s := scheduled
     Takes { s := false, parks := true } s s ∧ Takes { s := false, long := true, a := [7] } s s ∧ Takes { s := false, parks := true, a := [7] } s s ∧ base.noSched = true ∧
     s.noSched = false ∧ (s.cx.ra 7).toNat < s.schedLen ∧ s.schedLen ≤ (s.cx.ra 8).toNat ∧ (kget (s.cluster cl0).walk 1 []).length = s.schedLen ∧
     (s.gang 1).covers cl0 = true ∧ (s.gang 1).status = .running ∧ (kget (s.cluster cl0).walk 1 []).findIdx? (fun x => !x.passed) = some 0 ∧
     gives (exec (.cpstage false 0xFF) s) (fun u => kget (u.core u.cur).stages 1 0 == 255) = true ∧ traps (exec (.cpstage false 1) base) 0x081 = true ∧
     traps (exec (.cpq false 5 8) s) 0x080 = true ∧ gives (exec (.cpq false 5 7) s) (fun u => u.cx.rb.map (fun e => e.result) == [.scalar 0]) = true ∧
     gives (exec (.cpcancel false 7) s) (fun u => (kget (u.cluster cl0).walk 1 []).map (fun x => x.state) == [.queued, .fault]) = true) ∧
    (let w0 := 0x0001 * 2 ^ 48 + 0xFFFF * 2 ^ 32 + 3 * 2 ^ 21 + 7 * 2 ^ 4
     let l := hbmLoc 0 (65536 + 0x1000)
     let s := { scheduled with mem := Memory.setN (Memory.setN (Memory.setN scheduled.mem l 8 w0) (l + 8) 8 0x100001000) (l + 56) 8 0x10000 }
     let ok := (match readEntry s 1 cl0 0 with | .ok e => e.stage == 1 && !e.broken s (s.gang 1) cl0 && decide (clusterStage s cl0 1 < e.stage) | _ => false)
     ok = true ∧ gives (exec (.copyEntryPass cl0 1 0) s) (fun u => u == s) = true ∧
     gives (exec (.cpstage false 1) s) (fun u => gives (exec (.copyEntryPass cl0 1 0) u) (fun v => (v.cluster cl0).jobs.length == 1 &&
       (kget (v.cluster cl0).walk 1 []).map (fun x => x.passed) == [true, false] &&
       gives (exec (.wbload cl0 u.fresh) v) (fun w => Memory.getN w.mem (wbufLoc cl0 0) 8 == w0 &&
         gives (exec (.copyEntryComplete cl0 u.fresh) w) (fun z => (z.cluster cl0).jobs == [] && (kget (z.cluster cl0).walk 1 []).map (fun x => x.state) == [.done, .queued])))) = true) ∧
    (let l := hbmLoc 0 (65536 + 0x1000)
     let s := { scheduled with mem := Memory.setN scheduled.mem l 8 1 }
     (match readEntry s 1 cl0 0 with | .ok e => e.broken s (s.gang 1) cl0 && decide (e.stage ≤ clusterStage s cl0 1) | _ => false) = true ∧
     gives (exec (.copyEntryPass cl0 1 0) s) (fun u => (kget (u.cluster cl0).walk 1 []).map (fun x => (x.state, x.kind)) == [(.fault, 1), (.queued, 0)]) = true) :=
  ⟨⟨takes_of_takesB (by decide +kernel), takes_of_takesB (by decide +kernel), takes_of_takesB (by decide +kernel), by decide +kernel⟩, by decide +kernel, by decide +kernel⟩

/-- A walker at an entry that names the gang's other cluster, and at a DECODE entry whose card's read is refused with RETRY, at the last of its tries
and before (R298, R361). -/
theorem witness_passed_entries :
    let l := hbmLoc 0 (65536 + 0x1000)
    let at_ := fun (w0 a t : Nat) =>
      let s := { scheduled with mem := Memory.setN (Memory.setN scheduled.mem l 8 w0) (l + 8) 8 a }
      let x : CopyStatus := ⟨.queued, 0, 0, 0, false, false, t⟩
      let s := (s.setCluster cl0 { Cluster.reset with walk := [(1, [x, x])] }).setGang 2 { s.gang 1 with status := .stopped, held := [⟨base.cur, 1⟩] }
      s.setGang 1 { s.gang 1 with wd := 2 }
    let st := fun (u : State) => (kget (u.cluster cl0).walk 1 []).map (fun x => (x.state, x.other, x.passed, x.kind, x.tries))
    (let s := at_ (1 * 2 ^ 32 + 3 * 2 ^ 21 + 7 * 2 ^ 4) 0x100001000 0
     (match readEntry s 1 cl0 0 with | .ok e => !e.selects (s.gang 1) cl0 | _ => false) = true ∧
     gives (exec (.copyEntryPass cl0 1 0) s) (fun u => st u == [(.done, true, true, 0, 0), (.queued, false, false, 0, 0)]) = true) ∧
    (let s := fun t => at_ (0xFFFF * 2 ^ 32 + 2 * 2 ^ 21 + 8 * 2 ^ 4) 0x8000000000003800 t
     (match readEntry (s 0) 1 cl0 0 with
      | .ok e => !e.broken (s 0) ((s 0).gang 1) cl0 && e.kind == 2 && (readCard (s 0) ((s 0).walkWho 1 cl0) ((s 0).gang 1) e).isNone && !(s 0).holds 0 e.base | _ => false) = true ∧
     gives (exec (.copyEntryPass cl0 1 0) (s 5)) (fun u => (st u).head? == some (.queued, false, false, 0, 6)) = true ∧
     gives (exec (.copyEntryPass cl0 1 0) (s 1023)) (fun u => (st u).head? == some (.fault, false, true, 2, 1023)) = true) := by
  decide +kernel

/-- A COPY entry of INT8 elements, 2 by 2 of a window, from a global address of core 0 into tile 3 of the context of `base`. -/
def copyE (k : Nat) (out : Bool) : CopyEntry :=
  { stage := 0, cluster := 0, core := 0, slot := 0, handle := 3, kind := k, out := out, aon := false, arrive := false, bar := 0, circ := 0, tag := 7, low := 0,
    base := 0x8000000000001800, ext := [2, 2, 1, 1], str := [1, 2, 0, 0], str3hi := 0, org := [0, 0, 0, 0], ctr := 0,
    extra := if k = 3 then 0x10008 else if k = 1 then 0x0101 else 0, card := [] }
def copying (e : CopyEntry) (f : EJob → EJob) : State :=
  let s := { tiled with mem := Memory.setN tiled.mem (privLoc base.cur 0x1800) 8 0x0807060504030201 }
  s.setCluster cl0 { Cluster.reset with jobs := [f { engJob 9 (.copy 0 e) with gang := 1, tiles := [(ctx0, e.handle, !e.out)] }],
                                        walk := [(1, [⟨.queued, 0, 0, 0, false, true, 0⟩])] }

theorem witness_CopyEntriesAreCarriedOut :
    (let s := copying (copyE 0 false) id
     let j := { engJob 9 (.copy 0 (copyE 0 false)) with gang := 1, tiles := [(ctx0, 3, true)] }
     Memory.wf s.mem = true ∧ copyReady s cl0 9 (fun e => e.kind = 0 && !e.out) = some (j, 0, copyE 0 false) ∧ j.tiles = [ctx0].map (fun c => (c, 3, true)) ∧
     (s.tileOf ctx0 3).storage.toNat + tileBytes .int8 ≤ 0x8000 ∧ ctx0.core.cl.ok = true ∧ ctx0.core.n < 8 ∧ (copyE 0 false).fmt = .int8 ∧
     (match readWindow s j (copyE 0 false) 1024 with | .ok v => v.take 2 == [1, 2] && (v.drop 32).take 3 == [3, 4, 0] | _ => false) = true) := by
  decide +kernel

theorem witness_CopiesOutMulticastAndWbload :
    (let s := copying (copyE 1 false) id
     (copyReady s cl0 9 (fun e => e.kind = 1)).isSome = true) ∧
    (let s := copying { copyE 0 true with handle := 1 } id
     let j := { engJob 9 (.copy 0 { copyE 0 true with handle := 1 }) with gang := 1, tiles := [(ctx0, 1, false)] }
     copyReady s cl0 9 (fun e => e.kind = 0 && e.out) = some (j, 0, { copyE 0 true with handle := 1 }) ∧ s.poisoned (privLoc base.cur 0) (tileBytes .int8) = false ∧
     (writeWindow j { copyE 0 true with handle := 1 } ((List.range 1024).map (elemOf s.mem (privLoc base.cur 0) .int8))
       (s.modTile j.owner 1 (fun t => if t.state = .ready then { t with state := .draining } else t)) 0).2 = none) ∧
    (let s := copying (copyE 3 false) id
     let j := { engJob 9 (.copy 0 (copyE 3 false)) with gang := 1, tiles := [(ctx0, 3, true)] }
     copyReady s cl0 9 (fun e => e.kind = 3) = some (j, 0, copyE 3 false) ∧ whoDwords s j.who (copyE 3 false).base 1 = .ok [0x0807060504030201] ∧
     gives (exec (.wbload cl0 9) s) (fun u => Memory.getN u.mem (wbufLoc cl0 8) 8 == 0x0807060504030201) = true) := by
  decide +kernel

/-- A DECODE of 5 frames of one tile at handle 3 of the context of `base`, as its walker hands it on. -/
def decodeE : CopyEntry := { copyE 2 false with card := [0x100001000, 5 * 2 ^ 32, 0x01010000, 0, 0, 0, 0, 0] }

theorem witness_DecodersAndEntryEnds :
    (let s := copying decodeE (fun j => { j with tiles := [] })
     copyReady s cl0 9 (fun e => e.kind = 2) = some ({ engJob 9 (.copy 0 decodeE) with gang := 1, tiles := [] }, 0, decodeE) ∧ (s.decoder 0 (8 * quadrantOf cl0 + 0)).job = none ∧
     (let m := Memory.setN (Memory.setN (Memory.setN s.mem (privLoc base.cur 0x1800) 8 0x100001000) (privLoc base.cur 0x1808) 8 (5 * 2 ^ 32)) (privLoc base.cur 0x1810) 8 0x01010000
      readCard { s with mem := m } (s.walkWho 1 cl0) (s.gang 1) (copyE 2 false) = some (.ok decodeE)) ∧
     gives (exec (.decode cl0 9) s) (fun u => (u.decoder 0 (8 * quadrantOf cl0)).job == some (cl0, 9) && ((u.cluster cl0).job 9).map (fun j => j.left) == some 5) = true) ∧
    (let s := { copying decodeE (fun j => { j with running := true, left := 5, tiles := [] }) with decoders := [((0, 0), ⟨some (cl0, 9)⟩)] }
     let j := { engJob 9 (.copy 0 decodeE) with gang := 1, tiles := [], running := true, left := 5 }
     (s.decoder 0 0).job = some (cl0, 9) ∧ (s.cluster cl0).job 9 = some j ∧ j.worked = false ∧ cropTiles (s.gang 1) decodeE = [(ctx0, 3, 0, 0, 0)] ∧
     (s.tileOf ctx0 3).alloc = true ∧ (s.tileOf ctx0 3).state = .empty ∧ s.tileBusy ctx0 3 = false ∧ engineStream s j 0x100001000 (bits (5 * 2 ^ 32) 31 0) = .ok [] ∧
     tileAway s (s.gang 1) ctx0 3 .uint8 = false ∧ tileAway s (s.gang 1) ctx0 3 .int16 = false ∧
     -- a later job on the decoder's tile waits for it (R131, R182)
     decodeE.foot s (s.gang 1) cl0 ctx0 .uint8 = [tileRegion ctx0.core (s.tileOf ctx0 3) .uint8 true]) ∧
    (let s := copying (copyE 3 false) (fun j => { j with running := true, worked := true })
     (s.cluster cl0).job 9 = some { engJob 9 (.copy 0 (copyE 3 false)) with gang := 1, tiles := [(ctx0, 3, true)], running := true, worked := true } ∧
     (s.gang 1).held = [ctx0] ∧ (s.slot ctx0).gang = some 1 ∧
     gives (exec (.copyEntryComplete cl0 9) s) (fun u => (u.cluster cl0).jobs == [] && (kget (u.cluster cl0).walk 1 []).map (fun x => x.state) == [.done]) = true) ∧
    (let s := copying decodeE (fun j => { j with running := true, worked := true, bad := 2, cause := 0x051, badFrames := 3, tiles := [] })
     gives (exec (.copyEntryComplete cl0 9) (modCopy s cl0 1 0 (fun x => { x with corrupt := 3 })))
       (fun u => (kget (u.cluster cl0).walk 1 []).map (fun x => (x.state, x.kind, x.corrupt)) == [(.fault, 2, 3)]) = true) := by
  decide +kernel

/-- A frame of either sample size stays inside the regions of the gang. -/
theorem test_frame_stays_inside (s : State) (h8 : tileAway s (s.gang 1) ctx0 3 .uint8 = false) (h16 : tileAway s (s.gang 1) ctx0 3 .int16 = false) (b : List Byte) :
    tileAway s (s.gang 1) ctx0 3 (frameTag b) = false := by
  have h : frameTag b = .int16 ∨ frameTag b = .uint8 := by unfold frameTag; split <;> simp
  rcases h with h | h
  · rw [h]; exact h16
  · rw [h]; exact h8

/-! ## Witnesses: one-sided operations, Kettles and weight sets -/

/-- `base` with a descriptor for one doubleword from offset 0 to offset 0x1000 of the core's local store, with its event record at 0x20, at 0x1C40. -/
def described (fmt : Nat) : State :=
  let s := base.withA [(7, 0x1C40), (8, 0x1C48)]
  let m := Memory.setN (Memory.setN s.mem (privLoc s.cur 0x1C48) 8 0x8000000000001000) (privLoc s.cur 0x1C58) 8 0x20
  { s with mem := Memory.setN m (privLoc s.cur 0x1C60) 8 (fmt * 2 ^ 32 + 8) }

theorem witness_OneSidedOperationsAreAccepted :
    (let s := described 0
     let ds := [0, 0x8000000000001000, 0, 0x20, 8, 0, 0, 0]
     Takes { s := false, parks := true, a := [7] } s s ∧ (form 0x1C40).isPriv = true ∧ recordCheck s s.me 0x1C40 32 64 = none ∧ readDwords s s.me 0x1C40 8 = .ok ds ∧
     (osDescOf 0 ds).isSome = true ∧ osDescOf 2 ds = none ∧ eventCheck s s.me 0x20 = none ∧ (eventCheck s s.me 0x24).isSome = true ∧
     gives (exec (.puts false 7 0) s) (fun u => (u.cluster cl0).jobs.map (fun j => (j.uid, j.left)) == [(s.fresh, 8)] && u.cx.pc == s.cx.pc + 4) = true ∧
     traps (exec (.radd false 7 0) s) 0x0C1 = true ∧ traps (exec (.get false 8 0) s) 0x0C0 = true) ∧
    (gives (exec (.radd false 7 0) (described 1)) (fun u => (u.cluster cl0).jobs.length == 1) = true) :=
  ⟨⟨takes_of_takesB (by decide +kernel), by decide +kernel⟩, by decide +kernel⟩

/-- The operation of `described`, 16 bytes long, with nothing moved yet, and with messages under way. -/
def osD (op : Nat) : OsDesc := ⟨op, 0, 0x8000000000001000, 0, 0x20, if op = 2 then .int64 else .none, 16, false, 0, false, 0⟩
def osJ (op : Nat) : EJob := { engJob 9 (.oneSided (osD op)) with gang := 1, left := 16 }
def sending (op : Nat) (f : EJob → EJob) (ms : List Msg) : State :=
  let s := { base with mem := Memory.setN (Memory.setN base.mem (privLoc base.cur 0) 8 0x11) (privLoc base.cur 0x1000) 8 0x22, msgs := ms }
  s.setCluster cl0 { Cluster.reset with jobs := [f (osJ op)] }
def osM (add : Bool) : Msg :=
  ⟨5, ctx0, 0, .core base.cur, 9, cl0, add, 0, 0, 0x8000000000001000, leBytes 16 0x33, false, false, 0⟩

theorem witness_OneSidedTransfers :
    (let s := sending 0 id []
     Memory.wf s.mem = true ∧ osReady s cl0 9 0 = some (osJ 0, osD 0) ∧ (engineBytes s (osJ 0) 0 2).isSome = true ∧
     gives (exec (.putsTransfer cl0 9) s) (fun u => u.msgs.map (fun m => (m.addr, m.bytes)) == [(0x8000000000001000, leBytes 16 0x11)] && Memory.getN u.mem (privLoc base.cur 0x20) 8 == 1) = true) ∧
    (let s := sending 2 id []
     osReady s cl0 9 2 = some (osJ 2, osD 2) ∧ (engineBytes s (osJ 2) 0 2).isSome = true ∧ ownerOf s (osJ 2) 0x8000000000001000 = .ok (.core base.cur) ∧
     (s.unacked (.core base.cur) ctx0 0).length < 64 ∧
     gives (exec (.raddTransfer cl0 9) s) (fun u => u.msgs.map (fun m => (m.isAdd, m.seq)) == [(true, 0)] && (u.window (.core base.cur) ctx0 0).next == 1) = true) ∧
    (let ms := List.replicate 64 (osM true)
     let s := sending 2 id ms
     64 ≤ (s.unacked (.core base.cur) ctx0 0).length ∧ gives (exec (.raddTransfer cl0 9) s) (fun u => u == s) = true) ∧
    (let s := sending 1 (fun j => { j with running := true }) []
     let j := { osJ 1 with running := true }
     osReady s cl0 9 1 = some (j, osD 1) ∧ s.holds 0 0x8000000000001000 = false ∧ genStale s (osD 1) 0x8000000000001000 = false ∧
     access s j.who 0x8000000000001000 16 .read = .loc (privLoc base.cur 0x1000) ∧ s.homeRead (privLoc base.cur 0x1000) 16 = some 0x22 ∧
     (engineWrite s j 0 (dwordsOf 0x22 2)).2 = true ∧ gives (exec (.getTransfer cl0 9) s) (fun u => Memory.getN u.mem (privLoc base.cur 0) 8 == 0x22) = true) := by
  decide +kernel

theorem witness_OneSidedMessages :
    (let s := sending 0 (fun j => { j with left := 0 }) [osM false]
     let j := { osJ 0 with left := 0 }
     s.msg 5 = some (osM false, j, osD 0) ∧ access s j.who 0x8000000000001000 16 .write = .loc (privLoc base.cur 0x1000) ∧ locRegion (privLoc base.cur 0x1000) = 0 ∧
     gives (exec (.putsMessage 5) s) (fun u => Memory.getN u.mem (privLoc base.cur 0x1000) 16 == 0x33 && u.msgs == []) = true) ∧
    (let s := sending 2 (fun j => { j with left := 0 }) [osM true]
     let j := { osJ 2 with left := 0 }
     s.msg 5 = some (osM true, j, osD 2) ∧ (s.window (.core base.cur) ctx0 0).holds 0 0 = false ∧ areaRefuses s (osM true) j = false ∧ seqBefore 0 0 = false ∧
     s.homeRead (privLoc base.cur 0x1000) 16 = some 0x22 ∧
     gives (exec (.remoteAddMessage 5) s) (fun u => Memory.getN u.mem (privLoc base.cur 0x1000) 16 == 0x55 && (u.window (.core base.cur) ctx0 0).holds 0 0 &&
       gives (exec (.remoteAddMessage 5) { u with msgs := [osM true] }) (fun v => v.mem == u.mem)) = true) ∧
    (let s := sending 0 id [{ osM false with retry := true, tries := 1022 }]
     (s.msg 5).isSome = true ∧ gives (exec (.oneSidedRetry 5) s) (fun u => u.msgs.map (fun m => (m.retry, m.tries)) == [(false, 1023)]) = true) ∧
    (let s := sending 0 id [{ osM false with retry := true, tries := 1023 }]
     gives (exec (.oneSidedRetry 5) s) (fun u => u.msgs == [] && ((u.cluster cl0).job 9).map (fun j => j.status) == some 2) = true) ∧
    (let s := sending 0 (fun j => { j with left := 0, running := true, status := 2 }) []
     let j := { osJ 0 with left := 0, running := true, status := 2 }
     (s.cluster cl0).job 9 = some j ∧ s.pending 9 = false ∧ engineAccess s j (0x20 + 24) 8 .readWrite = .loc (privLoc base.cur 0x38) ∧
     engineAccess (eventStatus s j (osD 0)) j (0x20 + 16) 8 .readWrite = .loc (privLoc base.cur 0x30) ∧
     gives (exec (.oneSidedComplete cl0 9) s) (fun u => Memory.getN u.mem (privLoc base.cur 0x30) 8 == 1 && Memory.getN u.mem (privLoc base.cur 0x38) 8 == 2 && (u.cluster cl0).jobs == []) = true) := by
  decide +kernel

/-- `base` with a page of HBM that Kettle 1 holds, and a command card at 0x1C40 that copies four INT32 elements within it (R223). -/
def kettled : State :=
  let s := base.withA [(7, 0x1C40), (8, 1), (9, 2)]
  let e : TlbEntry := { m := 0, station := stationOf 0x100010000, pid := 1, va := 0x100010000, size := 65536, pa := 65536, r := true, w := true, x := false }
  let m := Memory.setN (Memory.setN s.mem (privLoc s.cur 0x1C40) 8 (4 * 2 ^ 58 + 11 * 2 ^ 54 + 0x100010000)) (privLoc s.cur 0x1C48) 8 0x100010020
  let m := Memory.setN (Memory.setN m (privLoc s.cur 0x1C58) 8 (4 * 2 ^ 44)) (hbmLoc 0 0x10020) 16 0x00000044000000330000002200000011
  { s with mem := m, tlb := e :: s.tlb }

theorem witness_KettleCommandsAreIssued :
    (let s := kettled
     let ds := [4 * 2 ^ 58 + 11 * 2 ^ 54 + 0x100010000, 0x100010020, 0, 4 * 2 ^ 44]
     let k : KCard := ⟨4, .int32, false, false, 0x100010000, 0, 0x100010020, 0, 0, 4, 0⟩
     Takes { s := false, parks := true, a := [7] } s s ∧ Takes { s := false } s s ∧ Takes { s := false, long := true, a := [8] } s s ∧
     recordCheck s s.me 0x1C40 32 32 = none ∧ readDwords s s.me 0x1C40 4 = .ok ds ∧ kCardOf ds = some k ∧ kCardOf [0, 0, 0, 0] = none ∧ s.cx.kcmds.length < 32 ∧ kAway s s.me k = false ∧
     gives (exec (.kcmd false 5 7 0) s) (fun u => u.cx.ra 5 == 1 && u.cx.cid == 2 && u.sent.map (fun p => (p.idx, p.elems)) == [(1, [0, 1, 2, 3])] &&
       gives (exec (.remoteAddMessage (s.fresh + 2)) u) (fun v => (v.kettle 0 1).parts.map (fun p => p.elems) == [[0, 1, 2, 3]] && v.sent == []) &&
       gives (exec (.kfence false) u) (fun v => (v.slot ctx0).wait == some .ketAll) && traps (exec (.kpoll false 5 9) u) 0x0A3) = true ∧
     traps (exec (.kcmd false 5 9 0) s) 0x0A0 = true ∧ gives (exec (.kfence false) s) (fun u => u.cx.pc == s.cx.pc + 4) = true) ∧
    (let e : KcEntry := ⟨1, 7, 0, .done, 0x21, 5, true, [], none⟩
     let s := kettled.onCx (fun c => { c with cid := 3, kcmds := [e] })
     (s.cx.ra 8) ≠ 0 ∧ (s.cx.ra 8).toNat < s.cx.cid.toNat ∧ s.cx.kcmds.find? (fun e => e.id = 1) = some e ∧ s.cx.kcmds.find? (fun e => e.id = 2) = none ∧
     gives (exec (.kpoll false 5 8) s) (fun u => u.cx.kcmds == [] && u.cx.rb.map (fun e => e.result) == [.scalar 0x500000A21]) = true ∧
     gives (exec (.kpoll false 5 9) s) (fun u => u.cx.rb.map (fun e => e.result) == [.scalar 0x600]) = true) :=
  ⟨⟨takes_of_takesB (by decide +kernel), takes_of_takesB (by decide +kernel), takes_of_takesB (by decide +kernel), by decide +kernel⟩, by decide +kernel⟩

/-- A part of a command on Kettle 1: `n` INT32 elements at page offset 0 of `kettled`, from offset 0x20 of the page. -/
def part (op n : Nat) : KPart :=
  { uid := 21, cuid := 20, owner := ctx0, gang := 1, pid := 1, m := 0, op := op, fmt := .int32, ctr := false, ord := false, dst := 0x100010000, lid := 1, gen := 0,
    src := if op = 2 ∨ op = 4 then 0x100010020 else 0, s1 := 7, s2 := 0, count := n, ctrOff := 0, idx := 1, elems := List.range n, started := false, worked := false, kind := 0,
    flags := 0, out := true, seq := 0, low := 0, bad := [] }
def kettling (p : KPart) : State :=
  (kettled.onCx (fun c => { c with cid := 2, kcmds := [⟨1, 20, 0, .queued, 0, 0, false, [21], none⟩] })).setKettle 0 1 ⟨[p], [], []⟩

theorem witness_KettlePartsRun :
    (∀ p ∈ [part 4 4, part 5 4],
      let s := kettling p
      Memory.wf s.mem = true ∧ kTurn s 0 1 21 p.op = some p ∧ p.elems.findSome? (kElemFault s 1 p) = none ∧ s.poison = [] ∧ byUnit p.dstVa p.elems = [p.elems] ∧
      p.elems.Pairwise (fun i j => kLoc s p (p.dstVa i) .write + p.size ≤ kLoc s p (p.dstVa j) .write ∨ kLoc s p (p.dstVa j) .write + p.size ≤ kLoc s p (p.dstVa i) .write)) ∧
    gives (exec (.kettleCopy 0 1 21) (kettling (part 4 4))) (fun u => Memory.getN u.mem (hbmLoc 0 0x10000) 16 == 0x00000044000000330000002200000011 &&
      gives (exec (.kettlePartEnd 0 1 21) u) (fun v => (v.kettle 0 1).parts == [] && v.cx.kcmds.map (fun e => e.state) == [.done])) = true ∧
    gives (exec (.kettleFill 0 1 21) (kettling (part 5 4))) (fun u => Memory.getN u.mem (hbmLoc 0 0x10000) 16 == 0x00000007000000070000000700000007) = true ∧
    gives (exec (.kettlePartEnd 0 1 21) (kettling (part 4 4))) (fun u => u == kettling (part 4 4)) = true ∧
    (let s := kettling { part 1 4 with s1 := 1 }
     kTurn s 0 1 21 1 = some { part 1 4 with s1 := 1 } ∧ (part 1 4).elems.findSome? (kElemFault s 1 (part 1 4)) = none ∧
     gives (exec (.rradd 0 1 21) s) (fun u => (u.kettle 0 1).areas.map (fun a => (a.part, a.here, a.need)) == [(21, 16, 1)]) = true) := by
  decide +kernel

/-- A contribution to the area that `part 1 4` opens (R219, R222). -/
theorem witness_AreaContributions :
    let p := { part 1 4 with s1 := 1, started := true }
    let a : Area := ⟨21, 1, 0x100010000, 16, 16, .int32, 1, false, 0, []⟩
    let d : OsDesc := ⟨2, 0, 0x100010000, 0, 0x20, .int32, 16, false, 0, true, 0⟩
    let j := { engJob 9 (.oneSided d) with gang := 1 }
    let x : Msg := ⟨5, ctx0, 0, .kettle 0 1, 9, cl0, true, 0, 0, 0x100010000, leBytes 16 0x00000001000000010000000100000001, false, false, 0⟩
    let s := ((kettling p).setKettle 0 1 ⟨[p], [a], []⟩).setCluster cl0 { Cluster.reset with jobs := [j] }
    let s := { s with msgs := [x] }
    s.msg 5 = some (x, j, d) ∧ s.holds 0 x.addr = false ∧ (s.window x.owner x.src x.slotgen).holds 0 0 = false ∧
    access s j.who x.addr 16 .write = .loc (hbmLoc 0 0x10000) ∧ hbmVa 0 x.addr = some (0, 0x100010000) ∧ areaAt (s.kettle 0 1) 1 0x100010000 16 = some a ∧
    gives (exec (.receiveAreaContribution 0 1 5) s) (fun u => Memory.getN u.mem (hbmLoc 0 0x10000) 16 == 0x0000000100000001000000010000000A &&
      gives (exec (.kettlePartEnd 0 1 21) u) (fun v => (v.kettle 0 1).parts == [] && (v.kettle 0 1).areas == [])) = true := by
  decide +kernel

/-- A part over two units, the second of which is marked, and one that fills a marked unit whole (R222, R236); an AXPY and a FADE of FP32 elements. -/
theorem witness_parts_of_units :
    (let p := part 5 20
     let s := { kettling p with poison := [(unitOf (hbmLoc 0 0x10040), 7)] }
     let f := { kettling p with poison := [(unitOf (hbmLoc 0 0x10000), 7)] }
     let d := fun (i : Nat) => kLoc s p (p.dstVa i) .write
     kTurn s 0 1 21 5 = some p ∧ p.elems.findSome? (kElemFault s 1 p) = none ∧ p.elems.Pairwise (· < ·) ∧
     (∀ i ∈ p.elems, ∀ k ∈ p.elems, i ≠ k → d i + p.size ≤ d k ∨ d k + p.size ≤ d i) ∧ (p.elems.filter (fun k => p.dstVa k / 64 = p.dstVa 0 / 64)).length * p.size = 64 ∧
     gives (exec (.kettleFill 0 1 21) s) (fun u => Memory.getN u.mem (hbmLoc 0 0x1003C) 4 == 7 && Memory.getN u.mem (hbmLoc 0 0x10040) 4 == Memory.getN s.mem (hbmLoc 0 0x10040) 4 &&
       u.poison == s.poison && ((u.kettle 0 1).part 21).map (fun q => q.bad) == some [hbmLoc 0 0x10040]) = true ∧
     gives (exec (.kettleFill 0 1 21) f) (fun u => Memory.getN u.mem (hbmLoc 0 0x10000) 4 == 7 && u.poison == [] && ((u.kettle 0 1).part 21).map (fun q => q.bad) == some []) = true) ∧
    (let p := { part 2 1 with fmt := .fp32, s1 := 0x40000000 }
     let f := { part 3 1 with fmt := .fp32, s1 := 0x3F000000, s2 := 0x3F800000, src := 0x100010020 }
     let s := fun p => { kettling p with mem := Memory.setN (Memory.setN (kettling p).mem (hbmLoc 0 0x10000) 4 0x3F800000) (hbmLoc 0 0x10020) 4 0x40400000 }
     let r := fun (u : State) => (Memory.getN u.mem (hbmLoc 0 0x10000) 4, ((u.kettle 0 1).part 21).map (fun q => q.flags))
     kTurn (s p) 0 1 21 2 = some p ∧ kTurn (s f) 0 1 21 3 = some f ∧
     gives (exec (.axpy 0 1 21) (s p)) (fun u => r u == (0x40E00000, some 0)) = true ∧
     -- 1 · (1 − 0.5 · 1) − 0.5 · 3
     gives (exec (.fade 0 1 21) (s f)) (fun u => r u == (0xBF800000, some 0)) = true) := by
  decide +kernel

/-- Parts of commands on their way: one held back by 64 messages not acknowledged, and one behind another part (R203, R224). -/
theorem witness_parts_on_their_way :
    (let ms := List.replicate 64 { osM true with owner := .kettle 0 1 }
     let s := { kettled with msgs := ms }
     let k : KCard := ⟨4, .int32, false, false, 0x100010000, 0, 0x100010020, 0, 0, 4, 0⟩
     64 ≤ (s.unacked (.kettle 0 1) s.me s.self.slotgen).length ∧ kAway s s.me k = false ∧
     gives (exec (.kcmd false 5 7 0) s) (fun u => u.sent.map (fun p => (p.idx, p.out)) == [(1, false)] &&
       gives (exec (.remoteAddMessage (s.fresh + 2)) u) (fun v => v.sent.map (fun p => p.out) == [false])) = true) ∧
    (let p := { part 4 4 with uid := 20 }
     let q := part 4 4
     let s := { kettled with sent := [p, q] }
     s.msg 21 = none ∧ s.sent.find? (fun x => x.uid = 21) = some q ∧ q.out = true ∧
     (s.sent.takeWhile (fun x => x.uid ≠ 21)).all (fun x => !(x.out && decide (x.m = q.m) && decide (x.idx = q.idx))) = false ∧
     gives (exec (.remoteAddMessage 21) s) (fun u => u == s) = true ∧ gives (exec (.remoteAddMessage 20) s) (fun u => u.sent == [q]) = true) := by
  decide +kernel

theorem witness_WeightSetsAreSealed :
    (let w : Wset := ⟨1, 5, 0x100010000, 0x100020000, 64, 9⟩
     let s := (base.withA [(7, 9), (8, 8)]).setModule 0 { Module.reset with wsets := [w] }
     Takes { s := false, parks := true, a := [7] } s s ∧ Takes { s := false, long := true } s s ∧ s.wset 0 s.self.pid 5 = some w ∧ s.wset 0 s.self.pid 6 = none ∧
     s.cycleOpen 0 s.self.pid 5 = false ∧ s.partWrites 0 w = false ∧
     gives (exec (.wseal false 3 7 5) s) (fun u => u.cx.ra 3 == 10 && (u.wset 0 1 5).map (fun w => w.c) == some 10) = true ∧
     gives (exec (.wseal false 3 8 5) s) (fun u => u.cx.ra 3 == 9 && u.wset 0 1 5 == some w) = true ∧ traps (exec (.wseal false 3 7 6) s) 0x160 = true ∧
     gives (exec (.wq false 3 5) s) (fun u => u.cx.rb.map (fun e => e.result) == [.scalar 9]) = true ∧ traps (exec (.wq false 3 6) s) 0x160 = true) ∧
    (let w : Wset := ⟨1, 5, 0x100010000, 0x100020000, 64, 9⟩
     let s := (kettling { part 4 4 with started := true }).withA [(7, 9)]
     let s := s.setModule 0 { Module.reset with wsets := [w] }
     s.partWrites 0 w = true ∧ gives (exec (.wseal false 3 7 5) s) (fun u => (u.slot ctx0).wait == some (.wsealParts 5)) = true) ∧
    (let w : Wset := ⟨1, 5, 0x100010000, 0x100020000, 64, 9⟩
     let s := (base.setModule 0 { Module.reset with wsets := [w] }).setGang 1 { base.gang 1 with cyc := { CycState.reset with isOpen := true, set := 5 } }
     s.cycleOpen 0 s.self.pid 5 = true ∧ traps (exec (.wseal false 3 7 5) s) 0x161 = true) := by
  refine ⟨⟨takes_of_takesB (by decide +kernel), takes_of_takesB (by decide +kernel), by decide +kernel⟩, by decide +kernel, by decide +kernel⟩

theorem witness_WeightSetCommands :
    let w : Wset := ⟨1, 5, 0x100010000, 0x100020000, 64, 9⟩
    let s := base.setModule 0 { Module.reset with wsets := [w] }
    let c : WsetCmd := { pid := 1, set := 6, p0 := 0x100030000, p1 := 0x100040000, size := 64, op := 0, low := 0 }
    s.wset 0 c.pid c.set = none ∧ copiesBad c = false ∧ (s.wset 0 1 5).isSome = true ∧
    gives (exec (.wsetCreate base.cur c) s) (fun u => u.wset 0 1 6 == some ⟨1, 6, 0x100030000, 0x100040000, 64, 0⟩ && (u.core base.cur).wsetSt == 0) = true ∧
    gives (exec (.wsetCreate base.cur { c with set := 5 }) s) (fun u => (u.core base.cur).wsetSt == 1) = true ∧
    gives (exec (.wsetDelete base.cur { c with set := 5, op := 1 }) s) (fun u => u.wset 0 1 5 == none && (u.core base.cur).wsetSt == 0) = true ∧
    gives (exec (.wsetDelete base.cur { c with op := 1 }) s) (fun u => (u.core base.cur).wsetSt == 2) = true := by
  decide +kernel

/-! ## Witnesses: speculation -/

/-- `base` with a condition's word at a global address of core 0 and values to capture. -/
def speculating : State := base.withA [(2, 22), (3, 33), (4, 44), (5, 55), (7, 0x8000000000001000), (8, 1)]
def cloc : Nat := privLoc base.cur 0x1000

theorem witness_SegmentsAreSpawned :
    (let s := speculating
     let w := committed s
     Takes { s := true, a := [2, 3, 4, 5] } s w ∧ Takes { s := true, a := [7, 2, 3, 4, 5] } s w ∧ Takes { s := false, parks := true, a := [7, 8] } s s ∧
     w.self.ck = none ∧ (w.cluster cl0).pool.length < 256 ∧ issueCheck w w.me 0x8000000000001000 8 .read formsAll = none ∧ condLoc w 0x8000000000001000 true = .loc cloc ∧
     (w.cluster cl0).cond 1 cloc = none ∧ (w.cluster cl0).conds.length < 64 ∧ w.self.chain.length < 8 ∧ condRegion (form 0x8000000000001000) = false ∧
     issueCheck s s.me 0x8000000000001000 8 .write formsAll = none ∧ condLoc s 0x8000000000001000 true = .loc cloc ∧
     (s.gang 1).claims.find? (fun x => x.word = cloc) = none ∧ (∀ y ∈ gangConds s 1 cloc, y = none) ∧ (∀ d ∈ (s.gang 1).clusters, (s.cluster d).conds.length < 64) ∧
     gives (exec (.spawn false 9 32) s) (fun u => (u.cluster cl0).pool.map (fun p => (p.entry, p.capture, p.chain)) == [(s.cx.pc + 64, some [22, 33, 44, 55], [])] &&
       (u.cx.ra 9).getLsbD 63) = true ∧
     gives (exec (.spawnc false 7 true 0xC0 0x14) s) (fun u => (u.cluster cl0).pool.map (fun p => (p.entry, p.chain)) == [(s.cx.pc + 40, [⟨cloc, true, 0xC000⟩])] &&
       ((u.cluster cl0).cond 1 cloc).map (fun e => e.outcome) == some none) = true ∧
     gives (exec (.cres false 7 8 false) s) (fun u => Memory.getN u.mem cloc 8 == 1 && (u.slot ctx0).wait == some (.condTaken cloc)) = true) :=
  ⟨takes_of_marksB (by decide +kernel), takes_of_marksB (by decide +kernel), takes_of_takesB (by decide +kernel), by decide +kernel⟩

/-- The likelihood of a side where p8 is 0 (R268), and the waits and traps of the three instructions. -/
theorem witness_segment_spawns_wait :
    (let s := speculating
     let idx := bits s.cx.pc.toNat 9 1 ^^^ bits s.cx.pc.toNat 18 10
     let p := s.setCluster cl0 { Cluster.reset with predictor := [(idx, ⟨0x4000, 1, 2⟩)] }
     let full := s.setCluster cl0 { Cluster.reset with conds := List.replicate 64 ⟨9, 1, none, []⟩ }
     s.self.lid = 1 ∧
     gives (exec (.spawnc false 7 true 0 0x14) s) (fun u => (u.cluster cl0).pool.map (fun p => p.chain) == [[⟨cloc, true, 0x8000⟩]]) = true ∧
     gives (exec (.spawnc false 7 true 0 0x14) p) (fun u => (u.cluster cl0).pool.map (fun p => p.chain) == [[⟨cloc, true, 0x4000⟩]] &&
       ((u.cluster cl0).cond 1 cloc).map (fun e => e.preds) == some [idx]) = true ∧
     gives (exec (.spawnc false 7 false 0 0x14) p) (fun u => (u.cluster cl0).pool.map (fun p => p.chain) == [[⟨cloc, false, 0xC000⟩]]) = true ∧
     gives (exec (.spawnc false 7 true 1 0x14) full) (fun u => (u.slot ctx0).wait == some (.condRoom cloc)) = true ∧
     gives (exec (.cres false 7 8 false) full) (fun u => (u.slot ctx0).wait == some (.condTables cloc) && (u.gang 1).claims == [⟨cloc, ctx0, none, false⟩] && u.mem == s.mem &&
       gives (exec (.cres false 7 8 false) (u.setCluster cl0 Cluster.reset)) (fun v => (v.slot ctx0).wait == some (.condTaken cloc) && Memory.getN v.mem cloc 8 == 1 &&
         (v.gang 1).claims == [⟨cloc, ctx0, some true, false⟩])) = true ∧
     (let c := s.setSelf { s.self with chain := List.replicate 8 ⟨1, true, 1⟩ }
      gives (exec (.spawnc false 7 true 1 0x14) c) (fun u => (u.slot ctx0).wait == some .chainRoom) = true) ∧
     (let c := s.setSelf { s.self with ck := some ⟨s.cx, ⟨0, 0, true, 0, 0, true⟩, 0, 0, false, 0, 0, 0⟩ }
      gives (exec (.spawnc false 7 true 1 0x14) c) (fun u => (u.slot ctx0).wait == some .certain) = true ∧ gives (exec (.spawn false 9 32) c) (fun u => (u.slot ctx0).wait == some .certain) = true) ∧
     (let c := s.setGang 1 { s.gang 1 with claims := [⟨cloc, ctx0, some true, true⟩] }
      gives (exec (.cres false 7 8 false) c) (fun u => (u.gang 1).claims == [] && u.cx.pc == s.cx.pc + 4) = true) ∧
     (let c := s.withA [(7, 0x8000000000000000 + 3 * 2 ^ 15 + 8), (9, 4)]
      condRegion (form (c.cx.ra 7)) = true ∧ traps (exec (.cres false 7 8 false) c) 0x049 = true ∧ traps (exec (.cres false 9 8 true) c) 0x040 = true)) := by
  decide +kernel

theorem witness_ResolvedConditions :
    (let s := speculating.setCluster cl0 { Cluster.reset with conds := [⟨1, cloc, some true, []⟩] }
     let w := committed s
     Takes { s := true, a := [7, 2, 3, 4, 5] } s w ∧ (w.cluster cl0).cond 1 cloc = some ⟨1, cloc, some true, []⟩ ∧
     gives (exec (.spawnc false 7 false 0xC0 0x14) s) (fun u => (u.cluster cl0).pool == [] && u.cx.spawn == 1) = true ∧
     gives (exec (.spawnc false 7 true 0xC0 0x14) s) (fun u => (u.cluster cl0).pool.map (fun p => p.chain) == [[]]) = true ∧
     gives (exec (.cres false 7 8 true) s) (fun u => (u.cluster cl0).conds == []) = true) ∧
    (let s := speculating.setCluster cl0 { Cluster.reset with conds := [⟨1, cloc, none, []⟩] }
     some ⟨1, cloc, none, []⟩ ∈ gangConds s 1 cloc ∧ traps (exec (.cres false 7 8 true) s) 0x151 = true) ∧
    (let s := speculating.setGang 1 { speculating.gang 1 with claims := [⟨cloc, ⟨base.cur, 1⟩, none, false⟩] }
     (s.gang 1).claims.find? (fun x => x.word = cloc) = some ⟨cloc, ⟨base.cur, 1⟩, none, false⟩ ∧ traps (exec (.cres false 7 8 false) s) 0x150 = true) ∧
    (let s := (speculating.setGang 1 { speculating.gang 1 with claims := [⟨cloc, ctx0, some true, false⟩] }).setCluster cl0 { Cluster.reset with conds := [⟨1, cloc, some true, []⟩] }
     (∀ y ∈ gangConds s 1 cloc, y.isSome = true) ∧ gives (exec (.cres false 7 8 false) s) (fun u => (u.gang 1).claims == [] && u.cx.pc == s.cx.pc + 4) = true) ∧
    (let s := speculating.setCluster cl0 { Cluster.reset with pool := List.replicate 256 ⟨50, 1, 0, 0, .segment, [], [], 0, none⟩ }
     256 ≤ ((committed s).cluster cl0).pool.length ∧ gives (exec (.spawn false 9 32) s) (fun u => (u.slot ctx0).wait == some .poolRoom) = true) :=
  ⟨⟨takes_of_marksB (by decide +kernel), by decide +kernel⟩, by decide +kernel, by decide +kernel, by decide +kernel, by decide +kernel⟩

theorem witness_SegmentsAndNodesRun :
    (let c1 : CtxId := ⟨base.cur, 1⟩
     let s := base.setGang 1 { base.gang 1 with held := [ctx0, c1], claims := [⟨cloc, ctx0, some true, false⟩] }
     let s := s.setSlot c1 { base.self with chain := [⟨cloc, false, 1⟩], role := .segment, uid := 40 }
     let s := s.setCluster cl0 { Cluster.reset with conds := [⟨1, cloc, none, []⟩] }
     (s.gang 1).claims.find? (fun x => x.word = cloc) = some ⟨cloc, ctx0, some true, false⟩ ∧ (s.gang 1).covers cl0 = true ∧ (s.gang 1).status = .running ∧ (s.slot ctx0).chain = [] ∧
     c1 ∈ tasksIn s 1 cl0 ∧ onSide (s.slot c1).chain cloc false = true ∧
     gives (exec (.conditionOutcomeArrival cl0 1 cloc) s) (fun u => (u.slot c1).phase == .idle && ((u.cluster cl0).cond 1 cloc).map (fun e => e.outcome) == some (some true)) = true) ∧
    (let c1 : CtxId := ⟨base.cur, 1⟩
     let p : Segment := ⟨50, 1, 0x100000040, 2 ^ 63, .segment, [], [], 2, some [22, 33, 44, 55]⟩
     let s := (base.setGang 1 { base.gang 1 with held := [ctx0, c1] }).setCluster cl0 { Cluster.reset with pool := [p] }
     c1.who ≠ 4 ∧ (s.slot c1).phase = .idle ∧ segmentFor s c1 = some p ∧
     gives (exec (.segmentTake c1) s) (fun u => (u.slot c1).phase == .live && (u.slot c1).cx.pc == 0x100000040 && (u.slot c1).cx.ra 1 == 0x2000 && (u.cluster cl0).pool == [] &&
       Memory.getN u.mem (privLoc base.cur 0x2018) 8 == 55) = true) := by
  decide +kernel

/-- The .data of a loaded object at the start of an entry task (R29, R382). -/
theorem witness_data_of_an_object :
    let p : Segment := ⟨50, 1, 0x100000040, 7, .entry, [], [], 2, none⟩
    let c1 : CtxId := ⟨base.cur, 1⟩
    let x : Nat × Loaded := (0, ⟨0, 1, [0x11, 0x22, 0x33], []⟩)
    let s := (base.setGang 1 { base.gang 1 with held := [ctx0, c1] }).setCluster cl0 { Cluster.reset with pool := [p] }
    let s := { s.modLaunch 1 (fun l => { l with img := some 0 }) with loaded := [x] }
    segmentFor s c1 = some p ∧ (s.launch (s.gang p.gang).launch).img = some x.1 ∧ s.loaded.find? (fun y => y.1 = x.1) = some x ∧ x.2.data[2]? = some 0x33 ∧
    gives (exec (.segmentTake c1) s) (fun u => (u.slot c1).phase == .live && Memory.getN u.mem (privLoc base.cur 0x2000) 4 == 0x332211) = true := by
  decide +kernel

/-- A conditional node and a while node of a resident task graph, ready, over the condition of `cloc` (R290, R291). -/
def noded (kind : Nat) (o : Option Bool) : State :=
  let n : Node := ⟨kind, 0, 0, 0, 0x8000000000001000, [1], [2], none, 0, [], [], some 0, false, false, false, 0, 0, false, false⟩
  let t : Node := ⟨0, 0, 0, 0x100000040, 0, [], [], if kind = 2 then some 0 else none, 1, [], [], none, false, false, false, 0, 0, false, false⟩
  (base.setGang 1 { base.gang 1 with nodes := [n, t, { t with parent := none }] }).setCluster cl0 { Cluster.reset with conds := [⟨1, cloc, o, []⟩] }

theorem witness_GraphNodes :
    (let s := noded 1 (some false)
     let x := (s.gang 1).nodes.getD 0 ⟨0, 0, 0, 0, 0, [], [], none, 0, [], [], none, false, false, false, 0, 0, false, false⟩
     (s.gang 1).nodes[0]? = some x ∧ x.ready.isSome = true ∧ x.fin = false ∧ x.exitOf = false ∧ (s.gang 1).status = .running ∧ nodeWord s 1 x = some cloc ∧
     ((s.cluster ((s.gang 1).cluster x.cluster)).cond 1 cloc).isSome = true ∧ x.kind = 1 ∧ 1 ∈ x.succT ∧ 1 ∉ x.succF ∧
     gives (exec (.conditionalNode 1 0) s) (fun u => (u.gang 1).nodes.map (fun y => y.fin) == [true, true, false]) = true) ∧
    (let s := noded 2 (some true)
     let x := (s.gang 1).nodes.getD 0 ⟨0, 0, 0, 0, 0, [], [], none, 0, [], [], none, false, false, false, 0, 0, false, false⟩
     x.kind = 2 ∧ x.guess = false ∧ x.stale = false ∧ x.entered = false ∧ 0 ∉ x.succT ∧
     gives (exec (.whileNode 1 0) s) (fun u => (u.gang 1).nodes.map (fun y => (y.fin, y.entered, y.stale)) == [(false, true, true), (false, false, false), (false, false, false)] ||
       (u.gang 1).nodes.map (fun y => (y.fin, y.entered, y.stale)) == [(false, true, true), (false, true, false), (false, false, false)]) = true) ∧
    (let s := noded 2 (some false)
     gives (exec (.whileNode 1 0) s) (fun u => (u.gang 1).nodes.map (fun y => y.fin) == [true, true, false]) = true) := by
  decide +kernel

/-! ## Witnesses: collectives, the exchange phase and cycles -/

/-- An outcome that arrives trains each entry noted for its condition, once, from 0x8000 where the entry is another launch's (R268). -/
theorem witness_outcomes_train :
    (let s := base.setGang 1 { base.gang 1 with claims := [⟨cloc, ctx0, some true, false⟩] }
     let s := s.setCluster cl0 { Cluster.reset with conds := [⟨1, cloc, none, [5, 6]⟩], predictor := [(5, ⟨0x4000, 1, 2⟩), (6, ⟨0x4000, 9, 3⟩), (7, ⟨0x4000, 1, 2⟩)] }
     gives (exec (.conditionOutcomeArrival cl0 1 cloc) s) (fun u => [5, 6, 7].map (fun i => kget (u.cluster cl0).predictor i ⟨0, 0, 0⟩) ==
       [⟨0x5800, 1, 3⟩, ⟨0x9000, 1, 1⟩, ⟨0x4000, 1, 2⟩]) = true) ∧
    (let s := (noded 1 none).modLaunch 1 (fun l => { l with serial := true })
     gives (exec (.conditionalNode 1 0) s) (fun u => u.gangs == s.gangs) = true ∧ gives (exec (.whileNode 1 0) ((noded 2 none).modLaunch 1 (fun l => { l with serial := true })))
       (fun u => u.gangs == (noded 2 none).gangs) = true) := by
  decide +kernel

/-- `base` in a RESIDENT launch. -/
def resident (s : State) : State := s.setLaunch 1 { s.launch 1 with rc := { (s.launch 1).rc with resident := true } }

theorem witness_CollectivesAndVotes :
    (let s := resident (base.withA [(7, 1)])
     Takes { s := false, control := true, parks := true, a := [7] } s s ∧ Takes { s := false, control := true, parks := true } s s ∧ s.isResident = true ∧ s.isEntry = true ∧
     Takes { s := false, xOk := true, parks := true, a := [7] } s s ∧ base.isResident = false ∧ (s.gang s.myGang).cyc.isOpen = false ∧ s.self.voted = false ∧
     ((s.gang s.myGang).vote s.self.votes).result = none ∧ (∀ c ∈ liveEntries s s.myGang, c = s.me) ∧
     gives (exec (.cbr false 7 1 true 0x10) s) (fun u => (u.cx.delay.bind (fun d => d.coll)) == some ⟨0, 1, true, s.cx.pc + 32, s.cx.pc + 8, true⟩) = true ∧
     traps (exec (.cbr false 7 1 true 0x10) base) 0x0D8 = true ∧ traps (exec (.cyct false true 0x10) s) 0x168 = true ∧
     gives (exec (.cvote false 3 7 2) s) (fun u => u.cx.ra 3 == 0) = true ∧ gives (exec (.cvote false 3 7 1) s) (fun u => u.cx.ra 3 == 1) = true) ∧
    (let s := resident (base.setSelf { base.self with role := .segment })
     s.isEntry = false ∧ traps (exec (.cbr false 7 1 true 0x10) s) 0x0DA = true ∧ traps (exec (.cvote false 3 7 1) s) 0x0DC = true) ∧
    (let s := resident (base.setGang 1 { base.gang 1 with cyc := { CycState.reset with isOpen := true } })
     (s.gang s.myGang).cyc.isOpen = true ∧ gives (exec (.cyct false true 0x10) s) (fun u => (u.cx.delay.bind (fun d => d.coll)).map (fun r => r.op) == some 3) = true) ∧
    (let k : Checkpoint := ⟨base.cx, ⟨0, 1, true, 0x100000080, 0x100000010, false⟩, 0x100000008, 0, false, 100, 0, 0⟩
     let s := resident (base.setSelf { base.self with ck := some k })
     members s 1 = [1] ∧ liveEntries s 1 = [ctx0] ∧ (s.launch 1).rc.resident = true ∧ (s.slot ctx0).ck = some k ∧ k.coll.k = (s.launch 1).closed ∧
     gives (exec (.collectiveResolve 1) s) (fun u => (u.launch 1).closed == 1 && (u.slot ctx0).ck == none && (u.slot ctx0).cx.pc == 0x100000080) = true) ∧
    (let s := (base.setSelf { base.self with voted := true }).setGang 1 { base.gang 1 with votes := [⟨0, [(ctx0, 1, true)], some (some true)⟩] }
     s.self.voted = true ∧ ((s.gang 1).vote s.self.votes).result = some (some true) ∧ gives (exec (.cvote false 3 7 1) s) (fun u => u.cx.ra 3 == 1 && u.self.votes == 1) = true) :=
  ⟨⟨takes_of_takesB (by decide +kernel), takes_of_takesB (by decide +kernel), by decide +kernel, by decide +kernel, takes_of_takesB (by decide +kernel), by decide +kernel⟩,
   by decide +kernel, by decide +kernel, by decide +kernel, by decide +kernel⟩

/-- The exchange phase of a gang of two clusters, with the task of `base` in the west one. -/
def exchanging (ops : List XOp) : State :=
  let s := (base.setSelf { base.self with inXchg := true }).withA [(7, 0x40), (8, 0x44)]
  s.setGang 1 { s.gang 1 with wd := 2, xops := ops }
def east : CtxId := ⟨⟨⟨0, 1, 0⟩, 0⟩, 0⟩

theorem witness_ExchangePhases :
    Takes { s := true, parks := true } base (committed base) ∧ gives (exec (.ssend false) base) (fun u => (u.slot ctx0).ssended && (u.slot ctx0).wait == some .ssend) = true ∧
    (let s := base.setSelf { base.self with ssended := true, wait := some .ssend }
     s.gangs = [(1, s.gang 1)] ∧ (s.gang 1).status = .running ∧ (s.gang 1).atCut = false ∧ (s.core base.cur).markers.contains 1 = false ∧ liveEntries s 1 = [ctx0] ∧
     (s.slot ctx0).cx.delay = none ∧ gives (exec (.markerToken base.cur) s) (fun u => (u.slot ctx0).inXchg && (u.slot ctx0).cx.pc == s.cx.pc + 4) = true) ∧
    (let s := exchanging []
     Takes { s := false, xOk := true, a := [7] } s s ∧ Takes { s := false, xOk := true } s s ∧ form 0x40 = .priv 0x40 ∧ s.ownsPriv s.me 0x40 256 = true ∧ s.guarded s.cur 0x40 256 = false ∧
     neighbour (s.gang 1) s.cur.cl 1 ≠ none ∧ neighbour (s.gang 1) s.cur.cl 0 = none ∧ s.poisoned (privLoc s.cur 0x40) 256 = false ∧
     traps (exec (.xmit false 3 1 7 0 9) base) 0x0D0 = true ∧ traps (exec (.xmit false 3 1 8 0 9) s) 0x040 = true ∧ traps (exec (.xsel false 3 0 7 0 9) s) 0x0D2 = true ∧
     gives (exec (.xmit false 3 1 7 0 9) s) (fun u => (u.gang 1).xops.map (fun y => (y.isRecv, y.len, y.bytes.length, y.slot)) == [(false, 256, 256, 9)] &&
       traps (exec (.xmit false 3 1 7 0 9) u) 0x0D1 && gives (exec (.xend false 3) u) (fun v => v.cx.ra 3 == 1)) = true ∧
     gives (exec (.xend false 3) s) (fun u => u.cx.ra 3 == 0 && !u.self.inXchg) = true) ∧
    (let y : XOp := ⟨east, false, 3, 9, 0x40, 32, leBytes 32 0x1234, 0⟩
     let r : XOp := ⟨ctx0, true, 1, 9, 0x80, 64, [], 0⟩
     let s := exchanging [y, r]
     (s.gang 1).xops[1]? = some r ∧ (s.gang 1).xops.findIdx? (fun y => y.result = 0 && y.pairs (s.gang 1) r) = some 0 ∧ Memory.wf s.mem = true ∧ y.bytes.length = y.len ∧
     gives (exec (.exchangeDelivery 1 1) s) (fun u => Memory.getN u.mem (privLoc base.cur 0x80) 8 == 0x1234 && (u.gang 1).xops.map (fun z => z.result) == [3, 3] &&
       gives (exec (.xend false 3) u) (fun v => v.cx.ra 3 == 4)) = true) := by
  refine ⟨takes_of_marksB (by decide +kernel), by decide +kernel, by decide +kernel, ⟨takes_of_takesB (by decide +kernel), takes_of_takesB (by decide +kernel), by decide +kernel⟩, by decide +kernel⟩

/-- `base` in a RESIDENT launch with a weight set 5, and with an open cycle sequence over it. -/
def cycling (c : CycState) (own : Bool) (k : Nat) : State :=
  let s := resident ((base.setSelf { base.self with cycOwn := own, cycs := k }).withA [(7, 0x2_3F800000), (8, 0x7F800001), (9, 0x40000000), (10, 0x80000000)])
  (s.setGang 1 { s.gang 1 with cyc := c }).setModule 0 { Module.reset with wsets := [⟨1, 5, 0x100010000, 0x100020000, 64, 9⟩] }

theorem witness_CyclesOpenAndClose :
    (let s := cycling CycState.reset false 0
     Takes { s := false, parks := true, a := [7] } s s ∧ Takes { s := false, parks := true } s s ∧ s.isResident = true ∧ s.isEntry = true ∧ s.self.cycOwn = false ∧
     (s.wset 0 s.self.pid 5).isSome = true ∧ s.self.cycs ≤ (s.gang 1).cyc.closed ∧ (s.gang 1).cyc.opened ≤ s.self.cycs ∧ (s.gang 1).cyc.isOpen = false ∧
     gives (exec (.cycb false 7 5 true) s) (fun u => (u.gang 1).cyc.isOpen && (u.gang 1).cyc.max == 2 && (u.gang 1).cyc.tol == 0x3F800000 && u.self.cycOwn && u.self.cycs == 1) = true ∧
     traps (exec (.cycres false 7) s) 0x168 = true ∧ traps (exec (.cyce false) s) 0x168 = true ∧ traps (exec (.cycb false 7 5 true) base) 0x0D8 = true) ∧
    (let c := { CycState.reset with isOpen := true, tol := 0x3F800000, max := 2, rel := true, set := 5, opened := 1 }
     let s := cycling c true 1
     let j := cycling c false 0
     s.self.cycOwn = true ∧ (s.gang 1).cyc.isOpen = true ∧ (∀ d ∈ liveEntries s 1, d = s.me) ∧ j.self.cycs < c.opened ∧
     traps (exec (.cycb false 7 5 true) s) 0x168 = true ∧ gives (exec (.cycb false 7 5 true) j) (fun u => u.self.cycOwn && u.self.cycs == 1) = true ∧
     traps (exec (.cycb false 7 5 false) j) 0x16A = true ∧ traps (exec (.cycres false 8) s) 0x169 = true ∧
     gives (exec (.cycres false 9) s) (fun u => (u.gang 1).cyc.pend == 0x40000000) = true ∧ gives (exec (.cycres false 10) s) (fun u => (u.gang 1).cyc.pend == 0) = true ∧
     gives (exec (.cyce false) s) (fun u => !(u.gang 1).cyc.isOpen && (u.gang 1).cyc.closed == 1 && !u.self.cycOwn) = true) := by
  refine ⟨⟨takes_of_takesB (by decide +kernel), takes_of_takesB (by decide +kernel), by decide +kernel⟩, by decide +kernel⟩

/-- A CYCRES in the delay slot of its own CYCT, and one in the delay slot of a CBR (R302, R322). -/
theorem witness_cycres_in_a_delay_slot :
    let d := fun (op : BitVec 2) => (⟨0x100, none, some ⟨0, op, false, 0x100000080, 0x100000010, false⟩⟩ : Delay)
    let s := fun op => (cycling { CycState.reset with isOpen := true, opened := 1 } true 1).onCx (fun c => { c with delay := some (d op) })
    Takes { s := false, parks := true, a := [9] } (s 3) (s 3) ∧ (s 3).cx.delay = some (d 3) ∧
    gives (exec (.cycres false 9) (s 3)) (fun u => u.self.ck.isSome && u.self.wait.isSome && (u.gang 1).cyc.pend == 0) = true ∧
    gives (exec (.cycres false 9) (s 1)) (fun u => u.self.wait.isNone && (u.gang 1).cyc.pend == 0x40000000) = true :=
  ⟨takes_of_takesB (by decide +kernel), by decide +kernel⟩

/-! ## Witnesses: launches, dispatchers, stops -/

/-- `base` with the launch record of one gang of one slot, of neural bank version `nbv`, at 0x1C00 of the private alias (R297); the launch of
the running task has ended. -/
def recorded (nbv : Nat) : State :=
  let s := base.withA [(7, 0x1C00), (8, 0x1C20), (9, 1), (10, 0x8000000000001000)]
  let m := Memory.setN (Memory.setN s.mem (privLoc s.cur 0x1C00) 8 0x100000040) (privLoc s.cur 0x1C08) 8 (0x1000000 + nbv * 0x10000)
  ({ s with mem := Memory.setN m (privLoc s.cur 0x1C10) 8 0x0101124000000000 }).modLaunch 1 (fun l => { l with fin := true })
def recDs (nbv : Nat) : List Nat := [0x100000040, 0x1000000 + nbv * 0x10000, 0x0101124000000000] ++ List.replicate 29 0

/-- `base` alone in a RESIDENT launch, run ahead past a collective branch of operator `op` on the side predicted. -/
def ranAhead (op : BitVec 2) (pred : Bool) (c : CycState) (o : Option CycOffer) : State :=
  let k : Checkpoint := ⟨base.cx, ⟨0, op, true, 0x100000080, 0x100000010, pred⟩, 0x100000008, 0, false, 100, 0, 0⟩
  let s := resident (base.setSelf { base.self with ck := some k, cx := { base.cx with pc := if pred then 0x100000080 else 0x100000010 } })
  s.setGang 1 { s.gang 1 with cyc := c, offer := o }

/-- The close of a CYCT: not converged with cycles left, converged relative to the first residual, and used up (R302, R320 to R322). -/
theorem witness_cycle_closes :
    (let c := { CycState.reset with isOpen := true, tol := 0x3F000000, max := 3, rel := true, set := 5, opened := 1 }
     let o := fun (r : BitVec 32) => some (⟨r, 0x3F000000, 3, true, 5⟩ : CycOffer)
     let s := ranAhead 3 false c (o 0x40000000)
     members s 1 = [1] ∧ liveEntries s 1 = [ctx0] ∧
     gives (exec (.collectiveResolve 1) s) (fun u => (u.slot ctx0).ck == none && (u.slot ctx0).cx.pc == 0x100000010 && (u.slot ctx0).cbrstat == 0x100010000 &&
       (u.gang 1).offer == none && (u.gang 1).cyc == { c with resid := 0x40000000, cnt := 1, resid0 := 0x40000000 }) = true ∧
     gives (exec (.collectiveResolve 1) (ranAhead 3 false { c with cnt := 1, resid0 := 0x40000000 } (o 0x3F800000))) (fun u => (u.slot ctx0).cx.pc == 0x100000080 &&
       (u.slot ctx0).cbrstat == 0x100010003 && (u.gang 1).cyc.converged && !(u.gang 1).cyc.exhausted && (u.gang 1).cyc.cnt == 2) = true ∧
     gives (exec (.collectiveResolve 1) (ranAhead 3 true { c with cnt := 2, resid0 := 0x40000000 } (o 0x7F800000))) (fun u => (u.slot ctx0).cx.pc == 0x100000080 &&
       (u.slot ctx0).cbrstat == 0x100010001 && !(u.gang 1).cyc.converged && (u.gang 1).cyc.exhausted && (u.gang 1).cyc.cnt == 3) = true) := by
  decide +kernel

/-- Two tasks of a gang that offer different predicates, and two members whose parameters differ (R279, R302). -/
theorem witness_collective_mismatches :
    (let c1 : CtxId := ⟨base.cur, 1⟩
     let s := ranAhead 1 true CycState.reset none
     let s := s.setGang 1 { s.gang 1 with held := [ctx0, c1], entries := [ctx0, c1] }
     let s := s.setSlot c1 { s.self with uid := 40, ck := s.self.ck.map (fun k => { k with coll := { k.coll with val := false } }) }
     liveEntries s 1 = [ctx0, c1] ∧
     gives (exec (.collectiveResolve 1) s) (fun u => [ctx0, c1].all (fun c => (u.slot c).cause == 0x0D9 && (u.slot c).epc == 0x100000008 && (u.slot c).cbrstat == 0x100010008 &&
       (u.slot c).ck == none)) = true) ∧
    (let c1 : CtxId := ⟨base.cur, 1⟩
     let o := fun (r : BitVec 32) => (⟨0, r, 3, true, 5⟩ : CycOffer)
     let s := ranAhead 3 true CycState.reset (some (o 1))
     let s := s.setGang 2 { s.gang 1 with held := [c1], entries := [c1], offer := some (o 2) }
     let s := s.setSlot c1 { s.self with uid := 40, gang := some 2 }
     let s := s.setLaunch 1 { s.launch 1 with rc := { (s.launch 1).rc with grid := 2 } }
     members s 1 = [1, 2] ∧ (members s 1).Nodup ∧ gives (exec (.collectiveResolve 1) s) (fun u => [ctx0, c1].all (fun c => (u.slot c).cause == 0x16A)) = true) ∧
    (let s := (base.setSelf { base.self with voted := true }).setGang 1 { base.gang 1 with votes := [⟨0, [(ctx0, 1, true)], some none⟩] }
     traps (exec (.cvote false 3 7 1) s) 0x0DB = true ∧
     gives (exec (.cvote false 3 7 1) (s.setGang 1 { s.gang 1 with votes := [⟨0, [(ctx0, 1, true)], none⟩] })) (fun u => (u.slot ctx0).wait == some (.vote 0)) = true) := by
  decide +kernel

/-- The last marker token where the pod holds another gang too, and a speculative task at the instructions of R272. -/
theorem witness_last_marker_and_role_traps :
    (let s := base.setSelf { base.self with ssended := true, wait := some .ssend }
     let s := s.setGang 7 { Gang.reset with status := .running, held := [⟨base.cur, 2⟩], entries := [⟨base.cur, 2⟩] }
     (s.gangs.map (fun p => p.1)).Nodup ∧ (1, s.gang 1) ∈ s.gangs ∧ s.gangs.length = 2 ∧ (liveEntries s 1).Nodup ∧
     gives (exec (.markerToken base.cur) s) (fun u => (u.slot ctx0).inXchg && (u.slot ctx0).cx.pc == s.cx.pc + 4 && (u.gang 1).xops == []) = true) ∧
    (let s := base.setSelf { base.self with chain := [⟨0, true, 1⟩] }
     let c := cycling { CycState.reset with isOpen := true, opened := 1 } true 1
     let c := c.setSelf { c.self with chain := [⟨0, true, 1⟩] }
     let j := cycling CycState.reset false 0
     let j := j.setSelf { j.self with chain := [⟨0, true, 1⟩] }
     gives (exec (.ssend false) s) (fun u => (u.slot ctx0).wait == some .certain) = true ∧
     gives (exec (.ssend false) (s.setSelf { s.self with role := .segment })) (fun u => (u.slot ctx0).held.map (fun t => t.code) == some 0x0D0) = true ∧
     gives (exec (.cyce false) c) (fun u => (u.slot ctx0).wait == some .certain && (u.gang 1).cyc.isOpen) = true ∧
     gives (exec (.cycb false 9 5 true) j) (fun u => (u.slot ctx0).wait == some .certain && !(u.gang 1).cyc.isOpen) = true ∧
     gives (exec (.cycb false 8 5 true) j) (fun u => (u.slot ctx0).held.map (fun t => t.code) == some 0x169) = true) := by
  decide +kernel

theorem witness_LaunchInstructions :
    (∀ p ∈ [(1, 0), (2, 3)],
      let s := recorded p.1
      Takes { s := false, parks := true, a := [7] } s s ∧ (form 0x1C00).isPriv = true ∧ recordCheck s s.me 0x1C00 64 256 = none ∧ readDwords s s.me 0x1C00 32 = .ok (recDs p.1) ∧
      (∀ e ∈ s.cx.rb, e.returned = true) ∧ (launchRecOf (recDs p.1) 0).2 = true ∧ (launchRecOf (recDs p.1) 0).1.graph = 0 ∧
      launchStatus s (s.whoIs s.me) { Launch.reset with pid := 1, rc := (launchRecOf (recDs p.1) 0).1, fin := false } true [] = p.2) ∧
    gives (exec (.launch false 3 7 0) (recorded 1)) (fun u => u.launches.length == 2 && (u.launch (recorded 1).fresh).rc.grid == 1 && !(u.launch (recorded 1).fresh).fin &&
      (u.launch (recorded 1).fresh).queued == none && (u.module 0).mode == .normal && u.cx.pc == base.cx.pc + 4) = true ∧
    gives (exec (.launch false 3 7 0) (recorded 2)) (fun u => u.launches.length == 1 && u.cx.ra 3 == 0x0300000000000000) = true ∧
    traps (exec (.launch false 3 8 0) (recorded 1)) 0x040 = true ∧ traps (exec (.launch false 3 10 0) (recorded 1)) 0x041 = true := by
  refine ⟨?_, by decide +kernel⟩
  intro p hp
  have h : p = (1, 0) ∨ p = (2, 3) := by simpa using hp
  rcases h with rfl | rfl <;> exact ⟨takes_of_takesB (by decide +kernel), by decide +kernel⟩

theorem witness_LaunchCancelAndWait :
    (let s := base.withA [(9, 1), (8, 6)]
     Takes { s := false, parks := true, a := [9] } s s ∧ Takes { s := false, a := [9] } s s ∧ Takes { s := true, control := true, parks := true } s (committed s) ∧
     findLaunch s s.self.pid 1 (fun l => l.cancel.isNone) = some 1 ∧ findLaunch s s.self.pid 6 (fun l => l.cancel.isNone) = none ∧
     findLaunch s s.self.pid 1 (fun l => l.origin = 0) = some 1 ∧ findLaunch s s.self.pid 6 (fun l => l.origin = 0) = none ∧
     (s.module 0).kept.find? (fun k => k.1 = s.self.pid && k.2.1 = 6) = none ∧ workPending (committed s) ctx0 = false ∧ ((committed s).launchOf ctx0).rc.digest = false ∧
     gives (exec (.lcancel false 9 true) s) (fun u => (u.launch 1).cancel == some true) = true ∧ gives (exec (.lcancel false 8 true) s) (fun u => (u.launch 1).cancel == none) = true ∧
     gives (exec (.lwait false 3 9) s) (fun u => (u.slot ctx0).wait == some (.launchEnd 1)) = true ∧ traps (exec (.lwait false 3 8) s) 0x0E0 = true ∧
     gives (exec (.retire false) s) (fun u => (u.slot ctx0).phase == .idle && (u.gang 1).status == .retired && (u.launch 1).retired == 1) = true) ∧
    (let s := (base.withA [(8, 6)]).setModule 0 { Module.reset with kept := [(1, 6, 0x4000000000000002)] }
     (s.module 0).kept.find? (fun k => k.1 = s.self.pid && k.2.1 = 6) = some (1, 6, 0x4000000000000002) ∧
     gives (exec (.lwait false 3 8) s) (fun u => u.cx.ra 3 == 0x4000000000000002) = true) ∧
    (let s := (base.setSelf { base.self with cycOwn := true })
     s.isEntry = true ∧ traps (exec (.retire false) s) 0x168 = true) ∧
    (let s := base.setCluster cl0 { Cluster.reset with jobs := [{ osJ 0 with left := 0 }] }
     workPending (committed s) ctx0 = true ∧ gives (exec (.retire false) s) (fun u => (u.slot ctx0).wait == some .work) = true) :=
  ⟨⟨takes_of_takesB (by decide +kernel), takes_of_takesB (by decide +kernel), takes_of_marksB (by decide +kernel), by decide +kernel⟩, by decide +kernel, by decide +kernel,
   by decide +kernel⟩

/-- A launch of a gang of one slot, at the dispatchers of module 0, with no gang placed and a page of HBM mapped. -/
def queued (f : Launch → Launch) : State :=
  let e : TlbEntry := { m := 0, station := stationOf 0x100010000, pid := 1, va := 0x100010000, size := 65536, pa := 65536, r := true, w := true, x := false }
  let s := { base with gangs := [], tlb := [e] }.setModule 0 { Module.reset with started := true, clustersOn := true, pids := [(1, 1)] }
  s.setLaunch 1 (f { s.launch 1 with rc := (launchRecOf (recDs 1) 0).1, queued := some 1 })

theorem witness_DispatchersAndTaskFaults :
    (let s := queued (fun l => { l with queued := none })
     (s.launch 1).fin = false ∧ depsOf s (s.launch 1) (s.launch 1).rc.deps = .met ∧
     gives (exec (.launchDependenceMet 1) s) (fun u => (u.launch 1).queued == some s.fresh && kget (u.launch 1).ranges (.root 0) [] == [(0, 1)]) = true) ∧
    (let s := queued (fun l => { l with queued := none, rc := { l.rc with deps := [(0x100010000, 100)] } })
     depsOf s (s.launch 1) (s.launch 1).rc.deps = .waits ∧ gives (exec (.launchDependenceMet 1) s) (fun u => (u.launch 1).queued == none) = true) ∧
    (let s := queued (fun l => { l with rc := { l.rc with grid := 40 }, ranges := [(.root 0, [(0, 40)])] })
     let r := s.launch 1
     (DispNode.module 0).parent r = some (.root 0, 1) ∧ nodeServes s r (.module 0) = true ∧ r.blocksAt (.module 0) = 0 ∧ r.blocksAt (.root 0) = 40 ∧
     gives (exec (.blockRangeRequest (.module 0) 1) s) (fun u => kget (u.launch 1).ranges (.module 0) [] == [(0, 20)] && kget (u.launch 1).ranges (.root 0) [] == [(20, 40)]) = true) ∧
    (let s := queued (fun l => { l with rc := { l.rc with grid := 3 }, ranges := [(.band 0 0 0, [(0, 3)])] })
     let r := s.launch 1
     r.rc.resident = false ∧ nodeServes s r (.band 0 0 0) = true ∧ (DispNode.band 0 0 0).level = r.rc.level ∧ inTurn s (.band 0 0 0) 1 = true ∧ r.serial = false ∧
     kget r.ranges (.band 0 0 0) [] = [(0, 3)] ∧ fitsArea r.rc (.band 0 0 0) 1 0 = true ∧ (s.module 0).power = .run ∧ s.answers 0 = true ∧
     placeAt s r.rc r.pid 0 1 0 = some [⟨⟨⟨0, 1, 0⟩, 0⟩, 0⟩] ∧
     gives (exec (.gangStart (.band 0 0 0) 1 1 0) s) (fun u => kget (u.launch 1).ranges (.band 0 0 0) [] == [(1, 3)] && (u.gang s.fresh).entries == [⟨⟨⟨0, 1, 0⟩, 0⟩, 0⟩] &&
       (u.slot ⟨⟨⟨0, 1, 0⟩, 0⟩, 0⟩).phase == .live && (u.slot ⟨⟨⟨0, 1, 0⟩, 0⟩, 0⟩).cx.pc == 0x100000040) = true) ∧
    (let s := queued (fun l => { l with cancel := some true, rc := { l.rc with grid := 3 }, ranges := [(.root 0, [(0, 3)])] })
     (DispNode.root 0).parent (s.launch 1) = none ∧ nodeServes s (s.launch 1) (.root 0) = true ∧
     gives (exec (.cancelAtDispatcher (.root 0) 1) s) (fun u => (u.launch 1).withdrawn == 3 && (u.launch 1).handled == [.root 0]) = true) ∧
    (let s := queued (fun l => { l with retired := 1, nfaults := 0 })
     (s.launch 1).retired + (s.launch 1).withdrawn + (s.launch 1).killed = (s.launch 1).rc.grid ∧ (s.launch 1).rc.counter = 0 ∧ (s.launch 1).rc.summary = 0 ∧
     gives (exec (.launchComplete 1) s) (fun u => (u.launch 1).fin && (u.module 0).kept == [(1, 1, 0)]) = true) ∧
    (let s := queued (fun l => { l with retired := 1, rc := { l.rc with summary := 0x100010000 } })
     (match whoWrite s (s.launch 1).who 0x100010000 (summaryOf s (s.launch 1)) with | .ok _ => true | _ => false) = true ∧
     gives (exec (.launchComplete 1) s) (fun u => Memory.getN u.mem (hbmLoc 0 0x10008) 8 == 1 && Memory.getN u.mem (hbmLoc 0 0x10080) 8 == 2 ^ 64 - 1) = true) := by
  decide +kernel

/-- A launch cancelled before its dependences are met, one whose dependence counter is refused, one issued behind another, a full band, the order of a
serialised launch, and the gangs of a RESIDENT launch (R256 to R258, R263, R372). -/
theorem witness_launches_in_turn :
    (let s := queued (fun l => { l with queued := none, cancel := some false, rc := { l.rc with grid := 3 } })
     gives (exec (.launchDependenceMet 1) s) (fun u => (u.launch 1).withdrawn == 3 && (u.launch 1).ranges == []) = true) ∧
    (let s := queued (fun l => { l with queued := none, rc := { l.rc with grid := 3, deps := [(0x100090000, 1)] } })
     (match depsOf s (s.launch 1) (s.launch 1).rc.deps with | .refused c a => c == 0x048 && a == 0x100090000 | _ => false) = true ∧
     gives (exec (.launchDependenceMet 1) s) (fun u => (u.launch 1).withdrawn == 3 && (u.launch 1).endCause == [0x048]) = true) ∧
    (let s := queued (fun l => { l with queued := none })
     let s := { s with launches := s.launches ++ [(2, s.launch 1)] }
     issuedBefore s 2 = true ∧ gives (exec (.launchDependenceMet 2) s) (fun u => (u.launch 2).queued == none) = true) ∧
    (let s := queued (fun l => { l with rc := { l.rc with grid := 40 }, ranges := [(.root 0, [(0, 40)])] })
     hasRoom s (s.launch 1) (.module 0) = true ∧
     (let f := s.setModule 0 { s.module 0 with power := .lull }
      hasRoom f (f.launch 1) (.module 0) = false ∧ gives (exec (.blockRangeRequest (.module 0) 1) f) (fun u => kget (u.launch 1).ranges (.root 0) [] == [(0, 40)]) = true)) ∧
    (let s := queued (fun l => { l with serial := true, rc := { l.rc with grid := 3 }, ranges := [(.band 0 0 0, [(1, 2)]), (.band 0 1 0, [(0, 1), (2, 3)])] })
     (s.launch 1).startsBefore 1 = true ∧ (s.launch 1).startsBefore 0 = false ∧ blockRuns s 1 = false ∧
     gives (exec (.gangStart (.band 0 0 0) 1 1 0) s) (fun u => u.gangs == []) = true) ∧
    (let s := queued (fun l => { l with rc := { l.rc with grid := 2, resident := true }, ranges := [(.root 0, [(0, 2)])] })
     nodeServes s (s.launch 1) (.root 0) = true ∧ inTurn s (.root 0) 1 = true ∧ (∀ i < (s.launch 1).rc.mods, s.starts (s.launch 1).origin ((s.launch 1).rc.m0 + i) = true) ∧
     gives (exec (.gangStart (.root 0) 1 0 0) s) (fun u => [0, 1].map (fun b => (u.gang (s.fresh + b)).block) == [0, 1] && (u.launch 1).ranges == []) = true ∧
     gives (exec (.gangStart (.root 0) 1 0 0) (s.setModule 0 { s.module 0 with power := .lull })) (fun u => u.gangs == []) = true) := by
  decide +kernel

/-- The table of a DET launch that is answered RETRY, and a summary at a marked unit (R260, R361, R372). -/
theorem witness_tables_and_summaries :
    (let s := queued (fun l => { l with queued := none, rc := { l.rc with digest := true, summary := 0x8000000000003800 - 192 } })
     let s := s.setGang 2 { Gang.reset with launch := 1, status := .stopped, held := [⟨base.cur, 1⟩] }
     depsOf s (s.launch 1) (s.launch 1).rc.deps = .met ∧ readMem s (s.launch 1).who ((s.launch 1).rc.summary + 192) 8 = .retry ∧
     gives (exec (.launchDependenceMet 1) s) (fun u => u == s) = true ∧
     (let s := s.setLaunch 1 { s.launch 1 with rc := { (s.launch 1).rc with summary := 0x100010000 } }
      let s := { s with mem := Memory.setN s.mem (hbmLoc 0 0x100C0) 8 3 }
      readMem s (s.launch 1).who 0x1000100C0 8 = .val 3 ∧ gives (exec (.launchDependenceMet 1) s) (fun u => (u.launch 1).serial && (u.launch 1).queued.isSome) = true)) ∧
    (let s := queued (fun l => { l with retired := 1, rc := { l.rc with summary := 0x100010000 } })
     let s := { s with poison := [(unitOf (hbmLoc 0 0x10040), 0)] }
     (match whoWrite s (s.launch 1).who 0x100010000 (summaryOf s (s.launch 1)) with | .ok _ => true | _ => false) = true ∧
     gives (exec (.launchComplete 1) s) (fun u => (u.launch 1).fin && u.mem == s.mem && (u.launch 1).endCause == [0x050]) = true) := by
  decide +kernel

theorem witness_TaskFaultsEndBlocks :
    (let s := base.setSelf { base.self with phase := .forwarded, cause := 0x041 }
     (s.slot ctx0).gang = some 1 ∧ (s.gang 1).status = .running ∧ ctx0 ∈ (s.gang 1).held ∧ (s.slot ctx0).digestSeen = false ∧
     gives (exec (.slotctlEnd ctx0) s) (fun u => (u.gang 1).status == .killed && (u.slot ctx0).phase == .idle && (u.launch 1).killed == 1 &&
       (u.launch 1).faults.map (fun f => f.cause) == [0x041]) = true) ∧
    (let s := (base.setSlot ctx0 { base.self with phase := .trapped, cause := 0x041 }).setSlot ⟨base.cur, 4⟩ { Slot.reset with phase := .live }
     let s := s.modCore base.cur (fun k => { k with issuing := 4, hslot := 0, huid := base.self.uid })
     Takes { s := false, control := true, hOk := true } s s ∧ s.me.who = 4 ∧ s.mirror s.cur = some ctx0 ∧
     gives (exec (.eret false 1) s) (fun u => (u.gang 1).status == .killed && (u.slot ctx0).phase == .idle && (u.slot ⟨base.cur, 4⟩).phase == .idle) = true) :=
  ⟨by decide +kernel, takes_of_takesB (by decide +kernel), by decide +kernel⟩

/-- A module with its clusters on. -/
def powered (s : State) : State := s.setModule 0 { s.module 0 with clustersOn := true }

/-- A stop with its image named, its completion, a resume; the same image again after the gang has been killed; a checkpoint that waits for its
cut, and one asked at the cut (R358, R359, R365, R366, R374). -/
theorem witness_GangsStopAndResume :
    (base.launch (base.gang 1).launch).rc.resident = false ∧ (base.gang 1).status = .running ∧ gangInXchg base 1 = false ∧ (base.gang 1).atCut = false ∧ gangTasks base 1 = [ctx0] ∧
    base.self.storing = false ∧ base.cx.delay = none ∧ atCut base 1 = false ∧ base.self.phase = .live ∧ together base 1 = [1] ∧
    gives (exec (.gangStop ⟨1, 0x4000⟩) base) (fun u => (u.gang 1).status == .stopping && (u.gang 1).imageAt == 0x4000 && (u.slot ctx0).stopped && u.mem == base.mem && (drained u 1) &&
      (u.slot ctx0).chain == [] && (u.slot ctx0).ck == none && (u.slot ctx0).cx.rb == [] &&
      gives (exec (.gangStopComplete 1) (powered u)) (fun v => (v.gang 1).status == .stopped && ((v.gang 1).image 0x4000).map (fun i => i.slots.map (·.1)) == some [ctx0] &&
        (v.slot ctx0).phase == .idle && (v.slot ctx0).gang == none && canResume v 0x4000 1 && !canResume v 0x5000 1 &&
        gives (exec (.gangResume ⟨1, 0x4000⟩) v) (fun w => (w.gang 1).status == .running && (w.slot ctx0).cx.pc == base.cx.pc &&
          (let k := (w.modGang 1 (fun x => { x with status := .killed, held := [] })).modLaunch 1 (fun l => { l with killed := 1, fin := false })
           let k := k.setSlot ctx0 Slot.reset
           canResume k 0x4000 1 &&
             gives (exec (.gangResume ⟨1, 0x4000⟩) k) (fun z => (z.gang 1).status == .running && (z.launch 1).killed == 0 && (z.slot ctx0).cx.pc == base.cx.pc))))) = true ∧
    gives (exec (.checkpoint ⟨1, 0x4000⟩) base) (fun u => (u.gang 1).cutAt == some 0x4000 && (u.gang 1).status == .running) = true ∧
    (let s := (base.setSelf { base.self with ssended := true, wait := some .ssend }).modCore base.cur (fun k => { k with markers := [1] })
     atCut s 1 = true ∧ gives (exec (.checkpoint ⟨1, 0x4000⟩) s) (fun u => (u.gang 1).status == .stopping && (u.gang 1).imageAt == 0x4000 && (u.slot ctx0).stopped) = true) ∧
    (let s := base.setSelf { base.self with wait := some (.reissue [0x4000]) }
     (s.slot ctx0).wait = some (.reissue [0x4000]) ∧ gives (exec (.remoteReissue ctx0) s) (fun u => (u.slot ctx0).wait == none && (u.slot ctx0).reissued) = true) := by
  decide +kernel

/-- A gang to which a message is on its way has not drained (R358). -/
theorem witness_undrained :
    let s := (base.setGang 1 { base.gang 1 with status := .stopping }).setSelf { base.self with stopped := true }
    let m := { osM false with owner := .core base.cur, retry := false, acked := false }
    drained s 1 = true ∧ m.acked = false ∧ m.retry = false ∧ (s.gang 1).owns m.addr = true ∧ drained { s with msgs := [m] } 1 = false := by
  decide +kernel

/-! ## Witnesses: the fabric, faults of the hardware, power and management -/

/-- A request of process 1 for 8 bytes at a global address of the core of `base`. -/
def req (acc : Access) : RemoteReq := ⟨1, 1, 0, false, 0x8000000000001000, acc, 8, 0x1234, 0xFF⟩
def reqLoc : Nat := privLoc base.cur 0x1000

theorem witness_RequestsAreServed :
    (let s := { base with mem := Memory.setN base.mem reqLoc 8 0xABCD }
     (form 0x8000000000001000).isGlob = true ∧ Memory.wf s.mem = true ∧ (s.module 0).power = .run ∧ s.homeRead reqLoc 8 = some 0xABCD ∧ locRegion reqLoc = 0 ∧
     (∀ a ∈ [Access.read, .write, .readWrite], access s (reqWho (req a)) 0x8000000000001000 8 a = .loc reqLoc) ∧
     gives (exec (.remoteAccessArrival (req .read)) s) (fun u => u.replies == [(req .read, some 0xABCD, 0)]) = true ∧
     gives (exec (.remoteAccessArrival (req .write)) s) (fun u => Memory.getN u.mem reqLoc 8 == 0x1234 && u.replies == [(req .write, some 0, 0)]) = true ∧
     gives (exec (.remoteAccessArrival (req .readWrite)) s) (fun u => Memory.getN u.mem reqLoc 8 == 0xAB34 && u.replies == [(req .readWrite, some 0xABCD, 0)]) = true ∧
     gives (exec (.subByteMessage (req .write)) s) (fun u => Memory.getN u.mem reqLoc 8 == 0xAB34) = true) ∧
    (let r := { req .read with pid := 2, lid := 2 }
     (match access base (reqWho r) r.addr 8 .read with | .fault _ => true | _ => false) = true ∧
     (match access base (reqWho r) r.addr 8 .write with | .fault _ => true | _ => false) = true ∧
     gives (exec (.remoteAccessArrival r) base) (fun u => u.replies.map (fun y => y.2.1) == [none] && u.mem == base.mem) = true) ∧
    (let s := base.setModule 0 { Module.reset with power := .lull }
     (s.module 0).power ≠ .run ∧ gives (exec (.remoteAccessArrival (req .write)) s) (fun u => (u.module 0).waking && u.mem == base.mem && u.replies == [] &&
       gives (exec (.powerExitComplete 0) u) (fun v => Memory.getN v.mem reqLoc 8 == 0x1234 && (v.module 0).power == .run)) = true) := by
  decide +kernel

/-- A cancel of a launch whose origin no ring reaches (R312), and a request that writes no command of SLOTCTL (R362). -/
theorem witness_refused_far_away :
    (let s := base.withA [(9, 1)]
     let s := { s with dims := (2, 1, 1) }
     let s := (s.setModule 0 { s.module 0 with ports := Vector.replicate 16 false }).modLaunch 1 (fun l => { l with origin := 1 })
     Takes { s := false, parks := true, a := [9] } s s ∧ findLaunch s s.self.pid 1 (fun l => l.cancel.isNone) = some 1 ∧ s.reaches 0 1 = false ∧
     traps (exec (.lcancel false 9 true) s) 0x051 = true ∧
     (let t := s.setModule 0 { s.module 0 with ports := Vector.replicate 16 true }
      t.reaches 0 1 = true ∧ gives (exec (.lcancel false 9 true) t) (fun u => (u.launch 1).cancel == some true) = true)) ∧
    (let r : RemoteReq := ⟨0, 0, 0, true, 0x8000000000000000 + 4 * 2 ^ 15 + 0x18, .write, 8, 102, 0xFF⟩
     (match access base (reqWho r) r.addr 8 .write with | .loc l => locRegion l == 4 && l % 2 ^ 15 == 0x18 && !isHbm l | _ => false) = true ∧ 2 ≤ r.data % 4 ∧
     gives (exec (.remoteAccessArrival r) base) (fun u => u.replies == [(r, none, 0x051)] && u.agenda == []) = true) :=
  ⟨⟨takes_of_takesB (by decide +kernel), by decide +kernel⟩, by decide +kernel⟩

/-- Two processes' translations of one page, and for process 1 a table whose leaf at level 1 maps 1 GiB from 0x100000000 to 0x40000000, readable
(R331). -/
def mapped : State :=
  let m := Memory.setN (Memory.setN base.mem (hbmLoc 0 0x20000) 8 0x30001) (hbmLoc 0 0x30020) 8 0x40000007
  { base with tlb := [⟨0, 0, 1, 0x100030000, 65536, 0x70000, true, true, false⟩, ⟨0, 0, 2, 0x100030000, 65536, 0x70000, true, true, false⟩], mem := m }.setModule 0
    { Module.reset with pids := [(1, 0x20001)] }

theorem witness_FabricTablesAreKept :
    (let s := mapped
     let e : TlbEntry := ⟨0, stationOf 0x100041008, 1, 0x100000000, 2 ^ 30, 0x40000000, true, false, false⟩
     0 < s.modCount ∧ (form 0x100041008).isVirt = true ∧ cached s 0 1 0x100041008 = none ∧ pageWalk s 0 1 0x100041008 = .leaf e ∧
     gives (exec (.stationTranslation 0 1 0x100041008 .read) s) (fun u => u.tlb == e :: s.tlb) = true ∧ bits (0x0100010000100030 : DWord).toNat 3 0 = 0 ∧
     gives (exec (.invalidation 0 0x0100010000100030) s) (fun u => u.tlb.map (fun e => e.pid) == [2]) = true ∧
     gives (exec (.invalidation 0 0x0100010000100040) s) (fun u => u.tlb.map (fun e => e.pid) == [1, 2]) = true ∧
     gives (exec (.invalidation 0 0x0100000000000000) s) (fun u => u.tlb.map (fun e => e.pid) == [2]) = true) ∧
    (let q : DWord := 0x0001000214000000
     let p := requestPath base.cur q
     p.map (fun l => l.map (fun o => o.1)) = some [(⟨0, 1, 0⟩, 1), (⟨0, 2, 0⟩, 6)] ∧ q.getLsbD 25 = false ∧ (q ||| 0x2000000).getLsbD 25 = true ∧
     (∀ o ∈ p.getD [], slotEntry base o.1.1 o.1.2 5 = 0) ∧
     gives (exec (.streamReserve base.cur q) base) (fun u => (u.core base.cur).allocSt == 4 && (u.module 0).slotTab.map (fun e => e.1) == [(⟨0, 1, 0⟩, 1, 5), (⟨0, 2, 0⟩, 6, 5)] &&
       p.any (fun l => l.any (fun o => slotEntry u o.1.1 o.1.2 5 != 0)) &&
       gives (exec (.streamReserve base.cur q) u) (fun v => (v.core base.cur).allocSt == 5) &&
       gives (exec (.streamRelease base.cur (q ||| 0x2000000)) u) (fun v => (v.module 0).slotTab == [])) = true) ∧
    (base.portUp 0 3 = true ∧ gives (exec (.levanterPortFailure 0 3) base) (fun u => !u.portUp 0 3 && kget (u.module 0).errors 0x125 0 == 1) = true ∧
      gives (exec (.levanterReplay 0 3) base) (fun u => kget (u.module 0).errors 0x122 0 == 1) = true) := by
  decide +kernel

theorem witness_RecoverySteps :
    (let s := base.setModule 0 { Module.reset with pwrbud := #v[100, 0, 0, 0] }
     (50 : BitVec 32) ≠ 0 ∧ (50 : BitVec 32).toNat < (s.module 0).pwrbud[0].toNat % 2 ^ 32 ∧ (s.module 0).overWin[0] ≤ 16 ∧
     gives (exec (.energyWindowEnd 0 0 110) s) (fun u => (u.module 0).pwrbud[0] == 0x100000064) = true ∧
     gives (exec (.energyWindowEnd 0 0 126) s) (fun u => (u.module 0).pwrbud[0] == 0x200000064) = true ∧
     gives (exec (.thermalLimit 0 0 50) s) (fun u => (u.module 0).pwrbud[0].toNat % 2 ^ 32 == 50 && (u.module 0).overWin[0] == 1) = true ∧
     gives (exec (.marginReplan 0 0) s) (fun u => kget (u.module 0).errors 0x13C 0 == 1) = true) ∧
    (let s := base.setModule 0 { Module.reset with overWin := #v[17, 0, 0, 0] }
     16 < (s.module 0).overWin[0] ∧ 1 ∈ gangsWhere s (fun g => g.m = 0 && g.held.any (fun c => quadrantOf c.core.cl = 0)) ∧ (s.gang 1).status.onChip = true ∧
     gives (exec (.powerKill 0 0) s) (fun u => (u.gang 1).status == .killed && (u.module 0).overWin[0] == 0 && (u.launch 1).faults.map (fun f => f.cause) == [0x178]) = true) ∧
    (let l := privLoc ⟨⟨0, 3, 0⟩, 1⟩ 0x100
     hwLost base (.coreSram l) = [] ∧
     gives (exec (.hardwareCheckFailure (.coreSram l) false) base) (fun u => (u.cluster ⟨0, 3, 0⟩).fenced && u.poison.map (·.1) == [unitOf l] &&
       kget (u.module 0).errors 0x103 0 == 1) = true ∧
     gives (exec (.hardwareCheckFailure (.coreSram l) true) base) (fun u => !(u.cluster ⟨0, 3, 0⟩).fenced && u.poison == [] && kget (u.module 0).errors 0x102 0 == 1) = true) ∧
    (let cl : ClusterId := ⟨0, 3, 0⟩
     let s := { base with mem := Memory.setN base.mem (privLoc ⟨cl, 1⟩ 0x100) 8 7 }.setCluster cl { Cluster.reset with fenced := true, fenceSrc := 3 }
     let t := s.setModule 0 { Module.reset with spares := #v[2, 0, 0, 0] }
     (s.cluster cl).fenced = true ∧ gangsWhere s (fun g => g.covers cl) = [] ∧ quadrantOf cl = 0 ∧ Memory.wf t.mem = true ∧ (∀ g ∈ t.gangs, g.2.status ≠ .stopped) ∧
     (t.module 0).spares.toList.getD 0 0 = 2 ∧
     gives (exec (.spareReplacement cl) t) (fun u => !(u.cluster cl).fenced && (u.module 0).spares.toList == [1, 0, 0, 0] && Memory.getN u.mem (privLoc ⟨cl, 1⟩ 0x100) 8 == 0) = true ∧
     gives (exec (.spareReplacement cl) (s.setModule 0 { Module.reset with spares := #v[0, 0, 0, 0] })) (fun u => (u.cluster cl).fenced && kget (u.module 0).errors 0x11D 0 == 1) = true) := by
  decide +kernel

theorem witness_PowerAndHostPort :
    (let s := { base with gangs := [], launches := [] }.setModule 0 { Module.reset with lattol := 2 ^ 32 - 1 }
     Memory.wf s.mem = true ∧ moduleIdle s 0 = true ∧ moduleIdle base 0 = false ∧ (s.module 0).power = .run ∧
     gives (exec (.powerStateEntry 0) s) (fun u => (u.module 0).power == .calm) = true) ∧
    (let s := base.setModule 0 { Module.reset with power := .doze }
     (s.module 0).power ≠ .run ∧ (s.module 0).waking = false ∧
     gives (exec (.hostDoorbell 0 7) s) (fun u => (u.module 0).waking && (u.module 0).heldReqs == [.doorbell 7] && (u.module 0).doorbells == [] &&
       gives (exec (.powerExitComplete 0) u) (fun v => (v.module 0).doorbells == [7] && (v.module 0).power == .run)) = true) ∧
    (let e : TlbEntry := { m := 0, station := stationOf 0x100010000, pid := 1, va := 0x100010000, size := 65536, pa := 0x70000, r := true, w := true, x := false }
     let s := { base with tlb := [e] }.setModule 0 { Module.reset with wpid := 1, wbase := 0x100010000, pids := [(1, 1)] }
     let l := hbmLoc 0 0x70008
     let r := windowReq s 0 8 8 (some 0x55)
     (s.module 0).power = .run ∧ (s.module 0).wpid ≠ 0 ∧ (form r.addr).isVirt = true ∧ stationAccess s 0 1 r.addr.toNat 8 r.acc r.addr = .loc l ∧
     stationAccess s 0 1 r.addr.toNat 8 .read r.addr = .loc l ∧ s.homeRead l 8 = some 0 ∧
     gives (exec (.hostWindowAccess 0 8 8 (some 0x55)) s) (fun u => Memory.getN u.mem l 8 == 0x55 &&
       gives (exec (.hostWindowAccess 0 8 8 none) u) (fun v => v.replies.map (fun y => y.2.1) == [some 0, some 0x55])) = true) ∧
    ((base.module 0).wpid = 0 ∧ gives (exec (.hostWindowAccess 0 8 8 none) base) (fun u => u.replies.map (fun y => y.2) == [(none, 0)]) = true) ∧
    gives (exec (.functionLevelReset 0) base) (fun u => (u.gang 1).status == .killed && (u.slot ctx0).phase == .idle && (u.launch 1).cancel == some true &&
      Memory.getN u.mem (hbmLoc 0 0x10000) 4 == 9) = true := by
  decide +kernel

/-- Requests held through an exit in their order, a window access across a page end and past the window, and an FLR beside another origin's launch
(R338, R339, R378). -/
theorem witness_held_and_paged_accesses :
    (let e : TlbEntry := { m := 0, station := stationOf 0x100010000, pid := 1, va := 0x100010000, size := 65536, pa := 0x70000, r := true, w := true, x := false }
     let s := { base with tlb := [e] }.setModule 0 { Module.reset with wpid := 1, wbase := 0x100010000, pids := [(1, 1)], power := .lull, lattol := 5 }
     gives (exec (.hostWindowAccess 0 8 8 none) s) (fun a => !(a.module 0).waking && (a.module 0).heldReqs == [.window 8 8 none] && a.replies == [] &&
       gives (exec (.hostDoorbell 0 3) a) (fun b => gives (exec (.hostWindowAccess 0 8 8 (some 0x55)) b) (fun c => (c.module 0).heldReqs.length == 3 &&
         gives (exec (.powerExitComplete 0) c) (fun d => d.replies.map (fun y => y.2.1) == [some 0, some 0] && (d.module 0).doorbells == [3] &&
           Memory.getN d.mem (hbmLoc 0 0x70008) 8 == 0x55 && (d.module 0).heldReqs == [])))) = true ∧
     (let r := { s with tlb := [{ e with station := stationOf 0x10001FFFC }] }.setModule 0 { s.module 0 with power := .run }
      gives (exec (.hostWindowAccess 0 65532 8 none) r) (fun u => u.replies.map (fun y => (y.1.addr, y.1.size, y.2.1, y.2.2)) ==
        [(0x10001FFFC, 4, some 0, 0), (0x100020000, 4, none, 0x048)]) = true ∧
      gives (exec (.hostWindowAccess 0 (2 ^ 36 - 4) 8 none) r) (fun u => u.replies == []) = true)) ∧
    (let s := base.setLaunch 2 { base.launch 1 with origin := 1 }
     gives (exec (.functionLevelReset 0) s) (fun u => (u.launch 1).cancel == some true && (u.launch 2).cancel == none) = true) := by
  decide +kernel

/-- SHA-256 of the three bytes of "abc" (FIPS 180-4's first example). -/
theorem test_sha256_of_abc : sha256 [0x61, 0x62, 0x63] = 0xba7816bf8f01cfea414140de5dae2223b00361a396177a9cb410ff61f20015ad := by decide +kernel

/-- The key and the signature of the message "sample" with P-256 and SHA-256 in RFC 6979, A.2.5. -/
def operator : BitVec 512 :=
  0x60fed4ba255a9d31c961eb74c6356d68c049b8923b61fa6ce669622e60f29fb67903fe1008b8bc99a41ae9e95628bc64f2f1b20c2d7e9f5177a3c294d4462299
def request : MgmtReq :=
  ⟨1, operator, 0xefd48b2aacb6a8fd1140dd9cd45e81d69d2c877b56aaf991c34d0ea84eaf3716f7cb1c942d657c41d436c7a1b6e29f65f3e900dbb9aff4064dc4ab2f843acda8,
   [0x73, 0x61, 0x6D, 0x70, 0x6C, 0x65]⟩
def managed (c : DWord) (p : Power) (k : BitVec 512) : State :=
  base.setModule 0 { Module.reset with keys := [k], mgmtCounter := c, power := p, clustersOn := true, started := true }

theorem witness_ManagementIsServed :
    (let s := managed 0 .run operator
     (s.module 0).keys.contains operator = true ∧ (s.module 0).mgmtCounter < request.counter ∧ ecdsaVerify operator (sha256 request.bytes) request.sig = true ∧
     (s.module 0).power = .run ∧ (s.module 0).clustersOn = true ∧
     gives (exec (.identityRequest 0 request) s) (fun u => (u.module 0).mgmtCounter == 1 && (u.module 0).replies.length == 1) = true ∧
     gives (exec (.keyEnrolment 0 request 5) s) (fun u => (u.module 0).keys == [operator, 5]) = true ∧
     gives (exec (.testMode 0 request true) s) (fun u => (u.module 0).mode == .test) = true ∧
     gives (exec (.managementReset 0 request) s) (fun u => !(u.module 0).clustersOn && (u.gang 1).status == .killed) = true ∧
     gives (exec (.telemetry 0 request) (s.countError 0 0x103)) (fun u => (u.module 0).replies.map (fun r => r.1) == [[3, 1, 1, 0, 0, 0, 0, 0, 0, 0]]) = true) ∧
    (let s := managed 1 .run operator
     mgmtOk s 0 request = false ∧ gives (exec (.testMode 0 request true) s) (fun u => (u.module 0).mode == .normal && (u.module 0).replies == []) = true) ∧
    (mgmtOk (managed 0 .run operator) 0 { request with bytes := [0x73] } = false) ∧
    (let s := managed 0 .lull operator
     (s.module 0).power ≠ .run ∧ gives (exec (.telemetry 0 request) s) (fun u => (u.module 0).waking && (u.module 0).replies == [] &&
       gives (exec (.powerExitComplete 0) u) (fun v => (v.module 0).mgmtCounter == 1)) = true) ∧
    (let s := base.setModule 0 { Module.reset with recovery := true, test := true, started := true }
     (s.module 0).mode = .recovery ∧ gives (exec (.operatingMode 0 .normal) s) (fun u => (u.module 0).mode == .test) = true ∧
     gives (exec (.operatingMode 0 .recovery) base) (fun u => (u.module 0).mode == .recovery) = true) := by
  decide +kernel

/-- A firmware image with an empty body, signed with the key of `operator`, whose private half RFC 6979 gives (R341). -/
def image : FwImage := ⟨leBytes 128
  0x39febf8767283ef0b0bbd7604b94e60152027d737b4ab70696e2b606070bf53dc23b99640f718faa3c4ba214518344bbaf2a6b2f257e5b5dceed48c68ea2d73e0000000000000000000000000000000055b852781b9995a44c939b64e441ae2724b96f99c8f4fb9a141cfc9842c4b0e30000000000000000000000014c585246, operator⟩

/-- The image is taken where the fuses hold its key's hash, and none is taken that is short, or below the rollback count (R341). -/
theorem witness_firmware_images :
    (Config.fusedKeyHash = sha256 (beBytes 64 operator.toNat) → imageOk 1 image = true) ∧ image.version = 1 ∧ imageOk 2 image = false ∧
    imageOk 0 { image with bytes := image.bytes.take 127 } = false ∧ imageOk 0 { image with bytes := image.bytes.set 4 2 } = false := by
  refine ⟨?_, by decide +kernel, by decide +kernel, by decide +kernel, ?_⟩
  · intro h
    unfold imageOk
    rw [h]
    decide +kernel
  · have h : ecdsaVerify image.key (sha256 ((image.bytes.set 4 2).take 64)) (BitVec.ofNat 512 (({ image with bytes := image.bytes.set 4 2 } : FwImage).be 64 64)) = false := by decide +kernel
    unfold imageOk
    show (_ && ecdsaVerify image.key (sha256 ((image.bytes.set 4 2).take 64)) _) = false
    rw [h]; simp

/-- `base` as the last task of a block of a launch that keeps digests, its table at 0x100010000 + 192 with the word `h`, and `e` in the block's entry. -/
def digesting (h e : Nat) : State :=
  let t : TlbEntry := { m := 0, station := stationOf 0x100010000, pid := 1, va := 0x100010000, size := 65536, pa := 65536, r := true, w := true, x := false }
  let s := { base with tlb := [t], mem := Memory.setN (Memory.setN base.mem (hbmLoc 0 (0x10000 + 192)) 8 h) (hbmLoc 0 (0x10000 + 200)) 8 e }
  let s := s.setLaunch 1 { s.launch 1 with rc := { (s.launch 1).rc with det := true, digest := true, summary := 0x100010000, seed := 9 } }
  s.setSelf { s.self with digest := 33, taskId := 5 }

/-- The digest of that block (R370). -/
def blockDig : DWord := gen (gen 9 0 ^^^ 33) 5

/-- The block's digest is written, agrees with an earlier run's, or differs from it (R370, R371); and a store folds into the task's (R369). -/
theorem witness_determinism_digests :
    lastOfGang (digesting 0 0) 1 ctx0 = true ∧ workPending (digesting 0 0) ctx0 = false ∧ blockDig ≠ 0 ∧
    gives (exec (.retire false) (digesting 0 0)) (fun u => Memory.getN u.mem (hbmLoc 0 (0x10000 + 200)) 8 == blockDig.toNat && (u.slot ctx0).phase == .idle) = true ∧
    gives (exec (.retire false) (digesting 1 blockDig.toNat)) (fun u => u.mem == (digesting 1 blockDig.toNat).mem && (u.slot ctx0).phase == .idle) = true ∧
    gives (exec (.retire false) (digesting 1 7)) (fun u => Memory.getN u.mem (hbmLoc 0 (0x10000 + 192)) 8 == 3 && (u.slot ctx0).cause == 0x170 &&
      (u.launch 1).faults.map (fun f => (f.block, f.cause, f.eaddr)) == [(0, 0x170, 0x1000100C8)]) = true ∧
    (let s := (digesting 0 0).withA [(7, 8), (9, 0x1234)]
     gives (exec (.sth false 9 7 0) s) (fun u => u.self.digest == gen (33 ^^^ 0x1234) (16 * 8 + 2)) = true) := by
  decide +kernel

/-- A step from a state in the canonical form. -/
theorem witness_StepsKeepMemoryCanonical :
    let s := State.withFetchWord base 32 0x00000009
    Memory.wf s.mem = true ∧ gives (step s) (fun t => Memory.wf t.mem) = true := by
  decide +kernel

end Sys2Proof.Machine
end

section
/-! SUPPORT. Management (R340 to R343, R367, R376): what each request of the management port answers, what a reset leaves of its module, and that a
kill leaves every module but for the counts of its error records. -/

namespace Sys2Proof.Machine

/-! ## The modules of the pod under updates -/

@[simp] theorem State.module_setModule (s : State) (m : Nat) (x : Module) : (s.setModule m x).module m = x := kget_kset_self ..
theorem State.module_setModule_ne (s : State) (m j : Nat) (x : Module) (h : j ≠ m) : (s.setModule m x).module j = s.module j :=
  kget_kset_ne _ _ _ _ _ h
@[simp] theorem State.module_modModule (s : State) (m : Nat) (f : Module → Module) : (s.modModule m f).module m = f (s.module m) :=
  State.module_setModule ..
@[simp] theorem State.module_tick (s : State) (m : Nat) : s.tick.module m = s.module m := rfl
/-- A state that differs in no module reads the same modules. -/
theorem State.module_congr {s t : State} (h : t.modules = s.modules) (m : Nat) : t.module m = s.module m := by
  simp only [State.module, h]

/-! ## What a kill leaves of the modules (R138, R229, R262): all but the counts of their error records -/

/-- Every module is as it was but for the counts of its error records. -/
def SameButErrors (s t : State) : Prop := ∀ m, t.module m = { s.module m with errors := (t.module m).errors }

theorem SameButErrors.trans {s t u : State} (h : SameButErrors s t) (h' : SameButErrors t u) : SameButErrors s u := by
  intro m
  rw [h' m, h m]
theorem SameButErrors.of_modules {s t : State} (h : t.modules = s.modules) : SameButErrors s t := by
  intro m
  rw [State.module_congr h]
theorem SameButErrors.refl (s : State) : SameButErrors s s := .of_modules rfl
theorem SameButErrors.countError (s : State) (m : Nat) (code : BitVec 9) : SameButErrors s (s.countError m code) := by
  intro j
  by_cases h : j = m
  · subst h; simp [State.countError]
  · rw [State.countError, State.modModule, State.module_setModule_ne _ _ _ _ h]
/-- A fold of operations that each leave the modules so leaves them so. -/
theorem SameButErrors.foldl {α : Type} {f : State → α → State} (h : ∀ s a, SameButErrors s (f s a)) (l : List α) (s : State) :
    SameButErrors s (l.foldl f s) := by
  induction l generalizing s with
  | nil => exact .refl s
  | cons a l ih => exact (h s a).trans (ih _)
theorem foldl_modules {α : Type} {f : State → α → State} (h : ∀ s a, (f s a).modules = s.modules) (l : List α) (s : State) :
    (l.foldl f s).modules = s.modules := by
  induction l generalizing s with
  | nil => rfl
  | cons a l ih => exact (ih _).trans (h s a)

@[simp] theorem modTables_modules (s : State) (c : CtxId) (f : Ctxt → Ctxt) : (s.modTables c f).modules = s.modules := rfl
@[simp] theorem modTile_modules (s : State) (c : CtxId) (h : Nat) (f : Tile → Tile) : (s.modTile c h f).modules = s.modules := rfl
@[simp] theorem dropJob_modules (s : State) (cl : ClusterId) (n : Nat) : (s.dropJob cl n).modules = s.modules := rfl
@[simp] theorem modCopy_modules (s : State) (cl : ClusterId) (g n : Nat) (f : CopyStatus → CopyStatus) :
    (modCopy s cl g n f).modules = s.modules := rfl
@[simp] theorem barArrive_modules (s : State) (g : Nat) (n : BitVec 6) (p : Bool) : (barArrive s g n p).modules = s.modules := by
  unfold barArrive barComplete
  extract_lets t b deliver u
  split
  · rfl
  · exact foldl_modules (fun s c => modTables_modules s c deliver) _ t
@[simp] theorem engineArrive_modules (s : State) (g : Nat) (a : Bool) (n : BitVec 6) (p : Bool) :
    (engineArrive s g a n p).modules = s.modules := by
  unfold engineArrive
  split
  · exact barArrive_modules ..
  · rfl
@[simp] theorem passPrior_modules (s : State) (c : CtxId) (h : Nat) (p : Tag × TileState) : (passPrior s c h p).modules = s.modules := by
  unfold passPrior
  split <;> rfl
@[simp] theorem endWriter_modules (j : EJob) (w : Bool) (s : State) (c : CtxId) (h : Nat) : (endWriter j w s c h).modules = s.modules := by
  unfold endWriter
  extract_lets t more p
  split
  · simp
  · split <;> simp
@[simp] theorem endTiles_modules (j : EJob) (w : Bool) (s : State) : (endTiles j w s).modules = s.modules := by
  unfold endTiles
  refine foldl_modules (fun s t => ?_) _ s
  exact endWriter_modules ..
@[simp] theorem endCopyOut_modules (s : State) (c : CtxId) (h : Nat) : (endCopyOut s c h).modules = s.modules := by
  unfold endCopyOut
  split
  · rfl
  · split
    · rfl
    · rfl
    · simp
@[simp] theorem copyRefuse_modules (s : State) (cl : ClusterId) (g n : Nat) (k : BitVec 8) (c : BitVec 9) (a : Bool) (b : BitVec 6) :
    (copyRefuse s cl g n k c a b).modules = s.modules := by
  simp [copyRefuse]
@[simp] theorem copyLeave_modules (s : State) (cl : ClusterId) (j : EJob) (e : CopyEntry) (w : Bool) :
    (copyLeave s cl j e w).modules = s.modules := by
  unfold copyLeave
  extract_lets t u
  split
  · exact endCopyOut_modules ..
  · exact endTiles_modules ..
@[simp] theorem copyFail_modules (s : State) (cl : ClusterId) (j : EJob) (i : Nat) (e : CopyEntry) (k : BitVec 8) (c : BitVec 9) :
    (copyFail s cl j i e k c).modules = s.modules := by
  simp [copyFail]
@[simp] theorem mxFail_modules (s : State) (cl : ClusterId) (j : EJob) (d : MxCard) (k : Nat) : (mxFail s cl j d k).modules = s.modules := by
  simp [mxFail, setStatus, closeFold, State.modSlot]
@[simp] theorem settle_modules (s : State) (g : Nat) : (s.settle g).modules = s.modules := by
  unfold State.settle
  split <;> rfl
@[simp] theorem kCount_modules (s : State) (p : KPart) : (kCount s p).modules = s.modules := by
  unfold kCount
  split
  · rfl
  · extract_lets l
    split <;> rfl
@[simp] theorem kEnd_modules (s : State) (m k : Nat) (p : KPart) : (kEnd s m k p).modules = s.modules := by
  unfold kEnd
  extract_lets x t u last
  split
  · exact kCount_modules ..
  · rfl

/-- An increment of a counter at its home reaches no module. -/
theorem engineIncr_modules (s t : State) (j : EJob) (a : DWord) (h : engineIncr s j a = .ok t) : t.modules = s.modules := by
  unfold engineIncr at h
  split at h
  · cases h; rfl
  · split at h
    · cases h
    · cases h
    · split at h
      · cases h
      · cases h; rfl
theorem engineCount_modules (s t : State) (j : EJob) (a : DWord) (h : engineCount s j a = .ok t) : t.modules = s.modules := by
  unfold engineCount at h
  split at h
  · split at h
    · cases h
    · split at h <;> cases h
  · exact engineIncr_modules s t j a h
theorem eventIncr_same (s : State) (j : EJob) (d : OsDesc) (n : Nat) : SameButErrors s (eventIncr s j d n) := by
  unfold eventIncr
  split
  case _ t h => exact .of_modules (engineIncr_modules _ _ _ _ h)
  case _ => exact .refl s
  case _ => exact .refl s
  case _ => exact .countError _ _ _
theorem eventStatus_same (s : State) (j : EJob) (d : OsDesc) : SameButErrors s (eventStatus s j d) := by
  unfold eventStatus
  extract_lets a
  split
  · exact .countError _ _ _
  · exact .refl s
  · split
    · exact .countError _ _ _
    · exact .of_modules rfl
theorem osEnd_same (s : State) (cl : ClusterId) (j : EJob) (d : OsDesc) : SameButErrors s (osEnd s cl j d) :=
  ((eventStatus_same s j d).trans (eventIncr_same _ j d 2)).trans (.of_modules rfl)
theorem copyEntryComplete_modules (cl : ClusterId) (n : Nat) (s t : State) (h : execCopyEntryComplete cl n s = .next t) :
    t.modules = s.modules := by
  unfold execCopyEntryComplete at h
  injection h with h
  subst h
  split
  · split
    · split
      · rfl
      · rw [settle_modules]
        split
        · exact copyFail_modules ..
        · split
          case _ => rfl
          case _ => rfl
          case _ => simp
          case _ u hu => simp [engineCount_modules _ _ _ _ hu]
    · rfl
  · rfl

theorem killJob_same (s : State) (cl : ClusterId) (uid : Nat) : SameButErrors s (killJob s cl uid) := by
  unfold killJob
  split
  · exact .refl s
  · split
    · exact .of_modules (mxFail_modules ..)
    · split
      · split
        case _ t h => exact .of_modules (copyEntryComplete_modules _ _ _ _ h)
        case _ => exact .refl s
      · exact .of_modules (copyFail_modules ..)
    · exact osEnd_same _ _ _ _
theorem killPart_modules (s : State) (p : KPart) : (killPart s p).modules = s.modules := by
  unfold killPart
  split
  · exact kEnd_modules ..
  · rfl
/-- A kill of a gang leaves every module but for the counts of its error records (R262). -/
theorem killGang_same (s : State) (g : Nat) : SameButErrors s (killGang s g) := by
  unfold killGang
  extract_lets x open_ s1 s2 s3 mine s4 s5 s6
  split
  · exact .refl s
  · exact .refl s
  · have h2 : SameButErrors s1 s2 := .foldl (fun s (p : ClusterId × Nat) => killJob_same s p.1 p.2) _ s1
    have h3 : s3.modules = s2.modules := foldl_modules killPart_modules _ s2
    have h4 : s4.modules = s3.modules := foldl_modules (f := pruneSlot) (fun _ _ => rfl) _ s3
    exact (SameButErrors.of_modules rfl).trans (h2.trans (.of_modules (t := s6.modLaunch _ _) (h4.trans h3)))
theorem killModule_same (s : State) (m : Nat) : SameButErrors s (killModule s m) := .foldl killGang_same _ s

/-! ## A reset of a module (R341, R376) -/

/-- What a reset leaves of its module: what fuses and counts hold; the rest is as after reset, with no cluster powered. -/
theorem resetModule_module (s : State) (m : Nat) :
    let x := s.module m
    (resetModule s m).module m = { Module.reset with
      errors := ((resetModule s m).module m).errors, mgmtCounter := x.mgmtCounter, keys := x.keys, rollback := x.rollback,
      delivered := x.delivered, spares := x.spares, replies := x.replies, clustersOn := false } := by
  intro x
  have h := killModule_same s m m
  unfold resetModule
  extract_lets t u v w
  have hw : w.module m = (killModule s m).module m := rfl
  rw [State.module_modModule, hw, h]

/-- A field of an image is below the number of values its bytes have. -/
theorem ofBytes_lt (l : List Byte) : ofBytes l < 256 ^ l.length := by
  induction l with
  | nil => simp [ofBytes]
  | cons b l ih =>
    have hb : b.toNat < 256 := b.isLt
    have : ofBytes (b :: l) = b.toNat + 256 * ofBytes l := rfl
    rw [this, List.length_cons, Nat.pow_succ]
    omega
theorem fwImage_le_lt (i : FwImage) (a n : Nat) : i.le a n < 256 ^ n :=
  (ofBytes_lt _).trans_le (Nat.pow_le_pow_right (by omega) (by simp))
theorem fwImage_be_lt (i : FwImage) (a n : Nat) : i.be a n < 256 ^ n :=
  (ofBytes_lt _).trans_le (Nat.pow_le_pow_right (by omega) (by simp))
theorem fwImage_version_toNat (i : FwImage) : i.version.toNat = i.le 4 4 :=
  BitVec.toNat_ofNat .. |>.trans (Nat.mod_eq_of_lt (fwImage_le_lt i 4 4))
theorem eq_fwImage_digest (i : FwImage) (h : BitVec 256) : h = i.digest ↔ h.toNat = i.be 16 32 := by
  rw [← BitVec.toNat_inj, FwImage.digest, BitVec.toNat_ofNat, Nat.mod_eq_of_lt ((fwImage_be_lt i 16 32).trans_eq (by norm_num))]

/-- The checks of the ROM, one by one (R341). -/
theorem imageOk_iff (rollback : BitVec 32) (i : FwImage) :
    imageOk rollback i = true ↔
      128 ≤ i.bytes.length ∧ i.le 0 4 = 0x4C585246 ∧ i.le 48 16 = 0 ∧ rollback.toNat ≤ i.le 4 4 ∧
      (sha256 i.body).toNat = i.be 16 32 ∧ sha256 (beBytes 64 i.key.toNat) = Config.fusedKeyHash ∧
      ecdsaVerify i.key (sha256 (i.bytes.take 64)) (BitVec.ofNat 512 (i.be 64 64)) = true := by
  simp only [imageOk, Bool.and_eq_true, decide_eq_true_eq, Bool.not_eq_true', BitVec.ult, decide_eq_false_iff_not, Nat.not_lt,
    fwImage_version_toNat, eq_fwImage_digest, and_assoc]

/-- An accepted image is run, and its version is the rollback count from then on. -/
theorem moduleReset_accepts (s : State) (m : Nat) (img i : FwImage)
    (hs : (if Config.firmwareFromNetwork then (s.module m).delivered else some img) = some i)
    (h : imageOk (s.module m).rollback i = true) :
    ∃ u, exec (.moduleReset m img) s = .next u ∧
      u.module m = { (resetModule s m).module m with clustersOn := true, firmware := some i.digest, rollback := i.version } := by
  have hr := resetModule_module s m
  have hv : (s.module m).rollback.toNat ≤ i.version.toNat := by
    rw [fwImage_version_toNat]
    exact ((imageOk_iff _ _).1 h).2.2.2.1
  have hroll : (if (s.module m).rollback.ult i.version then i.version else (s.module m).rollback) = i.version := by
    split
    · rfl
    · rename_i hlt
      apply BitVec.eq_of_toNat_eq
      simp only [BitVec.ult, decide_eq_true_eq, Nat.not_lt] at hlt
      omega
  refine ⟨_, rfl, ?_⟩
  have hd : ((resetModule s m).module m).delivered = (s.module m).delivered := by rw [hr]
  have hb : ((resetModule s m).module m).rollback = (s.module m).rollback := by rw [hr]
  simp only [hd, hb, hs, h, if_true, State.module_modModule, hroll]
/-- Where no image is accepted the module stays in the ROM. -/
theorem moduleReset_refuses (s : State) (m : Nat) (img : FwImage)
    (h : ∀ i, (if Config.firmwareFromNetwork then (s.module m).delivered else some img) = some i → imageOk (s.module m).rollback i = false) :
    exec (.moduleReset m img) s = .next (resetModule s m) := by
  have hr := resetModule_module s m
  have hd : ((resetModule s m).module m).delivered = (s.module m).delivered := by rw [hr]
  have hb : ((resetModule s m).module m).rollback = (s.module m).rollback := by rw [hr]
  show execModuleReset m img s = _
  simp only [execModuleReset, hd, hb]
  split
  · rfl
  · rename_i i hi
    rw [if_neg (by simp [h i hi])]

/-! ## Management requests (R340, R342, R343, R367) -/

theorem mgmtOk_iff (s : State) (m : Nat) (r : MgmtReq) :
    mgmtOk s m r = true ↔ (r.key = Config.operatorKey ∨ r.key ∈ (s.module m).keys) ∧ (s.module m).mgmtCounter < r.counter ∧
      ecdsaVerify r.key (sha256 r.bytes) r.sig = true := by
  simp only [mgmtOk, Module.enrolled, Bool.and_eq_true, Bool.or_eq_true, List.contains_iff_mem, decide_eq_true_eq, BitVec.ult, BitVec.lt_def,
    and_assoc, or_comm]

/-- In `u` the request `r` is answered, after the replies before it in `s`, with the signed reply `b`, and its counter is the last. -/
def Answered (s u : State) (m : Nat) (r : MgmtReq) (b : List Byte) : Prop :=
  (u.module m).mgmtCounter = r.counter ∧ (u.module m).replies = (s.module m).replies ++ [(b, Config.identitySign (sha256 b))]

/-- A reply moves the counter and stands last among the replies. -/
theorem mgmtReply_module (s : State) (m : Nat) (r : MgmtReq) (b : List Byte) :
    (mgmtReply s m r b).module m = { s.module m with
      mgmtCounter := r.counter, replies := (s.module m).replies ++ [(b, Config.identitySign (sha256 b))] } :=
  State.module_modModule ..
theorem mgmtReply_answered (s : State) (m : Nat) (r : MgmtReq) (b : List Byte) : Answered s (mgmtReply s m r b) m r b := by
  simp [Answered, mgmtReply_module]
/-- An acknowledgement in a state with the replies of `s` answers the request, and changes nothing else of the module. -/
theorem acknowledge_answered (s t : State) (m : Nat) (r : MgmtReq) (h : (t.module m).replies = (s.module m).replies) :
    ∃ b, Answered s (acknowledge t m r) m r b ∧
      (acknowledge t m r).module m = { t.module m with mgmtCounter := r.counter, replies := ((acknowledge t m r).module m).replies } := by
  refine ⟨leBytes 8 (Config.freeValue t.fresh).toNat, ?_, ?_⟩
  · simp [Answered, acknowledge, mgmtReply_module, h]
  · simp [acknowledge, mgmtReply_module]

section
variable {s : State} {m : Nat} {r : MgmtReq}

theorem mgmt_run (k : MgmtKind) (h : (s.module m).power = .run) : mgmt s m k r = serve s m k r := by simp [mgmt, sleeps, h]
theorem serve_refused (k : MgmtKind) (h : mgmtOk s m r = false) : serve s m k r = s := by simp [serve, h]

variable (h : mgmtOk s m r = true)
include h
theorem serve_firmware (img : FwImage) :
    serve s m (.firmware img) r = acknowledge (s.modModule m (fun x => { x with delivered := some img })) m r := by simp [serve, h]
variable (hc : (s.module m).clustersOn = true)
include hc
theorem serve_telemetry : serve s m .telemetry r = mgmtReply s m r (telemetryBytes (s.module m)) := by simp [serve, h, hc]
theorem serve_reset : serve s m .reset r = resetModule (acknowledge s m r) m := by simp [serve, h, hc]
theorem serve_enrol (key : BitVec 512) : serve s m (.enrol key) r =
    acknowledge (s.modModule m (fun x => { x with keys := if x.keys.contains key then x.keys else x.keys ++ [key] })) m r := by
  simp [serve, h, hc]
theorem serve_test (on : Bool) : serve s m (.test on) r = acknowledge (setTest s m on) m r := by simp [serve, h, hc]
end

/-- A request that is not taken has no effect in Run, whatever it names. -/
theorem management_refused (s : State) (m : Nat) (r : MgmtReq) (h : mgmtOk s m r = false) (hp : (s.module m).power = .run)
    (img : FwImage) (key : BitVec 512) (on : Bool) :
    ∀ i ∈ [Instr.firmwareDelivery m r img, .telemetry m r, .managementReset m r, .keyEnrolment m r key, .testMode m r on], exec i s = .next s := by
  have refused : ∀ k, Host.Outcome.next (mgmt s m k r) = (.next s : Out State) := fun k =>
    congrArg Host.Outcome.next ((mgmt_run k hp).trans (serve_refused k h))
  simp only [List.forall_mem_cons, List.not_mem_nil, false_implies, implies_true, and_true]
  exact ⟨refused _, refused _, refused _, refused _, refused _⟩

/-- Identity and attestation are answered in every power state (R15, R342). -/
theorem identity_answered (s : State) (m : Nat) (r : MgmtReq) (h : mgmtOk s m r = true) :
    ∃ u, exec (.identityRequest m r) s = .next u ∧ Answered s u m r identityBytes ∧ u = { s with modules := u.modules } := by
  refine ⟨mgmtReply s m r identityBytes, ?_, mgmtReply_answered .., rfl⟩
  show execIdentityRequest m r s = _
  simp [execIdentityRequest, h]
theorem attestation_answered (s : State) (m : Nat) (r : MgmtReq) (nonce : BitVec 256) (h : mgmtOk s m r = true) :
    ∃ u, exec (.attestation m r nonce) s = .next u ∧ Answered s u m r (attestationRecord s m nonce) ∧ u.mem = s.mem := by
  refine ⟨mgmtReply { s with fresh := s.fresh + 4 } m r (attestationRecord s m nonce), ?_, mgmtReply_answered { s with fresh := s.fresh + 4 } .., rfl⟩
  show execAttestation m r nonce s = _
  simp [execAttestation, h]

section
variable {s : State} {m : Nat} {r : MgmtReq} (h : mgmtOk s m r = true) (hp : (s.module m).power = .run)
include h hp

theorem firmwareDelivery_answered (img : FwImage) :
    ∃ u b, exec (.firmwareDelivery m r img) s = .next u ∧ Answered s u m r b ∧ (u.module m).delivered = some img ∧ u.mem = s.mem := by
  obtain ⟨b, hb, hm⟩ := acknowledge_answered s (s.modModule m (fun x => { x with delivered := some img })) m r (by simp)
  exact ⟨_, b, congrArg Host.Outcome.next ((mgmt_run _ hp).trans (serve_firmware h img)), hb, by rw [hm]; simp, rfl⟩

variable (hc : (s.module m).clustersOn = true)
include hc

theorem telemetry_answered :
    ∃ u, exec (.telemetry m r) s = .next u ∧ Answered s u m r (telemetryBytes (s.module m)) ∧ u = { s with modules := u.modules } :=
  ⟨_, congrArg Host.Outcome.next ((mgmt_run _ hp).trans (serve_telemetry h hc)), mgmtReply_answered .., rfl⟩
theorem keyEnrolment_answered (key : BitVec 512) :
    ∃ u b, exec (.keyEnrolment m r key) s = .next u ∧ Answered s u m r b ∧ key ∈ (u.module m).keys ∧ u.mem = s.mem := by
  obtain ⟨b, hb, hm⟩ := acknowledge_answered s
    (s.modModule m (fun x => { x with keys := if x.keys.contains key then x.keys else x.keys ++ [key] })) m r (by simp)
  refine ⟨_, b, congrArg Host.Outcome.next ((mgmt_run _ hp).trans (serve_enrol h hc key)), hb, ?_, rfl⟩
  rw [hm, State.module_modModule]
  by_cases hk : key ∈ (s.module m).keys <;> simp [hk]
theorem testMode_answered (on : Bool) :
    ∃ u b, exec (.testMode m r on) s = .next u ∧ Answered s u m r b ∧ u.mem = s.mem ∧
      (u.module m).mode = { s.module m with test := on }.mode := by
  obtain ⟨b, hb, hm⟩ := acknowledge_answered s (setTest s m on) m r (by simp [setTest])
  refine ⟨_, b, congrArg Host.Outcome.next ((mgmt_run _ hp).trans (serve_test h hc on)), hb, rfl, ?_⟩
  rw [hm, setTest, State.module_modModule]
  rfl
theorem managementReset_answered :
    ∃ u b, exec (.managementReset m r) s = .next u ∧ Answered s u m r b ∧ (u.module m).clustersOn = false ∧ (u.module m).mode = .startup := by
  obtain ⟨b, ⟨hctr, hreplies⟩, -⟩ := acknowledge_answered s s m r rfl
  have hm := resetModule_module (acknowledge s m r) m
  exact ⟨_, b, congrArg Host.Outcome.next ((mgmt_run _ hp).trans (serve_reset h hc)),
    ⟨by rw [hm]; exact hctr, by rw [hm]; exact hreplies⟩, by rw [hm], by rw [hm]; rfl⟩
end

theorem sleeping_holds_telemetry (s : State) (m : Nat) (r : MgmtReq) (hp : (s.module m).power ≠ .run) :
    ∃ u, exec (.telemetry m r) s = .next u ∧ (u.module m).waking = true ∧ (u.module m).replies = (s.module m).replies := by
  refine ⟨_, rfl, ?_, ?_⟩ <;> simp [mgmt, sleeps, hp, holdRequest]

/-- Settles O58: a request that is taken is answered as its kind says, and one that is not has no effect; a reset takes the image that the checks of
the ROM accept; the service cores' mode change sets or ends RECOVERY alone. -/
theorem managementIsServed : Obligations.ManagementIsServed := by
  unfold Obligations.ManagementIsServed
  intro s m r img key nonce on x signed modeOf
  have hreset := resetModule_module s m
  refine ⟨fun h => ⟨?_, ?_, fun hp => management_refused s m r h hp img key on⟩, fun hkey hctr hsig => ?_, ⟨?_, ?_⟩, ?_, ?_⟩
  · show execIdentityRequest m r s = _
    simp [execIdentityRequest, h]
  · show execAttestation m r nonce s = _
    simp [execAttestation, h]
  · have h : mgmtOk s m r = true := (mgmtOk_iff s m r).2 ⟨hkey, hctr, hsig⟩
    exact ⟨identity_answered s m r h, attestation_answered s m r nonce h,
      fun hp => ⟨firmwareDelivery_answered h hp img, fun hc => ⟨telemetry_answered h hp hc, keyEnrolment_answered h hp hc key,
        testMode_answered h hp hc on, managementReset_answered h hp hc⟩⟩,
      sleeping_holds_telemetry s m r⟩
  · intro i hs hgood
    obtain ⟨u, hu, hm⟩ := moduleReset_accepts s m img i hs ((imageOk_iff _ _).2 hgood)
    refine ⟨u, hu, by rw [hm], ?_, by rw [hm], by rw [hm]; rfl⟩
    rw [hm, hreset]; rfl
  · intro hbad
    have hstay := moduleReset_refuses s m img fun i hs => Bool.eq_false_iff.2 fun hok => hbad i hs ((imageOk_iff _ _).1 hok)
    exact ⟨_, hstay, by rw [hreset], by rw [hreset]; rfl, by rw [hreset], by rw [hreset]⟩
  · exact ⟨_, rfl, by simp [Module.mode], rfl⟩
  · exact ⟨_, rfl, by simp [Module.mode, modeOf, x], rfl⟩

end Sys2Proof.Machine
end

section
/-! SUPPORT. The system registers (R8, R350, R353 to R355): what SYSRD and SYSWR do by the selector, and what a write of a register of a context does. -/

namespace Sys2Proof.Machine

/-! ## Contexts and registers -/

/-- The context that issues, where it is the handler context of the core. -/
theorem State.me_of_handler {s : State} (h : s.me.who = 4) : s.me = ⟨s.cur, 4⟩ := by rw [← h]; rfl
theorem quadrantOf_lt (cl : ClusterId) : quadrantOf cl < 4 := by unfold quadrantOf; split <;> split <;> omega
theorem State.pwrbud_setModule (s : State) (m : Nat) (y : Module) (cl : ClusterId) (h : cl.m = m) :
    (s.setModule m y).pwrbud cl = y.pwrbud.toList.getD (quadrantOf cl) 0 := by
  rw [State.pwrbud, h, State.module_setModule]
/-- An a-register written without regard to the return buffer: it holds the value, its mark is cleared, and nothing else changes (R40, R157). -/
theorem Ctxt.putA_spec (c : Ctxt) (r : BitVec 5) (v : DWord) :
    let y := c.putA r v none
    y.ra r = (if r = 0 then 0 else v) ∧ (r ≠ 0 → y.am[r.toNat] = none) ∧ y = { c with a := y.a, am := y.am } ∧
      ∀ q : BitVec 5, q ≠ r → y.ra q = c.ra q ∧ y.am[q.toNat] = c.am[q.toNat] := by
  intro y
  by_cases h : r = 0
  · have hy : y = c := if_pos h
    rw [hy, if_pos h, h]
    exact ⟨rfl, fun h => absurd rfl h, rfl, fun _ _ => ⟨rfl, rfl⟩⟩
  · have hy : y = { c with a := c.a.set r.toNat v, am := c.am.set r.toNat none } := if_neg h
    rw [hy, if_neg h]
    refine ⟨by simp only [Ctxt.ra, if_neg h, Vector.getElem_set_self], fun _ => Vector.getElem_set_self .., rfl, fun q hq => ?_⟩
    have hne : r.toNat ≠ q.toNat := fun e => hq (BitVec.eq_of_toNat_eq e.symm)
    simp only [Ctxt.ra, Vector.getElem_set_ne _ _ hne, and_self]

@[simp] theorem State.cx_setSelf (s : State) (v : Slot) : (s.setSelf v).cx = v.cx := by rw [State.cx, State.self_setSelf]

/-! ## What is read (R353) -/

/-- The members of a launch are its gangs that are neither killed nor retired (R276). -/
theorem members_length (s : State) (l : Nat) :
    (members s l).length =
      (s.gangs.filter (fun g => decide (g.2.launch = l) && decide (g.2.status ≠ .killed) && decide (g.2.status ≠ .retired))).length := by
  rw [members, List.length_map]
  congr 2
  funext g
  cases g.2.status <;> simp

theorem selectorRead_own (s : State) (k : CoreId) (n : Nat) (h : n < 0x20) : selectorRead s k n = sysRead s ⟨k, 4⟩ n := if_pos h
/-- A mirror selector reads as nothing where the trapped slot's task is gone (R352). -/
theorem selectorRead_gone (s : State) (k : CoreId) (n : Nat) (h : s.mirror k = none) (hn : 0x100 ≤ n) : selectorRead s k n = 0 := by
  simp only [selectorRead, h]
  rw [if_neg (by omega), if_neg (by omega), if_neg (by omega), if_neg (by omega), if_neg (by omega)]
theorem selectorRead_mirror (s : State) (k : CoreId) (c : CtxId) (n : Nat) (h : s.mirror k = some c) (hn : n < 0x20) :
    selectorRead s k (0x100 + n) = sysRead s c n := by
  simp only [selectorRead, h]
  rw [if_neg (by omega), if_neg (by omega), if_neg (by omega), if_neg (by omega), if_neg (by omega), if_pos (by omega), Nat.add_sub_cancel_left]
theorem selectorRead_mirror_areg (s : State) (k : CoreId) (c : CtxId) (r : BitVec 5) (h : s.mirror k = some c) :
    selectorRead s k (0x140 + r.toNat) = (s.slot c).cx.ra r := by
  simp only [selectorRead, h]
  rw [if_neg (by omega), if_neg (by omega), if_neg (by omega), if_neg (by omega), if_neg (by omega), if_neg (by omega), Nat.add_sub_cancel_left,
    BitVec.ofNat_toNat, BitVec.setWidth_eq]

/-- A selector by its number. -/
theorem toNat_selector {n : Nat} (h : n < 2 ^ 12) : (BitVec.ofNat 12 n).toNat = n := by
  rw [BitVec.toNat_ofNat, Nat.mod_eq_of_lt h]

section
variable {st t : State} {s : Bool} {rd : BitVec 5} (h : Takes { s := true, hOk := true, xOk := true } st t)
include h

theorem sysrd_handler (hw : t.me.who = 4) (n : Nat) (hn : n < 2 ^ 12) :
    exec (.sysrd s rd (BitVec.ofNat 12 n)) st = .next (t.done (t.cx.wa rd (selectorRead t t.cur n))) := by
  show execSysrd s rd _ st = _
  rw [execSysrd, issue_takes h, if_pos hw, toNat_selector hn]
/-- A context reads the registers of its own slot, a task and the handler context alike. -/
theorem sysrd_own (n : Nat) (hn : n < 0x20) :
    exec (.sysrd s rd (BitVec.ofNat 12 n)) st = .next (t.done (t.cx.wa rd (sysRead t t.me n))) := by
  by_cases hw : t.me.who = 4
  · rw [sysrd_handler h hw n (by omega), selectorRead_own _ _ _ hn, State.me_of_handler hw]
  · show execSysrd s rd _ st = _
    rw [execSysrd, issue_takes h, if_neg hw, toNat_selector (by omega), if_pos hn]
theorem sysrd_privileged (hw : t.me.who ≠ 4) (sel : BitVec 12) (hs : 0x20 ≤ sel.toNat) :
    exec (.sysrd s rd sel) st = .next (t.raise (trapInfo 0x018)) := by
  show execSysrd s rd sel st = _
  rw [execSysrd, issue_takes h, if_neg hw, if_neg (by omega)]
end

/-! ## What is written (R354, R355) -/

section
variable (s : State) (c : CtxId) (v : DWord)

theorem sysWrite_cause : sysWrite s c 0x0A v = s.setSlot c { s.slot c with cause := v &&& 0x1FF } := rfl
theorem sysWrite_epc : sysWrite s c 0x0B v = s.setSlot c { s.slot c with epc := v } :=
  congrArg (fun x : DWord => s.setSlot c { s.slot c with epc := x }) BitVec.and_allOnes
theorem sysWrite_einfo : sysWrite s c 0x0C v = s.setSlot c { s.slot c with einfo := v &&& 0xFFFFFFFFFFFFFFFC } := rfl
theorem sysWrite_eaddr : sysWrite s c 0x0D v = s.setSlot c { s.slot c with eaddr := v } :=
  congrArg (fun x : DWord => s.setSlot c { s.slot c with eaddr := x }) BitVec.and_allOnes
theorem sysWrite_flags :
    sysWrite s c 0x0E v = s.setSlot c { s.slot c with cx := { (s.slot c).cx with flags := v &&& 0x7F } } := rfl
theorem sysWrite_quantum : sysWrite s c 0x0F v = s.setSlot c { s.slot c with quantum := v, qend := false } :=
  congrArg (fun x : DWord => s.setSlot c { s.slot c with quantum := x, qend := false }) BitVec.and_allOnes
theorem sysWrite_wlimit : sysWrite s c 0x10 v = s.setSlot c { s.slot c with wlimit := v.toNat } :=
  congrArg (fun x : DWord => s.setSlot c { s.slot c with wlimit := x.toNat }) BitVec.and_allOnes
theorem sysWrite_digest : sysWrite s c 0x1D v = s.setSlot c { s.slot c with digest := v } :=
  congrArg (fun x : DWord => s.setSlot c { s.slot c with digest := x }) BitVec.and_allOnes
/-- A write of PWRBUD gives BUDGET of the quadrant, whose STATE it keeps but for a budget of 0, and leaves the other quadrants (R254). -/
theorem sysWrite_pwrbud :
    let m := c.core.cl.m
    let low := v &&& 0xFFFFFFFF
    ∃ y : Module, sysWrite s c 0x1E v = s.setModule m y ∧ y = { s.module m with pwrbud := y.pwrbud } ∧
      ∀ cl : ClusterId, cl.m = m → (s.setModule m y).pwrbud cl =
        if quadrantOf cl = quadrantOf c.core.cl then (if low = 0 then 0 else (s.pwrbud cl &&& 0x300000000) ||| low) else s.pwrbud cl := by
  intro m low
  refine ⟨_, rfl, rfl, fun cl hm => ?_⟩
  have hq := quadrantOf_lt cl
  rw [State.pwrbud_setModule _ _ _ _ hm, State.pwrbud, hm]
  simp [hq, low, m]
/-- A write of LATTOL gives TOL, and a module in a deeper state than it allows begins its exit (R377, R378). -/
theorem sysWrite_lattol :
    let m := c.core.cl.m
    let y := s.module m
    let low := v &&& 0xFFFFFFFF
    sysWrite s c 0x1F v =
      s.setModule m { y with lattol := low, waking := y.waking || decide (low ≠ 0xFFFFFFFF ∧ low.toNat < y.power.exitTime) } := by
  intro m y low
  have hlow : BitVec.ofNat 64 low.toNat = low := by simp
  have hmax : low = 0xFFFFFFFF ↔ low.toNat = 0xFFFFFFFF := BitVec.toNat_inj.symm
  show setLattol s m v = _
  simp only [setLattol, State.modModule, ne_eq, Bool.decide_and, decide_not, hmax]
  rw [hlow]
end


/-- The register `n` of a context has a selector of its own, and a mirror where the handler context works for it. -/
theorem selectorWrite_register {s : State} {base : Nat} {c : CtxId} (hw : s.me.who = 4)
    (hb : (base = 0 ∧ c = s.me) ∨ (base = 0x100 ∧ s.mirror s.cur = some c)) (n : Nat) (hn : n < 0x20) (v : DWord) :
    handlerWrites (base + n) = sysWritable n ∧ selectorWrite s s.cur (base + n) v = sysWrite s c n v := by
  obtain ⟨rfl, rfl⟩ | ⟨rfl, hm⟩ := hb
  · rw [Nat.zero_add, State.me_of_handler hw]
    exact ⟨if_pos hn, if_pos hn⟩
  · simp only [handlerWrites, selectorWrite, hm]
    rw [if_neg (by omega), if_neg (by omega), if_pos (by omega), if_neg (by omega), if_neg (by omega), if_neg (by omega), if_neg (by omega),
      if_neg (by omega), if_pos (by omega), Nat.add_sub_cancel_left]
    exact ⟨rfl, rfl⟩
/-- A write of HSLOT names the slot that the handler context works for from then on, by its task (R350, R352). -/
theorem selectorWrite_hslot (s : State) (k : CoreId) (v : DWord) :
    let h := Fin.ofNat 4 v.toNat
    selectorWrite s k 0x21 v = s.setCore k { s.core k with hslot := h, huid := (s.slot ⟨k, h.castSucc⟩).uid } := by
  intro h
  have hh : Fin.ofNat 5 h.val = h.castSucc := Fin.ext (Nat.mod_eq_of_lt (by omega))
  rw [← hh]
  rfl
/-- A write of a mirror is ignored where the trapped slot's task is gone (R352). -/
theorem selectorWrite_gone (s : State) (k : CoreId) (n : Nat) (v : DWord) (h : s.mirror k = none) (hn : 0x100 ≤ n) : selectorWrite s k n v = s := by
  simp only [selectorWrite, h]
  rw [if_neg (by omega), if_neg (by omega), if_neg (by omega), if_neg (by omega), if_neg (by omega)]
theorem selectorWrite_mirror_areg (s : State) (k : CoreId) (c : CtxId) (r : BitVec 5) (v : DWord) (h : s.mirror k = some c) :
    selectorWrite s k (0x140 + r.toNat) v = s.setSlot c { s.slot c with cx := (s.slot c).cx.putA r v none } := by
  simp only [selectorWrite, h]
  rw [if_neg (by omega), if_neg (by omega), if_neg (by omega), if_neg (by omega), if_neg (by omega), if_neg (by omega), Nat.add_sub_cancel_left,
    BitVec.ofNat_toNat, BitVec.setWidth_eq]
  rfl

theorem sysReserved_of_le (n : Nat) (h : 0x20 ≤ n) : sysReserved n = 0 := by
  unfold sysReserved
  split
  · omega
  · omega
  · omega
  · omega
  · rfl
/-- The selector of an a-register's mirror is one that the handler context writes, and has no reserved bits. -/
theorem handlerWrites_areg (r : BitVec 5) : handlerWrites (0x140 + r.toNat) = true ∧ sysReserved ((0x140 + r.toNat) % 0x100) = 0 := by
  refine ⟨?_, sysReserved_of_le _ (by omega)⟩
  rw [handlerWrites, if_neg (by omega), if_neg (by omega), if_neg (by omega)]
  simp only [Bool.and_eq_true, decide_eq_true_eq]
  omega

section
variable {st t : State} {s : Bool} {rs1 : BitVec 5} (h : Takes { s := true, hOk := true, a := [rs1] } st t)
include h

theorem syswr_handler (hw : t.me.who = 4) (n : Nat) (hn : n < 2 ^ 12) (hs : handlerWrites n = true) :
    exec (.syswr s rs1 (BitVec.ofNat 12 n)) st =
      .next (noteReserved (selectorWrite t t.cur n (t.cx.ra rs1)) t.me (n % 0x100) (t.cx.ra rs1)).finish := by
  show execSyswr s rs1 _ st = _
  simp only [execSyswr, issue_takes h, if_pos hw, toNat_selector hn, if_pos hs]
theorem syswr_handler_readonly (hw : t.me.who = 4) (sel : BitVec 12) (hs : handlerWrites sel.toNat = false) :
    exec (.syswr s rs1 sel) st = .next (t.raise (trapInfo 0x019)) := by
  show execSyswr s rs1 sel st = _
  simp only [execSyswr, issue_takes h, if_pos hw, hs, Bool.false_eq_true, if_false]
/-- The handler context writes a register of its own slot, or through the mirror one of the slot it works for. -/
theorem syswr_register {base : Nat} {c : CtxId} (hw : t.me.who = 4)
    (hb : (base = 0 ∧ c = t.me) ∨ (base = 0x100 ∧ t.mirror t.cur = some c)) (n : Nat) (hn : n < 0x20) (hs : sysWritable n = true) :
    exec (.syswr s rs1 (BitVec.ofNat 12 (base + n))) st =
      .next (noteReserved (sysWrite t c n (t.cx.ra rs1)) t.me n (t.cx.ra rs1)).finish := by
  obtain ⟨hwrites, hwrite⟩ := selectorWrite_register hw hb n hn (t.cx.ra rs1)
  have hsel : base + n < 2 ^ 12 ∧ (base + n) % 0x100 = n := by omega
  rw [syswr_handler h hw _ hsel.1 (hwrites.trans hs), hwrite, hsel.2]
theorem syswr_task_flags (hw : t.me.who ≠ 4) :
    exec (.syswr s rs1 0x0E) st = .next (noteReserved (sysWrite t t.me 0x0E (t.cx.ra rs1)) t.me 0x0E (t.cx.ra rs1)).finish := by
  show execSyswr s rs1 0x0E st = _
  rw [execSyswr, issue_takes h, if_neg hw]
  rfl
theorem syswr_task_readonly (hw : t.me.who ≠ 4) (sel : BitVec 12) (hs : sel.toNat ≠ 0x0E ∧ sel.toNat < 0x20) :
    exec (.syswr s rs1 sel) st = .next (t.raise (trapInfo 0x019)) := by
  show execSyswr s rs1 sel st = _
  simp only [execSyswr, issue_takes h, if_neg hw, if_neg hs.1, if_pos hs.2]
theorem syswr_task_privileged (hw : t.me.who ≠ 4) (sel : BitVec 12) (hs : 0x20 ≤ sel.toNat) :
    exec (.syswr s rs1 sel) st = .next (t.raise (trapInfo 0x018)) := by
  show execSyswr s rs1 sel st = _
  rw [execSyswr, issue_takes h, if_neg hw, if_neg (by omega), if_neg (by omega)]
end

/-- A task's write of FLAGS: its reserved bits take nothing but are remembered in EINFO (R8, R354). -/
theorem noteReserved_flags (t : State) (v : DWord) :
    noteReserved (sysWrite t t.me 0x0E v) t.me 0x0E v = t.setSelf { t.self with
      cx := { t.cx with flags := v &&& 0x7F },
      einfo := if v &&& 0xFFFFFFFFFFFFFF80 = 0 then t.self.einfo else t.self.einfo ||| 0x100 } := by
  rw [sysWrite_flags]
  simp only [noteReserved, sysReserved]
  split
  · rfl
  · rw [State.modSlot, State.slot_setSlot, State.setSlot_setSlot]
    rfl

/-- Settles O17: SYSRD and SYSWR by the selector, in a task and in the handler context. -/
theorem systemRegistersAreReadAndWritten : Obligations.SystemRegistersAreReadAndWritten := by
  unfold Obligations.SystemRegistersAreReadAndWritten
  refine ⟨fun st t s rd h => ?_, fun st t s rs1 h => ⟨fun hw => ⟨?_, ?_, ?_⟩, fun hw => ?_⟩⟩
  · intro n shown reads
    have hlt : ∀ c, ∀ p ∈ shown c, p.1 < 0x20 := by
      intro c
      simp only [shown, List.forall_mem_cons, List.not_mem_nil, false_implies, implies_true, and_true]
      decide
    have hvalue : ∀ c, ∀ p ∈ shown c, sysRead t c p.1 = p.2 := by
      intro c
      simp only [shown, List.forall_mem_cons, List.not_mem_nil, false_implies, implies_true, and_true, ← members_length]
      and_intros <;> rfl
    have handler_reads : t.me.who = 4 → ∀ sel v, sel < 2 ^ 12 → selectorRead t t.cur sel = v → reads sel v :=
      fun hw sel v hs hv => ⟨_, sysrd_handler h hw sel hs, hv ▸ Ctxt.wa_writesA ..⟩
    refine ⟨fun p hp => ?_, fun hw => ?_, fun hw => ⟨?_, ?_, ?_, ?_, fun c hc => ⟨fun p hp => ?_, fun r => ?_⟩, fun hgone sel hsel => ?_⟩⟩
    · exact ⟨_, sysrd_own h _ (hlt _ p hp), hvalue _ p hp ▸ Ctxt.wa_writesA ..⟩
    · exact fun sel hsel => sysrd_privileged h hw sel (List.all_iff_forall_prop (p := fun x => 0x20 ≤ x.toNat) |>.1 (by decide) sel hsel)
    · exact handler_reads hw _ _ (by omega) rfl
    · exact handler_reads hw _ _ (by omega) rfl
    · exact handler_reads hw _ _ (by omega) rfl
    · exact handler_reads hw _ _ (by omega) rfl
    · have hp' := hlt c p hp
      exact handler_reads hw _ _ (by omega) ((selectorRead_mirror t t.cur c p.1 hc hp').trans (hvalue c p hp))
    · exact handler_reads hw _ _ (by omega) (selectorRead_mirror_areg t t.cur c r hc)
    · exact handler_reads hw _ _ (by omega) (selectorRead_gone t t.cur sel hgone (by omega))
  · refine ⟨_, syswr_task_flags h hw, ?_⟩
    rw [noteReserved_flags]
    exact ⟨sameOutside_setSelf .., by simp, by simp⟩
  · exact fun sel hsel => syswr_task_readonly h hw sel (List.all_iff_forall_prop (p := fun x => x.toNat ≠ 0x0E ∧ x.toNat < 0x20) |>.1 (by decide) sel hsel)
  · exact fun sel hsel => syswr_task_privileged h hw sel (List.all_iff_forall_prop (p := fun x => 0x20 ≤ x.toNat) |>.1 (by decide) sel hsel)
  · intro note writes k
    have plain : ∀ sel u, sel < 2 ^ 12 → handlerWrites sel = true ∧ sysReserved (sel % 0x100) = 0 → selectorWrite t t.cur sel (t.cx.ra rs1) = u →
        writes sel u 0 := by
      intro sel u hs hsel hu
      refine (syswr_handler h hw sel hs hsel.1).trans ?_
      rw [hu, noteReserved, hsel.2]
      rfl
    refine ⟨plain _ _ (by omega) ⟨rfl, rfl⟩ rfl, plain _ _ (by omega) ⟨rfl, rfl⟩ rfl, plain _ _ (by omega) ⟨rfl, rfl⟩ rfl,
      ⟨Fin.ofNat 4 (t.cx.ra rs1).toNat, rfl, plain _ _ (by omega) ⟨rfl, rfl⟩ (selectorWrite_hslot ..)⟩,
      fun base c hb => ?_, fun c r hc => ?_, fun hgone sel hsel => ?_, fun sel hsel => ?_⟩
    · have register : ∀ n u m, n < 0x20 ∧ sysWritable n = true ∧ sysReserved n = m → sysWrite t c n (t.cx.ra rs1) = u → writes (base + n) u m := by
        rintro n u m ⟨hn, hs, hr⟩ hu
        refine (syswr_register h hw hb n hn hs).trans ?_
        rw [hu, noteReserved, hr]
        rfl
      obtain ⟨y, hy, hpwrbud⟩ := sysWrite_pwrbud t c (t.cx.ra rs1)
      exact ⟨register _ _ _ (by decide) (sysWrite_cause ..), register _ _ _ (by decide) (sysWrite_epc ..),
        register _ _ _ (by decide) (sysWrite_einfo ..), register _ _ _ (by decide) (sysWrite_eaddr ..),
        register _ _ _ (by decide) (sysWrite_flags ..), register _ _ _ (by decide) (sysWrite_quantum ..),
        register _ _ _ (by decide) (sysWrite_wlimit ..), register _ _ _ (by decide) (sysWrite_digest ..),
        ⟨y, register _ _ _ (by decide) hy, hpwrbud⟩, register _ _ _ (by decide) (sysWrite_lattol ..)⟩
    · exact ⟨_, plain _ _ (by omega) (handlerWrites_areg r) (selectorWrite_mirror_areg t t.cur c r _ hc), Ctxt.putA_spec ..⟩
    · have hsel := List.all_iff_forall_prop
        (p := fun n => 0x100 ≤ n ∧ n < 2 ^ 12 ∧ handlerWrites n = true ∧ sysReserved (n % 0x100) = 0) |>.1 (by decide) sel hsel
      exact plain sel t hsel.2.1 hsel.2.2 (selectorWrite_gone t t.cur sel _ hgone hsel.1)
    · exact syswr_handler_readonly h hw sel (List.all_iff_forall_prop (p := fun x => handlerWrites x.toNat = false) |>.1 (by decide) sel hsel)

end Sys2Proof.Machine
end

section
/-! SUPPORT. The handler context, the core system window and the traps between instructions (R245, R246, R346, R348, R349, R351, R362). -/

namespace Sys2Proof.Machine

/-! ## A write that a core's system window has taken (R362) -/

theorem underErrors_unarmed (f : State → Out State) (g : State → Nat → Bool) (s : State) (h : s.armed = []) : underErrors f g s = f s := by
  unfold underErrors
  simp only [h, List.filter_nil, ite_self, List.any_nil, List.foldl_nil]
  cases f s <;> rfl
theorem watched_unwatched (a : Act) (s t : State) (h : s.watches = []) : watched a s t = t := by simp [watched, h]
/-- The step of a window write carries it out. -/
theorem step_window (s : State) (b : Option CoreId) (k : CoreId) (off : Nat) (v : DWord) (r : List Turn) (ha : s.agenda = .window b k off v :: r)
    (harmed : s.armed = []) (hwatches : s.watches = []) :
    let t := { s with agenda := r }
    step s = settled t (windowAct b k off v t) := by
  intro t
  have hp : pick s = (Act.other (fun s => settled s (windowAct b k off v s)), t) := by simp [pick, ha, turnAct, t]
  have hw : ∀ a u, watched a t u = u := fun a u => watched_unwatched a t u hwatches
  rw [step, underErrors_unarmed _ _ _ harmed, stepOnce, hp]
  show (match settled t (windowAct b k off v t) with | .next u => Host.Outcome.next (watched _ t u) | o => o) = _
  cases settled t (windowAct b k off v t) with
  | next u => exact congrArg Host.Outcome.next (hw _ u)
  | fault => rfl
  | refused => rfl

/-- Doubleword `n` of the image of slot `w` (R362). -/
theorem imageAt_slot (w : Fin 4) (n : Nat) (hn : n < 64) : imageAt (0x100 + 0x200 * w.val + 8 * n) = some (w.castSucc, n) := by
  have hw := w.isLt
  have hlt : 0x100 ≤ 0x100 + 0x200 * w.val + 8 * n ∧ 0x100 + 0x200 * w.val + 8 * n < 0x900 := by omega
  have hslot : (0x100 + 0x200 * w.val + 8 * n - 0x100) / 0x200 = w.val := by omega
  have hword : (0x100 + 0x200 * w.val + 8 * n - 0x100) % 0x200 / 8 = n := by omega
  have hfin : Fin.ofNat 5 w.val = w.castSucc := Fin.ext (Nat.mod_eq_of_lt (by omega))
  simp only [imageAt, hlt, decide_true, Bool.and_self, if_true, hslot, hword, hfin]
theorem imageAt_outside (off : Nat) (h : off < 0x100 ∨ 0x900 ≤ off) : imageAt off = none := by
  rw [imageAt, if_neg]
  simp only [Bool.and_eq_true, decide_eq_true_eq]
  omega
theorem windowWord_image (s : State) (k : CoreId) (w : Fin 4) (n : Nat) (hn : n < 64) :
    windowWord s k (0x100 + 0x200 * w.val + 8 * n) =
      if n < 32 then sysRead s ⟨k, w.castSucc⟩ n else (s.slot ⟨k, w.castSucc⟩).cx.ra (BitVec.ofNat 5 (n - 32)) := by
  simp only [windowWord, imageAt_slot w n hn]

section
variable (b : Option CoreId) (k : CoreId) (v : DWord) (s : State)

theorem windowAct_image (w : Fin 4) (n : Nat) (hn : n < 64) :
    windowAct b k (0x100 + 0x200 * w.val + 8 * n) v s = .next (imageWrite s b ⟨k, w.castSucc⟩ n v) := by
  simp only [windowAct, imageAt_slot w n hn]
/-- Only a service core's write of TVEC ends a halt (R351). -/
theorem windowAct_tvec :
    windowAct b k 0 v s = .next (s.setCore k { s.core k with tvec := v, halted := (s.core k).halted && b.isSome }) := by
  cases b with
  | none => simp only [Option.isSome_none, Bool.and_false]; rfl
  | some h => simp only [Option.isSome_some, Bool.and_true]; rfl
/-- A write to a reserved offset does nothing but that a handler context's is remembered in its EINFO (R8). -/
theorem windowAct_reserved (off : Nat) (h : off = 0x030 ∨ off = 0x0F8 ∨ off = 0x910 ∨ off = 0x938 ∨ 0x968 ≤ off) :
    windowReserved off = true ∧ windowAct b k off v s = .next (windowNote b off v s) := by
  constructor
  · simp only [windowReserved, List.contains_eq_mem, List.mem_cons, List.not_mem_nil, or_false, Bool.and_eq_true, Bool.not_eq_true',
      decide_eq_false_iff_not, Bool.and_eq_false_iff]
    omega
  · simp only [windowAct, imageAt_outside off (by omega)]
    split
    case h_11 => rfl
    all_goals omega

theorem windowNote_handler (h : CoreId) (off : Nat) (hr : windowReserved off = true) :
    windowNote (some h) off v s =
      if v &&& BitVec.allOnes 64 = 0 then s else s.setSlot ⟨h, 4⟩ { s.slot ⟨h, 4⟩ with einfo := (s.slot ⟨h, 4⟩).einfo ||| 0x100 } := by
  rw [BitVec.and_allOnes]
  by_cases hv : v = 0
  · simp [windowNote, hv]
  · rw [if_neg hv]
    exact if_pos (by simpa [hr] using hv)
theorem noteReserved_none (c : CtxId) (n : Nat) (h : sysReserved n = 0) : noteReserved s c n v = s := by simp [noteReserved, h]

theorem imageWrite_ignored (c : CtxId) (n : Nat) (h : (s.slot c).phase ≠ .forwarded) : imageWrite s b c n v = s := if_pos h
/-- A FORWARDED slot's register takes a write of R354; one to its reserved bits is remembered in the EINFO of the handler context that makes it, or
of the slot (R8). -/
theorem imageWrite_register (c : CtxId) (n : Nat) (h : (s.slot c).phase = .forwarded) (hn : n < 32) :
    imageWrite s b c n v = if sysWritable n then noteReserved (sysWrite s c n v) (b.elim c (fun h => ⟨h, 4⟩)) n v else s := by
  unfold imageWrite
  rw [if_neg (not_not_intro h), if_pos hn]
  cases b <;> rfl
theorem imageWrite_areg (c : CtxId) (q : BitVec 5) (h : (s.slot c).phase = .forwarded) :
    imageWrite s b c (32 + q.toNat) v = s.setSlot c { s.slot c with cx := (s.slot c).cx.putA q v none } := by
  unfold imageWrite
  rw [if_neg (not_not_intro h), if_neg (by omega), if_pos (by omega), Nat.add_sub_cancel_left, BitVec.ofNat_toNat, BitVec.setWidth_eq]
  rfl
end

/-! ## Cores and slots under updates -/

/-- A core's update that leaves its slots leaves every slot of the pod. -/
theorem State.slot_setCore (s : State) (k : CoreId) (x : Core) (h : x.slots = (s.core k).slots) (d : CtxId) : (s.setCore k x).slot d = s.slot d := by
  by_cases hd : d.core = k
  · subst hd
    simp [State.slot, h]
  · simp only [State.slot, State.core_setCore_ne _ _ _ _ hd]
theorem State.countError_errors (s : State) (m : Nat) (code : BitVec 9) :
    kget ((s.countError m code).module m).errors code 0 = kget (s.module m).errors code 0 + 1 := by simp [State.countError]

/-! ## Traps taken (R348, R349) -/

/-- TakeTrap writes the slot's trap registers, and the slot is live no longer; it changes no other slot, no memory and no module. -/
theorem takeTrap_spec (s : State) (c : CtxId) (x : TrapInfo) (held : Bool) :
    let u := takeTrap s c x held
    (∃ ph, ph ≠ Phase.live ∧ u.slot c = (s.slot c).trapped x held ph) ∧ (∀ d, d ≠ c → u.slot d = s.slot d) ∧ u.mem = s.mem ∧
      u.modules = s.modules := by
  intro u
  by_cases hf : (s.core c.core).tvec = 0 ∨ (s.core c.core).halted = true
  · have hu : u = s.setSlot c ((s.slot c).trapped x held .forwarded) := if_pos (by simpa using hf)
    rw [hu]
    exact ⟨⟨.forwarded, nofun, s.slot_setSlot c _⟩, fun d hd => s.slot_setSlot_ne c d _ hd, rfl, rfl⟩
  · have hu : u = (s.setSlot c ((s.slot c).trapped x held .trapped)).modCore c.core (fun k => { k with trapq := k.trapq ++ [c.who] }) :=
      if_neg (by simpa using hf)
    have hslot : ∀ d, u.slot d = (s.setSlot c ((s.slot c).trapped x held .trapped)).slot d := fun d => by
      rw [hu]; exact State.slot_setCore _ _ _ (by rfl) d
    exact ⟨⟨.trapped, nofun, by rw [hslot, State.slot_setSlot]⟩, fun d hd => by rw [hslot, s.slot_setSlot_ne c d _ hd], by rw [hu]; rfl,
      by rw [hu]; rfl⟩
/-- A trap raised at a task's slot changes no module. -/
theorem raiseAt_modules (s : State) (c : CtxId) (x : TrapInfo) (hc : c.who ≠ 4) : (s.raiseAt c x).modules = s.modules := by
  rw [State.raiseAt, if_neg hc]
  split
  · rfl
  · exact (takeTrap_spec s c x false).2.2.2
theorem raiseAt_certain (s : State) (c : CtxId) (x : TrapInfo) (hc : c.who ≠ 4) (h : (s.slot c).speculative = false) :
    s.raiseAt c x = takeTrap s c x false := by
  rw [State.raiseAt, if_neg hc, if_neg (by simp [h])]
theorem Slot.mayTrap_of_held_none (sl : Slot) (code : BitVec 9) (h : sl.held = none) : sl.mayTrap code = true := by simp [Slot.mayTrap, h]

/-! ## The handler context and the service cores (R348, R351, R362) -/

/-- A core whose handler context takes up the trap of slot `w`, the slots `r` being queued after it; and its handler context, started at `pc`. -/
def Core.handling (x : Core) (w : Fin 5) (r : List (Fin 5)) (uid : Nat) : Core := { x with trapq := r, hslot := Fin.ofNat 4 w.val, huid := uid }
def Slot.startedAt (sl : Slot) (pc : DWord) : Slot := { sl with phase := .live, wait := none, wcount := 0, cx := { sl.cx with pc := pc, delay := none } }

/-- An idle handler context takes the head of the trap queue and starts at TVEC (R348). -/
theorem handlerDispatch_starts (s : State) (k : CoreId) (w : Fin 5) (r : List (Fin 5)) (hq : (s.core k).trapq = w :: r)
    (hidle : (s.slot ⟨k, 4⟩).phase = .idle) (hhalt : (s.core k).halted = false) (hw : w ≠ 4) :
    ∃ u : State, exec (.handlerDispatch k) s = .next u ∧ (u.core k).trapq = r ∧ (u.core k).hslot.val = w.val ∧
      u.slot ⟨k, 4⟩ = (s.slot ⟨k, 4⟩).startedAt (s.core k).tvec ∧ u.mem = s.mem ∧ ∀ d, d ≠ ⟨k, 4⟩ → u.slot d = s.slot d := by
  let t := s.setCore k ((s.core k).handling w r (s.slot ⟨k, w⟩).uid)
  have hslot : ∀ d, t.slot d = s.slot d := State.slot_setCore s k _ rfl
  have hu : exec (.handlerDispatch k) s = .next (t.setSlot ⟨k, 4⟩ ((t.slot ⟨k, 4⟩).startedAt (s.core k).tvec)) := by
    show execHandlerDispatch k s = _
    simp only [execHandlerDispatch, hq]
    rw [if_neg (by simp [hidle, hhalt])]
    rfl
  rw [hslot] at hu
  have hcore := State.core_setSlot t ⟨k, 4⟩ ((s.slot ⟨k, 4⟩).startedAt (s.core k).tvec)
  rw [show t.core k = _ from State.core_setCore ..] at hcore
  have hwv : w.val ≠ 4 := fun e => hw (Fin.ext e)
  exact ⟨_, hu, by rw [hcore]; rfl, by rw [hcore]; exact Nat.mod_eq_of_lt (by omega), State.slot_setSlot .., rfl,
    fun d hd => (State.slot_setSlot_ne _ _ _ _ hd).trans (hslot d)⟩
theorem handlerWatchdogExpiry_doubleTraps (s : State) (k : CoreId) (hp : (s.slot ⟨k, 4⟩).phase = .live)
    (hc : (s.core k).hwdog.toNat ≤ (s.slot ⟨k, 4⟩).wcount) : exec (.handlerWatchdogExpiry k) s = .next (doubleTrap s k (trapInfo 0x140)) := by
  show execHandlerWatchdogExpiry k s = _
  simp [execHandlerWatchdogExpiry, hp, hc]
/-- SLOTCTL resumes a FORWARDED slot at its EPC. -/
theorem slotctlResume_resumes (s : State) (c : CtxId) (hc : c.who ≠ 4) (hp : (s.slot c).phase = .forwarded) :
    ∃ u : State, exec (.slotctlResume c) s = .next u ∧ SameOutside c s u ∧
      (u.slot c).phase = .live ∧ (u.slot c).wcount = 0 ∧ (u.slot c).cx = { (s.slot c).cx with pc := (s.slot c).epc, delay := none } := by
  have hu : exec (.slotctlResume c) s = .next (s.setSlot c (s.slot c).resume) := by
    show execSlotctlResume c s = _
    simp [execSlotctlResume, hc, hp, endTrap, State.modSlot]
  exact ⟨_, hu, sameOutside_setSlot .., by rw [State.slot_setSlot]; rfl, by rw [State.slot_setSlot]; rfl, by rw [State.slot_setSlot]; rfl⟩
theorem slotctl_ignored (s : State) (c : CtxId) (hp : (s.slot c).phase ≠ .forwarded) :
    exec (.slotctlResume c) s = .next s ∧ exec (.slotctlEnd c) s = .next s := by
  constructor
  · show execSlotctlResume c s = _
    simp [execSlotctlResume, hp]
  · show execSlotctlEnd c s = _
    simp [execSlotctlEnd, hp]
theorem pidEntry_written (s : State) (m : Nat) (pid : BitVec 8) (v : DWord) :
    ∃ u : State, exec (.systemWindowWrite (.pidEntry m pid) v) s = .next u ∧ kget (u.module m).pids pid 0 = v ∧
      (∀ p, p ≠ pid → kget (u.module m).pids p 0 = kget (s.module m).pids p 0) ∧ ∀ j, j ≠ m → u.module j = s.module j := by
  refine ⟨s.modModule m (fun x => { x with pids := kset x.pids pid v }), rfl, ?_, fun p hp => ?_, fun j hj => ?_⟩
  · rw [State.module_modModule, kget_kset_self]
  · rw [State.module_modModule, kget_kset_ne _ _ _ _ _ hp]
  · exact State.module_setModule_ne _ _ _ _ hj

/-! ## Traps between instructions (R245, R246, R272, R346, R349) -/

section
variable (s : State) (c : CtxId) (hc : c.who ≠ 4) (hp : (s.slot c).phase = .live) (hheld : (s.slot c).held = none)

include hc hp hheld in
theorem watchdog_fires (h : (s.slot c).wlimit ≤ (s.slot c).wcount) : exec (.watchdog c) s = .next (s.raiseAt c (trapInfo 0x140)) := by
  show execWatchdog c s = _
  simp [execWatchdog, hc, hp, Slot.mayTrap_of_held_none _ _ hheld, h]
theorem watchdog_not_due (h : (s.slot c).wcount < (s.slot c).wlimit) : exec (.watchdog c) s = .next s := by
  show execWatchdog c s = _
  simp [execWatchdog, h]
include hc hp hheld in
theorem quantumEnd_fires (h : (s.slot c).qend = true) (hd : (s.slot c).cx.delay = none) :
    exec (.quantumEnd c) s = .next ((s.setSlot c { s.slot c with qend := false }).raiseAt c (trapInfo 0x141)) := by
  show execQuantumEnd c s = _
  simp [execQuantumEnd, hc, hp, Slot.mayTrap_of_held_none _ _ hheld, h, hd, State.modSlot]
theorem quantumEnd_not_due (h : (s.slot c).qend = false) : exec (.quantumEnd c) s = .next s := by
  show execQuantumEnd c s = _
  simp [execQuantumEnd, h]
end

section
variable (s : State) (c : CtxId) (hc : c.who ≠ 4)
include hc

/-- A slot whose state is lost traps at once where it is live, neither stopped nor speculative. -/
theorem takeLost_traps (hl : (s.slot c).lost = true) (hp : (s.slot c).phase = .live) (hs : (s.slot c).stopped = false)
    (hsp : (s.slot c).speculative = false) :
    takeLost s c = takeTrap (s.setSlot c { s.slot c with lost := false }) c (trapInfo 0x109) false := by
  have hsp' : ((s.setSlot c { s.slot c with lost := false }).slot c).speculative = false := by rw [State.slot_setSlot]; exact hsp
  unfold takeLost
  extract_lets sl
  rw [if_neg (by simp [sl, hl, hp, hs, Slot.mayTrap, hsp])]
  exact raiseAt_certain _ c _ hc hsp'
theorem takeLost_modules : (takeLost s c).modules = s.modules := by
  unfold takeLost
  extract_lets sl
  split
  · rfl
  · exact raiseAt_modules _ c _ hc
end
/-- Of a slot that is not live, the loss stays due until it goes on. -/
theorem takeLost_later (s : State) (c : CtxId) (hp : (s.slot c).phase ≠ .live) : takeLost s c = s := by simp [takeLost, hp]

/-- What CONTEXT_LOST does to a slot that holds a task (R346). -/
theorem contextLost_held (s : State) (c : CtxId) (h : ¬ (c.who = 4 ∨ (s.slot c).phase = .idle)) :
    exec (.contextLost c) s = .next (takeLost ((s.countError c.core.cl.m 0x109).setSlot c { s.slot c with lost := true }) c) := by
  show execContextLost c s = _
  exact congrArg Host.Outcome.next (if_neg (by simpa using h))
/-- CONTEXT_LOST is counted by the module wherever it strikes; where it strikes no task nothing else happens, and of a trapped one it stays due
(R346). -/
theorem contextLost_counts (s : State) (c : CtxId) :
    ∃ u : State, exec (.contextLost c) s = .next u ∧
      kget (u.module c.core.cl.m).errors 0x109 0 = kget (s.module c.core.cl.m).errors 0x109 0 + 1 ∧
      (c.who = 4 ∨ (s.slot c).phase = .idle → u = { s with modules := u.modules }) ∧
      (c.who ≠ 4 → (s.slot c).phase = .trapped → (u.slot c).lost = true) := by
  by_cases h : c.who = 4 ∨ (s.slot c).phase = .idle
  · have hu : exec (.contextLost c) s = .next (s.countError c.core.cl.m 0x109) := by
      show execContextLost c s = _
      exact congrArg Host.Outcome.next (if_pos (by simpa using h))
    refine ⟨_, hu, State.countError_errors .., fun _ => rfl, fun hc hp => ?_⟩
    rw [hp] at h
    exact absurd h (by simp [hc])
  · have hc : c.who ≠ 4 := fun e => h (.inl e)
    refine ⟨_, contextLost_held s c h, ?_, fun h' => absurd h' h, fun _ hp => ?_⟩
    · rw [State.module_congr (takeLost_modules _ c hc)]
      exact State.countError_errors ..
    · rw [takeLost_later _ _ (by rw [State.slot_setSlot]; simp [hp]), State.slot_setSlot]
/-- CONTEXT_LOST of a live slot, precise at its next instruction. -/
theorem contextLost_traps (s : State) (c : CtxId) (hc : c.who ≠ 4) (hp : (s.slot c).phase = .live) (hs : (s.slot c).stopped = false)
    (hsp : (s.slot c).speculative = false) :
    ∃ u : State, exec (.contextLost c) s = .next u ∧ (u.slot c).cause = 0x109 ∧ (u.slot c).phase ≠ .live ∧ u.mem = s.mem ∧
      (∀ d, d ≠ c → u.slot d = s.slot d) ∧
      kget (u.module c.core.cl.m).errors 0x109 0 = kget (s.module c.core.cl.m).errors 0x109 0 + 1 := by
  have hu := contextLost_held s c (by simp [hc, hp])
  rw [takeLost_traps _ c hc (by rw [State.slot_setSlot]) (by rw [State.slot_setSlot]; exact hp) (by rw [State.slot_setSlot]; exact hs)
    (by rw [State.slot_setSlot]; exact hsp), State.setSlot_setSlot] at hu
  obtain ⟨⟨ph, hph, hself⟩, hother, hmem, hmods⟩ := takeTrap_spec
    ((s.countError c.core.cl.m 0x109).setSlot c _) c (trapInfo 0x109) false
  refine ⟨_, hu, by rw [hself]; rfl, by rw [hself]; exact hph, hmem, fun d hd => (hother d hd).trans (State.slot_setSlot_ne _ _ _ _ hd), ?_⟩
  rw [State.module_congr hmods]
  exact State.countError_errors ..

section
variable (s : State) (c : CtxId) (x : TrapInfo) (hc : c.who ≠ 4) (hl : (s.slot c).lost = false) (hh : (s.slot c).held = some x)
include hc hl hh

/-- A held CONTEXT_LOST is taken before anything else (R272, R349). -/
theorem boundary_heldLost (h : x.code = 0x109) : boundary s c = some (.next (takeTrap s c x true)) := by
  simp [boundary, hc, hl, hh, Slot.holdsTrap, h]
/-- A held WATCHDOG is taken in the place of one that is due, and another held trap where neither WATCHDOG nor QUANTUM_END is due (R272, R349). -/
theorem boundary_held (g : Nat) (hg : (s.slot c).gang = some g) (hr : (s.gang g).status = .running)
    (h : x.code = 0x140 ∨ ((s.slot c).wcount < (s.slot c).wlimit ∧ (s.slot c).qend = false)) :
    boundary s c = some (.next (takeTrap s c x true)) := by
  by_cases hx : x.code = 0x109
  · exact boundary_heldLost s c x hc hl hh hx
  · obtain hw | ⟨hcount, hq⟩ := h
    · simp [boundary, hc, hl, hh, Slot.holdsTrap, hg, hr, hw]
    · simp [boundary, hc, hl, hh, Slot.holdsTrap, hg, hr, hcount, hq]
end

/-- Settles O19: the steps around the handler context, the writes of the core system window, and the traps between instructions. -/
theorem handlerAndServiceSteps : Obligations.HandlerAndServiceSteps := by
  unfold Obligations.HandlerAndServiceSteps
  refine ⟨fun s k c v m pid => ⟨fun w r hq hidle hhalt hw => ?_, handlerWatchdogExpiry_doubleTraps s k, rfl, slotctlResume_resumes s c,
      slotctl_ignored s c, rfl, rfl, rfl, pidEntry_written s m pid v⟩, fun s b k off v r ha harmed hwatches => ?_,
    fun s c hc hp hh => ⟨watchdog_fires s c hc hp hh, watchdog_not_due s c, quantumEnd_fires s c hc hp hh, quantumEnd_not_due s c,
      fun _ hs hsp => contextLost_traps s c hc hp hs hsp⟩,
    contextLost_counts, fun s c x hc hl hh => ⟨boundary_heldLost s c x hc hl hh, fun g hg hr => ⟨fun h => boundary_held s c x hc hl hh g hg hr (.inl h),
      fun hcount hq => boundary_held s c x hc hl hh g hg hr (.inr ⟨hcount, hq⟩)⟩⟩⟩
  · obtain ⟨u, hu, hqueue, hslot, hself, hmem, hother⟩ := handlerDispatch_starts s k w r hq hidle hhalt hw
    exact ⟨u, hu, hqueue, hslot, by rw [hself]; rfl, by rw [hself]; rfl, by rw [hself]; rfl, hmem, hother⟩
  · intro t does note
    have act : ∀ u, windowAct b k off v t = .next u → does u := fun u hu => (step_window s b k off v r ha harmed hwatches).trans (congrArg _ hu)
    refine ⟨fun w n hn hoff => ?_, fun hoff => act _ (hoff ▸ windowAct_tvec b k v t), fun h hb hoff => ?_, fun hb hoff => ?_⟩
    · intro c x d
      subst hoff
      have image : ∀ u, imageWrite t b c n v = u → does u := fun u hu => act u (hu ▸ windowAct_image b k v t w n hn)
      refine ⟨windowWord_image t k w n hn, fun hp => image t (imageWrite_ignored b v t c n hp), fun hp => ?_⟩
      have hd : b.elim c (fun h => ⟨h, 4⟩) = d := by cases b <;> rfl
      have noted : ∀ j u m, j < 32 ∧ sysWritable j = true ∧ sysReserved j = m → sysWrite t c j v = u → n = j → does (note d m u) := by
        rintro j u m ⟨hj, hs, hr⟩ hu rfl
        apply image
        rw [imageWrite_register b v t c n hp hj, if_pos hs, hu, noteReserved, hr, hd]
        rfl
      have plain : ∀ j u, j < 32 ∧ sysWritable j = true ∧ sysReserved j = 0 → sysWrite t c j v = u → n = j → does u := by
        rintro j u ⟨hj, hs, hr⟩ hu rfl
        apply image
        rw [imageWrite_register b v t c n hp hj, if_pos hs, hu, noteReserved_none v u _ n hr]
      refine ⟨plain _ _ (by decide) (sysWrite_cause ..), plain _ _ (by decide) (sysWrite_epc ..), noted _ _ _ (by decide) (sysWrite_einfo ..),
        plain _ _ (by decide) (sysWrite_eaddr ..), noted _ _ _ (by decide) (sysWrite_flags ..), plain _ _ (by decide) (sysWrite_quantum ..),
        plain _ _ (by decide) (sysWrite_wlimit ..), plain _ _ (by decide) (sysWrite_digest ..),
        fun h => image t ?_, fun q e => ⟨_, image _ (e ▸ imageWrite_areg b v t c q hp), Ctxt.putA_spec ..⟩⟩
      rw [imageWrite_register b v t c n hp (by omega), if_neg]
      simp only [sysWritable, Bool.or_eq_true, Bool.and_eq_true, decide_eq_true_eq]
      omega
    · obtain ⟨hr, hact⟩ := windowAct_reserved b k v t off hoff
      rw [hb, windowNote_handler v t h off hr] at hact
      exact act _ (hb ▸ hact)
    · have hact := (windowAct_reserved b k v t off hoff).2
      rw [hb] at hact
      exact act _ (hb ▸ hact)

end Sys2Proof.Machine
end

section
/-! SUPPORT. Power states and the host port (R26, R338, R339, R377, R378): what a module in a power state holds and what one in Run performs, a window
access page by page, and what a Function Level Reset ends, clears and keeps. -/

namespace Sys2Proof.Machine

/-! ## Power states (R26, R377, R378) -/

section
variable {s : State} {m : Nat}

theorem sleeps_of_run (h : (s.module m).power = .run) : sleeps s m = false := by simp [sleeps, h]
theorem sleeps_of_not_run (h : (s.module m).power ≠ .run) : sleeps s m = true := by simp [sleeps, h]

theorem lowestPower_eq (tol : Nat) :
    lowestPower tol = if tol = 2 ^ 32 - 1 ∨ Power.calm.exitTime ≤ tol then .calm
      else if Power.lull.exitTime ≤ tol then .lull else if Power.doze.exitTime ≤ tol then .doze else .run := by
  simp [lowestPower]
theorem powerStateEntry_idle (hi : moduleIdle s m = true) (h : (s.module m).power = .run) :
    exec (.powerStateEntry m) s =
      .next (s.setModule m { s.module m with power := lowestPower ((s.module m).lattol.toNat % 2 ^ 32) }) := by
  show execPowerStateEntry m s = _
  simp [execPowerStateEntry, hi, h, State.modModule]
theorem powerStateEntry_busy (hi : moduleIdle s m = false) : exec (.powerStateEntry m) s = .next s := by
  show execPowerStateEntry m s = _
  simp [execPowerStateEntry, hi]

theorem powerExitComplete_waking (h : (s.module m).waking = true) :
    exec (.powerExitComplete m) s = .next ((s.module m).heldReqs.foldl (proceed m)
      (s.setModule m { s.module m with power := .run, waking := false, heldReqs := [] })) := by
  show execPowerExitComplete m s = _
  simp [execPowerExitComplete, h, State.modModule]
theorem powerExitComplete_notWaking (h : (s.module m).waking = false) : exec (.powerExitComplete m) s = .next s := by
  show execPowerExitComplete m s = _
  simp [execPowerExitComplete, h]

/-! ## Requests held in a power state, and performed in Run (R338, R378) -/

theorem wakeEvent_held (n : Nat) (h : (s.module m).power ≠ .run) :
    exec (.wakeEvent m n) s = .next (holdRequest s m (.other n)) := by
  show execWakeEvent m n s = _
  rw [execWakeEvent, if_pos (sleeps_of_not_run h)]
theorem hostDoorbell_held (n : Nat) (h : (s.module m).power ≠ .run) :
    exec (.hostDoorbell m n) s = .next (holdRequest s m (.doorbell n)) := by
  show execHostDoorbell m n s = _
  rw [execHostDoorbell, if_pos (sleeps_of_not_run h)]
theorem hostWindowAccess_outside (off size : Nat) (w : Option Nat) (h : bar2 < off + size) :
    exec (.hostWindowAccess m off size w) s = .next s := by
  show execHostWindowAccess m off size w s = _
  rw [execHostWindowAccess, if_pos h]
theorem hostWindowAccess_held (off size : Nat) (w : Option Nat) (hin : off + size ≤ bar2) (h : (s.module m).power ≠ .run) :
    exec (.hostWindowAccess m off size w) s = .next (holdRequest s m (.window off size w) w.isSome) := by
  show execHostWindowAccess m off size w s = _
  rw [execHostWindowAccess, if_neg (Nat.not_lt.2 hin), if_pos (sleeps_of_not_run h)]

section
variable (h : (s.module m).power = .run)
include h

theorem hostDoorbell_run (n : Nat) : exec (.hostDoorbell m n) s = .next (ringDoorbell s m n) := by
  show execHostDoorbell m n s = _
  rw [execHostDoorbell, if_neg (by simp [sleeps_of_run h])]
theorem hostWindowAccess_run (off size : Nat) (w : Option Nat) (hin : off + size ≤ bar2) :
    exec (.hostWindowAccess m off size w) s = .next (windowAccess s m off size w) := by
  show execHostWindowAccess m off size w s = _
  rw [execHostWindowAccess, if_neg (Nat.not_lt.2 hin), if_neg (by simp [sleeps_of_run h])]
theorem remoteAccessArrival_run (q : RemoteReq) (hf : formsRequest q.addr = true) (hm : moduleOf 0 q.addr = m) :
    exec (.remoteAccessArrival q) s = .next (performRequest s q) := by
  subst hm
  show execRemoteAccessArrival q s = _
  simp [execRemoteAccessArrival, hf, sleeps_of_run h]
theorem subByteMessage_run (q : RemoteReq) (hf : formsRequest q.addr = true) (hm : moduleOf 0 q.addr = m) :
    exec (.subByteMessage q) s = .next (performBits s q) := by
  subst hm
  show execSubByteMessage q s = _
  simp [execSubByteMessage, hf, sleeps_of_run h]
theorem systemWindowWrite_run (q : SysReg) (b : DWord) (hb : bar0Of q = some m) :
    exec (.systemWindowWrite q b) s = .next (setRegister q b s) := by
  show execSystemWindowWrite q b s = _
  simp [execSystemWindowWrite, hb, sleeps_of_run h]
end
end

/-! ## A window access, page by page (R338) -/

/-- Where a window access begins. -/
def windowVa (s : State) (m off : Nat) : DWord := (s.module m).wbase + BitVec.ofNat 64 off

theorem windowReq_addr (s : State) (m off size : Nat) (w : Option Nat) : (windowReq s m off size w).addr = windowVa s m off := rfl
theorem windowReq_pid (s : State) (m off size : Nat) (w : Option Nat) : (windowReq s m off size w).pid = (s.module m).wpid := rfl
theorem windowReq_acc (s : State) (m off size : Nat) (w : Option Nat) :
    (windowReq s m off size w).acc = if w.isSome then .write else .read := rfl

theorem windowPieces_nothing (m f off : Nat) (w : Option Nat) (s : State) : windowPieces m f off 0 w s = s := by
  cases f <;> rfl
theorem windowPieces_succ (m f off size : Nat) (w : Option Nat) (s : State) (h : 0 < size) :
    let n := Nat.min size (65536 - (windowVa s m off).toNat % 65536)
    windowPieces m (f + 1) off size w s =
      windowPieces m f (off + n) (size - n) (w.map (· / 2 ^ (8 * n))) (windowRequest s m off n (w.map (· % 2 ^ (8 * n)))) := by
  rw [windowPieces, if_neg (Nat.ne_of_gt h)]
  rfl
/-- An access that stays in its page is one request. -/
theorem windowPieces_inPage (m f off size : Nat) (w : Option Nat) (s : State) (h : 0 < size)
    (hp : (windowVa s m off).toNat % 65536 + size ≤ 65536) :
    windowPieces m (f + 1) off size w s = windowRequest s m off size (w.map (· % 2 ^ (8 * size))) := by
  have hn : Nat.min size (65536 - (windowVa s m off).toNat % 65536) = size := Nat.min_eq_left (by omega)
  simp only [windowPieces_succ m f off size w s h, hn, Nat.sub_self, windowPieces_nothing]
theorem windowAccess_inPage (s : State) (m off size : Nat) (w : Option Nat) (h : 0 < size)
    (hp : (windowVa s m off).toNat % 65536 + size ≤ 65536) :
    windowAccess s m off size w = windowRequest s m off size (w.map (· % 2 ^ (8 * size))) :=
  windowPieces_inPage m (size / 65536 + 1) off size w s h hp
theorem windowRequest_modules (s : State) (m off size : Nat) (w : Option Nat) : (windowRequest s m off size w).modules = s.modules := by
  unfold windowRequest
  extract_lets r
  split
  · rfl
  · split
    · rfl
    · split
      · rfl
      · rfl
      · split
        · rfl
        · split <;> rfl

/-- An access across a page end is the access up to it and then the access from it on. -/
theorem windowAccess_acrossPage (s : State) (m off size : Nat) (w : Option Nat) :
    let k := 65536 - (windowVa s m off).toNat % 65536
    let u := windowAccess s m off k (w.map (· % 2 ^ (8 * k)))
    k < size → size ≤ 65536 → u.modules = s.modules ∧
      windowAccess s m off size w = windowAccess u m (off + k) (size - k) (w.map (· / 2 ^ (8 * k))) := by
  intro k u hk hsize
  have hlt : (windowVa s m off).toNat % 65536 < 65536 := Nat.mod_lt _ (by omega)
  have hu : u = windowRequest s m off k (w.map (· % 2 ^ (8 * k))) := by
    have := windowAccess_inPage s m off k (w.map (· % 2 ^ (8 * k))) (by omega) (by omega)
    simpa [Option.map_map, Function.comp_def] using this
  have hmod : u.modules = s.modules := hu ▸ windowRequest_modules ..
  have hva : (windowVa u m (off + k)).toNat % 65536 = 0 := by
    have hk : k = 65536 - (windowVa s m off).toNat % 65536 := rfl
    simp only [windowVa, State.module_congr hmod, BitVec.toNat_add, BitVec.toNat_ofNat] at hk ⊢
    omega
  have hn : Nat.min size (65536 - (windowVa s m off).toNat % 65536) = k := Nat.min_eq_right (by omega)
  refine ⟨hmod, ?_⟩
  have hwhole := windowPieces_succ m (size / 65536 + 1) off size w s (by omega)
  simp only [hn] at hwhole
  rw [← hu] at hwhole
  rw [windowAccess_inPage u m (off + k) (size - k) _ (by omega) (by omega)]
  exact hwhole.trans (windowPieces_inPage m (size / 65536) (off + k) (size - k) _ u (by omega) (by omega))

section
variable (s : State) (m off size : Nat) (w : Option Nat)

theorem windowRequest_unmapped (h : (s.module m).wpid = 0) :
    windowRequest s m off size w = reply s (windowReq s m off size w) none 0 := if_pos h

variable (hpid : (s.module m).wpid ≠ 0) (hv : (form (windowVa s m off)).isVirt = true)
include hpid hv

theorem windowRequest_refused (f : TrapInfo) (h : stationAccess s m (s.module m).wpid (windowVa s m off).toNat size
      (windowReq s m off size w).acc (windowVa s m off) = .fault f) :
    windowRequest s m off size w = reply s (windowReq s m off size w) none f.code := by
  rw [windowRequest, windowReq_pid, if_neg hpid]
  simp [windowReq_addr, hv, h]
theorem windowRequest_read (l v : Nat) (h : stationAccess s m (s.module m).wpid (windowVa s m off).toNat size .read (windowVa s m off) = .loc l)
    (hr : s.homeRead l size = some v) :
    windowRequest s m off size none = reply s (windowReq s m off size none) (some v) 0 := by
  rw [windowRequest, windowReq_pid, if_neg hpid]
  simp [windowReq_addr, windowReq_acc, hv, h, hr]
theorem windowRequest_write (l v : Nat) (h : stationAccess s m (s.module m).wpid (windowVa s m off).toNat size .write (windowVa s m off) = .loc l) :
    windowRequest s m off size (some v) = reply (s.write l size v) (windowReq s m off size (some v)) (some 0) 0 := by
  rw [windowRequest, windowReq_pid, if_neg hpid]
  simp [windowReq_addr, windowReq_acc, hv, h]
end

section
variable {s : State} {m : Nat} (hp : (s.module m).power = .run)
include hp

/-- A window access of a module in Run that stays in its page is one request. -/
theorem hostWindowAccess_inPage (off size : Nat) (w : Option Nat) (hin : off + size ≤ bar2) (h : 0 < size)
    (hpage : (windowVa s m off).toNat % 65536 + size ≤ 65536) (hw : ∀ v, w = some v → v < 2 ^ (8 * size)) :
    exec (.hostWindowAccess m off size w) s = .next (windowRequest s m off size w) := by
  have hdata : w.map (· % 2 ^ (8 * size)) = w := by
    cases w with
    | none => rfl
    | some v => exact congrArg some (Nat.mod_eq_of_lt (hw v rfl))
  rw [hostWindowAccess_run hp off size w hin, windowAccess_inPage s m off size w h hpage, hdata]
/-- One across a page end is the access up to it and then the access from it on. -/
theorem hostWindowAccess_acrossPage (off size : Nat) (w : Option Nat) (hin : off + size ≤ bar2)
    (hk : 65536 - (windowVa s m off).toNat % 65536 < size) (hsize : size ≤ 65536) :
    let k := 65536 - (windowVa s m off).toNat % 65536
    ∃ u : State, exec (.hostWindowAccess m off k (w.map (· % 2 ^ (8 * k)))) s = .next u ∧
      exec (.hostWindowAccess m off size w) s = exec (.hostWindowAccess m (off + k) (size - k) (w.map (· / 2 ^ (8 * k)))) u := by
  intro k
  obtain ⟨hmod, hrest⟩ := windowAccess_acrossPage s m off size w hk hsize
  have hup : ((windowAccess s m off k (w.map (· % 2 ^ (8 * k)))).module m).power = .run := by rwa [State.module_congr hmod]
  refine ⟨_, hostWindowAccess_run hp off k _ (by omega), ?_⟩
  rw [hostWindowAccess_run hp off size w hin, hostWindowAccess_run hup _ _ _ (by omega), hrest]
/-- Each management request is performed at once. -/
theorem management_run (q : MgmtReq) (key : BitVec 512) (on : Bool) (img : FwImage) :
    ∀ p ∈ [(Instr.telemetry m q, MgmtKind.telemetry), (.managementReset m q, .reset), (.keyEnrolment m q key, .enrol key),
        (.testMode m q on, .test on), (.firmwareDelivery m q img, .firmware img)], exec p.1 s = .next (serve s m p.2 q) := by
  have hserve : ∀ k, (Host.Outcome.next (mgmt s m k q) : Out State) = .next (serve s m k q) := fun k => by rw [mgmt_run k hp]
  simp only [List.forall_mem_cons]
  exact ⟨hserve _, hserve _, hserve _, hserve _, hserve _, by simp⟩
end
/-- What a window write that is performed leaves of memory and answers. -/
theorem windowRequest_written (s : State) (m off size l v : Nat) (hw : Memory.wf s.mem = true) (hv : v < 2 ^ (8 * size)) :
    let r := windowReq s m off size (some v)
    let u := reply (s.write l size v) r (some 0) 0
    u.replies = s.replies ++ [(r, some 0, 0)] ∧ Memory.getN u.mem l size = v ∧
      ∀ a, a < l ∨ l + size ≤ a → Memory.get u.mem a = Memory.get s.mem a := by
  intro r u
  refine ⟨rfl, ?_, fun a ha => Memory.get_setN_out s.mem l size v a hw ha⟩
  rw [show u.mem = Memory.setN s.mem l size v from rfl, Memory.getN_setN _ _ _ _ hw, show 256 ^ size = 2 ^ (8 * size) by rw [Nat.pow_mul]]
  exact Nat.mod_eq_of_lt hv

/-! ## What a kill leaves of gangs and launches (R229, R262, R263) -/

/-- A gang that has been killed or has retired. -/
def Gang.over (x : Gang) : Prop := x.status = .killed ∨ x.status = .retired

/-- Gangs that are over stay so, and no launch's cancel changes. -/
def EndsStand (s t : State) : Prop := (∀ g, (s.gang g).over → (t.gang g).over) ∧ ∀ i, (t.launch i).cancel = (s.launch i).cancel

theorem EndsStand.of_eq {s t : State} (hg : t.gangs = s.gangs) (hl : t.launches = s.launches) : EndsStand s t := by
  exact ⟨fun g h => by simpa only [State.gang, hg] using h, fun i => by simp only [State.launch, hl]⟩
theorem EndsStand.refl (s : State) : EndsStand s s := .of_eq rfl rfl
theorem EndsStand.trans {s t u : State} (h : EndsStand s t) (h' : EndsStand t u) : EndsStand s u :=
  ⟨fun g hg => h'.1 g (h.1 g hg), fun i => (h'.2 i).trans (h.2 i)⟩
/-- What is done from a state with the same gangs and launches. -/
theorem EndsStand.after {s t u : State} (h : EndsStand t u) (hg : t.gangs = s.gangs) (hl : t.launches = s.launches) : EndsStand s u :=
  (EndsStand.of_eq hg hl).trans h
theorem EndsStand.foldl {α : Type} {f : State → α → State} (h : ∀ s a, EndsStand s (f s a)) (l : List α) (s : State) :
    EndsStand s (l.foldl f s) :=
  List.foldlRecOn l f (.refl s) (fun t ht a _ => ht.trans (h t a))

@[simp] theorem State.gang_setGang (s : State) (g : Nat) (x : Gang) : (s.setGang g x).gang g = x := kget_kset_self ..
theorem State.gang_setGang_ne (s : State) (g h : Nat) (x : Gang) (hne : h ≠ g) : (s.setGang g x).gang h = s.gang h :=
  kget_kset_ne _ _ _ _ _ hne
@[simp] theorem State.launch_setLaunch (s : State) (l : Nat) (x : Launch) : (s.setLaunch l x).launch l = x := kget_kset_self ..
theorem State.launch_setLaunch_ne (s : State) (l i : Nat) (x : Launch) (h : i ≠ l) : (s.setLaunch l x).launch i = s.launch i :=
  kget_kset_ne _ _ _ _ _ h

theorem EndsStand.modGang (s : State) (g : Nat) (f : Gang → Gang) (h : (s.gang g).over → (f (s.gang g)).over) :
    EndsStand s (s.modGang g f) := by
  refine ⟨fun i hi => ?_, fun _ => rfl⟩
  by_cases hig : i = g
  · subst hig
    rw [State.modGang, State.gang_setGang]
    exact h hi
  · rwa [State.modGang, State.gang_setGang_ne _ _ _ _ hig]
theorem EndsStand.modLaunch (s : State) (l : Nat) (f : Launch → Launch) (h : (f (s.launch l)).cancel = (s.launch l).cancel) :
    EndsStand s (s.modLaunch l f) := by
  refine ⟨fun _ hi => hi, fun i => ?_⟩
  by_cases hil : i = l
  · subst hil
    rw [State.modLaunch, State.launch_setLaunch, h]
  · rw [State.modLaunch, State.launch_setLaunch_ne _ _ _ _ hil]

theorem barArrive_endsStand (s : State) (g : Nat) (n : BitVec 6) (p : Bool) : EndsStand s (barArrive s g n p) := by
  unfold barArrive barComplete
  extract_lets t b deliver u
  have ht : EndsStand s t := .modGang _ _ _ id
  split
  · exact ht
  · have hu : EndsStand t u := .foldl (f := fun s c => s.modTables c deliver) (fun _ _ => .of_eq rfl rfl) _ t
    exact (ht.trans hu).trans (.modGang _ _ _ id)
theorem engineArrive_endsStand (s : State) (g : Nat) (a : Bool) (n : BitVec 6) (p : Bool) : EndsStand s (engineArrive s g a n p) := by
  unfold engineArrive
  split
  · exact barArrive_endsStand ..
  · exact .refl s
theorem passPrior_endsStand (s : State) (c : CtxId) (h : Nat) (p : Tag × TileState) : EndsStand s (passPrior s c h p) := by
  unfold passPrior
  split
  · exact .refl s
  · exact .of_eq rfl rfl
theorem endWriter_endsStand (j : EJob) (w : Bool) (s : State) (c : CtxId) (h : Nat) : EndsStand s (endWriter j w s c h) := by
  unfold endWriter
  extract_lets t more p
  split
  · exact (passPrior_endsStand ..).after rfl rfl
  · split
    · exact passPrior_endsStand ..
    · exact .of_eq rfl rfl
theorem endTiles_endsStand (j : EJob) (w : Bool) (s : State) : EndsStand s (endTiles j w s) := by
  unfold endTiles
  refine .foldl (fun s t => ?_) _ s
  exact endWriter_endsStand ..
theorem endCopyOut_endsStand (s : State) (c : CtxId) (h : Nat) : EndsStand s (endCopyOut s c h) := by
  unfold endCopyOut
  split
  · exact .refl s
  · split
    · exact .of_eq rfl rfl
    · exact .refl s
    · exact (passPrior_endsStand s c h ((s.tileOf c h).tag, .ready)).trans (.of_eq rfl rfl)
theorem copyRefuse_endsStand (s : State) (cl : ClusterId) (g n : Nat) (k : BitVec 8) (c : BitVec 9) (a : Bool) (b : BitVec 6) :
    EndsStand s (copyRefuse s cl g n k c a b) :=
  (engineArrive_endsStand ..).after rfl rfl
theorem copyLeave_endsStand (s : State) (cl : ClusterId) (j : EJob) (e : CopyEntry) (w : Bool) : EndsStand s (copyLeave s cl j e w) := by
  unfold copyLeave
  extract_lets t u
  have hu : EndsStand s u := .of_eq rfl rfl
  split
  · exact hu.trans (endCopyOut_endsStand ..)
  · exact hu.trans (endTiles_endsStand ..)
theorem copyFail_endsStand (s : State) (cl : ClusterId) (j : EJob) (i : Nat) (e : CopyEntry) (k : BitVec 8) (c : BitVec 9) :
    EndsStand s (copyFail s cl j i e k c) :=
  (copyLeave_endsStand ..).trans (copyRefuse_endsStand ..)
theorem mxFail_endsStand (s : State) (cl : ClusterId) (j : EJob) (d : MxCard) (k : Nat) : EndsStand s (mxFail s cl j d k) := by
  unfold mxFail
  extract_lets t u
  have ht : EndsStand s t := (endTiles_endsStand ..).after rfl rfl
  have hu : EndsStand t (closeFold u j.owner j.uid []) := .of_eq rfl rfl
  exact (ht.trans hu).trans (engineArrive_endsStand ..)
theorem freeGang_endsStand (s : State) (g : Nat) : EndsStand s (freeGang s g) :=
  (EndsStand.modGang s g (fun x => { x with held := [] }) id).trans (.of_eq rfl rfl)
theorem settle_endsStand (s : State) (g : Nat) : EndsStand s (s.settle g) := by
  unfold State.settle
  split
  · exact ((EndsStand.modGang s g _ (fun _ => .inr rfl)).trans (freeGang_endsStand ..)).trans (.modLaunch _ _ _ rfl)
  · exact .refl s
theorem kCount_endsStand (s : State) (p : KPart) : EndsStand s (kCount s p) := by
  unfold kCount
  split
  · exact .refl s
  · extract_lets l
    split <;> exact .of_eq rfl rfl
theorem kEnd_endsStand (s : State) (m k : Nat) (p : KPart) : EndsStand s (kEnd s m k p) := by
  unfold kEnd
  extract_lets x t u last
  have hu : EndsStand s u := .of_eq rfl rfl
  split
  · exact (hu.trans (kCount_endsStand ..)).trans (.of_eq rfl rfl)
  · exact hu
theorem engineIncr_endsStand {s t : State} {j : EJob} {a : DWord} (h : engineIncr s j a = .ok t) : EndsStand s t := by
  unfold engineIncr at h
  split at h
  · cases h; exact .refl s
  · split at h
    · cases h
    · cases h
    · split at h
      · cases h
      · cases h; exact .of_eq rfl rfl
theorem engineCount_endsStand {s t : State} {j : EJob} {a : DWord} (h : engineCount s j a = .ok t) : EndsStand s t := by
  unfold engineCount at h
  split at h
  · split at h
    · cases h
    · split at h <;> cases h
  · exact engineIncr_endsStand h
theorem eventIncr_endsStand (s : State) (j : EJob) (d : OsDesc) (n : Nat) : EndsStand s (eventIncr s j d n) := by
  unfold eventIncr
  split
  case _ t h => exact engineIncr_endsStand h
  case _ => exact .refl s
  case _ => exact .refl s
  case _ => exact .of_eq rfl rfl
theorem eventStatus_endsStand (s : State) (j : EJob) (d : OsDesc) : EndsStand s (eventStatus s j d) := by
  unfold eventStatus
  extract_lets a
  split
  · exact .of_eq rfl rfl
  · exact .refl s
  · split <;> exact .of_eq rfl rfl
theorem osEnd_endsStand (s : State) (cl : ClusterId) (j : EJob) (d : OsDesc) : EndsStand s (osEnd s cl j d) :=
  ((eventStatus_endsStand s j d).trans (eventIncr_endsStand _ j d 2)).trans (.of_eq rfl rfl)
theorem copyEntryComplete_endsStand {cl : ClusterId} {n : Nat} {s t : State} (h : execCopyEntryComplete cl n s = .next t) :
    EndsStand s t := by
  unfold execCopyEntryComplete at h
  injection h with h
  subst h
  split
  · split
    · split
      · exact .refl s
      · refine EndsStand.trans ?_ (settle_endsStand _ _)
        split
        · exact copyFail_endsStand ..
        · split
          case _ => exact .of_eq rfl rfl
          case _ => exact .refl s
          case _ => exact (copyLeave_endsStand ..).trans (copyRefuse_endsStand ..)
          case _ u hu =>
            exact ((copyLeave_endsStand ..).trans (engineCount_endsStand hu)).trans
              ((engineArrive_endsStand ..).after rfl rfl)
    · exact .refl s
  · exact .refl s
theorem killJob_endsStand (s : State) (cl : ClusterId) (uid : Nat) : EndsStand s (killJob s cl uid) := by
  unfold killJob
  split
  · exact .refl s
  · split
    · exact mxFail_endsStand ..
    · split
      · split
        case _ t h => exact copyEntryComplete_endsStand h
        case _ => exact .refl s
      · exact copyFail_endsStand ..
    · exact osEnd_endsStand ..
theorem killPart_endsStand (s : State) (p : KPart) : EndsStand s (killPart s p) := by
  unfold killPart
  split
  · exact (kEnd_endsStand ..).after rfl rfl
  · exact .refl s

/-- A killed gang is over, the others that are over stay so, and no launch is cancelled by it. -/
theorem killGang_over (s : State) (g : Nat) : EndsStand s (killGang s g) ∧ ((killGang s g).gang g).over := by
  unfold killGang
  extract_lets x open_ s1 s2 s3 mine s4 s5 s6
  split
  case _ h => exact ⟨.refl s, .inl h⟩
  case _ h => exact ⟨.refl s, .inr h⟩
  case _ =>
    have h1 : EndsStand s s1 := .modGang _ _ _ (fun _ => .inl rfl)
    have h1g : (s1.gang g).over := by
      rw [show s1.gang g = _ from State.gang_setGang ..]
      exact .inl rfl
    have h2 : EndsStand s1 s2 := .foldl (fun s (p : ClusterId × Nat) => killJob_endsStand s p.1 p.2) _ s1
    have h3 : EndsStand s2 s3 := .foldl killPart_endsStand _ s2
    have h4 : EndsStand s3 s4 := .foldl (f := pruneSlot) (fun _ _ => .of_eq rfl rfl) _ s3
    have h5 : EndsStand s4 s5 := freeGang_endsStand ..
    have h6 : EndsStand s5 s6 := .modGang _ _ _ id
    have h : EndsStand s1 s6 := ((h2.trans h3).trans h4).trans (h5.trans h6)
    exact ⟨(h1.trans h).trans (.modLaunch _ _ _ rfl), h.1 g h1g⟩
/-- A kill of a list of gangs leaves each of them over. -/
theorem killGangs_over (l : List Nat) (s : State) : EndsStand s (l.foldl killGang s) ∧ ∀ g ∈ l, ((l.foldl killGang s).gang g).over := by
  induction l generalizing s with
  | nil => exact ⟨.refl s, by simp⟩
  | cons a l ih =>
    obtain ⟨hstand, hover⟩ := ih (killGang s a)
    obtain ⟨ha, hao⟩ := killGang_over s a
    refine ⟨ha.trans hstand, fun g hg => ?_⟩
    rcases List.mem_cons.1 hg with rfl | hg
    · exact hstand.1 g hao
    · exact hover g hg
theorem killModule_over (s : State) (m : Nat) :
    EndsStand s (killModule s m) ∧ ∀ g ∈ s.gangs, g.2.m = m → ((killModule s m).gang g.1).over := by
  obtain ⟨hstand, hover⟩ := killGangs_over ((s.gangs.filter (fun g => g.2.m = m)).map (·.1)) s
  exact ⟨hstand, fun g hg hm => hover g.1 (List.mem_map_of_mem (List.mem_filter.2 ⟨hg, by simpa using hm⟩))⟩

/-! ## A kill of gangs without engine work leaves memory (R229, R339) -/

/-- A gang has no engine job and no part of a Kettle command that has not ended. -/
def NoWork (s : State) (g : Nat) : Prop := (∀ p ∈ s.jobs, p.2.gang ≠ g) ∧ ∀ p ∈ s.allParts, p.gang ≠ g

/-- Memory is as it was, and a gang without engine work has none. -/
def WorkStands (s t : State) : Prop := t.mem = s.mem ∧ ∀ g, NoWork s g → NoWork t g

theorem WorkStands.of_eq {s t : State} (hm : t.mem = s.mem) (hc : t.clusters = s.clusters) (hs : t.sent = s.sent) (hk : t.kettles = s.kettles) :
    WorkStands s t := by
  exact ⟨hm, fun g h => by simpa only [NoWork, State.jobs, State.allParts, hc, hs, hk] using h⟩
theorem WorkStands.refl (s : State) : WorkStands s s := .of_eq rfl rfl rfl rfl
theorem WorkStands.trans {s t u : State} (h : WorkStands s t) (h' : WorkStands t u) : WorkStands s u :=
  ⟨h'.1.trans h.1, fun g hg => h'.2 g (h.2 g hg)⟩
theorem WorkStands.foldl {α : Type} {f : State → α → State} (h : ∀ s a, WorkStands s (f s a)) (l : List α) (s : State) :
    WorkStands s (l.foldl f s) :=
  List.foldlRecOn l f (.refl s) (fun t ht a _ => ht.trans (h t a))

theorem State.mem_jobs {s : State} {p : ClusterId × EJob} : p ∈ s.jobs ↔ ∃ c ∈ s.clusters, c.1 = p.1 ∧ p.2 ∈ c.2.jobs := by
  simp only [State.jobs, List.mem_flatten, List.mem_map, exists_exists_and_eq_and]
  constructor
  · rintro ⟨c, hc, j, hj, rfl⟩
    exact ⟨c, hc, rfl, hj⟩
  · rintro ⟨c, hc, hp, hj⟩
    exact ⟨c, hc, p.2, hj, Prod.ext hp rfl⟩
theorem mem_kset {κ α : Type} [DecidableEq κ] {l : List (κ × α)} {k : κ} {v : α} {p : κ × α} (h : p ∈ kset l k v) :
    p = (k, v) ∨ p ∈ l := by
  induction l with
  | nil => simpa [kset] using h
  | cons q r ih =>
    rw [kset] at h
    split at h
    · exact (List.mem_cons.1 h).imp_right (List.mem_cons_of_mem _)
    · rcases List.mem_cons.1 h with h | h
      · exact .inr (h ▸ List.mem_cons_self)
      · exact (ih h).imp_right (List.mem_cons_of_mem _)
theorem kget_mem {κ α : Type} [DecidableEq κ] (l : List (κ × α)) (k : κ) (d : α) : kget l k d = d ∨ (k, kget l k d) ∈ l := by
  induction l with
  | nil => exact .inl rfl
  | cons q r ih =>
    rw [kget]
    split
    · rename_i h
      exact .inr (h ▸ List.mem_cons_self)
    · exact ih.imp_right (List.mem_cons_of_mem _)
/-- Clusters each of whose jobs has the gang of a job that was there before leave a gang without engine work so. -/
theorem WorkStands.of_jobs {s t : State} (hm : t.mem = s.mem) (hs : t.sent = s.sent) (hk : t.kettles = s.kettles)
    (hj : ∀ c ∈ t.clusters, ∀ j ∈ c.2.jobs, ∃ d ∈ s.clusters, ∃ i ∈ d.2.jobs, i.gang = j.gang) : WorkStands s t := by
  refine ⟨hm, fun g ⟨hjobs, hparts⟩ => ⟨fun p hp => ?_, ?_⟩⟩
  · obtain ⟨c, hc, -, hpc⟩ := State.mem_jobs.1 hp
    obtain ⟨d, hd, i, hi, hg⟩ := hj c hc p.2 hpc
    exact hg ▸ hjobs (d.1, i) (State.mem_jobs.2 ⟨d, hd, rfl, hi⟩)
  · simpa only [State.allParts, hs, hk] using hparts

theorem dropDrafts_workStands (s : State) (cl : ClusterId) (uid : Nat) : WorkStands s (dropDrafts s cl uid) := by
  refine .of_jobs rfl rfl rfl (fun c hc j hj => ?_)
  rcases mem_kset hc with rfl | hc
  · rcases kget_mem s.clusters cl Cluster.reset with h | h
    · have hj : j ∈ (kget s.clusters cl Cluster.reset).jobs := hj
      rw [h] at hj
      exact absurd hj List.not_mem_nil
    · exact ⟨_, h, j, hj, rfl⟩
  · exact ⟨c, hc, j, hj, rfl⟩
theorem disown_workStands (s : State) (c : CtxId) : WorkStands s (s.disown c) := by
  refine .of_jobs rfl rfl rfl (fun d hd j hj => ?_)
  obtain ⟨e, he, rfl⟩ := List.mem_map.1 hd
  obtain ⟨i, hi, rfl⟩ := List.mem_map.1 hj
  exact ⟨e, he, i, hi, rfl⟩
theorem pruneSlot_workStands (s : State) (c : CtxId) : WorkStands s (pruneSlot s c) :=
  ((disown_workStands s c).trans (dropDrafts_workStands ..)).trans (.of_eq rfl rfl rfl rfl)
theorem freeGang_workStands (s : State) (g : Nat) : WorkStands s (freeGang s g) := by
  refine .of_jobs rfl rfl rfl (fun c hc j hj => ?_)
  obtain ⟨e, he, rfl⟩ := List.mem_map.1 hc
  exact ⟨e, he, j, hj, rfl⟩
/-- A kill of a gang without engine work. -/
theorem killGang_workStands (s : State) (g : Nat) (h : NoWork s g) : WorkStands s (killGang s g) := by
  unfold killGang
  extract_lets x open_ s1 s2 s3 mine s4 s5 s6
  split
  · exact .refl s
  · exact .refl s
  · have h2 : s2 = s1 := by
      have : s1.jobs.filter (fun p => p.2.gang = g) = [] := List.filter_eq_nil_iff.2 (fun p hp => by simpa using h.1 p hp)
      simp only [s2, this, List.map_nil, List.foldl_nil]
    have h3 : s3 = s2 := by
      have : s2.allParts.filter (fun p => p.gang = g) = [] := by
        rw [h2]
        exact List.filter_eq_nil_iff.2 (fun p hp => by simpa using h.2 p hp)
      simp only [s3, this, List.foldl_nil]
    have h13 : WorkStands s s3 := by rw [h3, h2]; exact .of_eq rfl rfl rfl rfl
    have h4 : WorkStands s3 s4 := .foldl pruneSlot_workStands _ s3
    have h5 : WorkStands s4 s5 := freeGang_workStands ..
    exact ((h13.trans h4).trans h5).trans (.of_eq rfl rfl rfl rfl)
theorem killGangs_workStands (l : List Nat) (s : State) (h : ∀ g ∈ l, NoWork s g) : WorkStands s (l.foldl killGang s) := by
  induction l generalizing s with
  | nil => exact .refl s
  | cons a l ih =>
    have ha := killGang_workStands s a (h a List.mem_cons_self)
    exact ha.trans (ih _ (fun g hg => ha.2 g (h g (List.mem_cons_of_mem _ hg))))
theorem killModule_mem (s : State) (m : Nat) (h : ∀ g ∈ s.gangs, g.2.m = m → NoWork s g.1) : (killModule s m).mem = s.mem := by
  refine (killGangs_workStands _ s (fun i hi => ?_)).1
  obtain ⟨g, hg, rfl⟩ := List.mem_map.1 hi
  obtain ⟨hg, hm⟩ := List.mem_filter.1 hg
  exact h g hg (by simpa using hm)

/-! ## The clearing of a module (R337) -/

/-- A map over a keyed list reads as the map of what it read. -/
theorem kget_map {κ α : Type} [DecidableEq κ] (l : List (κ × α)) (f : κ × α → κ × α) (g : α → α) (k : κ) (d : α) (hd : g d = d)
    (hf : ∀ p, f p = (p.1, if p.1 = k then g p.2 else (f p).2)) : kget (l.map f) k d = g (kget l k d) := by
  induction l with
  | nil => exact hd.symm
  | cons p r ih =>
    rw [List.map_cons, hf p, kget, kget]
    by_cases h : p.1 = k
    · simp [h]
    · simp [h, ih]

theorem Memory.get_of_not_listed (m : List Host.Cell) (a : Nat) (h : ∀ c ∈ m, c.1 ≠ a) : Memory.get m a = Memory.unlisted := by
  induction m with
  | nil => rfl
  | cons c r ih =>
    rw [Memory.get, if_neg (h c List.mem_cons_self)]
    split
    · rfl
    · exact ih (fun d hd => h d (List.mem_cons_of_mem _ hd))
/-- A byte of memory in the canonical form without some locations. -/
theorem Memory.get_filter (m : List Host.Cell) (q : Nat → Bool) (a : Nat) (h : Memory.wf m = true) (hq : q a = true) :
    Memory.get (m.filter (fun c => q c.1)) a = Memory.get m a := by
  induction m with
  | nil => rfl
  | cons c r ih =>
    obtain ⟨-, hlt, hr⟩ := (Memory.wf_cons c r).1 h
    by_cases hc : q c.1 = true
    · rw [List.filter_cons_of_pos (by exact hc), Memory.get, Memory.get, ih hr]
    · have hne : c.1 ≠ a := fun e => hc (e ▸ hq)
      rw [List.filter_cons_of_neg (by exact hc), ih hr, Memory.get, if_neg hne]
      split
      · exact Memory.get_below r a (fun d hd => Nat.lt_trans ‹_› (hlt d hd))
      · rfl

theorem clearModule_hbm (s : State) (m a : Nat) (hw : Memory.wf s.mem = true) (h : isHbm a = true) :
    Memory.get (clearModule s m).mem a = Memory.get s.mem a :=
  Memory.get_filter s.mem (fun l => !inModule m l) a hw (by simp [inModule, h])
theorem clearModule_localStore (s : State) (m a : Nat) (h : inModule m a = true) : Memory.get (clearModule s m).mem a = 0 := by
  refine Memory.get_of_not_listed _ a (fun c hc e => ?_)
  have := (List.mem_filter.1 hc).2
  rw [e, h] at this
  exact absurd this (by simp)
/-- What a slot that a module's clearing reaches is (R337). -/
def Slot.cleared (sl : Slot) : Slot := { sl.clear with cx := Ctxt.reset, lastPid := none }
def Core.cleared (x : Core) : Core := { x with trapq := [], slots := x.slots.mapIdx (fun i sl => if i = 4 then sl else sl.cleared) }
theorem clearModule_core (s : State) (m : Nat) (k : CoreId) (h : k.cl.m = m) : (clearModule s m).core k = (s.core k).cleared := by
  refine kget_map s.cores _ Core.cleared k Core.reset rfl (fun p => ?_)
  by_cases hp : p.1 = k
  · simp only [hp, h, if_true]
    rfl
  · simp only [hp, if_false]
    split <;> rfl
theorem clearModule_slot (s : State) (m : Nat) (c : CtxId) (h : c.core.cl.m = m) (hc : c.who ≠ 4) :
    (clearModule s m).slot c = (s.slot c).cleared := by
  have hw : c.who.val ≠ 4 := fun e => hc (Fin.ext e)
  simp [State.slot, clearModule_core s m c.core h, Core.cleared, hw]

/-! ## A Function Level Reset (R339) -/

/-- A launch after the cancel of those that began on a module. -/
def Launch.cancelledFrom (x : Launch) (m : Nat) : Launch :=
  if x.origin = m ∧ x.fin = false ∧ x.cancel = none then { x with cancel := some true } else x
/-- The launches that began on a module cancelled, as by LCANCEL with KILL. -/
def cancelFrom (s : State) (m : Nat) : State :=
  { s with launches := s.launches.map (fun l =>
      if l.2.origin = m && !l.2.fin && l.2.cancel.isNone then (l.1, { l.2 with cancel := some true }) else l) }

theorem functionLevelReset_eq (s : State) (m : Nat) :
    exec (.functionLevelReset m) s = .next (clearModule (killModule (cancelFrom s m) m) m) := rfl
theorem cancelFrom_launch (s : State) (m i : Nat) : (cancelFrom s m).launch i = (s.launch i).cancelledFrom m := by
  refine kget_map s.launches _ (Launch.cancelledFrom · m) i Launch.reset (by simp [Launch.cancelledFrom, Launch.reset]) (fun p => ?_)
  unfold Launch.cancelledFrom
  by_cases h : p.2.origin = m ∧ p.2.fin = false ∧ p.2.cancel = none
  · simp [h]
  · have : (decide (p.2.origin = m) && !p.2.fin && p.2.cancel.isNone) = false := by simpa [and_assoc, Option.isSome_iff_ne_none] using h
    simp [h, this]
theorem Launch.cancelledFrom_cancel (x : Launch) (m : Nat) :
    (x.cancelledFrom m).cancel = if x.origin = m ∧ x.fin = false ∧ x.cancel = none then some true else x.cancel := by
  unfold Launch.cancelledFrom
  split <;> rfl

/-- What a Function Level Reset ends, cancels, keeps and clears. -/
theorem functionLevelReset_spec (s : State) (m : Nat) (hw : Memory.wf s.mem = true) :
    ∃ u : State, exec (.functionLevelReset m) s = .next u ∧
      (∀ g ∈ s.gangs, g.2.m = m → (u.gang g.1).over) ∧ (∀ i, (u.launch i).cancel =
        if (s.launch i).origin = m ∧ (s.launch i).fin = false ∧ (s.launch i).cancel = none then some true else (s.launch i).cancel) ∧
      ((∀ g ∈ s.gangs, g.2.m = m → NoWork s g.1) → ∀ a, isHbm a = true → Memory.get u.mem a = Memory.get s.mem a) ∧
      (∀ c : CtxId, c.core.cl.m = m → c.who ≠ 4 → (u.slot c).phase = .idle) ∧ ∀ a, inModule m a = true → Memory.get u.mem a = 0 := by
  obtain ⟨hstand, hover⟩ := killModule_over (cancelFrom s m) m
  refine ⟨_, functionLevelReset_eq s m, hover,
    fun i => (hstand.2 i).trans (by rw [cancelFrom_launch, Launch.cancelledFrom_cancel]), fun hwork a ha => ?_,
    fun c hc hwho => by rw [clearModule_slot _ m c hc hwho]; rfl, clearModule_localStore _ m⟩
  have hmem : (killModule (cancelFrom s m) m).mem = s.mem := killModule_mem (cancelFrom s m) m hwork
  rw [clearModule_hbm _ m a (by rwa [hmem]) ha, hmem]

/-- Settles O57: the power states, the host window, doorbells and the Function Level Reset. -/
theorem powerAndHostPort : Obligations.PowerAndHostPort := by
  unfold Obligations.PowerAndHostPort
  intro s m off size n l v w hw x tol held r window inPage
  refine ⟨fun hi hp => ?_, powerStateEntry_busy,
    fun hp => ⟨wakeEvent_held n hp, hostDoorbell_held n hp, fun hin => (hostWindowAccess_held off size w hin hp).trans ?_⟩,
    powerExitComplete_waking, powerExitComplete_notWaking, fun hp => ?_, functionLevelReset_spec s m hw⟩
  · rw [powerStateEntry_idle hi hp, lowestPower_eq]
  · rfl
  · refine ⟨hostDoorbell_run hp n, hostWindowAccess_run hp off size w,
      fun q hf hm => ⟨remoteAccessArrival_run hp q hf hm, subByteMessage_run hp q hf hm⟩, systemWindowWrite_run hp, management_run hp,
      hostDoorbell_run hp n, hostWindowAccess_outside off size w, fun hin ⟨hsize, hpage, hdata⟩ hpid => ?_,
      fun hin ⟨hsize, hpage, hdata⟩ hpid hv => ?_, fun hk hsize hin => hostWindowAccess_acrossPage hp off size w hin hk hsize⟩
    · exact (hostWindowAccess_inPage hp off size w hin hsize hpage hdata).trans (congrArg _ (windowRequest_unmapped s m off size w hpid))
    · have one := hostWindowAccess_inPage hp off size w hin hsize hpage hdata
      refine ⟨fun f hf => one.trans (congrArg _ (windowRequest_refused s m off size w hpid hv f hf)), fun hl => ⟨?_, ?_⟩⟩
      · rintro rfl hr
        exact one.trans (congrArg _ (windowRequest_read s m off size hpid hv l v hl hr))
      · rintro rfl
        exact ⟨_, one.trans (congrArg _ (windowRequest_write s m off size hpid hv l v hl)),
          windowRequest_written s m off size l v hw (hdata v rfl)⟩

end Sys2Proof.Machine
end

section
/-! SUPPORT. Commands to the Kettles (R21, R201, R203, R221, R223, R224): how the parts of a command are sent and how one arrives, what KCMD enters
in the command table, and what KFENCE and KPOLL find there. -/

namespace Sys2Proof.Machine

/-! ## The parts of a command, sent (R203, R221) -/

/-- A part whose message has not been sent. -/
def KPart.unsent (p : KPart) : KPart := { p with out := false, seq := 0, low := 0 }

/-- A part stands as R203 has it when it is sent in state `s`: its message goes out at once where at most 63 others of its source to
its Kettle are not acknowledged and none waits before it, with the next sequence of its source's window. -/
def SentRight (s : State) (q : KPart) : Prop :=
  let o := Owner.kettle q.m q.idx
  (q.out = true ↔ (s.unacked o q.owner q.gen).length < 64 ∧ ∀ r ∈ s.sent, r.m = q.m → r.idx = q.idx → r.owner = q.owner → r.out = true) ∧
  (q.out = true → q.seq = (s.window o q.owner q.gen).next)

/-- The message of a part goes: at most 63 others of its source to its Kettle are not acknowledged, and none waits before it (R203). -/
def MayGo (s : State) (p : KPart) : Prop :=
  (s.unacked (.kettle p.m p.idx) p.owner p.gen).length < 64 ∧
  ∀ r ∈ s.sent.takeWhile (fun x => x.uid ≠ p.uid), r.m = p.m → r.idx = p.idx → r.owner = p.owner → r.out = true

/-- A part whose message is out, with its sequence and the low mark. -/
def KPart.stamp (p : KPart) (seq low : BitVec 32) : KPart := { p with out := true, seq := seq, low := low }
/-- A part as it is sent in a state, and the windows after that. -/
def KPart.stamped (p : KPart) (s : State) : KPart :=
  let next := (s.window (.kettle p.m p.idx) p.owner p.gen).next
  p.stamp next (lowMark next (s.unacked (.kettle p.m p.idx) p.owner p.gen))
def State.advanced (s : State) (p : KPart) : List ((Owner × CtxId × DWord) × Window) :=
  let w := s.window (.kettle p.m p.idx) p.owner p.gen
  kset s.windows (.kettle p.m p.idx, p.owner, p.gen) { w with next := w.next + 1 }

theorem mayGo_iff (s : State) (p : KPart) :
    MayGo s p ↔ (decide (64 ≤ (s.unacked (.kettle p.m p.idx) p.owner p.gen).length) ||
      !(s.sent.takeWhile (fun x => x.uid ≠ p.uid)).all
        (fun x => x.out || decide (x.m ≠ p.m) || decide (x.idx ≠ p.idx) || decide (x.owner ≠ p.owner))) = false := by
  have hone : ∀ r : KPart, (r.m = p.m → r.idx = p.idx → r.owner = p.owner → r.out = true) ↔
      (r.out || decide (r.m ≠ p.m) || decide (r.idx ≠ p.idx) || decide (r.owner ≠ p.owner)) = true := by
    intro r
    simp only [Bool.or_eq_true, decide_eq_true_eq]
    tauto
  simp only [MayGo, hone, Bool.or_eq_false_iff, decide_eq_false_iff_not, Nat.not_le, Bool.not_eq_false', List.all_eq_true]
theorem kStamp_waits (s : State) (p : KPart) (h : ¬ MayGo s p) : kStamp s p = s := by
  rw [mayGo_iff, Bool.not_eq_false] at h
  exact if_pos h
theorem kStamp_goes (s : State) (p : KPart) (h : MayGo s p) :
    kStamp s p = { s with
      sent := s.sent.map (fun x => if x.uid = p.uid then x.stamp (p.stamped s).seq (p.stamped s).low else x), windows := s.advanced p } := by
  rw [mayGo_iff] at h
  exact if_neg (by rw [h]; exact Bool.false_ne_true)

/-- Sending changes the parts on their way and the windows only. -/
theorem kStamp_frame (s : State) (p : KPart) : kStamp s p = { s with sent := (kStamp s p).sent, windows := (kStamp s p).windows } := by
  by_cases h : MayGo s p
  · rw [kStamp_goes s p h]
  · rw [kStamp_waits s p h]
theorem kSend_frame (ps : List KPart) (s : State) : kSend s ps = { s with sent := (kSend s ps).sent, windows := (kSend s ps).windows } := by
  induction ps generalizing s with
  | nil => rfl
  | cons p ps ih =>
    have h1 : kSend s (p :: ps) = kSend (kSendOne s p) ps := rfl
    rw [h1, ih, kSendOne, kStamp_frame]

/-- What is not acknowledged at an owner does not change with a part that is not out, or that goes to another. -/
theorem unacked_append (s : State) (w : List ((Owner × CtxId × DWord) × Window)) (o : Owner) (c : CtxId) (g : DWord) (q : KPart)
    (h : q.out = true → o ≠ .kettle q.m q.idx) :
    ({ s with sent := s.sent ++ [q], windows := w } : State).unacked o c g = s.unacked o c g := by
  simp only [State.unacked, List.filter_append, List.map_append]
  have hq : [q].filter (fun p => p.out && decide (o = .kettle p.m p.idx ∧ p.owner = c ∧ p.gen = g)) = [] := by
    simpa using fun ho e => absurd e (h ho)
  rw [hq, List.map_nil, List.append_nil]

/-- A part put behind every part sent before. -/
def State.send (s : State) (p : KPart) : State := { s with sent := s.sent ++ [p] }

/-- A part is sent behind every part sent before, and of the windows only its own source's changes. -/
theorem kSendOne_spec (s : State) (p : KPart) (hu : ∀ x ∈ s.sent, x.uid ≠ p.uid) (hp : p.unsent = p) :
    ∃ q w, kSendOne s p = { s with sent := s.sent ++ [q], windows := w } ∧ q.unsent = p ∧ SentRight s q ∧
      ∀ o c g, o ≠ .kettle p.m p.idx → kget w (o, c, g) ⟨0, false, []⟩ = s.window o c g := by
  have hout : p.out = false := by rw [← hp]; rfl
  have hun : (s.send p).unacked (.kettle p.m p.idx) p.owner p.gen = s.unacked (.kettle p.m p.idx) p.owner p.gen :=
    unacked_append s s.windows _ _ _ p (by simp [hout])
  have hbefore : (s.send p).sent.takeWhile (fun x => x.uid ≠ p.uid) = s.sent := by
    rw [State.send, List.takeWhile_append_of_pos (by simpa using hu)]
    simp
  have hgo : MayGo (s.send p) p ↔
      (s.unacked (.kettle p.m p.idx) p.owner p.gen).length < 64 ∧
        ∀ r ∈ s.sent, r.m = p.m → r.idx = p.idx → r.owner = p.owner → r.out = true := by
    rw [MayGo, hun, hbefore]
  by_cases h : MayGo (s.send p) p
  · refine ⟨p.stamped (s.send p), (s.send p).advanced p, ?_, hp, ⟨⟨fun _ => hgo.1 h, fun _ => rfl⟩, fun _ => rfl⟩,
      fun o c g ho => kget_kset_ne _ _ _ _ _ ?_⟩
    · have hmap : (s.send p).sent.map (fun x => if x.uid = p.uid then x.stamp (p.stamped (s.send p)).seq (p.stamped (s.send p)).low else x) =
          s.sent ++ [p.stamped (s.send p)] := by
        rw [State.send, List.map_append, (List.map_congr_left (fun x hx => if_neg (hu x hx))).trans (List.map_id' _), List.map_singleton,
          if_pos rfl]
        rfl
      rw [kSendOne, ← State.send, kStamp_goes _ _ h, hmap]
      rfl
    · exact fun e => ho (congrArg Prod.fst e)
  · exact ⟨p, s.windows, kStamp_waits _ _ h, hp, ⟨by rw [hout, ← hgo]; simpa using h, by simp [hout]⟩, fun _ _ _ _ => rfl⟩

/-- Parts of several Kettles are sent one after another, each by what its own Kettle has not acknowledged. -/
theorem kSend_spec (ps : List KPart) (s : State) (hu : ∀ p ∈ ps, ∀ x ∈ s.sent, x.uid ≠ p.uid)
    (hps : ps.Pairwise (fun p q => p.uid ≠ q.uid ∧ p.idx ≠ q.idx)) (hp : ∀ p ∈ ps, p.unsent = p) :
    ∃ l, (kSend s ps).sent = s.sent ++ l ∧ l.map KPart.unsent = ps ∧ ∀ q ∈ l, SentRight s q := by
  induction ps generalizing s with
  | nil => exact ⟨[], (List.append_nil _).symm, rfl, by simp⟩
  | cons p ps ih =>
    obtain ⟨hfirst, hrest⟩ := List.pairwise_cons.1 hps
    obtain ⟨q, w, hs, hq, hright, hwin⟩ := kSendOne_spec s p (hu p List.mem_cons_self) (hp p List.mem_cons_self)
    have hquid : q.uid = p.uid := by rw [← hq]; rfl
    have hqidx : q.idx = p.idx := by rw [← hq]; rfl
    have hnew : ∀ r ∈ ps, ∀ x ∈ (kSendOne s p).sent, x.uid ≠ r.uid := by
      intro r hr x hx
      rw [hs] at hx
      rcases List.mem_append.1 hx with hx | hx
      · exact hu r (List.mem_cons_of_mem _ hr) x hx
      · rw [List.mem_singleton.1 hx, hquid]
        exact (hfirst r hr).1
    obtain ⟨l, hl, hmap, hall⟩ := ih (kSendOne s p) hnew hrest (fun r hr => hp r (List.mem_cons_of_mem _ hr))
    have hsend : (kSend s (p :: ps)).sent = (kSend (kSendOne s p) ps).sent := rfl
    refine ⟨q :: l, by rw [hsend, hl, hs]; simp, by rw [List.map_cons, hq, hmap], fun r hr => ?_⟩
    rcases List.mem_cons.1 hr with rfl | hr
    · exact hright
    · have hne : r.idx ≠ p.idx := by
        have : r.unsent ∈ ps := hmap ▸ List.mem_map_of_mem hr
        exact fun e => (hfirst _ this).2 e.symm
      have hown : Owner.kettle r.m r.idx ≠ .kettle p.m p.idx := fun e => hne (by injection e)
      have hr' := hall r hr
      have hun := unacked_append s w (.kettle r.m r.idx) r.owner r.gen q (fun _ e => hne (by injection e with _ e; rw [e, hqidx]))
      rw [hs, SentRight, hun] at hr'
      obtain ⟨hout, hseq⟩ := hr'
      refine ⟨hout.trans (and_congr_right fun _ => ?_), fun ho => (hseq ho).trans (congrArg Window.next (hwin _ _ _ hown))⟩
      simp only [List.mem_append, List.mem_singleton, or_imp, forall_and, forall_eq]
      exact and_iff_left fun _ e => absurd e.symm (hqidx ▸ hne)

/-- The parts of a command: one source, numbered after its own number by their Kettles, in the order of the Kettles. -/
theorem kParts_spec (s : State) (c : CtxId) (k : KCard) :
    (∀ p ∈ kParts s c k, p.unsent = p ∧ p.owner = c ∧ p.gen = (s.slot c).slotgen ∧ p.uid = s.fresh + 1 + p.idx) ∧
      (kParts s c k).Pairwise (fun p q => p.idx < q.idx) := by
  unfold kParts
  extract_lets n es
  constructor
  · intro p hp
    obtain ⟨t, -, ht⟩ := List.mem_filterMap.1 hp
    simp only [Option.ite_none_left_eq_some, Option.some.injEq] at ht
    obtain ⟨-, rfl⟩ := ht
    exact ⟨rfl, rfl, rfl, rfl⟩
  · refine List.pairwise_filterMap.2 (List.pairwise_lt_range.imp fun {a b} hab p hp q hq => ?_)
    simp only [Option.ite_none_left_eq_some, Option.some.injEq] at hp hq
    obtain ⟨-, rfl⟩ := hp
    obtain ⟨-, rfl⟩ := hq
    exact hab

/-! ## The arrival of a part (R21, R203, R378) -/

section
variable {t : State} {n : Nat} {p : KPart} (hm : t.msg n = none) (hp : t.sent.find? (fun x => x.uid = n) = some p)
include hm hp

theorem remoteAddMessage_part : exec (.remoteAddMessage n) t = .next (kArrive t p) := by
  show execRemoteAddMessage n t = _
  simp only [execRemoteAddMessage, hm, hp]
omit hm in
theorem uid_of_sent : p.uid = n := by simpa using List.find?_some hp

/-- A part whose message waits for 64 others stays as it is. -/
theorem remoteAddMessage_part_waits (hout : p.out = false) (h : 64 ≤ (t.unacked (.kettle p.m p.idx) p.owner p.gen).length) :
    exec (.remoteAddMessage n) t = .next t := by
  have hstay : kStamp t p = t := kStamp_waits t p (fun hgo => absurd hgo.1 (Nat.not_lt.2 h))
  rw [remoteAddMessage_part hm hp, kArrive, if_pos (by simp [hout]), hstay]

variable (hout : p.out = true)
include hout

/-- A part stays behind one sent before it to its Kettle. -/
theorem remoteAddMessage_part_behind
    (hfirst : (t.sent.takeWhile (fun x => x.uid ≠ n)).all (fun x => !(x.out && decide (x.m = p.m) && decide (x.idx = p.idx))) = false) :
    exec (.remoteAddMessage n) t = .next t := by
  rw [← uid_of_sent hp, List.all_eq_not_any_not] at hfirst
  rw [remoteAddMessage_part hm hp, kArrive, if_neg (by simp [hout]), if_pos (by simpa using hfirst)]

variable (hfirst : (t.sent.takeWhile (fun x => x.uid ≠ n)).all (fun x => !(x.out && decide (x.m = p.m) && decide (x.idx = p.idx))) = true)
  (hawake : t.asleep p.owner.core.cl.m p.m = false)
include hfirst hawake

omit hm in
theorem kArrive_first : kArrive t p =
    let w := t.window (.kettle p.m p.idx) p.owner p.gen
    let k := t.kettle p.m p.idx
    let gone := { t with sent := t.sent.filter (fun x => x.uid ≠ n) }
    if w.holds p.seq p.low then { gone with windows := kset t.windows (.kettle p.m p.idx, p.owner, p.gen) (w.trim p.low) }
    else if t.noWindow (.kettle p.m p.idx) p.owner p.gen || decide (256 ≤ k.parts.length) then t
    else { gone.setKettle p.m p.idx { k with parts := k.parts ++ [p] } with
           windows := kset t.windows (.kettle p.m p.idx, p.owner, p.gen) (w.apply p.seq p.low) } := by
  rw [← uid_of_sent hp] at hfirst ⊢
  rw [List.all_eq_not_any_not] at hfirst
  rw [kArrive, if_neg (by simp [hout]), if_neg (by simpa using hfirst), if_neg (by simp [hawake])]

/-- A part that the Kettle has taken already does not enter its queue again. -/
theorem remoteAddMessage_part_again (h : (t.window (.kettle p.m p.idx) p.owner p.gen).holds p.seq p.low = true) :
    ∃ u : State, exec (.remoteAddMessage n) t = .next u ∧ u = { t with sent := t.sent.filter (fun y => y.uid ≠ n), windows := u.windows } := by
  refine ⟨_, (remoteAddMessage_part hm hp).trans (congrArg _ ((kArrive_first hp hout hfirst hawake).trans (if_pos h))), rfl⟩

variable (h : (t.window (.kettle p.m p.idx) p.owner p.gen).holds p.seq p.low = false)
include h

/-- A new part waits while its Kettle has no room for its source's window or in its queue. -/
theorem remoteAddMessage_part_noRoom (hr : t.noWindow (.kettle p.m p.idx) p.owner p.gen = true ∨ 256 ≤ (t.kettle p.m p.idx).parts.length) :
    exec (.remoteAddMessage n) t = .next t := by
  rw [remoteAddMessage_part hm hp, kArrive_first hp hout hfirst hawake]
  exact congrArg _ ((if_neg (by simp [h])).trans (if_pos (by simpa using hr)))
/-- A new part enters the end of its Kettle's queue. -/
theorem remoteAddMessage_part_enters (hw : t.noWindow (.kettle p.m p.idx) p.owner p.gen = false) (hr : (t.kettle p.m p.idx).parts.length < 256) :
    ∃ u : State, exec (.remoteAddMessage n) t = .next u ∧
      u.kettle p.m p.idx = { t.kettle p.m p.idx with parts := (t.kettle p.m p.idx).parts ++ [p] } ∧
      u.sent = t.sent.filter (fun y => y.uid ≠ n) ∧ u.mem = t.mem ∧ ∀ m k, (m, k) ≠ (p.m, p.idx) → u.kettle m k = t.kettle m k := by
  refine ⟨_, (remoteAddMessage_part hm hp).trans (congrArg _ ((kArrive_first hp hout hfirst hawake).trans
    ((if_neg (by simp [h])).trans (if_neg (by simpa [hw] using hr))))), ?_, rfl, rfl, fun m k hk => kget_kset_ne _ _ _ _ _ hk⟩
  exact kget_kset_self ..
end

/-! ## KFENCE and KPOLL (R201, R224) -/

theorem JobState.ended_iff (x : JobState) : x.ended = decide (x = .done ∨ x = .fault) := by cases x <;> rfl

theorem kfence_takes {s : Bool} {st t : State} (h : Takes { s := s } st t) :
    exec (.kfence s) st =
      .next (if t.cx.kcmds.all (fun e => decide (e.state = .done ∨ e.state = .fault)) then t.finish else t.park .ketAll) := by
  show execKfence s st = _
  rw [execKfence, issue_takes h]
  simp only [JobState.ended_iff]

/-- The status word of an entry: every field in its place (R224). -/
theorem kcStatus_toNat (e : KcEntry) :
    (kcStatus (some e)).toNat = e.poisoned % 2 ^ 32 * 2 ^ 32 + e.kind.toNat * 2 ^ 24 + (if e.ctrLost then 2 ^ 11 else 0) + e.state.code * 2 ^ 8 +
      e.flags.toNat := by
  have hk := e.kind.isLt
  have hf := e.flags.isLt
  have hc : e.state.code ≤ 3 := by cases e.state <;> simp [JobState.code]
  have hl : (if e.ctrLost then 2 ^ 11 else 0) ≤ 2 ^ 11 := by split <;> omega
  rw [kcStatus, BitVec.toNat_ofNat]
  exact Nat.mod_eq_of_lt (by omega)

section
variable {s : Bool} {rd rs1 : BitVec 5} {st t : State} (h : Takes { s := s, long := true, a := [rs1] } st t)
include h

theorem kpoll_outside (hid : t.cx.ra rs1 = 0 ∨ t.cx.cid.toNat ≤ (t.cx.ra rs1).toNat) :
    exec (.kpoll s rd rs1) st = .next (t.raise (trapInfo 0x0A3)) := by
  show execKpoll s rd rs1 st = _
  rw [execKpoll, issue_takes h]
  exact congrArg _ (if_pos (by simpa [BitVec.ult] using hid))

variable (h0 : t.cx.ra rs1 ≠ 0) (hid : (t.cx.ra rs1).toNat < t.cx.cid.toNat)
include h0 hid

theorem kpoll_inside (e : Option KcEntry) (he : t.cx.kcmds.find? (fun e => e.id = t.cx.ra rs1) = e) :
    exec (.kpoll s rd rs1) st = .next ((t.setCx (Waiting { t.cx with
      kcmds := if e.any (fun e => e.state.ended) then t.cx.kcmds.filter (fun x => x.id ≠ t.cx.ra rs1) else t.cx.kcmds }
        (.areg rd) (.scalar (kcStatus e)) 0 false)).finish) := by
  subst he
  show execKpoll s rd rs1 st = _
  rw [execKpoll, issue_takes h]
  refine congrArg _ ((if_neg (by simpa [BitVec.ult] using ⟨h0, hid⟩)).trans ?_)
  cases t.cx.kcmds.find? (fun e => e.id = t.cx.ra rs1) with
  | none => rfl
  | some e =>
    by_cases hs : e.state.ended = true
    · simp only [hs, if_true, Option.any_some]; rfl
    · simp only [hs, Option.any_some]; rfl
end

/-! ## KCMD (R221, R223, R224, R312) -/

/-- A slot's change that leaves its registers leaves those of the context that issues. -/
theorem modSlot_cx (s : State) (c : CtxId) (f : Slot → Slot) (h : ∀ sl, (f sl).cx = sl.cx) : (s.modSlot c f).cx = s.cx := by
  have hme : (s.modSlot c f).me = s.me := State.me_setSlot ..
  simp only [State.cx, State.self, hme]
  by_cases hc : s.me = c
  · rw [hc, State.modSlot, State.slot_setSlot, h]
  · rw [State.modSlot, State.slot_setSlot_ne _ _ _ _ hc]
/-- A fold into a digest leaves registers, memory and the parts of Kettle commands. -/
theorem foldDigest_cx (s : State) (c : CtxId) (es : List StoreElem) : (s.foldDigest c es).cx = s.cx := by
  unfold State.foldDigest
  split
  · exact modSlot_cx _ _ _ (fun sl => by split <;> rfl)
  · rfl
theorem foldDigest_frame (s : State) (c : CtxId) (es : List StoreElem) : s.foldDigest c es = { s with cores := (s.foldDigest c es).cores } := by
  unfold State.foldDigest
  split <;> rfl
theorem foldCard_frame (s : State) (c : CtxId) (ea : DWord) (ds : List Nat) :
    let u := foldCard s c ea ds
    u.cx = s.cx ∧ u.mem = s.mem ∧ u.sent = s.sent ∧ u.kettles = s.kettles := by
  intro u
  have hu : u = _ := foldDigest_frame s c _
  exact ⟨foldDigest_cx .., by rw [hu], by rw [hu], by rw [hu]⟩
theorem modTables_me_cx (s : State) (f : Ctxt → Ctxt) : (s.modTables s.me f).cx = f s.cx := by
  have hme : (s.modTables s.me f).me = s.me := State.me_setSlot ..
  simp only [State.cx, State.self, hme]
  rw [State.modTables, State.modSlot, State.slot_setSlot]

/-- A command table with room stays as it is. -/
theorem kRoom_of_lt (l : List KcEntry) (h : l.length < 32) : kRoom l = .ok l := if_pos h

/-- The entry of a new command with the parts of some numbers, and the state in which it stands in the table (R223). -/
def kEntry (t : State) (parts : List Nat) : KcEntry := ⟨t.cx.cid, t.fresh, 0, .queued, 0, 0, false, parts, none⟩
def State.entered (t : State) (parts : List Nat) : State :=
  { t.setCx { t.cx with kcmds := t.cx.kcmds ++ [kEntry t parts], cid := t.cx.cid + 1 } with fresh := t.fresh + 13 }

@[simp] theorem entered_cx (t : State) (parts : List Nat) :
    (t.entered parts).cx = { t.cx with kcmds := t.cx.kcmds ++ [kEntry t parts], cid := t.cx.cid + 1 } := State.cx_setCx ..
@[simp] theorem entered_me (t : State) (parts : List Nat) : (t.entered parts).me = t.me := State.me_setCx t _

/-- The one part of a command that the fabric refuses, which ends at once, REFUSED (R312). -/
def kRefused (t : State) (k : KCard) : KPart := { kBase t t.me k with kind := 4 }
/-- A card as it folds into the digest, its command's id in its last doubleword (R369). -/
def kCardWithId (t : State) (ds : List Nat) : List Nat := ds.mapIdx (fun i d => if i = 3 then d / 2 ^ 32 * 2 ^ 32 + t.cx.cid.toNat % 2 ^ 32 else d)
/-- A command issued: refused by the fabric, or its parts sent. -/
def kIssued (t : State) (k : KCard) : State :=
  if kAway t t.me k then kEnd (t.entered []) k.m 0 (kRefused t k)
  else kSend (t.entered ((kParts t t.me k).map (fun p => p.uid))) (kParts t t.me k)

section
variable {s : Bool} {rd rs1 : BitVec 5} {imm : BitVec 12} {st t : State} (h : Takes { s := s, parks := true, a := [rs1] } st t)
include h

omit h in
theorem cardPlaced (ea : DWord) (hpriv : (form ea).isPriv = true) (halign : ea.toNat % 32 = 0) :
    ¬ (decide (ea.toNat % 32 ≠ 0) || !(form ea).isPriv) = true := by
  rw [halign, hpriv]
  decide
theorem kcmd_misplaced (hea : (t.cx.ra rs1 + imm.signExtend 64).toNat % 32 ≠ 0 ∨ (form (t.cx.ra rs1 + imm.signExtend 64)).isPriv = false) :
    exec (.kcmd s rd rs1 imm) st = .next (t.raise (trapInfo 0x0A0)) := by
  show execKcmd s rd rs1 imm st = _
  rw [execKcmd, issue_takes h]
  exact congrArg _ (if_pos (by simpa using hea))

variable {ds : List Nat} {k : KCard} (hpriv : (form (t.cx.ra rs1 + imm.signExtend 64)).isPriv = true)
  (halign : (t.cx.ra rs1 + imm.signExtend 64).toNat % 32 = 0)
  (hrec : recordCheck t t.me (t.cx.ra rs1 + imm.signExtend 64) 32 32 = none)
  (hds : readDwords t t.me (t.cx.ra rs1 + imm.signExtend 64) 4 = .ok ds)
include hpriv halign hrec hds

theorem kcmd_badCard (hcard : kCardOf ds = none) : exec (.kcmd s rd rs1 imm) st = .next (t.raise (trapInfo 0x0A1)) := by
  show execKcmd s rd rs1 imm st = _
  rw [execKcmd, issue_takes h]
  refine congrArg _ ((if_neg (cardPlaced _ hpriv halign)).trans ?_)
  simp only [hrec, hds, hcard]

variable (hcard : kCardOf ds = some k)
include hcard

theorem kcmd_badCounter (hctr : k.ctr = true) (hown : t.ownsPriv t.me k.ctrOff 8 = false) :
    exec (.kcmd s rd rs1 imm) st = .next (t.raise (trapInfo 0x0A1)) := by
  show execKcmd s rd rs1 imm st = _
  rw [execKcmd, issue_takes h]
  refine congrArg _ ((if_neg (cardPlaced _ hpriv halign)).trans ?_)
  simp only [hrec, hds, hcard]
  exact if_pos (by simp [hctr, hown])

/-- A card that passes its checks is issued; rd takes the id, and its bytes fold into the digest. -/
theorem kcmd_issued (hown : k.ctr = true → t.ownsPriv t.me k.ctrOff 8 = true) (hroom : t.cx.kcmds.length < 32) :
    let u := foldCard (kIssued t k) t.me (t.cx.ra rs1 + imm.signExtend 64) (kCardWithId t ds)
    exec (.kcmd s rd rs1 imm) st = .next ((u.setCx (u.cx.wa rd t.cx.cid)).finish) := by
  show execKcmd s rd rs1 imm st = _
  rw [execKcmd, issue_takes h]
  refine congrArg _ ((if_neg (cardPlaced _ hpriv halign)).trans ?_)
  simp only [hrec, hds, hcard]
  rw [if_neg (by simpa using hown), kRoom_of_lt _ hroom]
  unfold kIssued
  by_cases haway : kAway t t.me k = true
  · simp only [haway, if_true]
    rfl
  · simp only [haway]
    rfl
end

/-! ## The end of a command's only part, and its parts on their way -/

theorem kettle_parts_sub {s : State} {m k : Nat} {p : KPart} (h : p ∈ (s.kettle m k).parts) : p ∈ s.allParts := by
  rcases kget_mem s.kettles (m, k) Kettle.reset with hk | hk
  · have h : p ∈ (kget s.kettles (m, k) Kettle.reset).parts := h
    rw [hk] at h
    exact absurd h List.not_mem_nil
  · exact List.mem_append_right _ (List.mem_flatten.2 ⟨_, List.mem_map_of_mem hk, h⟩)
/-- A Kettle with fewer parts brings no new part. -/
theorem allParts_setKettle {s : State} {m k : Nat} {x : Kettle} (hx : ∀ q ∈ x.parts, q ∈ (s.kettle m k).parts) {p : KPart}
    (h : p ∈ (s.setKettle m k x).allParts) : p ∈ s.allParts := by
  rcases List.mem_append.1 h with h | h
  · exact List.mem_append_left _ h
  · obtain ⟨l, hl, hp⟩ := List.mem_flatten.1 h
    obtain ⟨y, hy, rfl⟩ := List.mem_map.1 hl
    rcases mem_kset hy with rfl | hy
    · exact kettle_parts_sub (hx p hp)
    · exact List.mem_append_right _ (List.mem_flatten.2 ⟨_, List.mem_map_of_mem hy, hp⟩)

/-- A command's entry after the end of a part, and after the end of the last (R224). -/
def KcEntry.afterPart (p : KPart) (e : KcEntry) : KcEntry :=
  let firstBad := p.kind ≠ 0 && (match e.first with | none => true | some i => decide (p.idx < i))
  { e with parts := e.parts.filter (· ≠ p.uid), poisoned := e.poisoned + p.bad.length, flags := e.flags ||| p.flags,
           first := if firstBad then some p.idx else e.first, kind := if firstBad then p.kind else e.kind }
def KcEntry.closed (e : KcEntry) : KcEntry := { e with state := if e.first.isSome then .fault else .done }

/-- The end of the only part of a command without a counter closes its entry. -/
theorem kEnd_only (s : State) (m kt : Nat) (p : KPart) (hctr : p.ctr = false) (honly : ∀ x ∈ s.allParts, x.cuid ≠ p.cuid) :
    ∃ x, kEnd s m kt p = setCommand (setCommand (s.setKettle m kt x) p (KcEntry.afterPart p)) p KcEntry.closed := by
  let k := s.kettle m kt
  let x : Kettle := { k with parts := k.parts.filter (fun y => y.uid ≠ p.uid), areas := k.areas.filter (fun a => a.part ≠ p.uid) }
  refine ⟨x, ?_⟩
  have hlast : (setCommand (s.setKettle m kt x) p (KcEntry.afterPart p)).allParts.any (fun y => y.cuid = p.cuid) = false := by
    rw [List.any_eq_false]
    intro y hy
    simpa using honly y (allParts_setKettle (fun q hq => (List.mem_filter.1 hq).1) hy)
  have hcount : ∀ u, kCount u p = u := fun u => if_pos (by simp [hctr])
  show (if !(setCommand (s.setKettle m kt x) p (KcEntry.afterPart p)).allParts.any (fun y => y.cuid = p.cuid)
    then setCommand (kCount (setCommand (s.setKettle m kt x) p (KcEntry.afterPart p)) p) p KcEntry.closed else _) = _
  rw [hlast, hcount]
  rfl
theorem setCommand_cx (s : State) (p : KPart) (f : KcEntry → KcEntry) (h : p.owner = s.me) :
    (setCommand s p f).cx = { s.cx with kcmds := s.cx.kcmds.map (fun e => if e.uid = p.cuid then f e else e) } := by
  rw [setCommand, h, modTables_me_cx]
theorem setCommand_me (s : State) (p : KPart) (f : KcEntry → KcEntry) : (setCommand s p f).me = s.me := State.me_setSlot ..

/-- A command that the fabric refuses ends at once in FAULT, REFUSED, and sends nothing (R312). -/
theorem kIssued_refused (t : State) (k : KCard) (haway : kAway t t.me k = true) (hctr : k.ctr = false)
    (hnew : ∀ p ∈ t.allParts, p.cuid ≠ t.fresh) :
    (kIssued t k).mem = t.mem ∧ (kIssued t k).sent = t.sent ∧ (kIssued t k).cx.cid = t.cx.cid + 1 ∧
      ∃ x, (kIssued t k).cx.kcmds.getLast? = some x ∧ x.id = t.cx.cid ∧ x.state = .fault ∧ x.kind = 4 := by
  obtain ⟨x, hx⟩ := kEnd_only (t.entered []) k.m 0 (kRefused t k) hctr hnew
  have hissued : kIssued t k = _ := (if_pos haway).trans hx
  have hme : (kRefused t k).owner = ((t.entered []).setKettle k.m 0 x).me := (entered_me t []).symm
  have hcx : ((t.entered []).setKettle k.m 0 x).cx = _ := entered_cx t []
  rw [hissued]
  refine ⟨rfl, rfl, ?_, (kEntry t []).afterPart (kRefused t k) |>.closed, ?_, rfl, rfl, rfl⟩
  · rw [setCommand_cx _ _ _ (by rw [setCommand_me, hme]), setCommand_cx _ _ _ hme, hcx]
  · rw [setCommand_cx _ _ _ (by rw [setCommand_me, hme]), setCommand_cx _ _ _ hme, hcx]
    have huid : (kEntry t []).uid = (kRefused t k).cuid := rfl
    have hafter : ((kEntry t []).afterPart (kRefused t k)).uid = (kRefused t k).cuid := rfl
    simp only [List.map_append, List.map_cons, List.map_nil, List.getLast?_concat, if_pos huid, if_pos hafter]

/-- The parts of a command that the fabric takes are sent after those sent before, each as R203 has it; nothing else changes but the
command's entry. -/
theorem kIssued_sent (t : State) (k : KCard) (haway : kAway t t.me k = false) (hsent : ∀ p ∈ t.sent, p.uid < t.fresh) :
    (kIssued t k).mem = t.mem ∧ (kIssued t k).kettles = t.kettles ∧
      (kIssued t k).cx = { t.cx with kcmds := t.cx.kcmds ++ [kEntry t ((kParts t t.me k).map (fun p => p.uid))], cid := t.cx.cid + 1 } ∧
      ∃ l, (kIssued t k).sent = t.sent ++ l ∧ l.map KPart.unsent = kParts t t.me k ∧ ∀ q ∈ l, SentRight t q := by
  obtain ⟨hpart, horder⟩ := kParts_spec t t.me k
  have hissued : kIssued t k = _ := if_neg (by simp [haway])
  have hdiff : (kParts t t.me k).Pairwise (fun p q => p.uid ≠ q.uid ∧ p.idx ≠ q.idx) := by
    refine horder.imp_of_mem (fun {p q} hp hq hlt => ⟨?_, Nat.ne_of_lt hlt⟩)
    rw [(hpart p hp).2.2.2, (hpart q hq).2.2.2]
    omega
  have hnew : ∀ p ∈ kParts t t.me k, ∀ x ∈ t.sent, x.uid ≠ p.uid := by
    intro p hp x hx
    rw [(hpart p hp).2.2.2]
    have := hsent x hx
    omega
  obtain ⟨l, hl, hmap, hright⟩ := kSend_spec (kParts t t.me k) (t.entered ((kParts t t.me k).map (fun p => p.uid))) hnew hdiff
    (fun p hp => (hpart p hp).1)
  rw [hissued]
  refine ⟨by rw [kSend_frame]; rfl, by rw [kSend_frame]; rfl, ?_, l, hl, hmap, hright⟩
  rw [kSend_frame]
  exact entered_cx ..

/-- Settles O43: Kettle commands issued and sent, their parts' arrival, and the waits and samples of the command table. -/
theorem kettleCommandsAreIssued : Obligations.KettleCommandsAreIssued := by
  unfold Obligations.KettleCommandsAreIssued
  intro st t s rd rs1 imm ds k e ea id
  refine ⟨fun h => ⟨kcmd_misplaced h, fun hpriv halign hrec hds => ⟨kcmd_badCard h hpriv halign hrec hds,
      fun hcard hctr hown => kcmd_badCounter h hpriv halign hrec hds hcard hctr hown,
      fun hcard hown hroom haway hctr hnew => ?_, fun hcard hown hroom haway hsent => ?_⟩⟩,
    fun n p hm hp => ⟨remoteAddMessage_part_waits hm hp, remoteAddMessage_part_behind hm hp, remoteAddMessage_part_noRoom hm hp,
      remoteAddMessage_part_enters hm hp,
      fun hout hfirst hawake hseen => remoteAddMessage_part_again hm hp hout hfirst hawake (by simpa using hseen)⟩,
    kfence_takes, fun h => ⟨kpoll_outside h, fun h0 hid he => ?_, fun h0 hid he => kpoll_inside h h0 hid none he⟩⟩
  · obtain ⟨hmem, hsent, hcid, x, hlast, hid, hstate, hkind⟩ := kIssued_refused t k haway hctr hnew
    obtain ⟨hucx, humem, husent, -⟩ := foldCard_frame (kIssued t k) t.me ea (kCardWithId t ds)
    exact ⟨_, _, x, kcmd_issued h hpriv halign hrec hds hcard hown hroom, Ctxt.wa_writesA .., humem.trans hmem, husent.trans hsent,
      by rw [hucx, hcid], by rw [hucx, hlast], hid, hstate, hkind⟩
  · obtain ⟨hmem, hkettles, hcx, l, hl, hmap, hright⟩ := kIssued_sent t k haway hsent
    obtain ⟨hucx, humem, husent, hukettles⟩ := foldCard_frame (kIssued t k) t.me ea (kCardWithId t ds)
    obtain ⟨hpart, horder⟩ := kParts_spec t t.me k
    refine ⟨_, _, l, kcmd_issued h hpriv halign hrec hds hcard hown hroom, Ctxt.wa_writesA .., humem.trans hmem, hucx.trans hcx,
      husent.trans hl, hukettles.trans hkettles, hmap, fun p hp => ?_, fun i j p q hij hi hj => ?_⟩
    · obtain ⟨-, hown, hgen, -⟩ := hpart p.unsent (hmap ▸ List.mem_map_of_mem hp)
      have hq := hright p hp
      rw [SentRight, show p.owner = t.me from hown, show p.gen = t.self.slotgen from hgen] at hq
      exact hq
    · have hpair : l.Pairwise (fun p q => p.unsent.idx < q.unsent.idx) := by rwa [← hmap, List.pairwise_map] at horder
      obtain ⟨hil, rfl⟩ := List.getElem?_eq_some_iff.1 hi
      obtain ⟨hjl, rfl⟩ := List.getElem?_eq_some_iff.1 hj
      exact List.pairwise_iff_getElem.1 hpair i j hil hjl hij
  · refine ⟨kcStatus (some e), _, kpoll_inside h h0 hid (some e) he, kcStatus_toNat e, ?_⟩
    simp only [Option.any_some, JobState.ended_iff, decide_eq_true_eq]
    rfl

end Sys2Proof.Machine
end

section
/-! SUPPORT. Conditions, ready pools and the resident task graph under updates (R248, R249, R268, R289, R291): what a change of walkers and pools
leaves, the edges of a graph followed to their end, and what a kept context says of the end of its block. -/

namespace Sys2Proof.Machine

/-! ## Clusters, gangs and slots under updates -/

@[simp] theorem State.cluster_setCluster (s : State) (k : ClusterId) (x : Cluster) : (s.setCluster k x).cluster k = x := kget_kset_self ..
theorem State.cluster_setCluster_ne (s : State) (k j : ClusterId) (x : Cluster) (h : j ≠ k) : (s.setCluster k x).cluster j = s.cluster j :=
  kget_kset_ne _ _ _ _ _ h
theorem State.cluster_modCluster (s : State) (k j : ClusterId) (f : Cluster → Cluster) :
    (s.modCluster k f).cluster j = if j = k then f (s.cluster j) else s.cluster j := by
  by_cases h : j = k
  · rw [if_pos h, h]; exact State.cluster_setCluster ..
  · rw [if_neg h]; exact State.cluster_setCluster_ne _ _ _ _ h
theorem State.gang_modGang (s : State) (g h : Nat) (f : Gang → Gang) :
    (s.modGang g f).gang h = if h = g then f (s.gang h) else s.gang h := by
  by_cases e : h = g
  · rw [if_pos e, e]; exact State.gang_setGang ..
  · rw [if_neg e]; exact State.gang_setGang_ne _ _ _ _ e
theorem State.slot_congr {s t : State} (h : t.cores = s.cores) (c : CtxId) : t.slot c = s.slot c := by
  simp only [State.slot, State.core, h]
theorem State.cluster_congr {s t : State} (h : t.clusters = s.clusters) (k : ClusterId) : t.cluster k = s.cluster k := by
  simp only [State.cluster, h]
theorem State.gang_congr {s t : State} (h : t.gangs = s.gangs) (g : Nat) : t.gang g = s.gang g := by
  simp only [State.gang, h]

/-! ## What leaves condition tables, predictors and held contexts -/

/-- Every cluster's conditions and predictor, and the contexts that every gang holds, are as they were. -/
structure TablesStand (s t : State) : Prop where
  tables : ∀ k, (t.cluster k).conds = (s.cluster k).conds ∧ (t.cluster k).predictor = (s.cluster k).predictor
  held : ∀ h, (t.gang h).held = (s.gang h).held

theorem TablesStand.of_eq {s t : State} (hc : t.clusters = s.clusters) (hg : t.gangs = s.gangs) : TablesStand s t :=
  ⟨fun k => by simp only [State.cluster_congr hc, and_self], fun h => by rw [State.gang_congr hg]⟩
theorem TablesStand.refl (s : State) : TablesStand s s := .of_eq rfl rfl
theorem TablesStand.trans {s t u : State} (h : TablesStand s t) (h' : TablesStand t u) : TablesStand s u :=
  ⟨fun k => ⟨(h'.tables k).1.trans (h.tables k).1, (h'.tables k).2.trans (h.tables k).2⟩, fun i => (h'.held i).trans (h.held i)⟩
theorem TablesStand.foldl {α : Type} {f : State → α → State} (h : ∀ s a, TablesStand s (f s a)) (l : List α) (s : State) :
    TablesStand s (l.foldl f s) :=
  List.foldlRecOn l f (.refl s) (fun t ht a _ => ht.trans (h t a))
theorem TablesStand.modCluster (s : State) (k : ClusterId) (f : Cluster → Cluster)
    (h : ∀ c, (f c).conds = c.conds ∧ (f c).predictor = c.predictor) : TablesStand s (s.modCluster k f) := by
  refine ⟨fun j => ?_, fun _ => rfl⟩
  rw [State.cluster_modCluster]
  split
  · exact h _
  · exact ⟨rfl, rfl⟩
theorem TablesStand.modGang (s : State) (g : Nat) (f : Gang → Gang) (h : ∀ x, (f x).held = x.held) : TablesStand s (s.modGang g f) := by
  refine ⟨fun _ => ⟨rfl, rfl⟩, fun i => ?_⟩
  rw [State.gang_modGang]
  split
  · exact h _
  · rfl

/-- Only what walkers and ready pools hold has changed: memory, slots, tables and held contexts are as they were. -/
structure WalkersOnly (s t : State) : Prop where
  mem : t.mem = s.mem
  cores : t.cores = s.cores
  stand : TablesStand s t

theorem WalkersOnly.refl (s : State) : WalkersOnly s s := ⟨rfl, rfl, .refl s⟩
theorem WalkersOnly.trans {s t u : State} (h : WalkersOnly s t) (h' : WalkersOnly t u) : WalkersOnly s u :=
  ⟨h'.mem.trans h.mem, h'.cores.trans h.cores, h.stand.trans h'.stand⟩
theorem WalkersOnly.foldl {α : Type} {f : State → α → State} (h : ∀ s a, WalkersOnly s (f s a)) (l : List α) (s : State) :
    WalkersOnly s (l.foldl f s) :=
  List.foldlRecOn l f (.refl s) (fun t ht a _ => ht.trans (h t a))
theorem WalkersOnly.modGang (s : State) (g : Nat) (f : Gang → Gang) (h : ∀ x, (f x).held = x.held) : WalkersOnly s (s.modGang g f) :=
  ⟨rfl, rfl, .modGang s g f h⟩
theorem WalkersOnly.modCluster (s : State) (k : ClusterId) (f : Cluster → Cluster)
    (h : ∀ c, (f c).conds = c.conds ∧ (f c).predictor = c.predictor) : WalkersOnly s (s.modCluster k f) :=
  ⟨rfl, rfl, .modCluster s k f h⟩
theorem WalkersOnly.tick (s : State) : WalkersOnly s s.tick := ⟨rfl, rfl, .of_eq rfl rfl⟩

theorem modNode_walkersOnly (s : State) (g n : Nat) (f : Node → Node) : WalkersOnly s (modNode s g n f) := .modGang _ _ _ (fun _ => rfl)
theorem followIn_walkersOnly (s : State) (g : Nat) (es : List Edge) : WalkersOnly s (followIn s g es) := by
  unfold followIn
  extract_lets x r
  have h : WalkersOnly s (s.modGang g (fun _ => { x with nodes := r.1 })) := by
    refine ⟨rfl, rfl, fun _ => ⟨rfl, rfl⟩, fun i => ?_⟩
    rw [State.gang_modGang]
    split
    · rename_i hi; rw [hi]
    · rfl
  exact h.trans ⟨rfl, rfl, .of_eq rfl rfl⟩

/-! ## Ready nodes enter their cluster's pool (R249) -/

/-- One ready node enters a cluster's pool, where it has room. -/
def poolStep (cl : ClusterId) (s : State) (p : Nat × Nat × Node) : State :=
  if poolRoom ≤ (s.cluster cl).pool.length then s
  else
    let seg : Segment :=
      { uid := s.fresh, gang := p.1, entry := p.2.2.entry, taskId := nodeTask (s.gang p.1).block p.2.2.iter p.2.1, role := .node p.2.1 p.2.2.iter,
        chain := p.2.2.chain, parents := [], eclass := p.2.2.eclass, capture := none }
    modNode (s.tick.modCluster cl (fun c => { c with pool := c.pool ++ [seg] })) p.1 p.2.1 (fun y => { y with entered := true })
theorem feedPool_eq (s : State) (cl : ClusterId) : feedPool s cl = (waitingNodes s cl).foldl (poolStep cl) s := rfl

theorem poolStep_walkersOnly (cl : ClusterId) (s : State) (p : Nat × Nat × Node) : WalkersOnly s (poolStep cl s p) := by
  unfold poolStep
  split
  · exact .refl s
  · extract_lets seg
    refine WalkersOnly.trans ?_ (modNode_walkersOnly ..)
    exact (WalkersOnly.tick s).trans (.modCluster _ _ _ (fun _ => ⟨rfl, rfl⟩))
theorem feedPool_walkersOnly (s : State) (cl : ClusterId) : WalkersOnly s (feedPool s cl) :=
  .foldl (poolStep_walkersOnly cl) _ s
theorem feedPools_walkersOnly (s : State) (g : Nat) : WalkersOnly s (feedPools s g) := by
  unfold feedPools
  split
  · exact .refl s
  · exact .foldl feedPool_walkersOnly _ s
/-- A pool that is fed keeps what it held, in front. -/
theorem feedPool_pool (s : State) (cl : ClusterId) : ∃ r, ((feedPool s cl).cluster cl).pool = (s.cluster cl).pool ++ r := by
  rw [feedPool_eq]
  refine List.foldlRecOn _ (poolStep cl) (motive := fun t => ∃ r, (t.cluster cl).pool = (s.cluster cl).pool ++ r) ⟨[], by simp⟩
    (fun t ⟨r, hr⟩ p _ => ?_)
  unfold poolStep
  split
  · exact ⟨r, hr⟩
  · extract_lets seg
    refine ⟨r ++ [seg], ?_⟩
    rw [← List.append_assoc, ← hr]
    exact congrArg Cluster.pool (State.cluster_setCluster t.tick cl _)

/-! ## Nodes of a graph -/

theorem modNode_node (s : State) (g n i : Nat) (f : Node → Node) :
    ((modNode s g n f).gang g).nodes[i]? = ((s.gang g).nodes[i]?).map (fun y => if i = n then f y else y) := by
  simp only [modNode, State.gang_modGang, if_true, List.getElem?_mapIdx]
theorem modNode_gang_ne (s : State) (g n h : Nat) (f : Node → Node) (hne : h ≠ g) : (modNode s g n f).gang h = s.gang h := by
  rw [modNode, State.gang_modGang, if_neg hne]

/-- A node that has entered its cluster's pool, where `b` says so. -/
def Node.enter (b : Bool) (y : Node) : Node := { y with entered := y.entered || b }
/-- Nothing of any gang's nodes has changed but that some have entered their pool. -/
def NodesEnter (s t : State) : Prop := ∀ (h i : Nat), ∃ b, (t.gang h).nodes[i]? = ((s.gang h).nodes[i]?).map (Node.enter b)

theorem NodesEnter.of_eq {s t : State} (h : t.gangs = s.gangs) : NodesEnter s t := by
  intro g i
  refine ⟨false, ?_⟩
  have hid : Node.enter false = id := funext (fun y => by simp [Node.enter])
  rw [State.gang_congr h, hid, Option.map_id, id]
theorem NodesEnter.trans {s t u : State} (h : NodesEnter s t) (h' : NodesEnter t u) : NodesEnter s u := by
  intro g i
  obtain ⟨a, ha⟩ := h g i
  obtain ⟨b, hb⟩ := h' g i
  refine ⟨a || b, ?_⟩
  rw [hb, ha, Option.map_map]
  exact congrArg (Option.map · _) (funext (fun y => by simp [Node.enter, Bool.or_assoc]))
theorem NodesEnter.foldl {α : Type} {f : State → α → State} (h : ∀ s a, NodesEnter s (f s a)) (l : List α) (s : State) :
    NodesEnter s (l.foldl f s) :=
  List.foldlRecOn l f (.of_eq rfl) (fun t ht a _ => ht.trans (h t a))
theorem poolStep_nodesEnter (cl : ClusterId) (s : State) (p : Nat × Nat × Node) : NodesEnter s (poolStep cl s p) := by
  unfold poolStep
  split
  · exact .of_eq rfl
  · extract_lets seg
    refine NodesEnter.trans (t := s.tick.modCluster cl (fun c => { c with pool := c.pool ++ [seg] })) (.of_eq rfl) (fun h i => ?_)
    by_cases hh : h = p.1
    · subst hh
      refine ⟨decide (i = p.2.1), ?_⟩
      rw [modNode_node]
      refine congrArg (Option.map · _) (funext (fun y => ?_))
      by_cases hi : i = p.2.1 <;> simp [Node.enter, hi]
    · rw [modNode_gang_ne _ _ _ _ _ hh]
      exact NodesEnter.of_eq rfl h i
theorem feedPools_nodesEnter (s : State) (g : Nat) : NodesEnter s (feedPools s g) := by
  unfold feedPools
  split
  · exact .of_eq rfl
  · exact .foldl (fun s cl => .foldl (poolStep_nodesEnter cl) _ s) _ s

/-! ## Edges followed (R248) -/

/-- A node of a graph, where there is one, has completed. -/
def CompletedAt (ns : List Node) (i : Nat) : Prop := ∀ y, ns[i]? = some y → y.fin = true
/-- The edges that a node still gives when it completes; those of the nodes of a graph. -/
def Node.owes (n : Node) : Nat := if n.fin then 0 else n.succT.length + n.succF.length
def owed (ns : List Node) : Nat := (ns.map Node.owes).sum

theorem NodesEnter.completedAt {s t : State} (h : NodesEnter s t) {g i : Nat} (ho : CompletedAt (s.gang g).nodes i) : CompletedAt (t.gang g).nodes i := by
  obtain ⟨b, hb⟩ := h g i
  intro y hy
  rw [hb] at hy
  obtain ⟨x, hx, rfl⟩ := Option.map_eq_some_iff.1 hy
  exact ho x hx

theorem owed_le_edgeCount (ns : List Node) : owed ns ≤ edgeCount ns :=
  List.sum_le_sum (fun n _ => by unfold Node.owes; split <;> omega)
theorem owed_set (ns : List Node) (i : Nat) (x y : Node) (h : ns[i]? = some x) : owed (ns.set i y) + x.owes = owed ns + y.owes := by
  induction ns generalizing i with
  | nil => simp at h
  | cons z r ih =>
    cases i with
    | zero =>
      cases h
      simp only [owed, List.set_cons_zero, List.map_cons, List.sum_cons]
      omega
    | succ i =>
      have := ih i h
      simp only [owed, List.set_cons_succ, List.map_cons, List.sum_cons] at this ⊢
      omega

/-- A change of what a node waits for alone: whether it has completed and its successors stand. -/
def Node.SameEnd (x y : Node) : Prop := y.fin = x.fin ∧ y.succT = x.succT ∧ y.succF = x.succF

theorem Node.SameEnd.owes {x y : Node} (h : x.SameEnd y) : y.owes = x.owes := by
  obtain ⟨hf, ht, hs⟩ := h
  rw [Node.owes, Node.owes, hf, ht, hs]
theorem Node.refresh_sameEnd (k : Nat) (n : Node) : n.SameEnd (n.refresh k) := by
  unfold Node.refresh
  split <;> exact ⟨rfl, rfl, rfl⟩
theorem Node.unguess_sameEnd (w : Nat) (n : Node) : n.SameEnd (n.unguess w) := by
  unfold Node.unguess
  split
  · exact ⟨rfl, rfl, rfl⟩
  · exact Node.refresh_sameEnd 0 _
theorem owed_map (ns : List Node) (f : Node → Node) (h : ∀ x : Node, x.SameEnd (f x)) : owed (ns.map f) = owed ns := by
  rw [owed, List.map_map]
  exact congrArg (fun g => (ns.map g).sum) (funext (fun x => (h x).owes))
theorem CompletedAt.map {ns : List Node} {i : Nat} (h : CompletedAt ns i) (f : Node → Node) (hf : ∀ x : Node, x.SameEnd (f x)) :
    CompletedAt (ns.map f) i := by
  intro y hy
  rw [List.getElem?_map] at hy
  obtain ⟨x, hx, rfl⟩ := Option.map_eq_some_iff.1 hy
  exact (hf x).1.trans (h x hx)
theorem CompletedAt.set {ns : List Node} {i j : Nat} {x : Node} (h : CompletedAt ns i) (hx : i = j → x.fin = true) : CompletedAt (ns.set j x) i := by
  intro y hy
  by_cases hij : i = j
  · subst hij
    rw [List.getElem?_set_self'] at hy
    obtain ⟨-, -, rfl⟩ := Option.map_eq_some_iff.1 hy
    exact hx rfl
  · rw [List.getElem?_set_ne (Ne.symm hij)] at hy
    exact h y hy
theorem completedAt_set_self {ns : List Node} {j : Nat} {x : Node} (hx : x.fin = true) : CompletedAt (ns.set j x) j := by
  intro y hy
  rw [List.getElem?_set_self'] at hy
  obtain ⟨-, -, rfl⟩ := Option.map_eq_some_iff.1 hy
  exact hx

/-- A node as an edge from a predecessor that completes leaves it. -/
def Node.took (e : Edge) (n : Node) : Node :=
  { n with left := n.left - 1, ins := if e.pruned || e.never then n.ins else n.ins ++ [(⟨e.chain, e.guess, e.direct⟩ : InEdge)] }
/-- A node that completes as pruned. -/
def Node.gone (n : Node) : Node := { n with fin := true, pruned := true, guess := false }

theorem follow_live {f k : Nat} {e : Edge} {r : List Edge} {ns : List Node} {n : Node} (hn : ns[e.dst]? = some n) (hfin : ¬ n.fin = true) :
    follow (f + 1) (e :: r) (ns, k) = if e.never || ((n.took e).left = 0 && (n.took e).ins.isEmpty) then
        follow f ((n.took e).edges true ++ r) ((ns.set e.dst (n.took e).gone).map (Node.unguess e.dst), k)
      else follow f r (ns.set e.dst ((n.took e).refresh k), k + 1) := by
  rw [follow]
  simp only [hn]
  exact if_neg hfin

/-- Edges followed with enough fuel: no node is added or lost, a node that has completed stays so, and the target of an edge of a losing side
has completed. Each round follows one edge, and a node gives its own edges once. -/
theorem follow_spec (f : Nat) (es : List Edge) (ns : List Node) (k : Nat) (hf : es.length + owed ns ≤ f) :
    let r := (follow f es (ns, k)).1
    r.length = ns.length ∧ (∀ i, CompletedAt ns i → CompletedAt r i) ∧ ∀ e ∈ es, e.never = true → CompletedAt r e.dst := by
  induction f generalizing es ns k with
  | zero =>
    obtain rfl : es = [] := List.length_eq_zero_iff.1 (by omega)
    exact ⟨rfl, fun _ h => h, by simp⟩
  | succ f ih =>
    cases es with
    | nil => exact ⟨rfl, fun _ h => h, by simp⟩
    | cons e r =>
      intro u
      have hu : u = (follow (f + 1) (e :: r) (ns, k)).1 := rfl
      clear_value u
      rw [List.length_cons] at hf
      -- the rest of the edges follow from `ms`, in which `e` has had its effect
      have rest : ∀ (fs : List Edge) (ms : List Node) (j : Nat), u = (follow f (fs ++ r) (ms, j)).1 → fs.length + r.length + owed ms ≤ f →
          ms.length = ns.length → (∀ i, CompletedAt ns i → CompletedAt ms i) → (e.never = true → CompletedAt ms e.dst) →
          u.length = ns.length ∧ (∀ i, CompletedAt ns i → CompletedAt u i) ∧ ∀ x ∈ e :: r, x.never = true → CompletedAt u x.dst := by
        rintro fs ms j rfl hfuel hlen hover hdst
        obtain ⟨hl, ho, hn⟩ := ih (fs ++ r) ms j (by rwa [List.length_append])
        refine ⟨hl.trans hlen, fun i hi => ho i (hover i hi), fun x hx hnever => ?_⟩
        rcases List.mem_cons.1 hx with rfl | hx
        · exact ho _ (hdst hnever)
        · exact hn x (List.mem_append_right _ hx) hnever
      cases hn : ns[e.dst]? with
      | none =>
        rw [follow] at hu
        simp only [hn] at hu
        exact rest [] ns k hu (by simp; omega) rfl (fun _ h => h) (fun _ y hy => by simp [hn] at hy)
      | some n =>
        by_cases hfin : n.fin = true
        · rw [follow] at hu
          simp only [hn, if_pos hfin] at hu
          refine rest [] ns k hu (by simp; omega) rfl (fun _ h => h) (fun _ y hy => ?_)
          rw [hn] at hy
          cases hy
          exact hfin
        · rw [follow_live hn hfin] at hu
          have howes : n.owes = n.succT.length + n.succF.length := if_neg hfin
          split at hu
          · have hset := owed_set ns e.dst n (n.took e).gone hn
            have hedges : ((n.took e).edges true).length = n.succT.length + n.succF.length := by simp [Node.edges, Node.took]
            have hgone : (n.took e).gone.owes = 0 := rfl
            refine rest ((n.took e).edges true) ((ns.set e.dst (n.took e).gone).map (Node.unguess e.dst)) k hu ?_ (by simp)
              (fun i hi => (CompletedAt.set hi (fun _ => rfl)).map _ (Node.unguess_sameEnd _))
              (fun _ => (completedAt_set_self rfl).map _ (Node.unguess_sameEnd _))
            rw [owed_map _ _ (Node.unguess_sameEnd _)]
            omega
          · rename_i hnever
            have hsame : n.SameEnd ((n.took e).refresh k) := Node.refresh_sameEnd k (n.took e)
            have hset := owed_set ns e.dst n ((n.took e).refresh k) hn
            rw [hsame.owes] at hset
            refine rest [] (ns.set e.dst ((n.took e).refresh k)) (k + 1) hu (by simp; omega) (by simp)
              (fun i hi => CompletedAt.set hi (fun he => absurd (hi n (he ▸ hn)) hfin)) (fun h => absurd (by simp [h]) hnever)

/-- An edge as its node's cluster takes it keeps its target, and stays one of a losing side. -/
theorem Edge.seen_spec (s : State) (g : Nat) (x : Gang) (e : Edge) :
    (e.seen s g x).dst = e.dst ∧ (e.never = true → (e.seen s g x).never = true) := by
  unfold Edge.seen
  split
  · exact ⟨rfl, id⟩
  · extract_lets out lost
    split
    · exact ⟨rfl, fun _ => rfl⟩
    · split <;> exact ⟨rfl, id⟩
/-- Edges followed in a gang's graph. -/
theorem followIn_spec (s : State) (g : Nat) (es : List Edge) :
    let ns := ((followIn s g es).gang g).nodes
    ns.length = (s.gang g).nodes.length ∧ (∀ i, CompletedAt (s.gang g).nodes i → CompletedAt ns i) ∧
      ∀ e ∈ es, e.never = true → CompletedAt ns e.dst := by
  intro ns
  let seen := es.map (Edge.seen s g (s.gang g))
  let r := follow (edgeCount (s.gang g).nodes + es.length + 1) seen ((s.gang g).nodes, s.fresh)
  have hns : ns = r.1 := congrArg Gang.nodes (State.gang_setGang s g { s.gang g with nodes := r.1 })
  have hfuel : seen.length + owed (s.gang g).nodes ≤ edgeCount (s.gang g).nodes + es.length + 1 := by
    have := owed_le_edgeCount (s.gang g).nodes
    simp only [seen, List.length_map]
    omega
  obtain ⟨hlen, hover, hnever⟩ := follow_spec _ seen (s.gang g).nodes s.fresh hfuel
  rw [hns]
  refine ⟨hlen, hover, fun e he hn => ?_⟩
  obtain ⟨hdst, hstay⟩ := Edge.seen_spec s g (s.gang g) e
  have := hnever _ (List.mem_map_of_mem he) (hstay hn)
  rwa [hdst] at this

/-! ## The end of a block (R259) -/

/-- A gang that holds a context with a task of its own has not ended. -/
theorem endNode_of_task {s : State} {g : Nat} (h : ∃ d ∈ (s.gang g).held, (s.slot d).gang = some g) : endNode s g = s := by
  obtain ⟨d, hd, hg⟩ := h
  have htasks : tasksDone s g = false := by
    have hall : ((s.gang g).held.all (fun c => decide ((s.slot c).gang ≠ some g))) = false :=
      List.all_eq_false.2 ⟨d, hd, by simp [hg]⟩
    rw [tasksDone, hall, Bool.and_false, Bool.false_and, Bool.false_and]
  have hsettle : s.settle g = s := if_neg (by simp [gangDone, htasks])
  simp [endNode, htasks, hsettle]
/-- What leaves slots and held contexts leaves a gang's task in its place. -/
theorem WalkersOnly.task {s t : State} (h : WalkersOnly s t) {g : Nat} (ht : ∃ d ∈ (s.gang g).held, (s.slot d).gang = some g) :
    ∃ d ∈ (t.gang g).held, (t.slot d).gang = some g := by
  obtain ⟨d, hd, hg⟩ := ht
  exact ⟨d, by rwa [h.stand.held], by rwa [State.slot_congr h.cores]⟩

end Sys2Proof.Machine
end

section
/-! SUPPORT. Conditional and while nodes (R248, R291, R372): a node whose condition is resolved is at an end or starts its body again, and one of a
serialised launch waits. -/

namespace Sys2Proof.Machine

theorem modNode_isSome (s : State) (g n i : Nat) (f : Node → Node) :
    ((modNode s g n f).gang g).nodes[i]?.isSome = (s.gang g).nodes[i]?.isSome := by
  rw [modNode_node, Option.isSome_map]
theorem completedAt_modNode (s : State) (g n : Nat) (f : Node → Node) (h : ∀ y, (f y).fin = true) : CompletedAt ((modNode s g n f).gang g).nodes n := by
  intro y hy
  rw [modNode_node] at hy
  obtain ⟨x, -, rfl⟩ := Option.map_eq_some_iff.1 hy
  rw [if_pos rfl]
  exact h x
theorem CompletedAt.exists_fin {ns : List Node} {i : Nat} (h : CompletedAt ns i) (hi : ns[i]?.isSome = true) : ∃ y, ns[i]? = some y ∧ y.fin = true := by
  obtain ⟨y, hy⟩ := Option.isSome_iff_exists.1 hi
  exact ⟨y, hy, h y hy⟩
theorem isSome_eq_of_length_eq {ns ms : List Node} (h : ms.length = ns.length) (i : Nat) : ms[i]?.isSome = ns[i]?.isSome := by
  rw [Bool.eq_iff_iff, isSome_getElem?, isSome_getElem?, h]

/-- Edges followed in a gang's graph, its pools then being fed: no node is lost, one that has completed stays so, and the target of an edge of a
losing side has completed. -/
theorem followed_spec (s : State) (g : Nat) (es : List Edge) :
    let ns := ((feedPools (followIn s g es) g).gang g).nodes
    (∀ i : Nat, ns[i]?.isSome = (s.gang g).nodes[i]?.isSome) ∧ (∀ i, CompletedAt (s.gang g).nodes i → CompletedAt ns i) ∧
      ∀ e ∈ es, e.never = true → CompletedAt ns e.dst := by
  intro ns
  obtain ⟨hlen, hover, hnever⟩ := followIn_spec s g es
  have hfed := feedPools_nodesEnter (followIn s g es) g
  refine ⟨fun i => ?_, fun i hi => hfed.completedAt (hover i hi), fun e he hn => hfed.completedAt (hnever e he hn)⟩
  obtain ⟨b, hb⟩ := hfed g i
  rw [hb, Option.isSome_map, isSome_eq_of_length_eq hlen]
theorem followed_walkersOnly (s : State) (g : Nat) (es : List Edge) : WalkersOnly s (feedPools (followIn s g es) g) :=
  (followIn_walkersOnly ..).trans (feedPools_walkersOnly ..)

/-- Opening a condition that a cluster holds changes nothing of any cluster. -/
theorem openCond_known (s : State) (cl : ClusterId) (g loc : Nat) {e : Cond} (h : (s.cluster cl).cond g loc = some e) (d : ClusterId) :
    (openCond s cl g loc).cluster d = s.cluster d := by
  rw [openCond, State.cluster_modCluster]
  split
  · rename_i hd
    rw [hd, h]
    rfl
  · rfl
theorem joinCond_known (s : State) (cl : ClusterId) (g loc idx : Nat) {e : Cond} (h : (s.cluster cl).cond g loc = some e) :
    ∃ t, joinCond s cl g loc idx = some t := ⟨_, if_neg (by simp [h])⟩

/-- The edges of a conditional node whose condition is resolved: those of the other side are pruned, and a successor of that side alone never runs. -/
def Node.resolved (x : Node) (o : Bool) : List Edge :=
  x.sides (fun side t =>
    { dst := t, pruned := side ≠ o, chain := x.chain, never := side ≠ o && !(x.succT.contains t && x.succF.contains t) })
theorem Node.mem_resolved_losing {x : Node} {o : Bool} {t : Nat} (h : t ∈ if o then x.succF else x.succT) (hn : t ∉ if o then x.succT else x.succF) :
    ∃ e ∈ x.resolved o, e.dst = t ∧ e.never = true := by
  cases o with
  | false =>
    refine ⟨_, List.mem_append_left _ (List.mem_map_of_mem h), rfl, ?_⟩
    simp [show t ∉ x.succF from hn]
  | true =>
    refine ⟨_, List.mem_append_right _ (List.mem_map_of_mem h), rfl, ?_⟩
    simp [show t ∉ x.succT from hn]

section
variable {s : State} {g n loc : Nat} {x : Node} {e : Cond} (hx : (s.gang g).nodes[n]? = some x) (hready : x.ready.isNone = false)
  (hfin : x.fin = false) (hexit : x.exitOf = false) (hrun : (s.gang g).status = .running) (hword : nodeWord s g x = some loc)
  (hcond : (s.cluster ((s.gang g).cluster x.cluster)).cond g loc = some e)
include hx hready hfin hexit hrun hword hcond

theorem conditionalNode_resolved (hk : x.kind = 1) {o : Bool} (ho : e.outcome = some o) :
    exec (.conditionalNode g n) s =
      .next (endNode (feedPools (followIn (modNode s g n (fun y => { y with fin := true })) g (x.resolved o)) g) g) := by
  show execConditionalNode g n s = _
  simp only [execConditionalNode, hx, hk, hready, hfin, hexit, hrun, hword, hcond, ho, Option.bind_some]
  rfl
theorem conditionalNode_serial_waits (hk : x.kind = 1) (ho : e.outcome = none) (hs : (s.launch (s.gang g).launch).serial = true) :
    exec (.conditionalNode g n) s = .next s ∨
      exec (.conditionalNode g n) s = .next (openCond s ((s.gang g).cluster x.cluster) g loc) := by
  obtain ⟨t, ht⟩ := joinCond_known (modNode s g n (fun y => { y with fin := true })) ((s.gang g).cluster x.cluster) g loc (nodePred s g n) hcond
  show execConditionalNode g n s = _ ∨ execConditionalNode g n s = _
  by_cases h8 : 8 ≤ x.chain.length
  · left
    simp only [execConditionalNode, hx, hk, hready, hfin, hexit, hrun, hword, hcond, ho, Option.bind_some, h8]
    rfl
  · right
    simp only [execConditionalNode, hx, hk, hready, hfin, hexit, hrun, hword, hcond, ho, Option.bind_some, h8, ht, hs]
    rfl
variable (hk : x.kind = 2) (hguess : x.guess = false) (hstale : x.stale = false)
include hk hguess hstale

theorem whileNode_serial_waits (hent : x.entered = false) (ho : e.outcome = none) (hs : (s.launch (s.gang g).launch).serial = true) :
    exec (.whileNode g n) s = .next s ∨ exec (.whileNode g n) s = .next (openCond s ((s.gang g).cluster x.cluster) g loc) := by
  obtain ⟨t, ht⟩ := joinCond_known s ((s.gang g).cluster x.cluster) g loc (nodePred s g n) hcond
  show execWhileNode g n s = _ ∨ execWhileNode g n s = _
  by_cases h8 : 8 ≤ x.chain.length
  · left
    simp only [execWhileNode, hx, hk, hready, hfin, hexit, hrun, hword, hcond, ho, hguess, hstale, hent, Option.bind_some, h8]
    rfl
  · right
    simp only [execWhileNode, hx, hk, hready, hfin, hexit, hrun, hword, hcond, ho, hguess, hstale, hent, Option.bind_some, h8, ht, hs]
    rfl
variable (hbody : (x.entered && decide (x.bodyLeft ≠ 0)) = false)
include hbody

theorem whileNode_leaves (ho : e.outcome = some false) : exec (.whileNode g n) s = .next (leaveWhile s g n x) := by
  show execWhileNode g n s = _
  simp only [execWhileNode, hx, hk, hready, hfin, hexit, hrun, hword, hcond, ho, hguess, hstale, hbody, Option.bind_some]
  rfl
theorem whileNode_again (ho : e.outcome = some true) :
    exec (.whileNode g n) s = .next (feedPools (modNode (startBody s g n x x.chain) g n (fun y => { y with stale := true })) g) := by
  show execWhileNode g n s = _
  simp only [execWhileNode, hx, hk, hready, hfin, hexit, hrun, hword, hcond, ho, hguess, hstale, hbody, Option.bind_some]
  rfl
end

/-- A conditional node whose condition is resolved is at an end, with the nodes of its other side alone. -/
theorem endConditional_spec (s : State) (g n : Nat) (x : Node) (o : Bool) (hx : (s.gang g).nodes[n]? = some x)
    (htask : ∃ d ∈ (s.gang g).held, (s.slot d).gang = some g) :
    let u := endNode (feedPools (followIn (modNode s g n (fun y => { y with fin := true })) g (x.resolved o)) g) g
    WalkersOnly s u ∧ (∃ y, (u.gang g).nodes[n]? = some y ∧ y.fin = true) ∧
      ∀ t ∈ (if o then x.succF else x.succT), t ∉ (if o then x.succT else x.succF) → CompletedAt (u.gang g).nodes t := by
  intro u
  have hw := (modNode_walkersOnly s g n (fun y => { y with fin := true })).trans (followed_walkersOnly _ g (x.resolved o))
  obtain ⟨hsome, hover, hnever⟩ := followed_spec (modNode s g n (fun y => { y with fin := true })) g (x.resolved o)
  have hu : u = feedPools (followIn (modNode s g n (fun y => { y with fin := true })) g (x.resolved o)) g := endNode_of_task (hw.task htask)
  rw [hu]
  refine ⟨hw, CompletedAt.exists_fin (hover n (completedAt_modNode s g n _ (fun _ => rfl))) (by rw [hsome, modNode_isSome, hx]; rfl), fun t ht hn => ?_⟩
  obtain ⟨e, he, rfl, hen⟩ := Node.mem_resolved_losing ht hn
  exact hnever e he hen

/-- A while node that leaves is at an end. -/
theorem leaveWhile_spec (s : State) (g n : Nat) (x : Node) (hx : (s.gang g).nodes[n]? = some x)
    (htask : ∃ d ∈ (s.gang g).held, (s.slot d).gang = some g) :
    WalkersOnly s (leaveWhile s g n x) ∧ ∃ y, ((leaveWhile s g n x).gang g).nodes[n]? = some y ∧ y.fin = true := by
  unfold leaveWhile
  extract_lets t v
  have ht : WalkersOnly s t := .foldl (fun s j => modNode_walkersOnly ..) _ s
  have hsome : (t.gang g).nodes[n]?.isSome = true :=
    List.foldlRecOn _ _ (motive := fun t => (t.gang g).nodes[n]?.isSome = true) (by rw [hx]; rfl)
      (fun t ht j _ => (modNode_isSome t g j n _).trans ht)
  have hv : WalkersOnly s v := ht.trans (modNode_walkersOnly ..)
  have hw := hv.trans (followed_walkersOnly v g (x.succF.map (fun t => { dst := t, chain := x.chain })))
  obtain ⟨hkept, hover, -⟩ := followed_spec v g (x.succF.map (fun t => { dst := t, chain := x.chain }))
  rw [endNode_of_task (hw.task htask)]
  exact ⟨hw, CompletedAt.exists_fin (hover n (completedAt_modNode t g n _ (fun _ => rfl))) (by rw [hkept, modNode_isSome]; exact hsome)⟩

/-- A while node after it has started its body, which it is no part of. -/
theorem startBody_spec (s : State) (g n : Nat) (x : Node) (ch : List ChainEntry) (hx : (s.gang g).nodes[n]? = some x) (hn : n ∉ x.succT) :
    WalkersOnly s (startBody s g n x ch) ∧ ((startBody s g n x ch).gang g).nodes[n]? =
      some { x with entered := true, iter := if x.entered then x.iter + 1 else x.iter, bodyLeft := x.succT.length } := by
  unfold startBody
  extract_lets again t
  have tick : ∀ t : State, WalkersOnly t { t with fresh := t.fresh + 1 } := WalkersOnly.tick
  constructor
  · refine (modNode_walkersOnly s g n _).trans (.foldl (fun t j => (tick t).trans (modNode_walkersOnly ..)) _ t)
  · refine List.foldlRecOn _ _ (motive := fun t : State => (t.gang g).nodes[n]? = _) ?_ (fun t ht j hj => ?_)
    · rw [modNode_node, hx, Option.map_some, if_pos rfl]
    · rw [modNode_node]
      refine (congrArg (Option.map _) ht).trans ?_
      rw [Option.map_some, if_neg (fun h : n = j => hn (h ▸ hj))]

/-- A while node that starts its body again counts the iteration and waits for its body and for its word to be freed. -/
theorem whileAgain_spec (s : State) (g n : Nat) (x : Node) (hx : (s.gang g).nodes[n]? = some x) (hfin : x.fin = false) (hn : n ∉ x.succT) :
    let u := feedPools (modNode (startBody s g n x x.chain) g n (fun y => { y with stale := true })) g
    WalkersOnly s u ∧ ∃ y, (u.gang g).nodes[n]? = some y ∧ y.fin = false ∧ y.entered = true ∧ y.stale = true ∧
      y.bodyLeft = x.succT.length ∧ y.iter = if x.entered then x.iter + 1 else x.iter := by
  intro u
  obtain ⟨hw, hnode⟩ := startBody_spec s g n x x.chain hx hn
  refine ⟨(hw.trans (modNode_walkersOnly ..)).trans (feedPools_walkersOnly ..), ?_⟩
  obtain ⟨b, hb⟩ := feedPools_nodesEnter (modNode (startBody s g n x x.chain) g n (fun y => { y with stale := true })) g g n
  rw [modNode_node, hnode, Option.map_some, Option.map_some, if_pos rfl] at hb
  exact ⟨_, hb, hfin, rfl, rfl, rfl, rfl⟩

end Sys2Proof.Machine
end

section
/-! SUPPORT. The outcome of a condition at a cluster (R268, R273, R274, R289): the entry it notes, the predictor entries it trains, and the tasks it
prunes and those it leaves alone. -/

namespace Sys2Proof.Machine

/-! ## What a step at one context leaves alone -/

/-- Other contexts, condition tables, predictors and held contexts are as they were. -/
structure LeavesBut (c : CtxId) (s t : State) : Prop where
  slots : ∀ d, d ≠ c → t.slot d = s.slot d
  stand : TablesStand s t

theorem LeavesBut.of_cores {s t : State} (c : CtxId) (hc : t.cores = s.cores) (h : TablesStand s t) : LeavesBut c s t :=
  ⟨fun d _ => State.slot_congr hc d, h⟩
theorem LeavesBut.refl (c : CtxId) (s : State) : LeavesBut c s s := .of_cores c rfl (.refl s)
theorem LeavesBut.trans {c : CtxId} {s t u : State} (h : LeavesBut c s t) (h' : LeavesBut c t u) : LeavesBut c s u :=
  ⟨fun d hd => (h'.slots d hd).trans (h.slots d hd), h.stand.trans h'.stand⟩
theorem LeavesBut.foldl {c : CtxId} {α : Type} {f : State → α → State} (h : ∀ s a, LeavesBut c s (f s a)) (l : List α) (s : State) :
    LeavesBut c s (l.foldl f s) :=
  List.foldlRecOn l f (.refl c s) (fun t ht a _ => ht.trans (h t a))
theorem LeavesBut.setSlot (s : State) (c : CtxId) (x : Slot) : LeavesBut c s (s.setSlot c x) :=
  ⟨fun d hd => State.slot_setSlot_ne s c d x hd, .of_eq rfl rfl⟩

/-! ## The commit of a segment's drafts (R273) -/

theorem overflow_stands (s : State) (g : Nat) (o : Overflow) : TablesStand s (s.overflow g o) :=
  TablesStand.trans (t := s.tick) (.of_eq rfl rfl) (.modGang s.tick g _ (fun _ => rfl))
theorem homeWrite_leavesBut (c : CtxId) (s : State) (w : Who) (a : DWord) (loc n v mask : Nat) :
    LeavesBut c s (s.homeWrite w a loc n v mask) := by
  unfold State.homeWrite
  split
  · exact .of_cores c rfl (.of_eq rfl rfl)
  · split
    · exact .of_cores c rfl (overflow_stands ..)
    · exact .refl c s
    · split <;> exact .of_cores c rfl (.of_eq rfl rfl)
theorem writePiece_leavesBut (c : CtxId) (w : Who) (e : StoreElem) (s : State) (p : Nat × Nat) : LeavesBut c s (writePiece w e s p) := by
  unfold writePiece
  split
  · exact homeWrite_leavesBut ..
  · exact .refl c s
theorem performStore_leavesBut (s : State) (c : CtxId) (es : List StoreElem) : LeavesBut c s (performStore s c es) := by
  have h : LeavesBut c s (es.foldl (writeElem (s.whoIs c)) s) := .foldl (fun t e => .foldl (writePiece_leavesBut c _ e) _ t) es s
  unfold performStore State.foldDigest
  refine h.trans ?_
  split
  · exact .setSlot ..
  · exact .refl c _
theorem dropDraft_leavesBut (c : CtxId) (s : State) (cl : ClusterId) (uid : Nat) : LeavesBut c s (dropDraft s cl uid) :=
  .of_cores c rfl (.modCluster s cl _ (fun _ => ⟨rfl, rfl⟩))
theorem dropDrafts_leavesBut (c : CtxId) (s : State) (cl : ClusterId) (uid : Nat) : LeavesBut c s (dropDrafts s cl uid) :=
  .of_cores c rfl (.modCluster s cl _ (fun _ => ⟨rfl, rfl⟩))

/-- The state in which the commit of drafts ends. -/
def Drafted.state : Drafted → State
  | .done s => s
  | .retry s => s
  | .fault s _ => s
theorem commitDrafts_leavesBut (c : CtxId) (l : List Draft) (s : State) : LeavesBut c s (commitDrafts c l s).state := by
  induction l generalizing s with
  | nil => exact .refl c s
  | cons d r ih =>
    rw [commitDrafts]
    split
    · exact (((LeavesBut.setSlot s c _).trans (performStore_leavesBut ..)).trans (dropDraft_leavesBut ..)).trans (ih _)
    · exact .refl c s
    · exact dropDrafts_leavesBut ..
theorem takeTrap_leavesBut (s : State) (c : CtxId) (x : TrapInfo) (held : Bool) : LeavesBut c s (takeTrap s c x held) := by
  refine ⟨(takeTrap_spec s c x held).2.1, ?_⟩
  unfold takeTrap
  extract_lets k
  split <;> exact .of_eq rfl rfl
theorem becomeCertain_leavesBut (s : State) (c : CtxId) : LeavesBut c s (becomeCertain s c) := by
  unfold becomeCertain
  extract_lets sl
  have h := commitDrafts_leavesBut c ((s.cluster c.core.cl).drafts.filter (fun d => d.owner = sl.uid)) s
  split
  all_goals (rename_i heq; rw [heq] at h)
  · exact (h.trans (.setSlot _ c _)).trans (takeTrap_leavesBut ..)
  · exact h.trans (.setSlot _ c _)
  · exact h.trans (.setSlot _ c _)

/-! ## Pruned tasks (R274) -/

/-- A job that goes on without the tiles of a context. -/
def EJob.without (c : CtxId) (j : EJob) : EJob :=
  { j with tiles := j.tiles.filter (fun t => t.1 ≠ c), priors := j.priors.filter (fun p => p.1.1 ≠ c) }
theorem State.cluster_disown (s : State) (c : CtxId) (k : ClusterId) :
    (s.disown c).cluster k = { s.cluster k with jobs := (s.cluster k).jobs.map (EJob.without c) } :=
  kget_map s.clusters _ (fun x => { x with jobs := x.jobs.map (EJob.without c) }) k Cluster.reset rfl (fun p => by split <;> rfl)
theorem disown_leavesBut (s : State) (c : CtxId) : LeavesBut c s (s.disown c) := by
  refine .of_cores c rfl ⟨fun k => ?_, fun _ => rfl⟩
  rw [State.cluster_disown]
  exact ⟨rfl, rfl⟩
/-- A pruned slot is cleared, and nothing else changes of other slots and of the tables. -/
theorem pruneSlot_spec (s : State) (c : CtxId) : (pruneSlot s c).slot c = (s.slot c).clear ∧ LeavesBut c s (pruneSlot s c) := by
  let t := dropDrafts (s.disown c) c.core.cl (s.slot c).uid
  let v := t.modCore c.core (fun k => { k with trapq := k.trapq.filter (· ≠ c.who) })
  have hv : ∀ d, v.slot d = s.slot d := State.slot_setCore t c.core _ rfl
  have ht : LeavesBut c s t := (disown_leavesBut s c).trans (dropDrafts_leavesBut ..)
  refine ⟨?_, ?_⟩
  · show (v.setSlot c (v.slot c).clear).slot c = _
    rw [State.slot_setSlot, hv]
  · exact LeavesBut.trans (t := v) ⟨fun d _ => hv d, ht.stand.trans (.of_eq rfl rfl)⟩ (.setSlot v c _)

/-- A task on a side of a condition is pruned. -/
def pruneStep (loc : Nat) (side : Bool) (s : State) (c : CtxId) : State := if onSide (s.slot c).chain loc side then pruneSlot s c else s
/-- A task on the side of a condition that has won goes on without it, and is certain where it waits for no other. -/
def winStep (loc : Nat) (o : Bool) (s : State) (c : CtxId) : State :=
  let sl := s.slot c
  if onSide sl.chain loc o then
    let s := s.setSlot c { sl with chain := offChain sl.chain loc }
    if (offChain sl.chain loc).isEmpty then becomeCertain s c else s
  else s

theorem pruneStep_leavesBut (loc : Nat) (side : Bool) (s : State) (c : CtxId) : LeavesBut c s (pruneStep loc side s c) := by
  unfold pruneStep
  split
  · exact (pruneSlot_spec s c).2
  · exact .refl c s
theorem winStep_leavesBut (loc : Nat) (o : Bool) (s : State) (c : CtxId) : LeavesBut c s (winStep loc o s c) := by
  unfold winStep
  extract_lets sl t
  split
  · split
    · exact (LeavesBut.setSlot s c _).trans (becomeCertain_leavesBut t c)
    · exact .setSlot s c _
  · exact .refl c s
/-- Neither step changes a task that stands on no side of the condition. -/
theorem pruneStep_offSide {loc : Nat} {side : Bool} {s : State} {d : CtxId} (c : CtxId) (h : onSide (s.slot d).chain loc side = false) :
    (pruneStep loc side s c).slot d = s.slot d := by
  by_cases hd : d = c
  · subst hd
    rw [pruneStep, if_neg (by simp [h])]
  · exact (pruneStep_leavesBut loc side s c).slots d hd
theorem winStep_offSide {loc : Nat} {o : Bool} {s : State} {d : CtxId} (c : CtxId) (h : onSide (s.slot d).chain loc o = false) :
    (winStep loc o s c).slot d = s.slot d := by
  by_cases hd : d = c
  · subst hd
    exact congrArg (State.slot · d) (if_neg (by simp [h]))
  · exact (winStep_leavesBut loc o s c).slots d hd
theorem pruned_offSide {loc : Nat} {side : Bool} {s : State} {d : CtxId} (l : List CtxId) (h : onSide (s.slot d).chain loc side = false) :
    (l.foldl (pruneStep loc side) s).slot d = s.slot d :=
  List.foldlRecOn l _ (motive := fun t : State => t.slot d = s.slot d) rfl
    (fun t ht c _ => (pruneStep_offSide c (by rw [ht]; exact h)).trans ht)
theorem won_offSide {loc : Nat} {o : Bool} {s : State} {d : CtxId} (l : List CtxId) (h : onSide (s.slot d).chain loc o = false) :
    (l.foldl (winStep loc o) s).slot d = s.slot d :=
  List.foldlRecOn l _ (motive := fun t : State => t.slot d = s.slot d) rfl
    (fun t ht c _ => (winStep_offSide c (by rw [ht]; exact h)).trans ht)
/-- Each task of a list that stands on the losing side is pruned. -/
theorem pruned_onSide {loc : Nat} {side : Bool} {s : State} {d : CtxId} (l : List CtxId) (hd : d ∈ l) (h : onSide (s.slot d).chain loc side = true) :
    (l.foldl (pruneStep loc side) s).slot d = (s.slot d).clear := by
  induction l generalizing s with
  | nil => exact absurd hd List.not_mem_nil
  | cons c r ih =>
    rw [List.foldl_cons]
    by_cases hc : d = c
    · subst hc
      have hp : (pruneStep loc side s d).slot d = (s.slot d).clear := by rw [pruneStep, if_pos h, (pruneSlot_spec s d).1]
      rw [pruned_offSide r (by rw [hp]; rfl), hp]
    · have hs := (pruneStep_leavesBut loc side s c).slots d hc
      rw [ih ((List.mem_cons.1 hd).resolve_left hc) (by rw [hs]; exact h), hs]

/-! ## The outcome noted (R264, R268) -/

theorem updatePreds_frame (s : State) (cl : ClusterId) (lid : BitVec 32) (l : List Nat) (o : Bool) :
    let u := updatePreds s cl lid l o
    u.cores = s.cores ∧ u.gangs = s.gangs ∧ (u.cluster cl).conds = (s.cluster cl).conds := by
  refine List.foldlRecOn l _ (motive := fun t : State => t.cores = s.cores ∧ t.gangs = s.gangs ∧ (t.cluster cl).conds = (s.cluster cl).conds)
    ⟨rfl, rfl, rfl⟩ (fun t ⟨hc, hg, hd⟩ i _ => ⟨hc, hg, ?_⟩)
  rw [State.cluster_modCluster, if_pos rfl]
  exact hd
/-- Each entry of a list without repetitions is updated once, and no other. -/
theorem updatePreds_predictor (s : State) (cl : ClusterId) (lid : BitVec 32) (l : List Nat) (o : Bool) (hl : l.Nodup) (i : Nat) :
    let old : PredEntry := ⟨0x8000, 0, 0⟩
    kget ((updatePreds s cl lid l o).cluster cl).predictor i old =
      if i ∈ l then (kget (s.cluster cl).predictor i old).update lid o else kget (s.cluster cl).predictor i old := by
  intro old
  induction l generalizing s with
  | nil => rfl
  | cons j r ih =>
    obtain ⟨hj, hr⟩ := List.nodup_cons.1 hl
    refine (ih (s.modCluster cl (fun c => { c with predictor := kset c.predictor j ((kget c.predictor j old).update lid o) })) hr).trans ?_
    rw [State.cluster_modCluster, if_pos rfl]
    by_cases hij : i = j
    · subst hij
      rw [if_neg hj, if_pos List.mem_cons_self, kget_kset_self]
    · simp only [kget_kset_ne _ _ _ _ _ hij, List.mem_cons, hij, false_or]
theorem PredEntry.update_eq (e : PredEntry) (lid : BitVec 32) (o : Bool) :
    let p := if e.tag = lid.setWidth 16 then e.p else 0x8000
    let n := if e.tag = lid.setWidth 16 then e.count else 0
    e.update lid o = ⟨if o then p + (0x10000 - p) / 8 else p - p / 8, lid.setWidth 16, Nat.min 3 (n + 1)⟩ := by
  intro p n
  by_cases h : e.tag = lid.setWidth 16 <;> simp [PredEntry.update, p, n, h]

/-- A condition with its outcome, its noted predictor entries being used up. -/
def Cond.settled (o : Bool) (e : Cond) : Cond := { e with outcome := some o, preds := [] }
/-- A cluster that has opened a condition, where it did not hold it, has trained the predictor entries noted for it and has noted the outcome. -/
def noteOutcome (s : State) (cl : ClusterId) (g loc : Nat) (o : Bool) : State :=
  let preds := match (s.cluster cl).cond g loc with | some e => e.preds | none => []
  (updatePreds (openCond s cl g loc) cl (s.launch (s.gang g).launch).lid preds o).modCluster cl (fun c =>
    { c with conds := c.conds.map (fun x => if x.gang = g && x.word = loc then x.settled o else x) })

theorem openCond_cond (s : State) (cl : ClusterId) (g loc : Nat) : ∃ e, ((openCond s cl g loc).cluster cl).cond g loc = some e := by
  rw [openCond, State.cluster_modCluster, if_pos rfl]
  split
  · exact Option.isSome_iff_exists.1 ‹_›
  · rename_i h
    refine ⟨⟨g, loc, none, []⟩, ?_⟩
    have hnone : (s.cluster cl).conds.find? (fun x => x.gang = g && x.word = loc) = none := Option.not_isSome_iff_eq_none.1 h
    simp [Cluster.cond, List.find?_append, hnone]
theorem openCond_predictor (s : State) (cl : ClusterId) (g loc : Nat) :
    ((openCond s cl g loc).cluster cl).predictor = (s.cluster cl).predictor := by
  rw [openCond, State.cluster_modCluster, if_pos rfl]
  split <;> rfl
theorem noteOutcome_frame (s : State) (cl : ClusterId) (g loc : Nat) (o : Bool) :
    (noteOutcome s cl g loc o).cores = s.cores ∧ (noteOutcome s cl g loc o).gangs = s.gangs :=
  ⟨(updatePreds_frame ..).1, (updatePreds_frame ..).2.1⟩
theorem noteOutcome_cond (s : State) (cl : ClusterId) (g loc : Nat) (o : Bool) :
    ∃ e, ((noteOutcome s cl g loc o).cluster cl).cond g loc = some e ∧ e.outcome = some o := by
  obtain ⟨e, he⟩ := openCond_cond s cl g loc
  refine ⟨e.settled o, ?_, rfl⟩
  have hp := List.find?_some he
  unfold noteOutcome
  extract_lets preds
  rw [State.cluster_modCluster, if_pos rfl]
  have hsame : (fun x : Cond => decide (x.gang = g) && decide (x.word = loc)) ∘
      (fun x => if x.gang = g && x.word = loc then x.settled o else x) = fun x => decide (x.gang = g) && decide (x.word = loc) := by
    funext x
    by_cases h : (x.gang = g && x.word = loc) = true
    · simp only [Function.comp_apply, if_pos h]; rfl
    · simp only [Function.comp_apply, if_neg h]
  rw [Cluster.cond, List.find?_map, hsame, (updatePreds_frame ..).2.2]
  refine (congrArg (Option.map _) he).trans ?_
  rw [Option.map_some, if_pos hp]
theorem noteOutcome_predictor (s : State) (cl : ClusterId) (g loc : Nat) (o : Bool) (i : Nat) :
    let old : PredEntry := ⟨0x8000, 0, 0⟩
    let noted := (((s.cluster cl).cond g loc).map (fun e => e.preds)).getD []
    noted.Nodup → kget ((noteOutcome s cl g loc o).cluster cl).predictor i old =
      if i ∈ noted then (kget (s.cluster cl).predictor i old).update (s.launch (s.gang g).launch).lid o
      else kget (s.cluster cl).predictor i old := by
  intro old noted hn
  have hpreds : (match (s.cluster cl).cond g loc with | some e => e.preds | none => []) = noted := by
    cases h : (s.cluster cl).cond g loc <;> simp [noted, h]
  unfold noteOutcome
  extract_lets preds
  rw [State.cluster_modCluster, if_pos rfl, show preds = noted from hpreds]
  refine (updatePreds_predictor _ _ _ _ _ hn i).trans ?_
  rw [openCond_predictor]

/-! ## Nodes that take an outcome (R248, R274) -/

theorem settleWhile_walkersOnly (s : State) (g n : Nat) (x : Node) (o : Bool) : WalkersOnly s (settleWhile s g n x o) := by
  unfold settleWhile
  split
  · extract_lets t
    have ht : WalkersOnly s t := .modGang _ _ _ (fun _ => rfl)
    exact ht.trans (modNode_walkersOnly ..)
  · extract_lets t left stands v
    have ht : WalkersOnly s t := .foldl (fun s j => modNode_walkersOnly ..) _ s
    have hv : WalkersOnly t v := .modGang _ _ _ (fun _ => rfl)
    exact ((ht.trans hv).trans (modNode_walkersOnly ..)).trans (followIn_walkersOnly ..)
theorem nodeOutcome_walkersOnly (g loc : Nat) (o : Bool) (s : State) (i : Nat) : WalkersOnly s (nodeOutcome g loc o s i) := by
  unfold nodeOutcome
  split
  · exact .refl s
  · extract_lets lost direct ins n
    split
    · exact .refl s
    · split
      · exact followIn_walkersOnly ..
      · exact (WalkersOnly.tick s).trans (modNode_walkersOnly ..)

/-! ## The outcome taken (R289) -/

/-- A cluster that takes an outcome has noted it, and then changes neither its tables nor what gangs hold; the tasks of the other side are gone, and
a task that waits for nothing is as it was. -/
theorem takeOutcome_spec (s : State) (cl : ClusterId) (g loc : Nat) (o : Bool)
    (htask : ∃ d ∈ (s.gang g).held, (s.slot d).gang = some g ∧ (s.slot d).chain = []) :
    TablesStand (noteOutcome s cl g loc o) (takeOutcome s cl g loc o) ∧
      ∀ d ∈ tasksIn s g cl, onSide (s.slot d).chain loc (!o) = true → (takeOutcome s cl g loc o).slot d = (s.slot d).clear := by
  obtain ⟨hcores, hgangs⟩ := noteOutcome_frame s cl g loc o
  unfold takeOutcome
  extract_lets lid preds t1 t2 mine ns t3 t4 t5 t6 t7 t8
  have h2 : t2 = noteOutcome s cl g loc o := rfl
  rw [← h2] at hcores hgangs ⊢
  have htasks : tasksIn t2 g cl = tasksIn s g cl := by
    simp only [tasksIn, State.gang_congr hgangs, State.slot_congr hcores]
  have h3 : t3 = (tasksIn t2 g cl).foldl (pruneStep loc (!o)) t2 := rfl
  have h8 : t8 = (tasksIn t7 g cl).foldl (winStep loc o) t7 := rfl
  have hstand3 : TablesStand t2 t3 := .foldl (f := pruneStep loc (!o)) (fun t c => (pruneStep_leavesBut loc (!o) t c).stand) _ t2
  have hstand8 : TablesStand t7 t8 := .foldl (f := winStep loc o) (fun t c => (winStep_leavesBut loc o t c).stand) _ t7
  have h4 : WalkersOnly t3 t4 := .modCluster _ _ _ (fun _ => ⟨rfl, rfl⟩)
  have h5 : WalkersOnly t4 t5 := by
    refine .foldl (fun t i => ?_) _ t4
    split
    · split
      · exact settleWhile_walkersOnly ..
      · exact .refl t
    · exact .refl t
  have h6 : WalkersOnly t5 t6 := .foldl (nodeOutcome_walkersOnly g loc o) _ t5
  have h7 : WalkersOnly t6 t7 := .modCluster _ _ _ (fun _ => ⟨rfl, rfl⟩)
  have h37 : WalkersOnly t3 t7 := ((h4.trans h5).trans h6).trans h7
  have h9 : WalkersOnly t8 (feedPools t8 g) := feedPools_walkersOnly ..
  have hstand : TablesStand t2 (feedPools t8 g) := ((hstand3.trans h37.stand).trans hstand8).trans h9.stand
  -- a task without a chain is changed by none of these from `t3` on
  have hlast : ∀ d, (t3.slot d).chain = [] → (feedPools t8 g).slot d = t3.slot d := by
    intro d hd
    have h7d : t7.slot d = t3.slot d := State.slot_congr h37.cores d
    rw [State.slot_congr h9.cores, h8, won_offSide _ (by rw [h7d, hd]; rfl), h7d]
  have hend : endNode (feedPools t8 g) g = feedPools t8 g := by
    obtain ⟨d, hd, hg, hch⟩ := htask
    have h3d : t3.slot d = s.slot d := by
      rw [h3, pruned_offSide _ (by rw [State.slot_congr hcores, hch]; rfl), State.slot_congr hcores]
    refine endNode_of_task ⟨d, ?_, ?_⟩
    · rwa [hstand.held, State.gang_congr hgangs]
    · rw [hlast d (by rw [h3d, hch]), h3d, hg]
  rw [hend]
  refine ⟨hstand, fun d hd hside => ?_⟩
  have h3d : t3.slot d = (s.slot d).clear := by
    rw [h3, pruned_onSide _ (by rw [htasks]; exact hd) (by rw [State.slot_congr hcores]; exact hside), State.slot_congr hcores]
  rw [hlast d (by rw [h3d]; rfl), h3d]

theorem conditionOutcomeArrival_takes {s : State} {cl : ClusterId} {g word : Nat} {o : Bool} {x : Claim}
    (hx : (s.gang g).claims.find? (fun x => x.word = word && !x.freed) = some x) (ho : x.outcome = some o) (hc : (s.gang g).covers cl = true)
    (hrun : (s.gang g).status = .running) (hopen : ∀ e, (s.cluster cl).cond g word = some e → e.outcome = none) :
    exec (.conditionOutcomeArrival cl g word) s = .next (takeOutcome s cl g word o) := by
  show execConditionOutcomeArrival cl g word s = _
  cases he : (s.cluster cl).cond g word with
  | none =>
    simp only [execConditionOutcomeArrival, hx, ho, he, hc, hrun]
    exact congrArg _ (if_neg (by simp))
  | some e =>
    simp only [execConditionOutcomeArrival, hx, ho, he, hopen e he, hc, hrun]
    exact congrArg _ (if_neg (by simp))

end Sys2Proof.Machine
end

section
/-! SUPPORT. A segment taken by an idle slot (R247, R249, R251, R337): which segment it is, the slot as it starts, and what stands in its region. -/

namespace Sys2Proof.Machine

/-! ## Values written one after another -/

/-- Values of `n` bytes written one after another, each at the place of its index. -/
def writeRow {α : Type} (n : Nat) (place : Nat → Nat) (val : α → Nat) (vs : List α) (s : State) : State :=
  (vs.mapIdx (fun i v => (i, v))).foldl (fun s p => s.write (place p.1) n (val p.2)) s
theorem writeBytes_eq (s : State) (loc : Nat) (bs : List Byte) : s.writeBytes loc bs = writeRow 1 (loc + ·) BitVec.toNat bs s := rfl

section
variable {α : Type} (n : Nat) (place : Nat → Nat) (val : α → Nat)

theorem writeRow_append (vs : List α) (v : α) (s : State) :
    writeRow n place val (vs ++ [v]) s = (writeRow n place val vs s).write (place vs.length) n (val v) := by
  simp [writeRow, List.mapIdx_concat]
theorem writeRow_frame (vs : List α) (s : State) :
    writeRow n place val vs s = { s with mem := (writeRow n place val vs s).mem, poison := (writeRow n place val vs s).poison } :=
  List.foldlRecOn _ _ (motive := fun t : State => t = { s with mem := t.mem, poison := t.poison }) rfl (fun t ht p _ => by rw [ht]; rfl)

variable {loc : Nat} (hplace : ∀ i, place i = loc + n * i)
include hplace

/-- A row in memory: the canonical form is kept, each value stands at its place, and nothing beside the row changes. -/
theorem writeRow_spec (vs : List α) (s : State) (hw : Memory.wf s.mem = true) :
    let u := writeRow n place val vs s
    Memory.wf u.mem = true ∧ (∀ i v, vs[i]? = some v → Memory.getN u.mem (loc + n * i) n = val v % 256 ^ n) ∧
      ∀ a, a < loc ∨ loc + n * vs.length ≤ a → Memory.get u.mem a = Memory.get s.mem a := by
  induction vs using List.reverseRecOn with
  | nil => exact ⟨hw, by simp, fun _ _ => rfl⟩
  | append_singleton vs v ih =>
    obtain ⟨hwf, hin, hout⟩ := ih
    intro u
    have hu : u = _ := writeRow_append n place val vs v s
    rw [hplace] at hu
    have hmem : u.mem = Memory.setN (writeRow n place val vs s).mem (loc + n * vs.length) n (val v) := by rw [hu]; rfl
    rw [hmem]
    refine ⟨Memory.wf_setN _ _ _ _ hwf, fun i x hi => ?_, fun a ha => ?_⟩
    · rcases Nat.lt_trichotomy i vs.length with hlt | heq | hgt
      · rw [List.getElem?_append_left hlt] at hi
        rw [← hin i x hi]
        have hle : n * (i + 1) ≤ n * vs.length := Nat.mul_le_mul_left n hlt
        rw [Nat.mul_succ] at hle
        exact Memory.getN_congr _ _ _ _ (fun j hj => Memory.get_setN_out _ _ _ _ _ hwf (.inl (by omega)))
      · subst heq
        rw [List.getElem?_concat_length] at hi
        cases hi
        exact Memory.getN_setN _ _ _ _ hwf
      · rw [List.getElem?_eq_none (by simp; omega)] at hi
        cases hi
    · rw [List.length_append, List.length_singleton, Nat.mul_succ] at ha
      rw [Memory.get_setN_out _ _ _ _ _ hwf (by omega), hout a (by omega)]
end

theorem Memory.get_clear_out (m : List Host.Cell) (a n x : Nat) (h : Memory.wf m = true) (hx : x < a ∨ a + n ≤ x) :
    Memory.get (Memory.clear m a n) x = Memory.get m x :=
  Memory.get_filter m (fun l => decide (l < a) || decide (a + n ≤ l)) x h (by simpa using hx)

/-! ## The best segment for a slot (R249, R251, R372) -/

/-- A slot of a serialised launch takes only a segment that is certain. -/
theorem segmentFor_certain {s : State} {c : CtxId} {p : Segment} (h : segmentFor s c = some p)
    (hs : (s.launch (s.gang p.gang).launch).serial = true) : p.chain = [] := by
  unfold segmentFor at h
  extract_lets cl ok at h
  have hok : ok p = true := by
    refine List.foldlRecOn _ _ (motive := fun b : Option Segment => ∀ q, b = some q → ok q = true) (fun q hq => by simp at hq)
      (fun b hb q hq r hr => ?_) p h
    have hqok := (List.mem_filter.1 hq).2
    split at hr
    · cases hr; exact hqok
    · split at hr <;> cases hr
      · exact hqok
      · exact hb _ rfl
  have hchain := (Bool.and_eq_true_iff.1 hok).2
  rw [hs] at hchain
  simpa using hchain

/-! ## A task dispatched (R247, R337) -/

/-- The registers with which a task starts. -/
def startCx (s : State) (c : CtxId) (g : Nat) (t : Task) : Ctxt :=
  ({ Ctxt.reset with pc := t.entry,
                     a := if (s.slot c).lastPid = some (s.launch (s.gang g).launch).pid then startRegs (s.slot c) (s.fresh + 1)
                          else Vector.replicate 32 0 } : Ctxt).putA 1 (BitVec.ofNat 64 (0x2000 * c.who.val)) none

theorem startCx_pc (s : State) (c : CtxId) (g : Nat) (t : Task) : (startCx s c g t).pc = t.entry :=
  congrArg Ctxt.pc (Ctxt.putA_spec _ 1 _).2.2.1
theorem startCx_ra_one (s : State) (c : CtxId) (g : Nat) (t : Task) : (startCx s c g t).ra 1 = BitVec.ofNat 64 (0x2000 * c.who.val) :=
  (Ctxt.putA_spec _ 1 _).1
/-- In a slot of the same process every register holds zero or what one of the slot's held; in another slot they are zero. -/
theorem startCx_ra_same {s : State} {c : CtxId} {g : Nat} (t : Task) (h : (s.slot c).lastPid = some (s.launch (s.gang g).launch).pid)
    (r : BitVec 5) (hr : r ≠ 1) : ∃ q : BitVec 5, (startCx s c g t).ra r = (s.slot c).cx.ra q := by
  rw [startCx, ((Ctxt.putA_spec _ 1 _).2.2.2 r hr).1, if_pos h]
  by_cases h0 : r = 0
  · exact ⟨0, by rw [h0]; rfl⟩
  · exact ⟨_, by rw [Ctxt.ra, if_neg h0, startRegs, Vector.getElem_mapIdx]⟩
theorem startCx_ra_other {s : State} {c : CtxId} {g : Nat} (t : Task) (h : (s.slot c).lastPid ≠ some (s.launch (s.gang g).launch).pid)
    (r : BitVec 5) (hr : r ≠ 1) : (startCx s c g t).ra r = 0 := by
  rw [startCx, ((Ctxt.putA_spec _ 1 _).2.2.2 r hr).1, if_neg h, Ctxt.ra]
  split
  · rfl
  · exact Vector.getElem_replicate ..

/-- The first location of a context's slot region, and of its inbox. -/
def regionOf (c : CtxId) : Nat := privLoc c.core (0x2000 * c.who.val)
def inboxOf (c : CtxId) : Nat := inboxLoc c.core (0x100 * c.who.val)
theorem regionOf_add (c : CtxId) (i : Nat) : privLoc c.core (0x2000 * c.who.val + 8 * i) = regionOf c + 8 * i := by
  simp only [regionOf, privLoc, globLoc]
  omega

/-- What stands of memory where a task of another process follows: its slot region and inbox are cleared (R337). -/
def vacated (s : State) (c : CtxId) (g : Nat) : State :=
  if (s.slot c).lastPid = some (s.launch (s.gang g).launch).pid then s else clearBytes (clearBytes s (regionOf c) 0x2000) (inboxOf c) 0x100
/-- The object's `.data` at the start of an entry task's region, and the captured words of a segment at the start of its. -/
def withData (c : CtxId) (role : Role) (data : List Byte) (s : State) : State :=
  if role = .entry then s.writeBytes (regionOf c) data else s
def withCapture (c : CtxId) (capture : Option (List DWord)) (s : State) : State :=
  match capture with
  | none => s
  | some ws => writeRow 8 (fun i => privLoc c.core (0x2000 * c.who.val + 8 * i)) BitVec.toNat ws s

theorem vacated_frame (s : State) (c : CtxId) (g : Nat) :
    vacated s c g = { s with mem := (vacated s c g).mem, poison := (vacated s c g).poison } := by
  unfold vacated
  split <;> rfl
theorem withData_frame (c : CtxId) (role : Role) (data : List Byte) (s : State) :
    withData c role data s = { s with mem := (withData c role data s).mem, poison := (withData c role data s).poison } := by
  unfold withData
  split
  · exact writeRow_frame ..
  · rfl
theorem withCapture_frame (c : CtxId) (capture : Option (List DWord)) (s : State) :
    withCapture c capture s = { s with mem := (withCapture c capture s).mem, poison := (withCapture c capture s).poison } := by
  unfold withCapture
  split
  · rfl
  · exact writeRow_frame ..

/-- A task dispatched: its slot, over memory that is vacated and holds its data and captured words. -/
theorem dispatch_eq (s : State) (c : CtxId) (g : Nat) (t : Task) :
    ∃ sl : Slot, dispatch s c g t =
        withCapture c t.capture (withData c t.role (s.dataOf (s.launch (s.gang g).launch))
          ({ vacated s c g with fresh := s.fresh + 33 }.setSlot c sl)) ∧
      sl.phase = .live ∧ sl.taskId = t.taskId ∧ sl.gang = some g ∧ sl.chain = t.chain ∧ sl.role = t.role ∧ sl.gens = (s.slot c).gens + 1 ∧
      sl.cx = startCx s c g t ∧
      ((s.launch (s.gang g).launch).rc.digest = true → sl.digest = gen (s.launch (s.gang g).launch).rc.seed t.taskId) := by
  unfold dispatch
  extract_lets l k old same base s0 a _ cx _ sl s1 s2
  have h0 : s0 = vacated s c g := rfl
  have hfresh : s0.fresh = s.fresh := by rw [h0, vacated_frame]
  have hcx : cx = startCx s c g t := by
    rw [startCx, ← hfresh]
  have hdata : s1.dataOf l = s.dataOf l := by
    show s0.dataOf l = _
    rw [h0, vacated_frame]
    rfl
  have h1 : s1 = { vacated s c g with fresh := s.fresh + 33 }.setSlot c sl := by rw [← h0, ← hfresh]
  have h2 : s2 = withData c t.role (s.dataOf l) s1 := by
    rw [← hdata]
    rfl
  refine ⟨sl, ?_, rfl, rfl, rfl, rfl, rfl, rfl, hcx, fun h => if_pos h⟩
  rw [← h1, ← h2]
  rfl

/-- What a dispatch changes beside memory: the slot's content, and the counter of fresh numbers. -/
theorem dispatch_frame (s : State) (c : CtxId) (g : Nat) (t : Task) :
    (dispatch s c g t).clusters = s.clusters ∧ ∀ d, d ≠ c → (dispatch s c g t).slot d = s.slot d := by
  obtain ⟨sl, hu, -⟩ := dispatch_eq s c g t
  rw [hu, withCapture_frame, withData_frame, vacated_frame]
  exact ⟨rfl, fun d hd => State.slot_setSlot_ne s c d sl hd⟩
/-- The slot with which a task is dispatched. -/
theorem dispatch_slot (s : State) (c : CtxId) (g : Nat) (t : Task) :
    let sl := (dispatch s c g t).slot c
    sl.phase = .live ∧ sl.taskId = t.taskId ∧ sl.gang = some g ∧ sl.chain = t.chain ∧ sl.role = t.role ∧ sl.gens = (s.slot c).gens + 1 ∧
      sl.cx = startCx s c g t ∧
      ((s.launch (s.gang g).launch).rc.digest = true → sl.digest = gen (s.launch (s.gang g).launch).rc.seed t.taskId) := by
  obtain ⟨sl, hu, hsl⟩ := dispatch_eq s c g t
  rw [hu, withCapture_frame, withData_frame, vacated_frame]
  exact (State.slot_setSlot s c sl).symm ▸ hsl

/-! ## Memory at the start of a task (R29, R247, R337, R382) -/

theorem vacated_mem (s : State) (c : CtxId) (g : Nat) (hw : Memory.wf s.mem = true) :
    Memory.wf (vacated s c g).mem = true ∧ ∀ a, a < regionOf c ∨ regionOf c + 0x2000 ≤ a → a < inboxOf c ∨ inboxOf c + 0x100 ≤ a →
      Memory.get (vacated s c g).mem a = Memory.get s.mem a := by
  unfold vacated
  split
  · exact ⟨hw, fun _ _ _ => rfl⟩
  · have hr := Memory.wf_clear s.mem (regionOf c) 0x2000 hw
    refine ⟨Memory.wf_clear _ (inboxOf c) 0x100 hr, fun a ha hi => ?_⟩
    exact (Memory.get_clear_out _ _ _ _ hr hi).trans (Memory.get_clear_out _ _ _ _ hw ha)
theorem withData_mem (c : CtxId) (role : Role) (data : List Byte) (s : State) (hw : Memory.wf s.mem = true) (hlen : data.length ≤ 0x2000) :
    let u := withData c role data s
    Memory.wf u.mem = true ∧ (role = .entry → ∀ (i : Nat) (b : Byte), data[i]? = some b → Memory.get u.mem (regionOf c + i) = b) ∧
      ∀ a, a < regionOf c ∨ regionOf c + 0x2000 ≤ a → Memory.get u.mem a = Memory.get s.mem a := by
  intro u
  by_cases hrole : role = .entry
  · have hu : u = writeRow 1 (regionOf c + ·) BitVec.toNat data s := if_pos hrole
    obtain ⟨hwf, hin, hout⟩ := writeRow_spec 1 (regionOf c + ·) BitVec.toNat (loc := regionOf c) (fun i => by rw [Nat.one_mul]) data s hw
    rw [hu]
    refine ⟨hwf, fun _ i b hi => BitVec.eq_of_toNat_eq ?_, fun a ha => hout a (by omega)⟩
    have hb := hin i b hi
    rw [Nat.one_mul, Nat.pow_one, Nat.mod_eq_of_lt b.isLt] at hb
    exact hb
  · have hu : u = s := if_neg hrole
    rw [hu]
    exact ⟨hw, fun h => absurd h hrole, fun _ _ => rfl⟩
theorem withCapture_mem (c : CtxId) (capture : Option (List DWord)) (s : State) (hw : Memory.wf s.mem = true) :
    let u := withCapture c capture s
    (∀ ws, capture = some ws → ∀ (i : Nat) (v : DWord), ws[i]? = some v → Memory.getN u.mem (regionOf c + 8 * i) 8 = v.toNat) ∧
      ((∀ ws, capture = some ws → ws.length ≤ 1024) → ∀ a, a < regionOf c ∨ regionOf c + 0x2000 ≤ a →
        Memory.get u.mem a = Memory.get s.mem a) := by
  cases capture with
  | none => exact ⟨fun _ h => (by cases h), fun _ _ _ => rfl⟩
  | some ws =>
    intro u
    obtain ⟨-, hin, hout⟩ := writeRow_spec 8 (fun i => privLoc c.core (0x2000 * c.who.val + 8 * i)) BitVec.toNat (regionOf_add c) ws s hw
    refine ⟨fun vs h i v hi => ?_, fun h a ha => hout a ?_⟩
    · cases h
      exact (hin i v hi).trans (Nat.mod_eq_of_lt v.isLt)
    · have := h ws rfl
      omega

theorem dataOf_length (s : State) (l : Launch) : (s.dataOf l).length ≤ 0x2000 := by
  unfold State.dataOf
  split
  · split
    · exact List.length_take_le ..
    · exact Nat.zero_le _
  · exact Nat.zero_le _
/-- The first 8 KiB of an object's `.data`. -/
theorem dataOf_get {s : State} {l : Launch} {x : Nat × Loaded} (himg : l.img = some x.1) (hx : s.loaded.find? (fun y => y.1 = x.1) = some x)
    {i : Nat} {b : Byte} (hi : i < 0x2000) (hb : x.2.data[i]? = some b) : (s.dataOf l)[i]? = some b := by
  simp only [State.dataOf, himg, hx]
  rw [List.getElem?_take_of_lt hi, hb]

/-- Memory `m'` at the start of a task of a slot, where it was `m`: the data of an entry task without captured words, the captured words of a
segment, and what is left beside the slot's region and inbox. -/
structure StartMem (c : CtxId) (role : Role) (capture : Option (List DWord)) (data : List Byte) (m m' : List Host.Cell) : Prop where
  data : role = .entry → capture = none → ∀ (i : Nat) (b : Byte), data[i]? = some b → Memory.get m' (regionOf c + i) = b
  words : ∀ ws, capture = some ws → ∀ (i : Nat) (v : DWord), ws[i]? = some v → Memory.getN m' (regionOf c + 8 * i) 8 = v.toNat
  beside : (∀ ws, capture = some ws → ws.length ≤ 1024) → ∀ a, a < regionOf c ∨ regionOf c + 0x2000 ≤ a →
    a < inboxOf c ∨ inboxOf c + 0x100 ≤ a → Memory.get m' a = Memory.get m a
theorem dispatch_mem (s : State) (c : CtxId) (g : Nat) (t : Task) (hw : Memory.wf s.mem = true) :
    StartMem c t.role t.capture (s.dataOf (s.launch (s.gang g).launch)) s.mem (dispatch s c g t).mem := by
  obtain ⟨sl, hu, -⟩ := dispatch_eq s c g t
  obtain ⟨hw0, hout0⟩ := vacated_mem s c g hw
  obtain ⟨hw1, hin1, hout1⟩ := withData_mem c t.role (s.dataOf (s.launch (s.gang g).launch))
    ({ vacated s c g with fresh := s.fresh + 33 }.setSlot c sl) hw0 (dataOf_length ..)
  obtain ⟨hin2, hout2⟩ := withCapture_mem c t.capture _ hw1
  rw [hu]
  refine ⟨fun hrole hcap i b hi => ?_, hin2, fun hlen a ha hi => ?_⟩
  · rw [hcap]
    exact hin1 hrole i b hi
  · exact ((hout2 hlen a ha).trans (hout1 a ha)).trans (hout0 a ha hi)

/-! ## A segment taken (R249) -/

/-- What a segment is dispatched with. -/
def Segment.task (p : Segment) : Task :=
  { taskId := p.taskId, entry := p.entry, role := p.role, chain := p.chain, parents := p.parents, eclass := p.eclass, uid := p.uid,
    capture := p.capture }
/-- A cluster whose pool a segment has left. -/
def leavePool (s : State) (cl : ClusterId) (p : Segment) : State := s.modCluster cl (fun k => { k with pool := k.pool.filter (fun q => q.uid ≠ p.uid) })

theorem segmentTake_eq {s : State} {c : CtxId} {p : Segment} (hc : c.who ≠ 4) (hi : (s.slot c).phase = .idle) (hp : segmentFor s c = some p) :
    exec (.segmentTake c) s = .next (feedPool (dispatch (leavePool s c.core.cl p) c p.gang p.task) c.core.cl) := by
  show execSegmentTake c s = _
  rw [execSegmentTake, if_neg (by simp [hc, hi]), hp]
  rfl
/-- The pool after a segment has left it and others have entered. -/
theorem segmentTake_pool (s : State) (c : CtxId) (p : Segment) :
    ∃ r, ((feedPool (dispatch (leavePool s c.core.cl p) c p.gang p.task) c.core.cl).cluster c.core.cl).pool =
      (s.cluster c.core.cl).pool.filter (fun q => q.uid ≠ p.uid) ++ r := by
  obtain ⟨r, hr⟩ := feedPool_pool (dispatch (leavePool s c.core.cl p) c p.gang p.task) c.core.cl
  refine ⟨r, hr.trans (congrArg (· ++ r) ?_)⟩
  rw [State.cluster_congr (dispatch_frame ..).1, leavePool, State.cluster_modCluster, if_pos rfl]

/-- The start of a segment in an idle slot, as the slot's own fields, the cluster's pool and memory tell. -/
theorem segmentTake_spec (s : State) (c : CtxId) (p : Segment) (hc : c.who ≠ 4) (hi : (s.slot c).phase = .idle) (hp : segmentFor s c = some p) :
    let l := s.launch (s.gang p.gang).launch
    ∃ u : State, exec (.segmentTake c) s = .next u ∧
      (u.slot c).phase = .live ∧ (u.slot c).taskId = p.taskId ∧ (u.slot c).gang = some p.gang ∧ (u.slot c).chain = p.chain ∧
      (u.slot c).role = p.role ∧ (l.rc.digest = true → (u.slot c).digest = gen l.rc.seed p.taskId) ∧ (u.slot c).gens = (s.slot c).gens + 1 ∧
      (u.slot c).cx = startCx s c p.gang p.task ∧
      (∃ r, (u.cluster c.core.cl).pool = (s.cluster c.core.cl).pool.filter (fun q => q.uid ≠ p.uid) ++ r) ∧ (∀ d, d ≠ c → u.slot d = s.slot d) ∧
      (Memory.wf s.mem = true → StartMem c p.role p.capture (s.dataOf l) s.mem u.mem) := by
  intro l
  let v := dispatch (leavePool s c.core.cl p) c p.gang p.task
  obtain ⟨hphase, hid, hgang, hchain, hrole, hgens, hcx, hdigest⟩ := dispatch_slot (leavePool s c.core.cl p) c p.gang p.task
  obtain ⟨hmem, hcores, -⟩ := feedPool_walkersOnly v c.core.cl
  have hslot : ∀ d, (feedPool v c.core.cl).slot d = v.slot d := State.slot_congr hcores
  refine ⟨feedPool v c.core.cl, segmentTake_eq hc hi hp, ?_⟩
  rw [hslot, hmem]
  exact ⟨hphase, hid, hgang, hchain, hrole, hdigest, hgens, hcx, segmentTake_pool s c p,
    fun d hd => (hslot d).trans ((dispatch_frame ..).2 d hd), dispatch_mem (leavePool s c.core.cl p) c p.gang p.task⟩

/-- Settles O47: a cluster takes an outcome; a slot takes a segment; and conditional and while nodes take the outcome of their condition. -/
theorem segmentsAndNodesRun : Obligations.SegmentsAndNodesRun := by
  unfold Obligations.SegmentsAndNodesRun
  intro s cl g n word o c
  refine ⟨fun x hx ho hcov hrun hopen htask => ?_, fun p hc hidle hp => ?_, fun x loc e hx hsome hfin hexit hrun htask hword hcond => ?_⟩
  · intro old lid noted
    obtain ⟨⟨htables, -⟩, hgone⟩ := takeOutcome_spec s cl g word o htask
    refine ⟨_, conditionOutcomeArrival_takes hx ho hcov hrun hopen, ?_, fun hnodup i => ?_, fun d hd hside => ?_⟩
    · rw [Cluster.cond, (htables cl).1]
      exact noteOutcome_cond s cl g word o
    · intro e p n
      rw [(htables cl).2]
      refine (noteOutcome_predictor s cl g word o i hnodup).trans ?_
      rw [PredEntry.update_eq]
    · rw [hgone d hd hside]
      exact ⟨rfl, rfl⟩
  · obtain ⟨u, hu, hphase, hid, hgang, hchain, hrole, hdigest, hgens, hcx, hpool, hother, hstart⟩ :=
      segmentTake_spec s c p hc hidle hp
    refine ⟨u, hu, hphase, hid, hgang, hchain, hrole, hdigest, segmentFor_certain hp, ?_, ?_, hgens, ?_, ?_, hpool, hother,
      fun x hentry hcap himg hload hw i b hi hb => (hstart hw).data hentry hcap i b (dataOf_get himg hload hi hb),
      fun ws hws hlen hw i hi => ?_, fun a ha hbox hlen hw => (hstart hw).beside hlen a ha hbox⟩
    · rw [hcx]; exact startCx_pc s c p.gang p.task
    · rw [hcx]; exact startCx_ra_one s c p.gang p.task
    · rw [hcx]; exact fun r hr hpid => startCx_ra_same p.task hpid r hr
    · rw [hcx]; exact fun r hr hpid => startCx_ra_other p.task hpid r hr
    · exact (hstart hw).words ws hws i _ (by simp [hlen, hi])
  · have hready : x.ready.isNone = false := by simpa using hsome
    refine ⟨fun hk ho => ?_, fun hserial ho hkind => ?_, fun hk hguess hstale hent => ?_⟩
    · obtain ⟨⟨hmem, hcores, -⟩, hend, hlosing⟩ := endConditional_spec s g n x o hx htask
      exact ⟨_, conditionalNode_resolved hx hready hfin hexit hrun hword hcond hk ho, hmem, hcores, hend, hlosing⟩
    · have waits : ∀ i, exec i s = .next s ∨ exec i s = .next (openCond s ((s.gang g).cluster x.cluster) g loc) →
          ∃ u : State, exec i s = .next u ∧ u.gangs = s.gangs ∧ u.mem = s.mem ∧ u.cores = s.cores ∧ ∀ d, u.cluster d = s.cluster d := by
        rintro i (h | h)
        · exact ⟨s, h, rfl, rfl, rfl, fun _ => rfl⟩
        · exact ⟨_, h, rfl, rfl, rfl, openCond_known s _ g loc hcond⟩
      obtain hk | ⟨hk, hguess, hstale, hent⟩ := hkind
      · rw [if_pos hk]
        exact waits _ (conditionalNode_serial_waits hx hready hfin hexit hrun hword hcond hk ho hserial)
      · rw [if_neg (by omega)]
        exact waits _ (whileNode_serial_waits hx hready hfin hexit hrun hword hcond hk hguess hstale hent ho hserial)
    · have hbody : (x.entered && decide (x.bodyLeft ≠ 0)) = false := by rcases hent with h | h <;> simp [h]
      refine ⟨fun ho => ?_, fun ho hn => ?_⟩
      · obtain ⟨⟨hmem, -⟩, hend⟩ := leaveWhile_spec s g n x hx htask
        exact ⟨_, whileNode_leaves hx hready hfin hexit hrun hword hcond hk hguess hstale hbody ho, hmem, hend⟩
      · obtain ⟨⟨hmem, -⟩, hnode⟩ := whileAgain_spec s g n x hx hfin hn
        exact ⟨_, whileNode_again hx hready hfin hexit hrun hword hcond hk hguess hstale hbody ho, hmem, hnode⟩

end Sys2Proof.Machine
end

section
/-! SUPPORT. Decode after encode (R32 to R38, R53): the fields of a word are read where the encoder put them, a family of layouts at a time, and each
instruction of the opcode table is read back from its bytes. -/

namespace Sys2Proof

/-! ## Fields of a word -/

/-- A flag is a field of one bit. -/
theorem b2n_eq (b : Bool) : b2n b = (BitVec.ofBool b).toNat := by cases b <;> rfl
/-- A field as the decoder reads it, from the bits at its place. -/
theorem ofNat_field {n : Nat} {x : BitVec n} {a : Nat} (h : a % 2 ^ n = x.toNat) : BitVec.ofNat n a = x :=
  BitVec.eq_of_toNat_eq (by rw [BitVec.toNat_ofNat, h])
theorem bitAt_field {s : Bool} {a : Nat} (h : a % 2 = (BitVec.ofBool s).toNat) : bitAt a = s := by
  rw [bitAt, h]; cases s <;> rfl
/-- The bits that an encoding fixes, as a rewriting rule: `omega` shows that no operand reaches them. -/
theorem fixed_bits {c r d e : Nat} (h : (c + r) / d % e = c / d % e) : (c + r) / d % e = c / d % e := h

/-! ## Words and their bytes -/

/-- An instruction is read back from its encoding, whatever bytes follow. -/
def ReadsBack (i : Instr) : Prop := ∀ (n w : Nat) (rest : List Byte), i.wf = true → encode i = some (n, w) →
    (n = 16 ∨ n = 32) ∧ w < 2 ^ n ∧ (w % 2 = 0 ↔ n = 16) ∧ decode (leBytes (n / 8) w ++ rest) = .ok (i, rest)

theorem leBytes_two (w : Nat) (rest : List Byte) : leBytes 2 w ++ rest = .ofNat 8 w :: .ofNat 8 (w / 256) :: rest := rfl
theorem leBytes_four (w : Nat) (rest : List Byte) :
    leBytes 4 w ++ rest = .ofNat 8 w :: .ofNat 8 (w / 256) :: .ofNat 8 (w / 256 / 256) :: .ofNat 8 (w / 256 / 256 / 256) :: rest := rfl

/-- The checks of R53 pass on a well-formed instruction. -/
theorem checked_of_wf {i : Instr} (h : i.wf = true) : checked i = .ok i := by
  simp only [Instr.wf, Bool.and_eq_true] at h
  obtain ⟨⟨hf, hr⟩, hd⟩ := h
  simp [checked, hf, hr, hd]

/-- A word whose bit 0 is 1 is read as one 32-bit instruction (R32). -/
theorem decode_word32 {i : Instr} {w : Nat} (rest : List Byte) (hw : w < 2 ^ 32) (ho : w % 2 = 1) (hd : decode32 w = .ok i) :
    decode (leBytes 4 w ++ rest) = .ok (i, rest) := by
  have h1 : w % 256 + 256 * (w / 256 % 256) + 65536 * (w / 256 / 256 % 256 + 256 * (w / 256 / 256 / 256 % 256)) = w := by omega
  have h2 : (w % 256 + 256 * (w / 256 % 256)) % 2 = 1 := by omega
  simp only [leBytes_four, decode, BitVec.toNat_ofNat, Nat.reducePow, h1, h2, hd]
  rfl
/-- A halfword whose bit 0 is 0 is read as one 16-bit instruction (R32). -/
theorem decode_word16 {i : Instr} {w : Nat} (rest : List Byte) (hw : w < 2 ^ 16) (ho : w % 2 = 0) (hd : decode16 w = .ok i) :
    decode (leBytes 2 w ++ rest) = .ok (i, rest) := by
  have h1 : w % 256 + 256 * (w / 256 % 256) = w := by omega
  simp only [leBytes_two, decode, BitVec.toNat_ofNat, Nat.reducePow, h1, ho, hd]
  rfl

theorem fieldsOk_of_wf {i : Instr} (h : i.wf = true) : i.fieldsOk = true := by
  simp only [Instr.wf, Bool.and_eq_true] at h
  exact h.1.1

/-! ## What an instruction's class and its row need -/

theorem region_ok {n : Nat} {r : Except DecodeError Instr} (h : n ≤ 4) : region n r = r := if_pos h
theorem selector_ok {n m : Nat} {r : Except DecodeError Instr} (hn : n = m) (h : selectorAssigned m = true) : selector n r = r := by
  rw [selector, hn, if_pos h]
/-- A 32-bit instruction is read back where the map that bit T selects (R36) gives it. -/
theorem readsBack_map {i : Instr} {w : Nat} (hw : w < 2 ^ 32) (ho : w % 2 = 1)
    (hd : i.wf = true → (if bitAt (w / 4) then decodeC w else decodeA w) = .ok i) (henc : encode i = some (32, w)) : ReadsBack i := by
  intro n v rest hwf hv
  rw [henc] at hv
  cases hv
  refine ⟨.inr rfl, hw, by omega, decode_word32 rest hw ho ?_⟩
  rw [decode32, hd hwf]
  exact checked_of_wf hwf
theorem zeros_ok {b : Bool} {i : Instr} (hb : b = true) : zeros b i = .ok i := by rw [zeros, if_pos hb]

theorem readsBack_a {i : Instr} {w : Nat} (henc : encode i = some (32, w)) (hw : w < 2 ^ 32 ∧ w % 2 = 1 ∧ w / 4 % 2 = 0)
    (hd : i.wf = true → decodeA w = .ok i) : ReadsBack i :=
  readsBack_map hw.1 hw.2.1 (fun h => by simp [bitAt, hw.2.2, hd h]) henc
theorem readsBack_c {i : Instr} {w : Nat} (henc : encode i = some (32, w)) (hw : w < 2 ^ 32 ∧ w % 2 = 1 ∧ w / 4 % 2 = 1)
    (hd : decodeC w = .ok i) : ReadsBack i :=
  readsBack_map hw.1 hw.2.1 (fun _ => by simp [bitAt, hw.2.2, hd]) henc
/-- A step that is no instruction has no encoding. -/
theorem readsBack_event {i : Instr} (h : encode i = none) : ReadsBack i := fun _ _ _ _ he => by rw [h] at he; cases he

/-! ## The layouts that many instructions share

In each, `c` holds the fixed bits, and `hdec` is the decoder's row for words with those bits. -/

/-- rd, rs1 and rs2 (R37). -/
theorem readsBack_rd_rs1_rs2 {mk : Bool → BitVec 5 → BitVec 5 → BitVec 5 → Instr} {c : Nat} {s : Bool} {rd rs1 rs2 : BitVec 5}
    (henc : encode (mk s rd rs1 rs2) = some (32, c + b2n s * 2 + rd.toNat * 1024 + rs1.toNat * 32768 + rs2.toNat * 1048576))
    (hc : c % 8 = 1 ∧ c % 33554432 < 1024 ∧ c < 2 ^ 32)
    (hdec : ∀ w, w / 8 % 128 = c / 8 % 128 → w / 33554432 = c / 33554432 →
      decodeA w = .ok (mk (bitAt (w / 2)) (.ofNat 5 (w / 1024)) (.ofNat 5 (w / 32768)) (.ofNat 5 (w / 1048576)))) : ReadsBack (mk s rd rs1 rs2) := by
  rw [b2n_eq] at henc
  refine readsBack_a henc (by omega) fun _ => ((hdec _ (by omega) (by omega)).trans ?_)
  rw [bitAt_field (s := s) (by omega), ofNat_field (x := rd) (by omega), ofNat_field (x := rs1) (by omega), ofNat_field (x := rs2) (by omega)]

/-- rd, rs1 and a 12-bit immediate (R37). -/
theorem readsBack_rd_rs1_imm {mk : Bool → BitVec 5 → BitVec 5 → BitVec 12 → Instr} {c : Nat} {s : Bool} {rd rs1 : BitVec 5} {imm : BitVec 12}
    (henc : encode (mk s rd rs1 imm) = some (32, c + b2n s * 2 + rd.toNat * 1024 + rs1.toNat * 32768 + imm.toNat * 1048576))
    (hc : c % 8 = 1 ∧ c < 1024)
    (hdec : ∀ w, w / 8 % 128 = c / 8 % 128 →
      decodeA w = .ok (mk (bitAt (w / 2)) (.ofNat 5 (w / 1024)) (.ofNat 5 (w / 32768)) (.ofNat 12 (w / 1048576)))) :
    ReadsBack (mk s rd rs1 imm) := by
  rw [b2n_eq] at henc
  refine readsBack_a henc (by omega) fun _ => ((hdec _ (by omega)).trans ?_)
  rw [bitAt_field (s := s) (by omega), ofNat_field (x := rd) (by omega), ofNat_field (x := rs1) (by omega), ofNat_field (x := imm) (by omega)]

/-- The atomics: rd, rs1, rs2, the size and the signedness (R37, R56). -/
theorem readsBack_atomic {mk : Bool → BitVec 5 → BitVec 5 → BitVec 5 → BitVec 2 → Bool → Instr} {c : Nat} {s u : Bool}
    {rd rs1 rs2 : BitVec 5} {n : BitVec 2}
    (henc : encode (mk s rd rs1 rs2 n u) = some (32, c + b2n s * 2 + rd.toNat * 1024 + rs1.toNat * 32768 + rs2.toNat * 1048576 + n.toNat * 33554432
      + b2n u * 134217728))
    (hc : c % 8 = 1 ∧ c < 1024)
    (hdec : ∀ w, w / 8 % 128 = c / 8 % 128 → w / 268435456 % 16 = 0 → decodeA w = .ok (mk (bitAt (w / 2)) (.ofNat 5 (w / 1024)) (.ofNat 5 (w / 32768))
      (.ofNat 5 (w / 1048576)) (.ofNat 2 (w / 33554432)) (bitAt (w / 134217728)))) : ReadsBack (mk s rd rs1 rs2 n u) := by
  rw [b2n_eq, b2n_eq] at henc
  refine readsBack_a henc (by omega) fun _ => ((hdec _ (by omega) (by omega)).trans ?_)
  rw [bitAt_field (s := s) (by omega), ofNat_field (x := rd) (by omega), ofNat_field (x := rs1) (by omega), ofNat_field (x := rs2) (by omega),
    ofNat_field (x := n) (by omega), bitAt_field (s := u) (by omega)]

/-- d, a, the predicate and z, with the b field fixed (R38). -/
theorem readsBack_d_a {mk : Bool → BitVec 6 → BitVec 6 → BitVec 3 → Bool → Instr} {c : Nat} {s z : Bool} {d a : BitVec 6} {k : BitVec 3}
    (henc : encode (mk s d a k z) = some (32, c + b2n s * 2 + d.toNat * 1024 + a.toNat * 65536 + k.toNat * 268435456 + b2n z * 2147483648))
    (hc : c % 8 = 5 ∧ c % 4194304 < 1024 ∧ c < 268435456)
    (hdec : ∀ w, w / 8 % 128 = c / 8 % 128 → w / 4194304 % 64 = c / 4194304 → decodeC w = .ok (mk (bitAt (w / 2)) (.ofNat 6 (w / 1024))
      (.ofNat 6 (w / 65536)) (.ofNat 3 (w / 268435456)) (bitAt (w / 2147483648)))) : ReadsBack (mk s d a k z) := by
  rw [b2n_eq, b2n_eq] at henc
  refine readsBack_c henc (by omega) ((hdec _ (by omega) (by omega)).trans ?_)
  rw [bitAt_field (s := s) (by omega), ofNat_field (x := d) (by omega), ofNat_field (x := a) (by omega), ofNat_field (x := k) (by omega),
    bitAt_field (s := z) (by omega)]

/-- d, a, b or a field of its width, the predicate and z (R38). -/
theorem readsBack_d_a_b {mk : Bool → BitVec 6 → BitVec 6 → BitVec 6 → BitVec 3 → Bool → Instr} {c : Nat} {s z : Bool} {d a b : BitVec 6} {k : BitVec 3}
    (henc : encode (mk s d a b k z) = some (32, c + b2n s * 2 + d.toNat * 1024 + a.toNat * 65536 + b.toNat * 4194304 + k.toNat * 268435456
      + b2n z * 2147483648))
    (hc : c % 8 = 5 ∧ c < 1024)
    (hdec : ∀ w, w / 8 % 128 = c / 8 % 128 → decodeC w = .ok (mk (bitAt (w / 2)) (.ofNat 6 (w / 1024))
      (.ofNat 6 (w / 65536)) (.ofNat 6 (w / 4194304)) (.ofNat 3 (w / 268435456)) (bitAt (w / 2147483648)))) : ReadsBack (mk s d a b k z) := by
  rw [b2n_eq, b2n_eq] at henc
  refine readsBack_c henc (by omega) ((hdec _ (by omega)).trans ?_)
  rw [bitAt_field (s := s) (by omega), ofNat_field (x := d) (by omega), ofNat_field (x := a) (by omega), ofNat_field (x := b) (by omega),
    ofNat_field (x := k) (by omega), bitAt_field (s := z) (by omega)]

/-- The 16-bit form (R33): none of its words is the zero halfword, WAITALL or a queue move with a wrong number (R34, R35, R53). -/
theorem readsBack_16 {mk : Bool → BitVec 5 → BitVec 5 → Instr} {c : Nat} {s : Bool} {d v : BitVec 5}
    (henc : encode (mk s d v) = some (16, c + b2n s * 2 + d.toNat * 64 + v.toNat * 2048)) (hc : c % 4 = 0 ∧ c < 64)
    (hq : (mk s d v).wf = true → (c = 0 → d.toNat + v.toNat ≠ 0) ∧ (c = 56 → v.toNat ≤ 3) ∧ (c = 60 → v.toNat ≤ 1))
    (hdec : ∀ w, w / 4 % 16 = c / 4 → decodeOp4 w = mk (bitAt (w / 2)) (.ofNat 5 (w / 64)) (.ofNat 5 (w / 2048))) : ReadsBack (mk s d v) := by
  rw [b2n_eq] at henc
  intro n w rest hwf hw
  rw [henc] at hw
  cases hw
  obtain ⟨h0, h14, h15⟩ := hq hwf
  refine ⟨.inl rfl, by omega, by omega, decode_word16 rest (by omega) (by omega) ?_⟩
  have field := hdec (c + (BitVec.ofBool s).toNat * 2 + d.toNat * 64 + v.toNat * 2048) (by omega)
  rw [bitAt_field (s := s) (by omega), ofNat_field (x := d) (by omega), ofNat_field (x := v) (by omega)] at field
  simp only [decode16, field, beq_iff_eq, Bool.and_eq_true, decide_eq_true_eq]
  rw [if_neg (by omega), if_neg (by omega), if_neg (by omega), if_neg (by omega)]

/-- The minor fields of two majors with many rows (R56, R58). -/
theorem decodeA_01 {w : Nat} (h : w / 8 % 128 = 1) : decodeA w = decodeA01 w := by rw [decodeA, h]; rfl
theorem decodeC_28 {w : Nat} (h : w / 8 % 128 = 40) : decodeC w = decodeC28 w := by rw [decodeC, h]; rfl

end Sys2Proof

/-! ## The rows of the opcode table -/

namespace Sys2Proof.Laws.ReadsBack
@[simp] theorem add (s : Bool) (rd rs1 rs2 : BitVec 5) : ReadsBack (.add s rd rs1 rs2) :=
  readsBack_rd_rs1_rs2 rfl (by decide) fun w hm hf => by rw [decodeA_01 hm, decodeA01, hf]; rfl
@[simp] theorem sub (s : Bool) (rd rs1 rs2 : BitVec 5) : ReadsBack (.sub s rd rs1 rs2) :=
  readsBack_rd_rs1_rs2 rfl (by decide) fun w hm hf => by rw [decodeA_01 hm, decodeA01, hf]; rfl
@[simp] theorem and (s : Bool) (rd rs1 rs2 : BitVec 5) : ReadsBack (.and s rd rs1 rs2) :=
  readsBack_rd_rs1_rs2 rfl (by decide) fun w hm hf => by rw [decodeA_01 hm, decodeA01, hf]; rfl
@[simp] theorem or (s : Bool) (rd rs1 rs2 : BitVec 5) : ReadsBack (.or s rd rs1 rs2) :=
  readsBack_rd_rs1_rs2 rfl (by decide) fun w hm hf => by rw [decodeA_01 hm, decodeA01, hf]; rfl
@[simp] theorem xor (s : Bool) (rd rs1 rs2 : BitVec 5) : ReadsBack (.xor s rd rs1 rs2) :=
  readsBack_rd_rs1_rs2 rfl (by decide) fun w hm hf => by rw [decodeA_01 hm, decodeA01, hf]; rfl
@[simp] theorem andn (s : Bool) (rd rs1 rs2 : BitVec 5) : ReadsBack (.andn s rd rs1 rs2) :=
  readsBack_rd_rs1_rs2 rfl (by decide) fun w hm hf => by rw [decodeA_01 hm, decodeA01, hf]; rfl
@[simp] theorem sll (s : Bool) (rd rs1 rs2 : BitVec 5) : ReadsBack (.sll s rd rs1 rs2) :=
  readsBack_rd_rs1_rs2 rfl (by decide) fun w hm hf => by rw [decodeA_01 hm, decodeA01, hf]; rfl
@[simp] theorem srl (s : Bool) (rd rs1 rs2 : BitVec 5) : ReadsBack (.srl s rd rs1 rs2) :=
  readsBack_rd_rs1_rs2 rfl (by decide) fun w hm hf => by rw [decodeA_01 hm, decodeA01, hf]; rfl
@[simp] theorem sra (s : Bool) (rd rs1 rs2 : BitVec 5) : ReadsBack (.sra s rd rs1 rs2) :=
  readsBack_rd_rs1_rs2 rfl (by decide) fun w hm hf => by rw [decodeA_01 hm, decodeA01, hf]; rfl
@[simp] theorem slt (s : Bool) (rd rs1 rs2 : BitVec 5) : ReadsBack (.slt s rd rs1 rs2) :=
  readsBack_rd_rs1_rs2 rfl (by decide) fun w hm hf => by rw [decodeA_01 hm, decodeA01, hf]; rfl
@[simp] theorem sltu (s : Bool) (rd rs1 rs2 : BitVec 5) : ReadsBack (.sltu s rd rs1 rs2) :=
  readsBack_rd_rs1_rs2 rfl (by decide) fun w hm hf => by rw [decodeA_01 hm, decodeA01, hf]; rfl
@[simp] theorem min (s : Bool) (rd rs1 rs2 : BitVec 5) : ReadsBack (.min s rd rs1 rs2) :=
  readsBack_rd_rs1_rs2 rfl (by decide) fun w hm hf => by rw [decodeA_01 hm, decodeA01, hf]; rfl
@[simp] theorem max (s : Bool) (rd rs1 rs2 : BitVec 5) : ReadsBack (.max s rd rs1 rs2) :=
  readsBack_rd_rs1_rs2 rfl (by decide) fun w hm hf => by rw [decodeA_01 hm, decodeA01, hf]; rfl
@[simp] theorem minu (s : Bool) (rd rs1 rs2 : BitVec 5) : ReadsBack (.minu s rd rs1 rs2) :=
  readsBack_rd_rs1_rs2 rfl (by decide) fun w hm hf => by rw [decodeA_01 hm, decodeA01, hf]; rfl
@[simp] theorem maxu (s : Bool) (rd rs1 rs2 : BitVec 5) : ReadsBack (.maxu s rd rs1 rs2) :=
  readsBack_rd_rs1_rs2 rfl (by decide) fun w hm hf => by rw [decodeA_01 hm, decodeA01, hf]; rfl
@[simp] theorem mul (s : Bool) (rd rs1 rs2 : BitVec 5) : ReadsBack (.mul s rd rs1 rs2) :=
  readsBack_rd_rs1_rs2 rfl (by decide) fun w hm hf => by rw [decodeA_01 hm, decodeA01, hf]; rfl
@[simp] theorem mulh (s : Bool) (rd rs1 rs2 : BitVec 5) : ReadsBack (.mulh s rd rs1 rs2) :=
  readsBack_rd_rs1_rs2 rfl (by decide) fun w hm hf => by rw [decodeA_01 hm, decodeA01, hf]; rfl
@[simp] theorem mulhu (s : Bool) (rd rs1 rs2 : BitVec 5) : ReadsBack (.mulhu s rd rs1 rs2) :=
  readsBack_rd_rs1_rs2 rfl (by decide) fun w hm hf => by rw [decodeA_01 hm, decodeA01, hf]; rfl
@[simp] theorem div (s : Bool) (rd rs1 rs2 : BitVec 5) : ReadsBack (.div s rd rs1 rs2) :=
  readsBack_rd_rs1_rs2 rfl (by decide) fun w hm hf => by rw [decodeA_01 hm, decodeA01, hf]; rfl
@[simp] theorem divu (s : Bool) (rd rs1 rs2 : BitVec 5) : ReadsBack (.divu s rd rs1 rs2) :=
  readsBack_rd_rs1_rs2 rfl (by decide) fun w hm hf => by rw [decodeA_01 hm, decodeA01, hf]; rfl
@[simp] theorem rem (s : Bool) (rd rs1 rs2 : BitVec 5) : ReadsBack (.rem s rd rs1 rs2) :=
  readsBack_rd_rs1_rs2 rfl (by decide) fun w hm hf => by rw [decodeA_01 hm, decodeA01, hf]; rfl
@[simp] theorem remu (s : Bool) (rd rs1 rs2 : BitVec 5) : ReadsBack (.remu s rd rs1 rs2) :=
  readsBack_rd_rs1_rs2 rfl (by decide) fun w hm hf => by rw [decodeA_01 hm, decodeA01, hf]; rfl
@[simp] theorem addw (s : Bool) (rd rs1 rs2 : BitVec 5) : ReadsBack (.addw s rd rs1 rs2) :=
  readsBack_rd_rs1_rs2 rfl (by decide) fun w hm hf => by rw [decodeA_01 hm, decodeA01, hf]; rfl
@[simp] theorem subw (s : Bool) (rd rs1 rs2 : BitVec 5) : ReadsBack (.subw s rd rs1 rs2) :=
  readsBack_rd_rs1_rs2 rfl (by decide) fun w hm hf => by rw [decodeA_01 hm, decodeA01, hf]; rfl
@[simp] theorem mulw (s : Bool) (rd rs1 rs2 : BitVec 5) : ReadsBack (.mulw s rd rs1 rs2) :=
  readsBack_rd_rs1_rs2 rfl (by decide) fun w hm hf => by rw [decodeA_01 hm, decodeA01, hf]; rfl
@[simp] theorem sllw (s : Bool) (rd rs1 rs2 : BitVec 5) : ReadsBack (.sllw s rd rs1 rs2) :=
  readsBack_rd_rs1_rs2 rfl (by decide) fun w hm hf => by rw [decodeA_01 hm, decodeA01, hf]; rfl
@[simp] theorem srlw (s : Bool) (rd rs1 rs2 : BitVec 5) : ReadsBack (.srlw s rd rs1 rs2) :=
  readsBack_rd_rs1_rs2 rfl (by decide) fun w hm hf => by rw [decodeA_01 hm, decodeA01, hf]; rfl
@[simp] theorem sraw (s : Bool) (rd rs1 rs2 : BitVec 5) : ReadsBack (.sraw s rd rs1 rs2) :=
  readsBack_rd_rs1_rs2 rfl (by decide) fun w hm hf => by rw [decodeA_01 hm, decodeA01, hf]; rfl
@[simp] theorem addi (s : Bool) (rd rs1 : BitVec 5) (imm : BitVec 12) : ReadsBack (.addi s rd rs1 imm) :=
  readsBack_rd_rs1_imm rfl (by decide) fun w hm => by rw [decodeA, hm]; rfl
@[simp] theorem andi (s : Bool) (rd rs1 : BitVec 5) (imm : BitVec 12) : ReadsBack (.andi s rd rs1 imm) :=
  readsBack_rd_rs1_imm rfl (by decide) fun w hm => by rw [decodeA, hm]; rfl
@[simp] theorem ori (s : Bool) (rd rs1 : BitVec 5) (imm : BitVec 12) : ReadsBack (.ori s rd rs1 imm) :=
  readsBack_rd_rs1_imm rfl (by decide) fun w hm => by rw [decodeA, hm]; rfl
@[simp] theorem xori (s : Bool) (rd rs1 : BitVec 5) (imm : BitVec 12) : ReadsBack (.xori s rd rs1 imm) :=
  readsBack_rd_rs1_imm rfl (by decide) fun w hm => by rw [decodeA, hm]; rfl
@[simp] theorem slti (s : Bool) (rd rs1 : BitVec 5) (imm : BitVec 12) : ReadsBack (.slti s rd rs1 imm) :=
  readsBack_rd_rs1_imm rfl (by decide) fun w hm => by rw [decodeA, hm]; rfl
@[simp] theorem sltiu (s : Bool) (rd rs1 : BitVec 5) (imm : BitVec 12) : ReadsBack (.sltiu s rd rs1 imm) :=
  readsBack_rd_rs1_imm rfl (by decide) fun w hm => by rw [decodeA, hm]; rfl
@[simp] theorem addiw (s : Bool) (rd rs1 : BitVec 5) (imm : BitVec 12) : ReadsBack (.addiw s rd rs1 imm) :=
  readsBack_rd_rs1_imm rfl (by decide) fun w hm => by rw [decodeA, hm]; rfl
@[simp] theorem peera (s : Bool) (rd rs1 : BitVec 5) (imm : BitVec 12) : ReadsBack (.peera s rd rs1 imm) :=
  readsBack_rd_rs1_imm rfl (by decide) fun w hm => by rw [decodeA, hm]; rfl
@[simp] theorem beq (s : Bool) (rs1 rs2 : BitVec 5) (off : BitVec 12) : ReadsBack (.beq s rs1 rs2 off) :=
  readsBack_rd_rs1_imm rfl (by decide) fun w hm => by rw [decodeA, hm]; rfl
@[simp] theorem bne (s : Bool) (rs1 rs2 : BitVec 5) (off : BitVec 12) : ReadsBack (.bne s rs1 rs2 off) :=
  readsBack_rd_rs1_imm rfl (by decide) fun w hm => by rw [decodeA, hm]; rfl
@[simp] theorem blt (s : Bool) (rs1 rs2 : BitVec 5) (off : BitVec 12) : ReadsBack (.blt s rs1 rs2 off) :=
  readsBack_rd_rs1_imm rfl (by decide) fun w hm => by rw [decodeA, hm]; rfl
@[simp] theorem bge (s : Bool) (rs1 rs2 : BitVec 5) (off : BitVec 12) : ReadsBack (.bge s rs1 rs2 off) :=
  readsBack_rd_rs1_imm rfl (by decide) fun w hm => by rw [decodeA, hm]; rfl
@[simp] theorem bltu (s : Bool) (rs1 rs2 : BitVec 5) (off : BitVec 12) : ReadsBack (.bltu s rs1 rs2 off) :=
  readsBack_rd_rs1_imm rfl (by decide) fun w hm => by rw [decodeA, hm]; rfl
@[simp] theorem bgeu (s : Bool) (rs1 rs2 : BitVec 5) (off : BitVec 12) : ReadsBack (.bgeu s rs1 rs2 off) :=
  readsBack_rd_rs1_imm rfl (by decide) fun w hm => by rw [decodeA, hm]; rfl
@[simp] theorem jr (s : Bool) (rd rs1 : BitVec 5) (imm : BitVec 12) : ReadsBack (.jr s rd rs1 imm) :=
  readsBack_rd_rs1_imm rfl (by decide) fun w hm => by rw [decodeA, hm]; rfl
@[simp] theorem ldb (s : Bool) (rd rs1 : BitVec 5) (imm : BitVec 12) : ReadsBack (.ldb s rd rs1 imm) :=
  readsBack_rd_rs1_imm rfl (by decide) fun w hm => by rw [decodeA, hm]; rfl
@[simp] theorem ldbz (s : Bool) (rd rs1 : BitVec 5) (imm : BitVec 12) : ReadsBack (.ldbz s rd rs1 imm) :=
  readsBack_rd_rs1_imm rfl (by decide) fun w hm => by rw [decodeA, hm]; rfl
@[simp] theorem ldh (s : Bool) (rd rs1 : BitVec 5) (imm : BitVec 12) : ReadsBack (.ldh s rd rs1 imm) :=
  readsBack_rd_rs1_imm rfl (by decide) fun w hm => by rw [decodeA, hm]; rfl
@[simp] theorem ldhz (s : Bool) (rd rs1 : BitVec 5) (imm : BitVec 12) : ReadsBack (.ldhz s rd rs1 imm) :=
  readsBack_rd_rs1_imm rfl (by decide) fun w hm => by rw [decodeA, hm]; rfl
@[simp] theorem ldw (s : Bool) (rd rs1 : BitVec 5) (imm : BitVec 12) : ReadsBack (.ldw s rd rs1 imm) :=
  readsBack_rd_rs1_imm rfl (by decide) fun w hm => by rw [decodeA, hm]; rfl
@[simp] theorem ldwz (s : Bool) (rd rs1 : BitVec 5) (imm : BitVec 12) : ReadsBack (.ldwz s rd rs1 imm) :=
  readsBack_rd_rs1_imm rfl (by decide) fun w hm => by rw [decodeA, hm]; rfl
@[simp] theorem ldd (s : Bool) (rd rs1 : BitVec 5) (imm : BitVec 12) : ReadsBack (.ldd s rd rs1 imm) :=
  readsBack_rd_rs1_imm rfl (by decide) fun w hm => by rw [decodeA, hm]; rfl
@[simp] theorem stb (s : Bool) (rs2 rs1 : BitVec 5) (imm : BitVec 12) : ReadsBack (.stb s rs2 rs1 imm) :=
  readsBack_rd_rs1_imm rfl (by decide) fun w hm => by rw [decodeA, hm]; rfl
@[simp] theorem sth (s : Bool) (rs2 rs1 : BitVec 5) (imm : BitVec 12) : ReadsBack (.sth s rs2 rs1 imm) :=
  readsBack_rd_rs1_imm rfl (by decide) fun w hm => by rw [decodeA, hm]; rfl
@[simp] theorem stw (s : Bool) (rs2 rs1 : BitVec 5) (imm : BitVec 12) : ReadsBack (.stw s rs2 rs1 imm) :=
  readsBack_rd_rs1_imm rfl (by decide) fun w hm => by rw [decodeA, hm]; rfl
@[simp] theorem std (s : Bool) (rs2 rs1 : BitVec 5) (imm : BitVec 12) : ReadsBack (.std s rs2 rs1 imm) :=
  readsBack_rd_rs1_imm rfl (by decide) fun w hm => by rw [decodeA, hm]; rfl
@[simp] theorem sdef (s : Bool) (n rs1 : BitVec 5) (imm : BitVec 12) : ReadsBack (.sdef s n rs1 imm) :=
  readsBack_rd_rs1_imm rfl (by decide) fun w hm => by rw [decodeA, hm]; rfl
@[simp] theorem aadd (s : Bool) (rd rs1 rs2 : BitVec 5) (size : BitVec 2) (uns : Bool) : ReadsBack (.aadd s rd rs1 rs2 size uns) :=
  readsBack_atomic rfl (by decide) fun w hm hz => by rw [decodeA, hm]; exact zeros_ok (by rw [hz]; rfl)
@[simp] theorem amin (s : Bool) (rd rs1 rs2 : BitVec 5) (size : BitVec 2) (uns : Bool) : ReadsBack (.amin s rd rs1 rs2 size uns) :=
  readsBack_atomic rfl (by decide) fun w hm hz => by rw [decodeA, hm]; exact zeros_ok (by rw [hz]; rfl)
@[simp] theorem amax (s : Bool) (rd rs1 rs2 : BitVec 5) (size : BitVec 2) (uns : Bool) : ReadsBack (.amax s rd rs1 rs2 size uns) :=
  readsBack_atomic rfl (by decide) fun w hm hz => by rw [decodeA, hm]; exact zeros_ok (by rw [hz]; rfl)
@[simp] theorem aand (s : Bool) (rd rs1 rs2 : BitVec 5) (size : BitVec 2) (uns : Bool) : ReadsBack (.aand s rd rs1 rs2 size uns) :=
  readsBack_atomic rfl (by decide) fun w hm hz => by rw [decodeA, hm]; exact zeros_ok (by rw [hz]; rfl)
@[simp] theorem aor (s : Bool) (rd rs1 rs2 : BitVec 5) (size : BitVec 2) (uns : Bool) : ReadsBack (.aor s rd rs1 rs2 size uns) :=
  readsBack_atomic rfl (by decide) fun w hm hz => by rw [decodeA, hm]; exact zeros_ok (by rw [hz]; rfl)
@[simp] theorem axor (s : Bool) (rd rs1 rs2 : BitVec 5) (size : BitVec 2) (uns : Bool) : ReadsBack (.axor s rd rs1 rs2 size uns) :=
  readsBack_atomic rfl (by decide) fun w hm hz => by rw [decodeA, hm]; exact zeros_ok (by rw [hz]; rfl)
@[simp] theorem axchg (s : Bool) (rd rs1 rs2 : BitVec 5) (size : BitVec 2) (uns : Bool) : ReadsBack (.axchg s rd rs1 rs2 size uns) :=
  readsBack_atomic rfl (by decide) fun w hm hz => by rw [decodeA, hm]; exact zeros_ok (by rw [hz]; rfl)
@[simp] theorem acas (s : Bool) (rd rs1 rs2 : BitVec 5) (size : BitVec 2) (uns : Bool) : ReadsBack (.acas s rd rs1 rs2 size uns) :=
  readsBack_atomic rfl (by decide) fun w hm hz => by rw [decodeA, hm]; exact zeros_ok (by rw [hz]; rfl)
@[simp] theorem talloc (s : Bool) (n rs1 : BitVec 5) (imm : BitVec 12) : ReadsBack (.talloc s n rs1 imm) :=
  readsBack_rd_rs1_imm rfl (by decide) fun w hm => by rw [decodeA, hm]; rfl
@[simp] theorem mxsub (s : Bool) (rd rs1 : BitVec 5) (imm : BitVec 12) : ReadsBack (.mxsub s rd rs1 imm) :=
  readsBack_rd_rs1_imm rfl (by decide) fun w hm => by rw [decodeA, hm]; rfl
@[simp] theorem kcmd (s : Bool) (rd rs1 : BitVec 5) (imm : BitVec 12) : ReadsBack (.kcmd s rd rs1 imm) :=
  readsBack_rd_rs1_imm rfl (by decide) fun w hm => by rw [decodeA, hm]; rfl
@[simp] theorem launch (s : Bool) (rd rs1 : BitVec 5) (imm : BitVec 12) : ReadsBack (.launch s rd rs1 imm) :=
  readsBack_rd_rs1_imm rfl (by decide) fun w hm => by rw [decodeA, hm]; rfl
@[simp] theorem vmov (s : Bool) (d a : BitVec 6) (k : BitVec 3) (z : Bool) : ReadsBack (.vmov s d a k z) :=
  readsBack_d_a rfl (by decide) fun w hm hf => by rw [decodeC, hm]; exact zeros_ok (by rw [hf]; rfl)
@[simp] theorem vadd (s : Bool) (d a b : BitVec 6) (k : BitVec 3) (z : Bool) : ReadsBack (.vadd s d a b k z) :=
  readsBack_d_a_b rfl (by decide) fun w hm => by rw [decodeC, hm]; rfl
@[simp] theorem vsub (s : Bool) (d a b : BitVec 6) (k : BitVec 3) (z : Bool) : ReadsBack (.vsub s d a b k z) :=
  readsBack_d_a_b rfl (by decide) fun w hm => by rw [decodeC, hm]; rfl
@[simp] theorem vmul (s : Bool) (d a b : BitVec 6) (k : BitVec 3) (z : Bool) : ReadsBack (.vmul s d a b k z) :=
  readsBack_d_a_b rfl (by decide) fun w hm => by rw [decodeC, hm]; rfl
@[simp] theorem vfma (s : Bool) (d a b : BitVec 6) (k : BitVec 3) (z : Bool) : ReadsBack (.vfma s d a b k z) :=
  readsBack_d_a_b rfl (by decide) fun w hm => by rw [decodeC, hm]; rfl
@[simp] theorem vfms (s : Bool) (d a b : BitVec 6) (k : BitVec 3) (z : Bool) : ReadsBack (.vfms s d a b k z) :=
  readsBack_d_a_b rfl (by decide) fun w hm => by rw [decodeC, hm]; rfl
@[simp] theorem vmax (s : Bool) (d a b : BitVec 6) (k : BitVec 3) (z : Bool) : ReadsBack (.vmax s d a b k z) :=
  readsBack_d_a_b rfl (by decide) fun w hm => by rw [decodeC, hm]; rfl
@[simp] theorem vmin (s : Bool) (d a b : BitVec 6) (k : BitVec 3) (z : Bool) : ReadsBack (.vmin s d a b k z) :=
  readsBack_d_a_b rfl (by decide) fun w hm => by rw [decodeC, hm]; rfl
@[simp] theorem vand (s : Bool) (d a b : BitVec 6) (k : BitVec 3) (z : Bool) : ReadsBack (.vand s d a b k z) :=
  readsBack_d_a_b rfl (by decide) fun w hm => by rw [decodeC, hm]; rfl
@[simp] theorem vor (s : Bool) (d a b : BitVec 6) (k : BitVec 3) (z : Bool) : ReadsBack (.vor s d a b k z) :=
  readsBack_d_a_b rfl (by decide) fun w hm => by rw [decodeC, hm]; rfl
@[simp] theorem vxor (s : Bool) (d a b : BitVec 6) (k : BitVec 3) (z : Bool) : ReadsBack (.vxor s d a b k z) :=
  readsBack_d_a_b rfl (by decide) fun w hm => by rw [decodeC, hm]; rfl
@[simp] theorem vandn (s : Bool) (d a b : BitVec 6) (k : BitVec 3) (z : Bool) : ReadsBack (.vandn s d a b k z) :=
  readsBack_d_a_b rfl (by decide) fun w hm => by rw [decodeC, hm]; rfl
@[simp] theorem vsll (s : Bool) (d a b : BitVec 6) (k : BitVec 3) (z : Bool) : ReadsBack (.vsll s d a b k z) :=
  readsBack_d_a_b rfl (by decide) fun w hm => by rw [decodeC, hm]; rfl
@[simp] theorem vsrl (s : Bool) (d a b : BitVec 6) (k : BitVec 3) (z : Bool) : ReadsBack (.vsrl s d a b k z) :=
  readsBack_d_a_b rfl (by decide) fun w hm => by rw [decodeC, hm]; rfl
@[simp] theorem vsra (s : Bool) (d a b : BitVec 6) (k : BitVec 3) (z : Bool) : ReadsBack (.vsra s d a b k z) :=
  readsBack_d_a_b rfl (by decide) fun w hm => by rw [decodeC, hm]; rfl
@[simp] theorem vabs (s : Bool) (d a : BitVec 6) (k : BitVec 3) (z : Bool) : ReadsBack (.vabs s d a k z) :=
  readsBack_d_a rfl (by decide) fun w hm hf => by rw [decodeC, hm]; exact zeros_ok (by rw [hf]; rfl)
@[simp] theorem vneg (s : Bool) (d a : BitVec 6) (k : BitVec 3) (z : Bool) : ReadsBack (.vneg s d a k z) :=
  readsBack_d_a rfl (by decide) fun w hm hf => by rw [decodeC, hm]; exact zeros_ok (by rw [hf]; rfl)
@[simp] theorem vmulh (s : Bool) (d a b : BitVec 6) (k : BitVec 3) (z : Bool) : ReadsBack (.vmulh s d a b k z) :=
  readsBack_d_a_b rfl (by decide) fun w hm => by rw [decodeC, hm]; rfl
@[simp] theorem vcmpeq (s : Bool) (d a b : BitVec 6) (k : BitVec 3) (z : Bool) : ReadsBack (.vcmpeq s d a b k z) :=
  readsBack_d_a_b rfl (by decide) fun w hm => by rw [decodeC, hm]; rfl
@[simp] theorem vcmpne (s : Bool) (d a b : BitVec 6) (k : BitVec 3) (z : Bool) : ReadsBack (.vcmpne s d a b k z) :=
  readsBack_d_a_b rfl (by decide) fun w hm => by rw [decodeC, hm]; rfl
@[simp] theorem vcmplt (s : Bool) (d a b : BitVec 6) (k : BitVec 3) (z : Bool) : ReadsBack (.vcmplt s d a b k z) :=
  readsBack_d_a_b rfl (by decide) fun w hm => by rw [decodeC, hm]; rfl
@[simp] theorem vcmple (s : Bool) (d a b : BitVec 6) (k : BitVec 3) (z : Bool) : ReadsBack (.vcmple s d a b k z) :=
  readsBack_d_a_b rfl (by decide) fun w hm => by rw [decodeC, hm]; rfl
@[simp] theorem kand (s : Bool) (d a b : BitVec 6) (k : BitVec 3) (z : Bool) : ReadsBack (.kand s d a b k z) :=
  readsBack_d_a_b rfl (by decide) fun w hm => by rw [decodeC, hm]; rfl
@[simp] theorem kor (s : Bool) (d a b : BitVec 6) (k : BitVec 3) (z : Bool) : ReadsBack (.kor s d a b k z) :=
  readsBack_d_a_b rfl (by decide) fun w hm => by rw [decodeC, hm]; rfl
@[simp] theorem kxor (s : Bool) (d a b : BitVec 6) (k : BitVec 3) (z : Bool) : ReadsBack (.kxor s d a b k z) :=
  readsBack_d_a_b rfl (by decide) fun w hm => by rw [decodeC, hm]; rfl
@[simp] theorem kandn (s : Bool) (d a b : BitVec 6) (k : BitVec 3) (z : Bool) : ReadsBack (.kandn s d a b k z) :=
  readsBack_d_a_b rfl (by decide) fun w hm => by rw [decodeC, hm]; rfl
@[simp] theorem vrcpe (s : Bool) (d a : BitVec 6) (k : BitVec 3) (z : Bool) : ReadsBack (.vrcpe s d a k z) :=
  readsBack_d_a rfl (by decide) fun w hm hf => by rw [decodeC_28 hm, decodeC28, hf]; rfl
@[simp] theorem vrsqe (s : Bool) (d a : BitVec 6) (k : BitVec 3) (z : Bool) : ReadsBack (.vrsqe s d a k z) :=
  readsBack_d_a rfl (by decide) fun w hm hf => by rw [decodeC_28 hm, decodeC28, hf]; rfl
@[simp] theorem vsin (s : Bool) (d a : BitVec 6) (k : BitVec 3) (z : Bool) : ReadsBack (.vsin s d a k z) :=
  readsBack_d_a rfl (by decide) fun w hm hf => by rw [decodeC_28 hm, decodeC28, hf]; rfl
@[simp] theorem vcos (s : Bool) (d a : BitVec 6) (k : BitVec 3) (z : Bool) : ReadsBack (.vcos s d a k z) :=
  readsBack_d_a rfl (by decide) fun w hm hf => by rw [decodeC_28 hm, decodeC28, hf]; rfl
@[simp] theorem vexp2 (s : Bool) (d a : BitVec 6) (k : BitVec 3) (z : Bool) : ReadsBack (.vexp2 s d a k z) :=
  readsBack_d_a rfl (by decide) fun w hm hf => by rw [decodeC_28 hm, decodeC28, hf]; rfl
@[simp] theorem vlog2 (s : Bool) (d a : BitVec 6) (k : BitVec 3) (z : Bool) : ReadsBack (.vlog2 s d a k z) :=
  readsBack_d_a rfl (by decide) fun w hm hf => by rw [decodeC_28 hm, decodeC28, hf]; rfl
@[simp] theorem vsqrt (s : Bool) (d a : BitVec 6) (k : BitVec 3) (z : Bool) : ReadsBack (.vsqrt s d a k z) :=
  readsBack_d_a rfl (by decide) fun w hm hf => by rw [decodeC_28 hm, decodeC28, hf]; rfl
@[simp] theorem vrcps (s : Bool) (d a b : BitVec 6) (k : BitVec 3) (z : Bool) : ReadsBack (.vrcps s d a b k z) :=
  readsBack_d_a_b rfl (by decide) fun w hm => by rw [decodeC, hm]; rfl
@[simp] theorem vrsqs (s : Bool) (d a b : BitVec 6) (k : BitVec 3) (z : Bool) : ReadsBack (.vrsqs s d a b k z) :=
  readsBack_d_a_b rfl (by decide) fun w hm => by rw [decodeC, hm]; rfl
@[simp] theorem vdiv (s : Bool) (d a b : BitVec 6) (k : BitVec 3) (z : Bool) : ReadsBack (.vdiv s d a b k z) :=
  readsBack_d_a_b rfl (by decide) fun w hm => by rw [decodeC, hm]; rfl
@[simp] theorem vcvt (s : Bool) (d a fmt : BitVec 6) (k : BitVec 3) (z : Bool) : ReadsBack (.vcvt s d a fmt k z) :=
  readsBack_d_a_b rfl (by decide) fun w hm => by rw [decodeC, hm]; rfl
@[simp] theorem vperm (s : Bool) (d a b : BitVec 6) (k : BitVec 3) (z : Bool) : ReadsBack (.vperm s d a b k z) :=
  readsBack_d_a_b rfl (by decide) fun w hm => by rw [decodeC, hm]; rfl
@[simp] theorem vbcast (s : Bool) (d a lane : BitVec 6) (k : BitVec 3) (z : Bool) : ReadsBack (.vbcast s d a lane k z) :=
  readsBack_d_a_b rfl (by decide) fun w hm => by rw [decodeC, hm]; rfl
@[simp] theorem vext (s : Bool) (d a lane : BitVec 6) (k : BitVec 3) (z : Bool) : ReadsBack (.vext s d a lane k z) :=
  readsBack_d_a_b rfl (by decide) fun w hm => by rw [decodeC, hm]; rfl
@[simp] theorem vins (s : Bool) (d a lane : BitVec 6) (k : BitVec 3) (z : Bool) : ReadsBack (.vins s d a lane k z) :=
  readsBack_d_a_b rfl (by decide) fun w hm => by rw [decodeC, hm]; rfl
@[simp] theorem vzip2 (s : Bool) (d a lane : BitVec 6) (k : BitVec 3) (z : Bool) : ReadsBack (.vzip2 s d a lane k z) :=
  readsBack_d_a_b rfl (by decide) fun w hm => by rw [decodeC, hm]; rfl
@[simp] theorem vzip3 (s : Bool) (d a lane : BitVec 6) (k : BitVec 3) (z : Bool) : ReadsBack (.vzip3 s d a lane k z) :=
  readsBack_d_a_b rfl (by decide) fun w hm => by rw [decodeC, hm]; rfl
@[simp] theorem vzip4 (s : Bool) (d a lane : BitVec 6) (k : BitVec 3) (z : Bool) : ReadsBack (.vzip4 s d a lane k z) :=
  readsBack_d_a_b rfl (by decide) fun w hm => by rw [decodeC, hm]; rfl
@[simp] theorem vunzip2 (s : Bool) (d a lane : BitVec 6) (k : BitVec 3) (z : Bool) : ReadsBack (.vunzip2 s d a lane k z) :=
  readsBack_d_a_b rfl (by decide) fun w hm => by rw [decodeC, hm]; rfl
@[simp] theorem vunzip3 (s : Bool) (d a lane : BitVec 6) (k : BitVec 3) (z : Bool) : ReadsBack (.vunzip3 s d a lane k z) :=
  readsBack_d_a_b rfl (by decide) fun w hm => by rw [decodeC, hm]; rfl
@[simp] theorem vunzip4 (s : Bool) (d a lane : BitVec 6) (k : BitVec 3) (z : Bool) : ReadsBack (.vunzip4 s d a lane k z) :=
  readsBack_d_a_b rfl (by decide) fun w hm => by rw [decodeC, hm]; rfl
@[simp] theorem vmov16 (s : Bool) (d vs : BitVec 5) : ReadsBack (.vmov16 s d vs) :=
  readsBack_16 rfl (by decide) (fun h => ⟨fun _ hz => by
    have hd : d = 0 := BitVec.eq_of_toNat_eq (by simp; omega)
    have hv : vs = 0 := BitVec.eq_of_toNat_eq (by simp; omega)
    subst hd hv
    exact Bool.false_ne_true (fieldsOk_of_wf h), by omega⟩) fun w hm => by rw [decodeOp4, hm]; rfl
@[simp] theorem vadd16 (s : Bool) (d vs : BitVec 5) : ReadsBack (.vadd16 s d vs) :=
  readsBack_16 rfl (by decide) (fun _ => by omega) fun w hm => by rw [decodeOp4, hm]; rfl
@[simp] theorem vsub16 (s : Bool) (d vs : BitVec 5) : ReadsBack (.vsub16 s d vs) :=
  readsBack_16 rfl (by decide) (fun _ => by omega) fun w hm => by rw [decodeOp4, hm]; rfl
@[simp] theorem vmul16 (s : Bool) (d vs : BitVec 5) : ReadsBack (.vmul16 s d vs) :=
  readsBack_16 rfl (by decide) (fun _ => by omega) fun w hm => by rw [decodeOp4, hm]; rfl
@[simp] theorem vfmal (s : Bool) (d vs : BitVec 5) : ReadsBack (.vfmal s d vs) :=
  readsBack_16 rfl (by decide) (fun _ => by omega) fun w hm => by rw [decodeOp4, hm]; rfl
@[simp] theorem vmax16 (s : Bool) (d vs : BitVec 5) : ReadsBack (.vmax16 s d vs) :=
  readsBack_16 rfl (by decide) (fun _ => by omega) fun w hm => by rw [decodeOp4, hm]; rfl
@[simp] theorem vmin16 (s : Bool) (d vs : BitVec 5) : ReadsBack (.vmin16 s d vs) :=
  readsBack_16 rfl (by decide) (fun _ => by omega) fun w hm => by rw [decodeOp4, hm]; rfl
@[simp] theorem vand16 (s : Bool) (d vs : BitVec 5) : ReadsBack (.vand16 s d vs) :=
  readsBack_16 rfl (by decide) (fun _ => by omega) fun w hm => by rw [decodeOp4, hm]; rfl
@[simp] theorem vor16 (s : Bool) (d vs : BitVec 5) : ReadsBack (.vor16 s d vs) :=
  readsBack_16 rfl (by decide) (fun _ => by omega) fun w hm => by rw [decodeOp4, hm]; rfl
@[simp] theorem vxor16 (s : Bool) (d vs : BitVec 5) : ReadsBack (.vxor16 s d vs) :=
  readsBack_16 rfl (by decide) (fun _ => by omega) fun w hm => by rw [decodeOp4, hm]; rfl
@[simp] theorem vneg16 (s : Bool) (d vs : BitVec 5) : ReadsBack (.vneg16 s d vs) :=
  readsBack_16 rfl (by decide) (fun _ => by omega) fun w hm => by rw [decodeOp4, hm]; rfl
@[simp] theorem vabs16 (s : Bool) (d vs : BitVec 5) : ReadsBack (.vabs16 s d vs) :=
  readsBack_16 rfl (by decide) (fun _ => by omega) fun w hm => by rw [decodeOp4, hm]; rfl
@[simp] theorem vsll16 (s : Bool) (d vs : BitVec 5) : ReadsBack (.vsll16 s d vs) :=
  readsBack_16 rfl (by decide) (fun _ => by omega) fun w hm => by rw [decodeOp4, hm]; rfl
@[simp] theorem vsrl16 (s : Bool) (d vs : BitVec 5) : ReadsBack (.vsrl16 s d vs) :=
  readsBack_16 rfl (by decide) (fun _ => by omega) fun w hm => by rw [decodeOp4, hm]; rfl
@[simp] theorem vqpop (s : Bool) (d n : BitVec 5) : ReadsBack (.vqpop s d n) :=
  readsBack_16 rfl (by decide) (fun h => by have := of_decide_eq_true (fieldsOk_of_wf h); omega) fun w hm => by rw [decodeOp4, hm]; rfl
@[simp] theorem vqpush (s : Bool) (d n : BitVec 5) : ReadsBack (.vqpush s d n) :=
  readsBack_16 rfl (by decide) (fun h => by have := of_decide_eq_true (fieldsOk_of_wf h); omega) fun w hm => by rw [decodeOp4, hm]; rfl
@[simp] theorem wideFields :
    (∀ s rd imm, ReadsBack (.mkhi s rd imm)) ∧ (∀ s rd off, ReadsBack (.jal s rd off)) ∧ (∀ s rd off, ReadsBack (.spawn s rd off)) ∧
    (∀ s n rs1 rs2 lg bar, ReadsBack (.bind s n rs1 rs2 lg bar)) ∧ (∀ s rs1 side p8 off, ReadsBack (.spawnc s rs1 side p8 off)) ∧
    (∀ s len dir rs1 off slot, ReadsBack (.xmit s len dir rs1 off slot)) ∧ (∀ s len dir rs1 off slot, ReadsBack (.xsel s len dir rs1 off slot)) := by
  refine ⟨?_, ?_, ?_, ?_, ?_, ?_, ?_⟩
  all_goals
    intros
    refine readsBack_a rfl (by simp only [b2n_eq]; omega) fun _ => ?_
    simp (disch := omega) only [b2n_eq, Nat.add_assoc, fixed_bits, Nat.reduceDiv, Nat.reduceMod, decodeA]
    congr 2 <;> first | exact bitAt_field (by omega) | exact ofNat_field (by omega)
@[simp] theorem bitCounts :
    (∀ s rd rs1, ReadsBack (.clz s rd rs1)) ∧ (∀ s rd rs1, ReadsBack (.ctz s rd rs1)) ∧ (∀ s rd rs1, ReadsBack (.popc s rd rs1)) := by
  refine ⟨?_, ?_, ?_⟩
  all_goals
    intros
    refine readsBack_a rfl (by simp only [b2n_eq]; omega) fun _ => ?_
    simp (disch := omega) only [b2n_eq, Nat.add_assoc, fixed_bits, Nat.reduceDiv, Nat.reduceMod, decodeA, decodeA01]
    refine (zeros_ok rfl).trans ?_
    congr 2 <;> first | exact bitAt_field (by omega) | exact ofNat_field (by omega)
@[simp] theorem shiftsAndMoves :
    (∀ s rd rs1 imm, ReadsBack (.slli s rd rs1 imm)) ∧ (∀ s rd rs1 imm, ReadsBack (.srli s rd rs1 imm)) ∧
    (∀ s rd rs1 imm, ReadsBack (.srai s rd rs1 imm)) ∧ (∀ s rs1 off, ReadsBack (.loop s rs1 off)) ∧
    (∀ s rd rs1 cls zx size, ReadsBack (.rld s rd rs1 cls zx size)) ∧ (∀ s rs1 rs2 cls size, ReadsBack (.rst s rs1 rs2 cls size)) ∧
    (∀ s n rs1 fmt, ReadsBack (.qpush s n rs1 fmt)) ∧ (∀ s rd n, ReadsBack (.qpop s rd n)) := by
  refine ⟨?_, ?_, ?_, ?_, ?_, ?_, ?_, ?_⟩
  all_goals
    intros
    refine readsBack_a rfl (by simp only [b2n_eq]; omega) fun _ => ?_
    simp (disch := omega) only [b2n_eq, Nat.add_assoc, fixed_bits, Nat.reduceDiv, Nat.reduceMod, decodeA]
    refine (zeros_ok rfl).trans ?_
    congr 2 <;> first | exact bitAt_field (by omega) | exact ofNat_field (by omega)
@[simp] theorem ordering :
    (∀ s n, ReadsBack (.unbind s n)) ∧ (∀ s rd rs1 scope, ReadsBack (.acq s rd rs1 scope)) ∧ (∀ s rs1 scope, ReadsBack (.rel s rs1 scope)) ∧
    (∀ s scope, ReadsBack (.fence s scope)) ∧ (∀ s, ReadsBack (.lbfence s)) ∧ (∀ s rd rs1 rs2 nowait, ReadsBack (.cwait s rd rs1 rs2 nowait)) ∧
    (∀ s rs1 rs2 scope, ReadsBack (.cadd s rs1 rs2 scope)) := by
  refine ⟨?_, ?_, ?_, ?_, ?_, ?_, ?_⟩
  all_goals
    intros
    refine readsBack_a rfl (by simp only [b2n_eq]; omega) fun _ => ?_
    simp (disch := omega) only [b2n_eq, Nat.add_assoc, fixed_bits, Nat.reduceDiv, Nat.reduceMod, decodeA]
    refine (zeros_ok rfl).trans ?_
    congr 2 <;> first | exact bitAt_field (by omega) | exact ofNat_field (by omega)
@[simp] theorem messagesAndBranches :
    (∀ s rs1 cls, ReadsBack (.puts s rs1 cls)) ∧ (∀ s rs1 cls, ReadsBack (.get s rs1 cls)) ∧ (∀ s rs1 cls, ReadsBack (.radd s rs1 cls)) ∧
    (∀ s rd rs1 n, ReadsBack (.evwait s rd rs1 n)) ∧ (∀ s rs1 rs2 opn, ReadsBack (.cres s rs1 rs2 opn)) ∧
    (∀ s rs1 op pred off, ReadsBack (.cbr s rs1 op pred off)) ∧ (∀ s rd rs1 op, ReadsBack (.cvote s rd rs1 op)) ∧
    (∀ s rs1 kill, ReadsBack (.lcancel s rs1 kill)) ∧ (∀ s rd rs1, ReadsBack (.lwait s rd rs1)) ∧ (∀ s pred off, ReadsBack (.cyct s pred off)) ∧
    (∀ s rs1 code, ReadsBack (.trap s rs1 code)) := by
  refine ⟨?_, ?_, ?_, ?_, ?_, ?_, ?_, ?_, ?_, ?_, ?_⟩
  all_goals
    intros
    refine readsBack_a rfl (by simp only [b2n_eq]; omega) fun _ => ?_
    simp (disch := omega) only [b2n_eq, Nat.add_assoc, fixed_bits, Nat.reduceDiv, Nat.reduceMod, decodeA]
    refine (zeros_ok rfl).trans ?_
    congr 2 <;> first | exact bitAt_field (by omega) | exact ofNat_field (by omega)
@[simp] theorem plain :
    (∀ s, ReadsBack (.nop s)) ∧ (∀ s, ReadsBack (.yield s)) ∧ (∀ s, ReadsBack (.retire s)) ∧ (∀ s rd, ReadsBack (.vlq s rd)) := by
  refine ⟨?_, ?_, ?_, ?_⟩
  all_goals
    intros
    refine readsBack_a rfl (by simp only [b2n_eq]; omega) fun _ => ?_
    simp (disch := omega) only [b2n_eq, Nat.add_assoc, fixed_bits, Nat.reduceDiv, Nat.reduceMod, decodeA, decodeA19]
    refine (zeros_ok rfl).trans ?_
    congr 2 <;> first | exact bitAt_field (by omega) | exact ofNat_field (by omega)
@[simp] theorem patterns :
    (∀ s p q isW, ReadsBack (.sgo s p q isW)) ∧ (∀ s p, ReadsBack (.shalt s p)) ∧ (∀ s rd p, ReadsBack (.sq s rd p)) := by
  refine ⟨?_, ?_, ?_⟩
  all_goals
    intros
    refine readsBack_a rfl (by simp only [b2n_eq]; omega) fun _ => ?_
    simp (disch := omega) only [b2n_eq, Nat.add_assoc, fixed_bits, Nat.reduceDiv, Nat.reduceMod, decodeA, decodeA33]
    refine (zeros_ok rfl).trans ?_
    congr 2 <;> first | exact bitAt_field (by omega) | exact ofNat_field (by omega)
@[simp] theorem barriers :
    (∀ s rs1 n, ReadsBack (.bari s rs1 n)) ∧ (∀ s rd n pz, ReadsBack (.bara s rd n pz)) ∧ (∀ s rd n, ReadsBack (.barw s rd n)) ∧
    (∀ s rd n pz, ReadsBack (.baraw s rd n pz)) ∧ (∀ s rd n, ReadsBack (.barq s rd n)) := by
  refine ⟨?_, ?_, ?_, ?_, ?_⟩
  all_goals
    intros
    refine readsBack_a rfl (by simp only [b2n_eq]; omega) fun _ => ?_
    simp (disch := omega) only [b2n_eq, Nat.add_assoc, fixed_bits, Nat.reduceDiv, Nat.reduceMod, decodeA, decodeA4A]
    refine (zeros_ok rfl).trans ?_
    congr 2 <;> first | exact bitAt_field (by omega) | exact ofNat_field (by omega)
@[simp] theorem tiles :
    (∀ s h, ReadsBack (.tfree s h)) ∧ (∀ s rd h, ReadsBack (.tstat s rd h)) ∧ (∀ s h, ReadsBack (.twait s h)) ∧
    (∀ s h ready tag, ReadsBack (.tset s h ready tag)) := by
  refine ⟨?_, ?_, ?_, ?_⟩
  all_goals
    intros
    refine readsBack_a rfl (by simp only [b2n_eq]; omega) fun _ => ?_
    simp (disch := omega) only [b2n_eq, Nat.add_assoc, fixed_bits, Nat.reduceDiv, Nat.reduceMod, decodeA, decodeA4C]
    refine (zeros_ok rfl).trans ?_
    congr 2 <;> first | exact bitAt_field (by omega) | exact ofNat_field (by omega)
@[simp] theorem copiesAndJobs :
    (∀ s n, ReadsBack (.cpstage s n)) ∧ (∀ s rd rs1, ReadsBack (.cpq s rd rs1)) ∧ (∀ s rs1, ReadsBack (.cpcancel s rs1)) ∧
    (∀ s rd rs1, ReadsBack (.mxpoll s rd rs1)) ∧ (∀ s rs1, ReadsBack (.mxwait s rs1)) := by
  refine ⟨?_, ?_, ?_, ?_, ?_⟩
  all_goals
    intros
    refine readsBack_a rfl (by simp only [b2n_eq]; omega) fun _ => ?_
    simp (disch := omega) only [b2n_eq, Nat.add_assoc, fixed_bits, Nat.reduceDiv, Nat.reduceMod, decodeA, decodeA4D, decodeA4F]
    refine (zeros_ok rfl).trans ?_
    congr 2 <;> first | exact bitAt_field (by omega) | exact ofNat_field (by omega)
@[simp] theorem kettlesAndWeights :
    (∀ s, ReadsBack (.kfence s)) ∧ (∀ s rd rs1, ReadsBack (.kpoll s rd rs1)) ∧ (∀ s rd rs1 n, ReadsBack (.wseal s rd rs1 n)) ∧
    (∀ s rd n, ReadsBack (.wq s rd n)) := by
  refine ⟨?_, ?_, ?_, ?_⟩
  all_goals
    intros
    refine readsBack_a rfl (by simp only [b2n_eq]; omega) fun _ => ?_
    simp (disch := omega) only [b2n_eq, Nat.add_assoc, fixed_bits, Nat.reduceDiv, Nat.reduceMod, decodeA, decodeA55, decodeA56]
    refine (zeros_ok rfl).trans ?_
    congr 2 <;> first | exact bitAt_field (by omega) | exact ofNat_field (by omega)
@[simp] theorem stepsAndCycles :
    (∀ s, ReadsBack (.ssend s)) ∧ (∀ s rd, ReadsBack (.xend s rd)) ∧ (∀ s rs1 set rel, ReadsBack (.cycb s rs1 set rel)) ∧
    (∀ s rs1, ReadsBack (.cycres s rs1)) ∧ (∀ s, ReadsBack (.cyce s)) := by
  refine ⟨?_, ?_, ?_, ?_, ?_⟩
  all_goals
    intros
    refine readsBack_a rfl (by simp only [b2n_eq]; omega) fun _ => ?_
    simp (disch := omega) only [b2n_eq, Nat.add_assoc, fixed_bits, Nat.reduceDiv, Nat.reduceMod, decodeA, decodeA5E, decodeA68]
    refine (zeros_ok rfl).trans ?_
    congr 2 <;> first | exact bitAt_field (by omega) | exact ofNat_field (by omega)
@[simp] theorem system :
    (∀ s mode, ReadsBack (.eret s mode)) ∧ (∀ s n, ReadsBack (.brk s n)) ∧ (∀ s rd rs1, ReadsBack (.wdog s rd rs1)) ∧
    (∀ s c, ReadsBack (.pwrhint s c)) := by
  refine ⟨?_, ?_, ?_, ?_⟩
  all_goals
    intros
    refine readsBack_a rfl (by simp only [b2n_eq]; omega) fun _ => ?_
    simp (disch := omega) only [b2n_eq, Nat.add_assoc, fixed_bits, Nat.reduceDiv, Nat.reduceMod, decodeA, decodeA73]
    refine (zeros_ok rfl).trans ?_
    congr 2 <;> first | exact bitAt_field (by omega) | exact ofNat_field (by omega)
@[simp] theorem vectorFixed :
    (∀ s d a b esize, ReadsBack (.vwhile s d a b esize)) ∧ (∀ s d imm k, ReadsBack (.vmovi s d imm k)) ∧
    (∀ s d a fmt, ReadsBack (.vtag s d a fmt)) := by
  refine ⟨?_, ?_, ?_⟩
  all_goals
    intros
    refine readsBack_c rfl (by simp only [b2n_eq]; omega) ?_
    simp (disch := omega) only [b2n_eq, Nat.add_assoc, fixed_bits, Nat.reduceDiv, Nat.reduceMod, decodeC]
    refine (zeros_ok rfl).trans ?_
    congr 2 <;> first | exact bitAt_field (by omega) | exact ofNat_field (by omega)
@[simp] theorem vectorImmediates :
    (∀ s d a imm k, ReadsBack (.vaddi s d a imm k)) ∧ (∀ s d a imm k, ReadsBack (.vslli s d a imm k)) ∧
    (∀ s d a imm k, ReadsBack (.vsrli s d a imm k)) ∧ (∀ s d a imm k, ReadsBack (.vsrai s d a imm k)) ∧
    (∀ s d a imm k, ReadsBack (.vslide s d a imm k)) ∧ (∀ s d a tgt m k z, ReadsBack (.vrq s d a tgt m k z)) ∧
    (∀ s d b fmt off k, ReadsBack (.vld s d b fmt off k)) ∧ (∀ s d b fmt off k, ReadsBack (.vst s d b fmt off k)) ∧
    (∀ s d b fmt vx k, ReadsBack (.vgather s d b fmt vx k)) ∧ (∀ s d b fmt vx k, ReadsBack (.vscatter s d b fmt vx k)) := by
  refine ⟨?_, ?_, ?_, ?_, ?_, ?_, ?_, ?_, ?_, ?_⟩
  all_goals
    intros
    refine readsBack_c rfl (by simp only [b2n_eq]; omega) ?_
    simp (disch := omega) only [b2n_eq, Nat.add_assoc, fixed_bits, Nat.reduceDiv, Nat.reduceMod, decodeC]
    congr 2 <;> first | exact bitAt_field (by omega) | exact ofNat_field (by omega)
@[simp] theorem reductions :
    (∀ s d a k, ReadsBack (.vrsum s d a k)) ∧ (∀ s d a k, ReadsBack (.vrmax s d a k)) ∧ (∀ s d a k, ReadsBack (.vrmin s d a k)) ∧
    (∀ s d a k, ReadsBack (.vrand s d a k)) ∧ (∀ s d a k, ReadsBack (.vror s d a k)) ∧ (∀ s d a k, ReadsBack (.vrxor s d a k)) := by
  refine ⟨?_, ?_, ?_, ?_, ?_, ?_⟩
  all_goals
    intros
    refine readsBack_c rfl (by simp only [b2n_eq]; omega) ?_
    simp (disch := omega) only [b2n_eq, Nat.add_assoc, fixed_bits, Nat.reduceDiv, Nat.reduceMod, decodeC, decodeC40]
    refine (zeros_ok rfl).trans ?_
    congr 2 <;> first | exact bitAt_field (by omega) | exact ofNat_field (by omega)
@[simp] theorem flags :
    (∀ s d, ReadsBack (.vflrd s d)) ∧ (∀ s a, ReadsBack (.vflclr s a)) := by
  refine ⟨?_, ?_⟩
  all_goals
    intros
    refine readsBack_c rfl (by simp only [b2n_eq]; omega) ?_
    simp (disch := omega) only [b2n_eq, Nat.add_assoc, fixed_bits, Nat.reduceDiv, Nat.reduceMod, decodeC, decodeC50]
    refine (zeros_ok rfl).trans ?_
    congr 2 <;> first | exact bitAt_field (by omega) | exact ofNat_field (by omega)
@[simp] theorem mkga (s : Bool) (rd rs1 rs2 : BitVec 5) (region : BitVec 7) : ReadsBack (.mkga s rd rs1 rs2 region) := by
  refine readsBack_a rfl (by simp only [b2n_eq]; omega) fun hwf => ?_
  have hreg := of_decide_eq_true (fieldsOk_of_wf hwf)
  simp (disch := omega) only [b2n_eq, Nat.add_assoc, fixed_bits, Nat.reduceDiv, Nat.reduceMod, decodeA]
  refine (region_ok (by omega)).trans ?_
  congr 2 <;> first | exact bitAt_field (by omega) | exact ofNat_field (by omega)
@[simp] theorem sysrd (s : Bool) (rd : BitVec 5) (sel : BitVec 12) : ReadsBack (.sysrd s rd sel) := by
  refine readsBack_a rfl (by simp only [b2n_eq]; omega) fun hwf => ?_
  simp (disch := omega) only [b2n_eq, Nat.add_assoc, fixed_bits, Nat.reduceDiv, Nat.reduceMod, decodeA]
  refine (selector_ok (m := sel.toNat) (by omega) (fieldsOk_of_wf hwf)).trans ?_
  refine (zeros_ok rfl).trans ?_
  congr 2 <;> first | exact bitAt_field (by omega) | exact ofNat_field (by omega)
@[simp] theorem syswr (s : Bool) (rs1 : BitVec 5) (sel : BitVec 12) : ReadsBack (.syswr s rs1 sel) := by
  refine readsBack_a rfl (by simp only [b2n_eq]; omega) fun hwf => ?_
  simp (disch := omega) only [b2n_eq, Nat.add_assoc, fixed_bits, Nat.reduceDiv, Nat.reduceMod, decodeA]
  refine (selector_ok (m := sel.toNat) (by omega) (fieldsOk_of_wf hwf)).trans ?_
  refine (zeros_ok rfl).trans ?_
  congr 2 <;> first | exact bitAt_field (by omega) | exact ofNat_field (by omega)
@[simp] theorem waitall : ReadsBack .waitall := by
  intro n w rest _ h
  cases h
  exact ⟨.inl rfl, by decide, by decide, decode_word16 rest (by decide) (by decide) rfl⟩

/-- Every instruction of the opcode table is read back. -/
theorem every (i : Instr) : ReadsBack i := by
  by_cases h : encode i = none
  · exact readsBack_event h
  · cases i
    all_goals first | exact absurd rfl h | simp

/-- Settles O2: every row of the table reads its own encoding back. -/
theorem encodingRoundTrips : Obligations.EncodingRoundTrips := by
  unfold Obligations.EncodingRoundTrips
  exact fun i => every i

end Sys2Proof.Laws.ReadsBack
end

section
/-! SUPPORT. The divisions (R47, R141): the quotients and remainders of R141's cases, and the result that waits in the return buffer. -/

namespace Sys2Proof.Machine

/-- A long-class a-register result waits at the end of the return buffer (R47). -/
theorem pushRb_waiting (c : Ctxt) (d : RbDest) (r : RbResult) (f : FlagBits) (l : Bool) : c.pushRb d r f l = Waiting c d r f l := rfl

theorem divS_zero (x : DWord) : (divS x 0).toInt = -1 := by
  rw [divS, if_pos rfl, BitVec.toInt_allOnes]
  simp
/-- The one quotient that does not fit: the least value by −1 (R141). -/
theorem divS_least {x y : DWord} (hx : x.toInt = -(2 ^ 63)) (hy : y.toInt = -1) : (divS x y).toInt = -(2 ^ 63) := by
  have h0 : y ≠ 0 := by rintro rfl; simp at hy
  rw [divS, if_neg h0, BitVec.toInt_ofInt, hx, hy]
  decide
theorem divS_quotient {x y : DWord} (h0 : y ≠ 0) (h : ¬ (x.toInt = -(2 ^ 63) ∧ y.toInt = -1)) : (divS x y).toInt = x.toInt.tdiv y.toInt := by
  have hne : x ≠ BitVec.intMin 64 ∨ y ≠ -1#64 := by
    by_contra hc
    obtain ⟨hx, hy⟩ := not_or.1 hc
    refine h ⟨?_, ?_⟩
    · rw [not_not.1 hx]; rfl
    · rw [not_not.1 hy]; rfl
  rw [divS, if_neg h0, BitVec.toInt_ofInt, ← BitVec.toInt_sdiv, BitVec.toInt_sdiv_of_ne_or_ne _ _ hne]
theorem remS_remainder {x y : DWord} (h0 : y ≠ 0) : (remS x y).toInt = x.toInt.tmod y.toInt := by
  rw [remS, if_neg h0, ← BitVec.toInt_srem, BitVec.ofInt_toInt]
theorem remS_least {x y : DWord} (hy : y.toInt = -1) : remS x y = 0 := by
  have h0 : y ≠ 0 := by rintro rfl; simp at hy
  exact BitVec.eq_of_toInt_eq (by rw [remS_remainder h0, hy]; simp)

/-- A division that reaches its effect leaves its result waiting and retires. -/
theorem rrLong_takes {st t : State} {s : Bool} {rd rs1 rs2 : BitVec 5} (f : DWord → DWord → DWord)
    (h : Takes { s := s, long := true, hOk := true, xOk := true, a := [rs1, rs2] } st t) :
    rrLong s rd rs1 rs2 f st = (t.setCx (Waiting t.cx (.areg rd) (.scalar (f (t.cx.ra rs1) (t.cx.ra rs2))) 0 false)).finish :=
  issue_takes h

/-- Settles O12: each division's value by R141's cases, and the wait in the return buffer. -/
theorem divisionsWaitInTheReturnBuffer : Obligations.DivisionsWaitInTheReturnBuffer := by
  unfold Obligations.DivisionsWaitInTheReturnBuffer
  intro st t s rd rs1 rs2 h x y least waits
  have wait : ∀ (f : DWord → DWord → DWord) (i : Instr) (P : DWord → Prop), exec i st = .next (rrLong s rd rs1 rs2 f st) → P (f x y) → waits i P :=
    fun f i P hi hP => ⟨f x y, hP, by rw [hi, rrLong_takes f h]⟩
  refine ⟨wait divS _ _ rfl ⟨fun h0 => ?_, fun hl => divS_least hl.1 hl.2, divS_quotient⟩, wait divU _ _ rfl ⟨fun h0 => ?_, fun h0 => ?_⟩,
    wait remS _ _ rfl ⟨fun h0 => if_pos h0, fun hl => remS_least hl.2, remS_remainder⟩, wait remU _ _ rfl ⟨fun h0 => if_pos h0, fun h0 => ?_⟩⟩
  · rw [h0, divS_zero]
  · rw [divU, if_pos h0]; rfl
  · rw [divU, if_neg h0, BitVec.toNat_udiv]
  · rw [remU, if_neg h0, BitVec.toNat_umod]

end Sys2Proof.Machine
end

section
/-! SUPPORT. Branches and jumps (R51, R146, R148), the small instructions (R35, R85, R243, R245, R284, R357), and the ends of waits
(R47, R243, R245, R361). -/

namespace Sys2Proof.Machine

/-! ## Branches and jumps -/

@[simp] theorem Ctxt.wa_pc (c : Ctxt) (r : BitVec 5) (v : DWord) : (c.wa r v).pc = c.pc := by unfold Ctxt.wa Ctxt.putA; split <;> rfl
@[simp] theorem Ctxt.wa_order (c : Ctxt) (r : BitVec 5) (v : DWord) : (c.wa r v).order = c.order := by unfold Ctxt.wa Ctxt.putA; split <;> rfl

/-- A conditional branch that reaches its effect leaves its transfer to the end of the delay slot. -/
theorem bcc_takes {st t : State} {s : Bool} {rs1 rs2 : BitVec 5} (off : BitVec 12) (p : DWord → DWord → Bool)
    (h : Takes { s := s, control := true, hOk := true, xOk := true, a := [rs1, rs2] } st t) :
    bcc s rs1 rs2 off p st = t.setCx { t.cx with
      delay := some ⟨t.cx.pc, if p (t.cx.ra rs1) (t.cx.ra rs2) then some (t.cx.pc + BitVec.ofInt 64 (2 * off.toInt)) else none, none⟩,
      pc := t.cx.pc + 4, order := t.cx.order + 1 } := by
  rw [← halfwords_eq]
  exact issue_takes h

/-- The link of a jump whose delay slot can be fetched (R148). -/
theorem linkAddress_of_fetch {t : State} {n : Nat} (h : fetchHalf t t.me (t.cx.pc + 4) (t.cx.pc + 4) = .ok n) :
    linkAddress t = t.cx.pc + (if n % 2 = 0 then 6 else 8) := by
  simp only [linkAddress, h]

/-- A jump: its link is written at once, and its transfer waits for the delay slot. -/
theorem branch_wa (t : State) (rd : BitVec 5) (link a : DWord) :
    t.branch (t.cx.wa rd link) (some a) =
      t.setCx { t.cx.wa rd link with delay := some ⟨t.cx.pc, some a, none⟩, pc := t.cx.pc + 4, order := t.cx.order + 1 } := by
  simp only [State.branch, Ctxt.wa_pc, Ctxt.wa_order]

/-- Settles O14: the branches by their comparison, the jumps by their link and target. -/
theorem branchesAndJumpsTransfer : Obligations.BranchesAndJumpsTransfer := by
  unfold Obligations.BranchesAndJumpsTransfer
  constructor
  · intro st t s rs1 rs2 off h x y p hp
    have branch : ∀ (i : Instr) (f : DWord → DWord → Bool) (b : Bool), exec i st = .next (bcc s rs1 rs2 off f st) → f x y = b →
        exec i st = .next (t.setCx { t.cx with
          delay := some ⟨t.cx.pc, if b then some (t.cx.pc + BitVec.ofInt 64 (2 * off.toInt)) else none, none⟩,
          pc := t.cx.pc + 4, order := t.cx.order + 1 }) := fun i f b hi hb => by rw [hi, bcc_takes off f h, ← hb]
    simp only [List.mem_cons, List.not_mem_nil, or_false] at hp
    obtain rfl | rfl | rfl | rfl | rfl | rfl := hp
    · exact branch _ (· == ·) _ rfl (by simp [beq_eq_decide])
    · exact branch _ (· != ·) _ rfl (by simp [bne, beq_eq_decide])
    · exact branch _ BitVec.slt _ rfl (by simp [BitVec.slt])
    · exact branch _ (fun x y => !x.slt y) _ rfl (by simp [BitVec.slt, ← decide_not])
    · exact branch _ BitVec.ult _ rfl (by simp [BitVec.ult])
    · exact branch _ (fun x y => !x.ult y) _ rfl (by simp [BitVec.ult, ← decide_not])
  intro st t s rd rs1 imm off n hn link to_ a
  refine ⟨fun h => ?_, fun h => ⟨fun ha => ?_, fun ha => ?_⟩⟩
  · refine ⟨_, ?_, t.cx.wa_writesA rd link⟩
    rw [← halfwords_eq]
    exact congrArg Host.Outcome.next ((issue_takes h).trans (by rw [linkAddress_of_fetch hn]; exact branch_wa ..))
  · exact congrArg Host.Outcome.next ((issue_takes h).trans (if_pos ha))
  · refine ⟨_, ?_, t.cx.wa_writesA rd link⟩
    refine congrArg Host.Outcome.next ((issue_takes h).trans ((if_neg (by change ¬ a.toNat % 2 = 1; omega)).trans ?_))
    rw [linkAddress_of_fetch hn]
    exact branch_wa ..

/-! ## Small instructions -/

/-- Settles O16: each of the six by its own effect. -/
theorem smallInstructionsComplete : Obligations.SmallInstructionsComplete := by
  unfold Obligations.SmallInstructionsComplete
  intro st t s rd rs1 c
  refine ⟨fun h => ?_, fun h => ?_, fun h => ⟨⟨_, ?_, t.cx.wa_writesA rd 256⟩, ?_, ?_⟩, fun h => ?_⟩
  · exact congrArg Host.Outcome.next (issue_takes h)
  · exact congrArg Host.Outcome.next (issue_takes h)
  · exact congrArg Host.Outcome.next (issue_takes h)
  · exact congrArg Host.Outcome.next (issue_takes h)
  · exact congrArg Host.Outcome.next (issue_takes h)
  · intro limit
    refine ⟨_, ?_, t.cx.wa_writesA rd _⟩
    have hcx : (t.setSelf { t.self with wlimit := limit }).cx = t.cx := by rw [State.cx, State.self_setSelf]; rfl
    refine congrArg Host.Outcome.next ((issue_takes h).trans ?_)
    change (t.setSelf { t.self with wlimit := limit }).done ((t.setSelf { t.self with wlimit := limit }).cx.wa rd _) = _
    rw [hcx]
    rfl

/-! ## Waits -/

theorem longResultReturn_slot (s : State) (c : CtxId) (n : Nat) :
    ∃ v : Slot, exec (.longResultReturn c n) s = .next (s.setSlot c v) ∧
      v.cx = { (s.slot c).cx with rb := (s.slot c).cx.rb.map (fun e => if e.order = n then { e with returned := true } else e) } :=
  ⟨_, rfl, rfl⟩

/-- A wait that is met leaves the slot ready; one that is not goes on (R243, R245). -/
theorem waitSatisfied_spec {s : State} {c : CtxId} {w : WaitReason} {b : Bool} (hw : (s.slot c).wait = some w) (hb : waitMet s c w = b) :
    (b = true → exec (.waitSatisfied c) s = .next (s.setSlot c { s.slot c with wait := none, wcount := 0 })) ∧
    (b = false → exec (.waitSatisfied c) s = .next s) := by
  have he : exec (.waitSatisfied c) s =
      .next (if waitMet s c w then s.modSlot c (fun sl => { sl with wait := none, wcount := 0 }) else s) := by
    change execWaitSatisfied c s = _
    rw [execWaitSatisfied, hw]
  rw [he, hb]
  exact ⟨fun h => by rw [if_pos h]; rfl, fun h => by rw [h]; rfl⟩

/-- Settles O20: a returned result, the waits that are met and those that are not, and an access issued again. -/
theorem waitsEnd : Obligations.WaitsEnd := by
  unfold Obligations.WaitsEnd
  intro s c n b
  refine ⟨?_, fun p hp hw => ?_, fun as hw => ?_⟩
  · obtain ⟨v, hv, hcx⟩ := longResultReturn_slot s c n
    refine ⟨_, hv, sameOutside_setSlot s c v, ?_, ?_⟩
    · rw [State.slot_setSlot, hcx]
    · rw [State.slot_setSlot, hcx]
      refine List.map_congr_left fun e _ => ?_
      by_cases h : e.order = n <;> simp [h]
  · simp only [List.mem_cons, List.not_mem_nil, or_false] at hp
    obtain rfl | rfl | rfl | rfl := hp
    · exact waitSatisfied_spec hw rfl
    · exact waitSatisfied_spec hw rfl
    · exact waitSatisfied_spec hw rfl
    · exact waitSatisfied_spec hw rfl
  · change execRemoteReissue c s = _
    rw [execRemoteReissue, hw]
    rfl

end Sys2Proof.Machine
end

section
/-! SUPPORT. The commit of long-class results (R47 to R49, R84, R105, R156, R164), one lemma for each kind of destination. -/

namespace Sys2Proof.Machine

/-! ## Registers under writes -/

theorem Ctxt.vreg_putV (c : Ctxt) (d x : BitVec 6) (r : VReg) (hd : d.toNat < 40) (hx : x.toNat < 40) :
    (c.putV d r).vreg x = if x = d then r else c.vreg x := by
  have hne : x ≠ d → d.toNat ≠ x.toNat := fun h e => h (BitVec.eq_of_toNat_eq e.symm)
  by_cases h1 : d.toNat < 32
  · by_cases h2 : x.toNat < 32
    · by_cases h : x = d
      · subst h; simp [Ctxt.putV, Ctxt.vreg, h1]
      · simp [Ctxt.putV, Ctxt.vreg, h1, h2, h, hne h]
    · have h : x ≠ d := by rintro rfl; exact h2 h1
      simp [Ctxt.putV, Ctxt.vreg, h1, h2, h]
  · have h1' : d.toNat - 32 < 8 := by omega
    by_cases h2 : x.toNat < 32
    · have h : x ≠ d := by rintro rfl; exact h1 h2
      simp [Ctxt.putV, Ctxt.vreg, h1, h1', h2, h]
    · have h2' : x.toNat - 32 < 8 := by omega
      by_cases h : x = d
      · subst h; simp [Ctxt.putV, Ctxt.vreg, h1, h1']
      · have h3 : d.toNat - 32 ≠ x.toNat - 32 := by have := hne h; omega
        simp [Ctxt.putV, Ctxt.vreg, h1, h1', h2, h2', h, h3]
theorem Ctxt.putV_frame (c : Ctxt) (d : BitVec 6) (r : VReg) : c.putV d r = { c with v := (c.putV d r).v, o := (c.putV d r).o } := by
  unfold Ctxt.putV
  split
  · rfl
  · split <;> rfl
theorem Ctxt.rk_putK (c : Ctxt) (k j : Nat) (v : PBits) (hj : j < 8) : (c.putK k v).rk j = if j = k ∧ j ≠ 0 then v else c.rk j := by
  by_cases hk : k < 8
  · by_cases h0 : k = 0
    · have : ¬ (j = k ∧ j ≠ 0) := by omega
      rw [if_neg this]
      simp [Ctxt.putK, h0]
    · by_cases h : j = k
      · subst h; simp [Ctxt.putK, Ctxt.rk, hj, h0]
      · have hne : k ≠ j := Ne.symm h
        simp [Ctxt.putK, Ctxt.rk, hk, hj, h0, h, hne]
  · have : ¬ (j = k ∧ j ≠ 0) := by omega
    rw [if_neg this]
    simp [Ctxt.putK, hk]
theorem Ctxt.putK_frame (c : Ctxt) (k : Nat) (v : PBits) : c.putK k v = { c with k := (c.putK k v).k } := by
  unfold Ctxt.putK
  split
  · split <;> rfl
  · rfl

/-! ## The head of a list of pending results -/

theorem commitList_ok {c c' : Ctxt} {e : RbEntry} (r : List RbEntry) (h : commitEntry c e = .ok c') : commitList (e :: r) c = commitList r c' := by
  simp only [commitList, h]
theorem commitList_trap {c c' : Ctxt} {e : RbEntry} {t : TrapInfo} (r : List RbEntry) (h : commitEntry c e = .trap c' t) :
    commitList (e :: r) c = .trap { c' with rb := r } t := by
  simp only [commitList, h]
theorem commitList_wait {c c' : Ctxt} {e : RbEntry} {w : WaitReason} (r : List RbEntry) (h : commitEntry c e = .wait c' w) :
    commitList (e :: r) c = .wait { c' with rb := e :: r } w := by
  simp only [commitList, h]

/-- Where no push is blocked, an entry's flags are ORed and its result is written. -/
theorem commitEntry_free {c : Ctxt} {e : RbEntry} (h : pushBlocked c e = none) : commitEntry c e = commitResult (c.orFlags e.flags) e := by
  simp only [commitEntry, h]
theorem pushBlocked_areg {c : Ctxt} {e : RbEntry} {r : BitVec 5} (h : e.dest = .areg r) : pushBlocked c e = none := by simp only [pushBlocked, h]
theorem pushBlocked_pred {c : Ctxt} {e : RbEntry} {k : BitVec 6} (h : e.dest = .pred k) : pushBlocked c e = none := by simp only [pushBlocked, h]
/-- A vector destination that is no w queue waits for no room. -/
theorem pushBlocked_vec {c : Ctxt} {e : RbEntry} {d : BitVec 6} (h : e.dest = .vec d) (hd : specIsW d = false) : pushBlocked c e = none := by
  simp [pushBlocked, h, hd]
theorem specIsW_of_lt {d : BitVec 6} (h : d.toNat < 40) : specIsW d = false := by
  have h1 : d ≠ 48 := by rintro rfl; exact absurd h (by decide)
  have h2 : d ≠ 49 := by rintro rfl; exact absurd h (by decide)
  simpa [specIsW] using ⟨h1, h2⟩
theorem specIsW_of_queue {d : BitVec 6} {n : Nat} (hn : n < 2) (h : d.toNat = 48 + n) : specIsW d = true := by
  have : d = 48 ∨ d = 49 := by
    obtain rfl | rfl : n = 0 ∨ n = 1 := by omega
    · exact .inl (BitVec.eq_of_toNat_eq h)
    · exact .inr (BitVec.eq_of_toNat_eq h)
  simpa [specIsW] using this

/-- A committed register result may be dropped as superseded; the last-result file takes it either way (R84). -/
theorem commitResult_vec {c : Ctxt} {e : RbEntry} {d : BitVec 6} {b : VBits} {g : Tag} (h : e.dest = .vec d) (hr : e.result = .vector b g)
    (hd : d.toNat < 40) :
    commitResult c e = .ok (if e.superseded then (if e.writesL then c.pushL ⟨b, g, none⟩ else c)
      else (if e.writesL then c.pushL ⟨b, g, none⟩ else c).putV d ⟨b, g, none⟩) := by
  simp [commitResult, h, hr, specIsW_of_lt hd]
theorem commitResult_vec_fault {c : Ctxt} {e : RbEntry} {d : BitVec 6} {m : Mark} (h : e.dest = .vec d) (hr : e.result = .fault m)
    (hd : d.toNat < 40) :
    commitResult c e = .ok (if e.superseded then (if e.writesL then c.pushL ⟨0, .none, some m⟩ else c)
      else (if e.writesL then c.pushL ⟨0, .none, some m⟩ else c).putV d { c.vreg d with mark := some m }) := by
  have h63 : d.toNat ≠ 63 := by omega
  have hv : (if e.writesL then c.pushL ⟨0, .none, some m⟩ else c).vreg d = c.vreg d := by
    have : d.toNat < 32 ∨ d.toNat - 32 < 8 := by omega
    split
    · rcases this with h | h <;> simp [Ctxt.vreg, Ctxt.pushL, h]
    · rfl
  simp only [commitResult, h, hr, specIsW_of_lt hd, hv, h63]
  cases e.superseded <;> rfl
/-- A push that finds room goes to the end of its queue, a failed one as a fault entry (R164). -/
theorem commitResult_push {c : Ctxt} {e : RbEntry} {d : BitVec 6} {n : Nat} {y : VReg} (h : e.dest = .vec d) (hn : n < 2) (hd : d.toNat = 48 + n)
    (hy : (∃ b g, e.result = .vector b g ∧ y = ⟨b, g, none⟩) ∨ (∃ m, e.result = .fault m ∧ y = ⟨0, .none, some m⟩)) :
    commitResult c e = .ok ((if e.writesL then c.pushL y else c).setW n (c.wOf n ++ [⟨y.bits, y.tag, y.mark⟩])) := by
  have hk : d.toNat - 48 = n := by omega
  rcases hy with ⟨b, g, hr, rfl⟩ | ⟨m, hr, rfl⟩ <;> simp [commitResult, h, hr, specIsW_of_queue hn hd, hk]

/-- The last-result file and FLAGS after a commit, written out. -/
theorem pushL_orFlags (c : Ctxt) (f : BitVec 7) (b : Bool) (r : VReg) :
    (if b then (c.orFlags f).pushL r else c.orFlags f) =
      { c with l := if b then #v[r, c.l[0], c.l[1], c.l[2]] else c.l, flags := c.flags ||| f.setWidth 64 } := by
  cases b <;> rfl
/-- A v- or o-register written at a commit, or left as it is where it is superseded. -/
theorem putV_commit (c x : Ctxt) (d : BitVec 6) (r : VReg) (sup : Bool) (hd : d.toNat < 40) (hv : x.v = c.v) (ho : x.o = c.o) :
    ∃ c', (if sup then x else x.putV d r) = c' ∧ c' = { x with v := c'.v, o := c'.o } ∧
      ∀ y : BitVec 6, y.toNat < 40 → c'.vreg y = if y = d ∧ sup = false then r else c.vreg y := by
  have hreg : ∀ y : BitVec 6, y.toNat < 40 → x.vreg y = c.vreg y := fun y hy => by
    have : y.toNat < 32 ∨ y.toNat - 32 < 8 := by omega
    rcases this with h | h <;> simp [Ctxt.vreg, hv, ho, h]
  cases sup
  · refine ⟨_, rfl, x.putV_frame d r, fun y hy => ?_⟩
    rw [if_neg (by simp), x.vreg_putV d y r hd hy, hreg y hy]
    simp
  · exact ⟨x, rfl, rfl, fun y hy => by rw [if_neg (by simp)]; exact hreg y hy⟩

/-- Settles O9: the commit of the head of the list, by its destination. -/
theorem markersCommitResults : Obligations.MarkersCommitResults := by
  unfold Obligations.MarkersCommitResults
  intro c e rest all fl lf
  refine ⟨fun r hr => ⟨fun v hv => ?_, fun m hm hs => ⟨fun h0 => ?_, fun h0 => ?_⟩⟩, fun k hk => ⟨fun b hb => ?_, fun m hm hs => ?_⟩,
    fun d hd => ⟨fun b g hr h40 => ?_, fun m hr h40 => ?_, fun m hr h63 hs => ?_, fun n hn h48 => ⟨fun hroom y hy => ?_, fun hfull => ?_⟩⟩, rfl⟩
  · refine commitList_ok rest ((commitEntry_free (pushBlocked_areg hr)).trans ?_)
    simp only [commitResult, hr, hv, Ctxt.putA]
    by_cases h0 : r = 0
    · simp only [h0, if_true, ite_self, decide_true, Bool.or_true]
      rfl
    · simp only [h0, if_false, decide_false, Bool.or_false]
      cases e.superseded <;> rfl
  · refine commitList_ok rest ((commitEntry_free (pushBlocked_areg hr)).trans ?_)
    simp only [commitResult, hr, hm, hs, Ctxt.putA, if_neg h0]
    rfl
  · have hres : commitResult (c.orFlags e.flags) e = .trap (c.orFlags e.flags) m.trap := by simp [commitResult, hr, hm, hs, h0]
    exact commitList_trap rest ((commitEntry_free (pushBlocked_areg hr)).trans hres)
  · refine ⟨if e.superseded then c.orFlags e.flags else (c.orFlags e.flags).putK k.toNat b,
      commitList_ok rest ((commitEntry_free (pushBlocked_pred hk)).trans (by simp only [commitResult, hk, hb])), ?_, fun j hj => ?_⟩
    · cases e.superseded
      · exact (c.orFlags e.flags).putK_frame k.toNat b
      · rfl
    · cases e.superseded
      · rw [if_neg Bool.false_ne_true, (c.orFlags e.flags).rk_putK k.toNat j b hj]
        simp [Ctxt.orFlags, Ctxt.rk]
      · simp [Ctxt.orFlags, Ctxt.rk]
  · have hres : commitResult (c.orFlags e.flags) e = .trap (c.orFlags e.flags) m.trap := by simp [commitResult, hk, hm, hs]
    exact commitList_trap rest ((commitEntry_free (pushBlocked_pred hk)).trans hres)
  · obtain ⟨c', hc, hframe, hreg⟩ := putV_commit c { c with l := lf ⟨b, g, none⟩, flags := fl } d ⟨b, g, none⟩ e.superseded h40 rfl rfl
    refine ⟨c', commitList_ok rest ((commitEntry_free (pushBlocked_vec hd (specIsW_of_lt h40))).trans ?_), hframe, hreg⟩
    rw [commitResult_vec hd hr h40, pushL_orFlags, hc]
  · obtain ⟨c', hc, hframe, hreg⟩ :=
      putV_commit c { c with l := lf ⟨0, .none, some m⟩, flags := fl } d { c.vreg d with mark := some m } e.superseded h40 rfl rfl
    refine ⟨c', commitList_ok rest ((commitEntry_free (pushBlocked_vec hd (specIsW_of_lt h40))).trans ?_), hframe, hreg⟩
    rw [commitResult_vec_fault hd hr h40, pushL_orFlags, ← hc]
    rfl
  · subst h63
    have hres : commitResult (c.orFlags e.flags) e = .trap { c with l := lf ⟨0, .none, some m⟩, flags := fl } m.trap := by
      rw [← pushL_orFlags c e.flags e.writesL ⟨0, .none, some m⟩]
      simp [commitResult, hd, hr, hs, specIsW]
    exact commitList_trap rest ((commitEntry_free (pushBlocked_vec hd rfl)).trans hres)
  · have hfree : pushBlocked c e = none := by
      have : ¬ queueRoom ≤ (c.wOf n).length := by simpa [queueRoom] using hroom
      simp [pushBlocked, hd, show d.toNat - 48 = n by omega, this]
    refine commitList_ok rest ((commitEntry_free hfree).trans ?_)
    rw [commitResult_push hd hn h48 hy, pushL_orFlags]
    rfl
  · have hblock : pushBlocked c e = some n := by
      simp [pushBlocked, hd, show d.toNat - 48 = n by omega, specIsW_of_queue hn h48, queueRoom, hfull]
    exact commitList_wait rest (by simp only [commitEntry, hblock])

end Sys2Proof.Machine
end

section
/-! SUPPORT. Retirement, delay slots and the start of a run-ahead (R51, R245, R246, R280, R301, R322, R372). -/

namespace Sys2Proof.Machine

/-! ## One retirement -/

theorem Slot.metReissue_eq (sl : Slot) :
    sl.metReissue = { sl with reissued := false, wcount := if sl.reissued then 0 else sl.wcount } := by
  unfold Slot.metReissue
  split
  · rfl
  next h => rw [← Bool.eq_false_iff.mpr h]
theorem Slot.retireOne_eq (sl : Slot) :
    sl.retireOne = { sl with quantum := sl.retireOne.quantum, qend := sl.retireOne.qend } := by
  unfold Slot.retireOne
  split <;> rfl
theorem Slot.retireOne_zero (sl : Slot) (h : sl.quantum = 0) : sl.retireOne.quantum = 0 ∧ sl.retireOne.qend = sl.qend := by
  rw [Slot.retireOne, if_pos h]
  exact ⟨h, rfl⟩
theorem Slot.retireOne_counts (sl : Slot) (h : sl.quantum ≠ 0) :
    sl.retireOne.quantum = sl.quantum - 1 ∧ (sl.retireOne.qend = true ↔ sl.quantum = 1) := by
  rw [Slot.retireOne, if_neg h]
  exact ⟨rfl, decide_eq_true_iff⟩
/-- The slot's fields that a retirement outside a collective's delay slot is to leave, with the next context. -/
theorem Slot.finish_plain (sl : Slot) (len : Nat) (h : ∀ d, sl.cx.delay = some d → d.coll = none) :
    sl.finish len = ({ sl with
      cx := { sl.cx with
        pc := (match sl.cx.delay with
          | none => sl.cx.pc + BitVec.ofNat 64 len
          | some d => d.target.getD (sl.cx.pc + BitVec.ofNat 64 len)),
        delay := none, order := sl.cx.order + 1 },
      reissued := false, wcount := if sl.reissued then 0 else sl.wcount } : Slot).retireOne := by
  simp only [Slot.finish, Slot.metReissue_eq]
  cases hd : sl.cx.delay with
  | none => simp only [← hd]
  | some d => simp only [h d hd]
/-- The slot after a collective's delay slot: ahead on the predicted side, the checkpoint at the fall-through. -/
theorem Slot.finish_coll (sl : Slot) (len : Nat) (d : Delay) (r : CollRef) (hd : sl.cx.delay = some d) (hr : d.coll = some r) :
    let next := sl.cx.pc + BitVec.ofNat 64 len
    let ahead := { sl.cx with pc := (if r.pred then r.taken else next), delay := none, order := sl.cx.order + 1 }
    ∃ q e w, sl.finish len = { sl with
      cx := ahead, quantum := q, qend := e, reissued := false, wcount := w,
      ck := some ⟨{ ahead with pc := next }, { r with fall := next }, d.branch, q, e, sl.wlimit, sl.eclass, sl.einfo⟩ } := by
  intro next ahead
  simp only [Slot.finish, Slot.metReissue_cx, hd, hr]
  rw [Slot.retireOne_eq, Slot.metReissue_eq]
  exact ⟨_, _, _, rfl⟩

/-! ## The offer of a gang -/

/-- What the offer of a gang rests on: every live entry task, and there is one, has executed the launch's next CYCT. -/
def AllAtCycle (s : State) (g : Nat) : Prop :=
  liveEntries s g ≠ [] ∧
    ∀ c ∈ liveEntries s g, ∃ q : CollRef, (s.slot c).atColl = some q ∧ q.op = 3 ∧ q.k = (s.launch (s.gang g).launch).closed
/-- A gang with its pending residual offered and reset (R301). -/
def Gang.offering (x : Gang) : Gang :=
  { x with offer := some ⟨x.cyc.pend, x.cyc.tol, x.cyc.max, x.cyc.rel, x.cyc.set⟩, cyc := { x.cyc with pend := 0 } }

/-- The collective test of `offerGang`, on one live entry task. -/
theorem atColl_test_iff (o : Option CollRef) (k : Nat) :
    (match o with | some r => r.op = 3 && r.k = k | none => false : Bool) = true ↔ ∃ q : CollRef, o = some q ∧ q.op = 3 ∧ q.k = k := by
  cases o <;> simp
theorem offerGang_test_iff (s : State) (g : Nat) :
    ((s.gang g).offer.isNone && !(liveEntries s g).isEmpty &&
      (liveEntries s g).all (fun c => match (s.slot c).atColl with
        | some r => r.op = 3 && r.k = (s.launch (s.gang g).launch).closed
        | none => false)) = true ↔ (s.gang g).offer = none ∧ AllAtCycle s g := by
  simp only [Bool.and_eq_true, Option.isNone_iff_eq_none, Bool.not_eq_true', List.isEmpty_eq_false_iff, List.all_eq_true,
    AllAtCycle, and_assoc]
  simp only [← atColl_test_iff]
theorem offerGang_of_all (s : State) (g : Nat) (ho : (s.gang g).offer = none) (ha : AllAtCycle s g) :
    offerGang s g = s.setGang g (s.gang g).offering :=
  if_pos ((offerGang_test_iff s g).mpr ⟨ho, ha⟩)
theorem offerGang_of_not (s : State) (g : Nat) (h : ¬ ((s.gang g).offer = none ∧ AllAtCycle s g)) : offerGang s g = s :=
  if_neg (mt (offerGang_test_iff s g).mp h)

/-- Two states in which `AllAtCycle` says the same: the gang's entries and launch, the launches, and of each slot what is asked. -/
structure SameStanding (s t : State) (g : Nat) : Prop where
  launches : t.launches = s.launches
  entries : (t.gang g).entries = (s.gang g).entries
  launch : (t.gang g).launch = (s.gang g).launch
  slots : ∀ c, (t.slot c).phase = (s.slot c).phase ∧ (t.slot c).gang = (s.slot c).gang ∧ (t.slot c).role = (s.slot c).role ∧
    (t.slot c).atColl = (s.slot c).atColl

theorem SameStanding.trans {s t u : State} {g : Nat} (h : SameStanding s t g) (h' : SameStanding t u g) : SameStanding s u g where
  launches := h'.launches.trans h.launches
  entries := h'.entries.trans h.entries
  launch := h'.launch.trans h.launch
  slots c := by
    obtain ⟨hp, hg, hr, ha⟩ := h.slots c
    obtain ⟨hp', hg', hr', ha'⟩ := h'.slots c
    exact ⟨hp'.trans hp, hg'.trans hg, hr'.trans hr, ha'.trans ha⟩
theorem SameStanding.liveEntries {s t : State} {g : Nat} (h : SameStanding s t g) : liveEntries t g = liveEntries s g := by
  unfold Machine.liveEntries
  rw [h.entries]
  refine List.filter_congr fun c _ => ?_
  obtain ⟨hp, hg, hr, -⟩ := h.slots c
  simp only [hp, hg, hr]
theorem SameStanding.allAtCycle {s t : State} {g : Nat} (h : SameStanding s t g) : AllAtCycle t g ↔ AllAtCycle s g := by
  have hl : ∀ l, t.launch l = s.launch l := fun l => by simp only [State.launch, h.launches]
  have ha : ∀ c, (t.slot c).atColl = (s.slot c).atColl := fun c => (h.slots c).2.2.2
  simp only [AllAtCycle, h.liveEntries, h.launch, hl, ha]
theorem sameStanding_offering (s : State) (g : Nat) : SameStanding s (s.setGang g (s.gang g).offering) g where
  launches := rfl
  entries := by rw [State.gang_setGang]; rfl
  launch := by rw [State.gang_setGang]; rfl
  slots _ := ⟨rfl, rfl, rfl, rfl⟩
theorem sameStanding_wait (s : State) (g : Nat) (c : CtxId) (w : Option WaitReason) :
    SameStanding s (s.setSlot c { s.slot c with wait := w }) g where
  launches := rfl
  entries := rfl
  launch := rfl
  slots d := by
    by_cases h : d = c
    · rw [h, State.slot_setSlot]; exact ⟨rfl, rfl, rfl, rfl⟩
    · rw [State.slot_setSlot_ne _ _ _ _ h]; exact ⟨rfl, rfl, rfl, rfl⟩

/-! ## The start of a run-ahead -/

/-- A gang's offer changes that gang alone, and is made where its live entry tasks all stand at the CYCT. -/
structure Offers (s t : State) (g : Nat) : Prop where
  standing : SameStanding s t g
  offers : (s.gang g).offer = none → AllAtCycle s g → t.gang g = (s.gang g).offering
  keeps : ¬ ((s.gang g).offer = none ∧ AllAtCycle s g) → t.gang g = s.gang g
  others : ∀ h, h ≠ g → t.gang h = s.gang h
  frame : t = { s with gangs := t.gangs }

theorem offers_offerGang (s : State) (g : Nat) : Offers s (offerGang s g) g := by
  by_cases h : (s.gang g).offer = none ∧ AllAtCycle s g
  · rw [offerGang_of_all s g h.1 h.2]
    exact ⟨sameStanding_offering s g, fun _ _ => State.gang_setGang .., fun hn => absurd h hn,
      fun i hi => State.gang_setGang_ne _ _ _ _ hi, rfl⟩
  · rw [offerGang_of_not s g h]
    exact ⟨⟨rfl, rfl, rfl, fun _ => ⟨rfl, rfl, rfl, rfl⟩⟩, fun ho ha => absurd ⟨ho, ha⟩ h, fun _ => rfl, fun _ _ => rfl, rfl⟩
/-- After the offer, the slot waits for the collective in a serialised launch (R372). -/
theorem offered_eq (s : State) (c : CtxId) (k g : Nat) (hg : (s.slot c).gang = some g) :
    s.offered c k = if (s.launch (s.gang g).launch).serial
      then (offerGang s g).setSlot c { s.slot c with wait := some (.collective k) }
      else offerGang s g := by
  have ho := offers_offerGang s g
  have hs : (offerGang s g).slot c = s.slot c := by rw [ho.frame]; rfl
  have hl : (offerGang s g).launch ((offerGang s g).gang g).launch = s.launch (s.gang g).launch := by
    rw [ho.standing.launch, State.launch, ho.standing.launches]; rfl
  simp only [State.offered, hg, hl, State.modSlot, hs]
/-- What `offered` leaves: of the slot all but its wait, of the gangs what the offer leaves, and everything else. -/
theorem offered_spec (s : State) (c : CtxId) (k g : Nat) (hg : (s.slot c).gang = some g) :
    let t := s.offered c k
    SameStanding s t g ∧ t.gangs = (offerGang s g).gangs ∧ t.me = s.me ∧
    t.slot c = { s.slot c with
      wait := if (s.launch (s.gang g).launch).serial then some (.collective k) else (s.slot c).wait } ∧
    (∀ d, d ≠ c → t.slot d = s.slot d) ∧ t = { s with cores := t.cores, gangs := t.gangs } := by
  intro t
  have ho := offers_offerGang s g
  have hslots : ∀ d, (offerGang s g).slot d = s.slot d := fun d => by rw [ho.frame]; rfl
  have hme : (offerGang s g).me = s.me := by rw [ho.frame]; rfl
  have ht : t = _ := offered_eq s c k g hg
  split at ht
  next h =>
    rw [ht, if_pos h, State.me_setSlot, State.slot_setSlot, ← hslots]
    refine ⟨ho.standing.trans (sameStanding_wait ..), rfl, hme, rfl, fun d hd => ?_, ?_⟩
    · rw [State.slot_setSlot_ne _ _ _ _ hd, hslots]
    · rw [ho.frame]; rfl
  next h =>
    rw [ht, if_neg h, hslots]
    exact ⟨ho.standing, rfl, hme, rfl, fun d _ => hslots d, by rw [ho.frame]⟩

/-! ## The two kinds of retirement -/

theorem retires_plain (s : State) (len : Nat) (h : ∀ d, s.cx.delay = some d → d.coll = none) :
    let t := s.finish len
    let next := s.cx.pc + BitVec.ofNat 64 len
    SameOutside s.me s t ∧
    t.cx = { s.cx with
      pc := (match s.cx.delay with | none => next | some d => d.target.getD next), delay := none, order := s.cx.order + 1 } ∧
    t.self = { s.self with
      cx := t.cx, quantum := t.self.quantum, qend := t.self.qend, reissued := false,
      wcount := if s.self.reissued then 0 else s.self.wcount } ∧
    (s.self.quantum = 0 → t.self.quantum = 0 ∧ t.self.qend = s.self.qend) ∧
    (s.self.quantum ≠ 0 → t.self.quantum = s.self.quantum - 1 ∧ (t.self.qend = true ↔ s.self.quantum = 1)) := by
  intro t next
  have ht : t = s.setSelf (s.self.finish len) := finish_eq s len h
  have hself : t.self = s.self.finish len := by rw [ht, State.self_setSelf]
  rw [Slot.finish_plain _ _ h] at hself
  have hframe := hself.trans (Slot.retireOne_eq _)
  have hcx : t.self.cx = _ := congrArg Slot.cx hframe
  refine ⟨ht ▸ sameOutside_setSelf .., hcx, ?_, fun hq => ?_, fun hq => ?_⟩
  · rw [show t.cx = t.self.cx from rfl, hcx, hself]
    exact Slot.retireOne_eq _
  · rw [hself]
    exact Slot.retireOne_zero _ hq
  · rw [hself]
    exact Slot.retireOne_counts _ hq

/-- The state after a collective's delay slot, before anything is offered: the slot runs ahead and nothing else has changed. -/
theorem finish_coll_eq (s : State) (len : Nat) (d : Delay) (r : CollRef) (hd : s.cx.delay = some d) (hr : d.coll = some r) :
    s.finish len = (s.setSelf (s.self.finish len)).offered s.me r.k := by
  have : (s.slot s.me).cx.delay = some d := hd
  simp only [State.finish, State.finishAt, this, hr]
  rfl

/-- Settles O6: outside a collective's delay slot only the slot changes; after one the gang's offer is as its entry tasks stand. -/
theorem instructionsRetire : Obligations.InstructionsRetire := by
  unfold Obligations.InstructionsRetire
  refine ⟨fun s len h => retires_plain s len h, ?_⟩
  intro s len d r g hd hr hg t next old l all
  obtain ⟨q, e, w, hx⟩ := Slot.finish_coll s.self len d r hd hr
  let u := s.setSelf (s.self.finish len)
  have hu : u.slot s.me = s.self.finish len := State.slot_setSlot ..
  have hug : (u.slot s.me).gang = some g := by rw [hu, hx]; exact hg
  have ht : t = u.offered s.me r.k := finish_coll_eq s len d r hd hr
  obtain ⟨hstand, hgangs, hme, hslot, hothers, hframe⟩ := offered_spec u s.me r.k g hug
  rw [← ht] at hstand hgangs hme hslot hothers hframe
  have ho := offers_offerGang u g
  have hgang : ∀ h, t.gang h = (offerGang u g).gang h := State.gang_congr hgangs
  have hall : AllAtCycle u g ↔ all := by
    have hl : t.launch (t.gang g).launch = l := by rw [hstand.launch, State.launch, hstand.launches]; rfl
    rw [← hstand.allAtCycle, AllAtCycle, hl]
  have hself : t.self = { s.self.finish len with wait := if l.serial then some (.collective r.k) else s.self.wait } := by
    rw [State.self, hme, State.me_setSelf, hslot, hu, hx]
    rfl
  rw [hx] at hself
  have hcx : t.cx = _ := congrArg Slot.cx hself
  have hck : t.self.ck = _ := congrArg Slot.ck hself
  refine ⟨hcx, ⟨_, hck, ?_, rfl, rfl, rfl⟩, ?_, congrArg Slot.wait hself, fun hf ha => ?_, fun hn => ?_, fun h hh => ?_, fun c hc => ?_, ?_⟩
  · rw [hcx]; rfl
  · simp only [Slot.speculative, hck, Option.isSome_some, Bool.or_true]
  · rw [hgang]; exact ho.offers hf (hall.mpr ha)
  · rw [hgang]; exact ho.keeps (fun h => hn ⟨h.1, hall.mp h.2⟩)
  · rw [hgang]; exact ho.others h hh
  · rw [hothers c hc]; exact State.slot_setSlot_ne _ _ _ _ hc
  · rw [hframe]; rfl

end Sys2Proof.Machine
end

section
/-! SUPPORT. TakeTrap, held traps and the double trap (R52, R272, R347 to R351). -/

namespace Sys2Proof.Machine

/-! ## EINFO -/

/-- Above its last bit a field of EINFO has no bit. -/
theorem getLsbD_shifted_of_ge {w : Nat} (x : BitVec w) (k b : Nat) (h : k + w ≤ b) : (x.setWidth 64 <<< k).getLsbD b = false := by
  rw [BitVec.getLsbD_shiftLeft, BitVec.getLsbD_setWidth, BitVec.getLsbD_of_ge x (b - k) (by omega)]
  simp
theorem getLsbD_rsvw_of_ne (b : Nat) (h : b ≠ 8) : (0x100#64).getLsbD b = false := by
  rw [show 0x100#64 = BitVec.twoPow 64 8 from rfl, BitVec.getLsbD_twoPow]
  simp [Ne.symm h]
/-- Every bit of EINFO, the fields in the order of R347. -/
theorem getLsbD_einfoWord (old : DWord) (t : TrapInfo) (ds held : Bool) (b : Nat) :
    (einfoWord old t ds held).getLsbD b =
      if b < 2 then false else if b < 4 then t.acc.getLsbD (b - 2) else if b < 7 then t.walk.getLsbD (b - 4) else if b = 7 then held
      else if b = 8 then old.getLsbD 8 else if b = 9 then t.sw else if b = 10 then ds else if b = 11 then t.dfr
      else t.opc.getLsbD (b - 12) && decide (b < 64) := by
  by_cases hb : b < 12
  · simp only [einfoWord, BitVec.getLsbD_or, BitVec.getLsbD_and, BitVec.getLsbD_shiftLeft, BitVec.getLsbD_setWidth]
    interval_cases b <;> simp
  · have hflag : ∀ (x : Bool) (k : Nat), k < 12 → ((BitVec.ofBool x).setWidth 64 <<< k).getLsbD b = false := fun x k hk =>
      getLsbD_shifted_of_ge _ _ _ (by omega)
    rw [if_neg (by omega), if_neg (by omega), if_neg (by omega), if_neg (by omega), if_neg (by omega), if_neg (by omega),
      if_neg (by omega), if_neg (by omega)]
    have hrsvw : (0x100#64).getLsbD b = false := getLsbD_rsvw_of_ne b (by omega)
    simp only [einfoWord, BitVec.getLsbD_or, BitVec.getLsbD_and, hflag _ 11 (by omega), hflag _ 10 (by omega), hflag _ 9 (by omega),
      hflag _ 7 (by omega),
      getLsbD_shifted_of_ge t.walk 4 b (by omega), getLsbD_shifted_of_ge t.acc 2 b (by omega),
      BitVec.getLsbD_shiftLeft, hb]
    simp [hrsvw, Bool.and_comm]

/-! ## TakeTrap -/

theorem takeTrap_forwards (s : State) (c : CtxId) (t : TrapInfo) (held : Bool)
    (h : (s.core c.core).tvec = 0 ∨ (s.core c.core).halted = true) :
    takeTrap s c t held = s.setSlot c ((s.slot c).trapped t held .forwarded) :=
  if_pos (by simpa using h)
theorem takeTrap_queues (s : State) (c : CtxId) (t : TrapInfo) (held : Bool)
    (h : ¬ ((s.core c.core).tvec = 0 ∨ (s.core c.core).halted = true)) :
    takeTrap s c t held = (s.setSlot c ((s.slot c).trapped t held .trapped)).modCore c.core
      (fun k => { k with trapq := k.trapq ++ [c.who] }) :=
  if_neg (by simpa using h)
theorem trapPc_eq (c : Ctxt) : trapPc c = (match c.delay with | some d => d.branch | none => c.pc, c.delay.isSome) := by
  unfold trapPc
  cases c.delay <;> rfl
/-- What TakeTrap does with the slot's phase and the trap queue: FORWARDED and the queue as it was, or TRAPPED and queued at the end. -/
theorem takeTrap_phase (s : State) (c : CtxId) (t : TrapInfo) (held : Bool) :
    let u := takeTrap s c t held
    let fwd := (s.core c.core).tvec = 0 ∨ (s.core c.core).halted = true
    u = { s with cores := u.cores } ∧
    (fwd → u.slot c = (s.slot c).trapped t held .forwarded ∧ (u.core c.core).trapq = (s.core c.core).trapq) ∧
    (¬ fwd → u.slot c = (s.slot c).trapped t held .trapped ∧ (u.core c.core).trapq = (s.core c.core).trapq ++ [c.who]) := by
  intro u fwd
  by_cases h : fwd
  · have hu : u = _ := takeTrap_forwards s c t held h
    refine ⟨by rw [hu]; rfl, fun _ => ?_, fun hn => absurd h hn⟩
    rw [hu]
    simp only [State.slot_setSlot, State.core_setSlot]
    exact ⟨trivial, trivial⟩
  · have hu : u = _ := takeTrap_queues s c t held h
    refine ⟨by rw [hu]; rfl, fun hf => absurd hf h, fun _ => ?_⟩
    rw [hu, State.modCore, State.slot_setCore _ _ _ (by rfl)]
    simp only [State.core_setCore, State.slot_setSlot, State.core_setSlot]
    exact ⟨trivial, trivial⟩

/-! ## Where a trap goes -/

theorem raise_held (s : State) (t : TrapInfo) (hw : s.me.who ≠ 4) (h : s.self.speculative = true) :
    s.raise t = switchPoint (s.setSelf { s.self.leaveHeld t with held := some t, wait := some .certain, reissued := false }) s.cur := by
  rw [State.raise, State.raiseAt, if_neg hw, if_pos (show (s.slot s.me).speculative = true from h)]
  rfl
/-- CONTEXT_LOST or QUANTUM_END stays due where another trap takes its place. -/
theorem Slot.leaves_due (sl : Slot) (t : TrapInfo) (code : BitVec 9) (b : Bool) :
    (b || (sl.holdsTrap code && decide (t.code ≠ code))) = true ↔ b = true ∨ (∃ h, sl.held = some h ∧ h.code = code) ∧ t.code ≠ code := by
  have hh : sl.holdsTrap code = true ↔ ∃ h, sl.held = some h ∧ h.code = code := by
    unfold Slot.holdsTrap
    cases sl.held <;> simp
  simp [← hh]

/-! ## The double trap -/

/-- A slot that a double trap forwards: one that was trapped (R351). -/
def Slot.forwardTrapped (sl : Slot) : Slot := if sl.phase = .trapped then { sl with phase := .forwarded } else sl

/-- The handler context as a double trap leaves it: idle, with the cause and the pc (R351). -/
def Slot.doubleTrapped (sl : Slot) (t : TrapInfo) : Slot :=
  { sl with phase := .idle, wait := none, cause := t.code.setWidth 64, epc := sl.cx.pc, eaddr := t.eaddr }

section
variable (f : Slot → Slot)

theorem slot_foldl_modSlot (l : List CtxId) (hl : l.Nodup) (s : State) (d : CtxId) :
    (l.foldl (fun s c => s.modSlot c f) s).slot d = if d ∈ l then f (s.slot d) else s.slot d := by
  induction l generalizing s with
  | nil => rfl
  | cons c l ih =>
    obtain ⟨hc, hl⟩ := List.nodup_cons.mp hl
    rw [List.foldl_cons, ih hl]
    by_cases h : d = c
    · rw [h, if_neg hc, if_pos (List.mem_cons_self ..), State.modSlot, State.slot_setSlot]
    · rw [State.modSlot, State.slot_setSlot_ne _ _ _ _ h]
      simp [h]
/-- Changing slots of one core leaves memory and every other core. -/
theorem foldl_modSlot_leaves (k : CoreId) (l : List CtxId) (hl : ∀ c ∈ l, c.core = k) (s : State) :
    let t := l.foldl (fun s c => s.modSlot c f) s
    t.mem = s.mem ∧ ∀ j, j ≠ k → t.core j = s.core j := by
  induction l generalizing s with
  | nil => exact ⟨rfl, fun _ _ => rfl⟩
  | cons c l ih =>
    obtain ⟨hmem, hcore⟩ := ih (fun d hd => hl d (List.mem_cons_of_mem _ hd)) (s.modSlot c f)
    refine ⟨hmem, fun j hj => (hcore j hj).trans ?_⟩
    exact State.core_setSlot_ne s c _ j (by rw [hl c (List.mem_cons_self ..)]; exact hj)

end

theorem castSucc_mem_slotIds (k : CoreId) (n : Fin 4) : ⟨k, n.castSucc⟩ ∈ slotIds k := by
  fin_cases n <;> simp [slotIds]
/-- A double trap (R351): the handler context and its core's slots, the trap queue, and what it leaves. -/
theorem doubleTrap_spec (s : State) (k : CoreId) (t : TrapInfo) :
    let u := doubleTrap s k t
    (u.core k).halted = true ∧ (u.core k).trapq = [] ∧ u.slot ⟨k, 4⟩ = (s.slot ⟨k, 4⟩).doubleTrapped t ∧ u.mem = s.mem ∧
    (∀ n : Fin 4, u.slot ⟨k, n.castSucc⟩ = (s.slot ⟨k, n.castSucc⟩).forwardTrapped) ∧ ∀ j, j ≠ k → u.core j = s.core j := by
  intro u
  let v := s.setSlot ⟨k, 4⟩ ((s.slot ⟨k, 4⟩).doubleTrapped t)
  let w := (slotIds k).foldl (fun s c => s.modSlot c Slot.forwardTrapped) v
  have hu : u = (w.modCore k (fun c => { c with halted := true, trapq := [] })).countError k.cl.m 0x01A := rfl
  have hcore : ∀ j, u.core j = (w.modCore k (fun c => { c with halted := true, trapq := [] })).core j := fun _ => rfl
  have hslot : ∀ d, u.slot d = w.slot d := fun d => State.slot_setCore w k { w.core k with halted := true, trapq := [] } rfl d
  have hw : ∀ d, w.slot d = if d ∈ slotIds k then (v.slot d).forwardTrapped else v.slot d :=
    slot_foldl_modSlot _ _ (by simp [slotIds]) v
  obtain ⟨hmem, hcores⟩ := foldl_modSlot_leaves Slot.forwardTrapped k (slotIds k) (by simp [slotIds]) v
  have hself : u.core k = { w.core k with halted := true, trapq := [] } := (hcore k).trans (State.core_setCore ..)
  refine ⟨by rw [hself], by rw [hself], ?_, hmem, fun n => ?_, fun j hj => ?_⟩
  · rw [hslot, hw, if_neg (by simp [slotIds])]
    exact State.slot_setSlot ..
  · rw [hslot, hw, if_pos (castSucc_mem_slotIds k n)]
    refine congrArg Slot.forwardTrapped (State.slot_setSlot_ne s _ _ _ fun h => ?_)
    exact absurd (congrArg CtxId.who h) (Fin.castSucc_lt_last n).ne
  · rw [hcore, State.modCore, State.core_setCore_ne _ _ _ _ hj, hcores j hj]
    exact State.core_setSlot_ne _ _ _ _ hj

/-- Settles O7: the slot is that of `Slot.trapped`, and the three ways a trap goes are the branches of `raiseAt`. -/
theorem trapsAreTaken : Obligations.TrapsAreTaken := by
  unfold Obligations.TrapsAreTaken
  refine ⟨fun s c t held _ => ?_, fun s t => ⟨fun hw hs => ?_, fun hw hs => ?_, fun hw => ?_⟩⟩
  · intro u old new ds fwd
    obtain ⟨⟨ph, -, hnew⟩, hothers, -, -⟩ := takeTrap_spec s c t held
    obtain ⟨hframe, hfwd, hqueue⟩ := takeTrap_phase s c t held
    have hn : new = old.trapped t held ph := hnew
    have hpc := trapPc_eq old.cx
    rw [hn]
    refine ⟨rfl, rfl, congrArg Prod.fst hpc, fun b => ?_, rfl, rfl, rfl, fun hf => ?_, fun hf => ?_, hframe, hothers⟩
    · exact (getLsbD_einfoWord ..).trans (by rw [hpc])
    · obtain ⟨hslot, hq⟩ := hfwd hf
      exact ⟨congrArg Slot.phase (hn.symm.trans hslot), hq⟩
    · obtain ⟨hslot, hq⟩ := hqueue hf
      exact ⟨congrArg Slot.phase (hn.symm.trans hslot), hq⟩
  · rw [State.raise, raiseAt_certain s s.me t hw hs]
  · exact ⟨_, raise_held s t hw hs, rfl, Slot.leaves_due .., Slot.leaves_due ..⟩
  · intro u
    have hu : u = doubleTrap s s.cur t := if_pos hw
    have hme : s.me = ⟨s.cur, 4⟩ := State.me_of_handler hw
    obtain ⟨hhalt, hq, hslot, hmem, hslots, hcores⟩ := doubleTrap_spec s s.cur t
    rw [hu, State.cx, State.self, hme, hslot]
    refine ⟨hhalt, hq, rfl, rfl, rfl, hmem, fun n hn => ?_, fun n hn => ?_, hcores⟩
    · rw [hslots, Slot.forwardTrapped, if_pos hn]
    · rw [hslots, Slot.forwardTrapped, if_neg hn]

end Sys2Proof.Machine
end

section
/-! SUPPORT. The checks before an instruction, one by one (R47, R48, R52, R157, R228, R253, R271, R351). -/

namespace Sys2Proof.Machine

/-! ## The switch marker -/

theorem marker_waits (s : State) (body : State → State) (h : ∃ e ∈ s.cx.rb, e.returned = false) : marker s body = s.park .marker := by
  rw [marker, if_neg]
  simpa using h
theorem marker_commits (s : State) (body : State → State) (h : ∀ e ∈ s.cx.rb, e.returned = true) :
    marker s body = match commitList s.cx.rb s.cx with
      | .ok c => body (s.setCx c)
      | .trap c x => (s.setCx c).raise x
      | .wait c w => (s.setCx c).park w :=
  if_pos (by simpa using h)

/-! ## The checks in their order -/

/-- What stands after the switch marker: the exchange phase, the parking of a speculative context, the marks of what is read (R157, R253, R271). -/
def afterMarker (q : Iss) (body : State → State) (s : State) : State :=
  if s.self.inXchg && !q.xOk then s.raise (trapInfo 0x0D0)
  else if q.parks && s.self.speculative then s.park .certain
  else match firstMark (s.cx.marks q.a q.v) with
    | some m => s.raise m.trap
    | none => body s

section
variable (q : Iss) (s : State) (body : State → State)

theorem issue_late (h : q.control = true ∧ s.cx.delay.isSome = true) : issue q s body = s.raise (trapInfo 0x007) :=
  if_pos (by simpa using h)
theorem issue_wrong (hl : ¬ (q.control = true ∧ s.cx.delay.isSome = true)) (h : s.me.who = 4 ∧ q.hOk = false) :
    issue q s body = doubleTrap s s.cur (trapInfo 0x01A) := by
  rw [issue, if_neg (by simpa using hl), if_pos (by simpa using h)]

section
variable (hl : ¬ (q.control = true ∧ s.cx.delay.isSome = true)) (hw : ¬ (s.me.who = 4 ∧ q.hOk = false))
include hl hw

theorem issue_marker (h : q.s = true ∨ (q.long = true ∧ 8 ≤ s.cx.outstanding)) :
    issue q s body = marker s (afterMarker q body) := by
  rw [issue, if_neg (by simpa using hl), if_neg (by simpa using hw)]
  exact if_pos (by simpa using h)
theorem issue_no_marker (h : ¬ (q.s = true ∨ (q.long = true ∧ 8 ≤ s.cx.outstanding))) :
    issue q s body = afterMarker q body s := by
  rw [issue, if_neg (by simpa using hl), if_neg (by simpa using hw)]
  exact if_neg (by simpa using h)

end

theorem afterMarker_shut (h : s.self.inXchg = true ∧ q.xOk = false) : afterMarker q body s = s.raise (trapInfo 0x0D0) :=
  if_pos (by simpa using h)
theorem afterMarker_parks (hs : ¬ (s.self.inXchg = true ∧ q.xOk = false)) (h : q.parks = true ∧ s.self.speculative = true) :
    afterMarker q body s = s.park .certain := by
  rw [afterMarker, if_neg (by simpa using hs), if_pos (by simpa using h)]
theorem afterMarker_mark (hs : ¬ (s.self.inXchg = true ∧ q.xOk = false)) (hp : ¬ (q.parks = true ∧ s.self.speculative = true))
    (m : Mark) (h : firstMark (s.cx.marks q.a q.v) = some m) : afterMarker q body s = s.raise { m.info with dfr := true } := by
  rw [afterMarker, if_neg (by simpa using hs), if_neg (by simpa using hp), h]
  rfl

/-- The checks after the marker stand in the state `t` that the commit, or its absence, leaves. -/
theorem issue_afterMarker (t : State) (hl : ¬ (q.control = true ∧ s.cx.delay.isSome = true)) (hw : ¬ (s.me.who = 4 ∧ q.hOk = false))
    (ht : if q.s = true ∨ (q.long = true ∧ 8 ≤ s.cx.outstanding)
      then (∀ e ∈ s.cx.rb, e.returned = true) ∧ ∃ c, commitList s.cx.rb s.cx = .ok c ∧ t = s.setCx c else t = s) :
    issue q s body = afterMarker q body t := by
  split at ht
  next hm =>
    obtain ⟨hr, c, hc, rfl⟩ := ht
    rw [issue_marker q s body hl hw hm, marker_commits s _ hr, hc]
  next hm => rw [issue_no_marker q s body hl hw hm, ht]

end

/-! ## What has an entry -/

theorem iss_isSome (i : Instr) : i.iss.isSome = (encode i).isSome := by cases i <;> rfl
/-- The control bits of the entries are the list of R52. -/
theorem iss_control_all (i : Instr) : i.iss.all (fun q => q.control == isControl i) = true := by cases i <;> rfl
theorem iss_control (i : Instr) (q : Iss) (h : i.iss = some q) : q.control = isControl i := by
  simpa [h] using iss_control_all i

/-- Settles O8: each check is the branch of `issue` that its hypotheses choose. -/
theorem checksBeforeAnInstruction : Obligations.ChecksBeforeAnInstruction := by
  unfold Obligations.ChecksBeforeAnInstruction
  refine ⟨fun i => ⟨iss_isSome i, iss_control i⟩, fun i q s hq => ?_⟩
  intro late wrong marks
  obtain ⟨body, hb⟩ := exec_issue i q hq s
  rw [hb]
  refine ⟨fun h => ?_, fun hl h => ?_, fun hl hw hm h => ?_, fun hl hw hm h => ⟨fun c x hc => ?_, fun c w hc => ?_⟩, fun t hl hw ht => ?_⟩
  · rw [issue_late q s body h]
  · rw [issue_wrong q s body hl h]
  · rw [issue_marker q s body hl hw hm, marker_waits s _ h]
  · rw [issue_marker q s body hl hw hm, marker_commits s _ h, hc]
  · rw [issue_marker q s body hl hw hm, marker_commits s _ h, hc]
  · rw [issue_afterMarker q s body t hl hw ht]
    exact ⟨fun hs => congrArg _ (afterMarker_shut q t body hs), fun hs hp => congrArg _ (afterMarker_parks q t body hs hp),
      fun hs hp m hm => congrArg _ (afterMarker_mark q t body hs hp m hm)⟩

end Sys2Proof.Machine
end

section
/-! SUPPORT. The words of the encoding tables that the statement writes out (R33 to R38, R55 to R60). -/

namespace Sys2Proof.Machine

/-- Settles O1: every word is decoded by evaluation of the tables. -/
theorem wordsDecodeAsTheTablesSay : Obligations.WordsDecodeAsTheTablesSay := by
  unfold Obligations.WordsDecodeAsTheTablesSay
  refine ⟨rfl, rfl, rfl, rfl, rfl, rfl, rfl, rfl, rfl, rfl, rfl, rfl, rfl, rfl, rfl, rfl, rfl, rfl⟩

end Sys2Proof.Machine
end

section
/-! SUPPORT. The step of a core that issues: what `pick` takes, what the fetch finds, and the issue kept for the other front end
(R53, R148, R232, R237, R243, R244). -/

namespace Sys2Proof.Machine

/-! ## A step with nothing armed and nothing watched -/

theorem step_unarmed (s : State) (h : s.armed = []) : step s = stepOnce s := by
  have hus : (if s.inRun then s.armed.filter (readsUnit stepOnce s) else []) = [] := by simp [h]
  simp only [step, underErrors, hus, List.any_nil, Bool.false_eq_true, if_false, List.foldl_nil]
  cases stepOnce s <;> rfl
theorem stepOnce_unwatched (s u : State) (a : Act) (hp : pick s = (a, u)) (hw : u.watches = []) : stepOnce s = a.f u := by
  have hwatched : ∀ t, watched a u t = t := fun t => by simp [watched, hw]
  simp only [stepOnce, hp, hwatched]
  cases a.f u <;> rfl

/-! ## What the choice of an issue leaves -/

theorem takeTurn_leaves (s : State) (c : CtxId) : (s.takeTurn c).watches = s.watches ∧ (s.takeTurn c).cur = s.cur := by
  unfold State.takeTurn
  split <;> exact ⟨rfl, rfl⟩
theorem passTurn_leaves (s : State) (c : CtxId) : (s.passTurn c).watches = s.watches ∧ (s.passTurn c).cur = s.cur := by
  unfold State.passTurn
  split
  · exact ⟨rfl, rfl⟩
  · split <;> exact ⟨rfl, rfl⟩
theorem switchPoint_leaves (s : State) (k : CoreId) : (switchPoint s k).watches = s.watches ∧ (switchPoint s k).cur = s.cur := by
  have hp := passTurn_leaves s ⟨k, (s.core k).issuing⟩
  unfold switchPoint
  extract_lets u
  split <;> exact hp

/-- What an issue from state `t` carries out: the trap of the fetch, or the instruction it finds. -/
def issueAct (t : State) : Act :=
  match fetchDecode t t.me with
  | .error e => taskAct t t.me none (fun s => settled s (.next (s.raise e)))
  | .ok i => taskAct t t.me (some i) (fun s => stay s t.me (runIn i s))

theorem pickCore_issues (s : State) (k : CoreId) (u : State)
    (hu : u = if ({ s with cur := k } : State).ready ({ s with cur := k } : State).me then { s with cur := k } else switchPoint { s with cur := k } k)
    (hr : u.ready u.me = true) (hb : boundary (u.takeTurn u.me) (u.takeTurn u.me).me = none)
    (hd : drietStop (u.takeTurn u.me) (u.takeTurn u.me).me = none) :
    pickCore s k = some (issueAct (u.takeTurn u.me), u.takeTurn u.me) := by
  unfold pickCore
  extract_lets _ s2 s3 c
  have h2 : s2 = u := hu.symm
  have h3 : s3 = u.takeTurn u.me := by rw [← h2]
  have hc : c = (u.takeTurn u.me).me := by rw [← h3]
  rw [h2, hr, h3, hc, hb, hd, issueAct]
  cases fetchDecode (u.takeTurn u.me) (u.takeTurn u.me).me <;> rfl

theorem pick_issues {s t : State} {k : CoreId} (h : IssuesFrom s k t) :
    pick s = (issueAct t, t) ∧ t.watches = s.watches ∧ t.cur = k := by
  obtain ⟨u, hu, hr, rfl, hb, hd⟩ := h
  obtain ⟨hw, hcur⟩ := takeTurn_leaves u u.me
  have turn : ∀ v : State, u = (if v.ready v.me then v else switchPoint v k) → u.watches = v.watches ∧ u.cur = v.cur := by
    intro v hv
    split at hv
    · exact hv ▸ ⟨rfl, rfl⟩
    · exact hv ▸ switchPoint_leaves v k
  rw [hw, hcur]
  obtain ⟨r, ha, hu⟩ | ⟨ha, hdue, ⟨r, hk⟩, hu⟩ := hu
  · refine ⟨?_, turn _ hu⟩
    simp only [pick, ha, turnAct, pickCore_issues { s with agenda := r } k u hu hr hb hd, Option.getD_some]
  · refine ⟨?_, turn _ hu⟩
    simp only [pick, ha, hdue, hk, List.findSome?_cons, pickCore_issues s k u hu hr hb hd, Option.getD_some]

/-- A step in which a core issues is the issue. -/
theorem step_issues {s t : State} {k : CoreId} (h : IssuesFrom s k t) (ha : s.armed = []) (hw : s.watches = []) :
    step s = (issueAct t).f t := by
  obtain ⟨hp, hwt, -⟩ := pick_issues h
  rw [step_unarmed s ha, stepOnce_unwatched s t _ hp (hwt.trans hw)]

/-! ## The fetch -/

theorem leBytes_leNat (l : List Byte) : leBytes l.length (leNat l) = l := by
  induction l with
  | nil => rfl
  | cons b l ih =>
    have hb := b.isLt
    have hlow : BitVec.ofNat 8 (b.toNat + 256 * leNat l) = b := BitVec.eq_of_toNat_eq (by simp only [BitVec.toNat_ofNat]; omega)
    have hhigh : (b.toNat + 256 * leNat l) / 256 = leNat l := by omega
    rw [List.length_cons, leBytes, leNat, hlow, hhigh, ih]
theorem form_of_isVirt (a : DWord) (h : (form a).isVirt = true) : form a = .virt a.toNat := by
  simp only [form] at h ⊢
  split at h
  · cases h
  next hpriv =>
    rw [if_neg hpriv]
    split at h
    next hvirt => exact if_pos hvirt
    next =>
      split at h
      · cases h
      · split at h <;> cases h
/-- A halfword that stands unmarked in HBM is fetched. -/
theorem fetchHalf_ok {s : State} {c : CtxId} {pc a : DWord} {l : Nat} (hf : (form a).isVirt = true)
    (ha : stationAccess s c.core.cl.m (s.whoIs c).pid a.toNat 2 .fetch pc = .loc l) (hl : isHbm l = true)
    (hp : s.poisoned l 2 = false) : fetchHalf s c pc a = .ok (leNat [Memory.get s.mem l, Memory.get s.mem (l + 1)]) := by
  simp only [fetchHalf, form_of_isVirt a hf, ha, State.homeRead, hp, hl]
  rfl
theorem fetchHalf_not_virtual (s : State) (c : CtxId) (pc a : DWord) (h : (form a).isVirt = false) :
    fetchHalf s c pc a = .error (trapInfo 0x041 pc 3) := by
  unfold fetchHalf
  split
  next hv => rw [hv] at h; cases h
  next => rfl

/-- What `fetchDecode` makes of a decoder's answer. -/
def decoded : Except DecodeError (Instr × List Byte) → Except TrapInfo Instr
  | .error e => .error (trapInfo (decodeTrap e))
  | .ok (i, _) => .ok i

section
variable {s : State} {c : CtxId} {n : Nat} (heven : (s.slot c).cx.pc.toNat % 2 = 0)
include heven

/-- A 16-bit instruction has no second halfword (R32). -/
theorem fetchDecode_short (b0 b1 : Byte) (h : fetchHalf s c (s.slot c).cx.pc (s.slot c).cx.pc = .ok (leNat [b0, b1]))
    (hb : b0.toNat % 2 = 0) : fetchDecode s c = decoded (decode [b0, b1]) := by
  have hn : leNat [b0, b1] % 2 = 0 := by simp only [leNat]; omega
  have hbytes : leBytes 2 (leNat [b0, b1]) = [b0, b1] := leBytes_leNat [b0, b1]
  simp only [fetchDecode, heven, h, hn, hbytes]
  rfl
theorem fetchDecode_long (b0 b1 b2 b3 : Byte) (h : fetchHalf s c (s.slot c).cx.pc (s.slot c).cx.pc = .ok (leNat [b0, b1]))
    (h2 : fetchHalf s c (s.slot c).cx.pc ((s.slot c).cx.pc + 2) = .ok (leNat [b2, b3])) (hb : b0.toNat % 2 = 1) :
    fetchDecode s c = decoded (decode [b0, b1, b2, b3]) := by
  have hn : ¬ leNat [b0, b1] % 2 = 0 := by simp only [leNat]; omega
  have hnat : leNat [b0, b1] + 65536 * leNat [b2, b3] = leNat [b0, b1, b2, b3] := by simp only [leNat]; omega
  have hbytes : leBytes 4 (leNat [b0, b1, b2, b3]) = [b0, b1, b2, b3] := leBytes_leNat [b0, b1, b2, b3]
  simp only [fetchDecode, heven, h, h2, hn, hnat, hbytes]
  rfl
theorem fetchDecode_trap (e : TrapInfo) (h : fetchHalf s c (s.slot c).cx.pc (s.slot c).cx.pc = .error e) : fetchDecode s c = .error e := by
  simp only [fetchDecode, heven, h]
  rfl

end

/-- The bytes that `BytesAt` names are the instruction that the issue runs. -/
theorem fetchDecode_bytesAt {s : State} {c : CtxId} {i : Instr} (h : BytesAt s c i) : fetchDecode s c = .ok i := by
  obtain ⟨heven, l, ⟨hv, hl, hp, hs⟩, ⟨hb, hd⟩ | ⟨hb, l2, ⟨hv2, hl2, hp2, hs2⟩, hd⟩⟩ := h
  · rw [fetchDecode_short heven _ _ (fetchHalf_ok hv hs hl hp) hb, hd]
    rfl
  · rw [fetchDecode_long heven _ _ _ _ (fetchHalf_ok hv hs hl hp) (fetchHalf_ok hv2 hs2 hl2 hp2) hb, hd]
    rfl

/-! ## The issue kept for the other front end -/

theorem stay_no_wait (s u : State) (c : CtxId) (h : (u.slot c).queueWait = false) : stay s c (.next u) = .next u := by
  simp [stay, Slot.queueWaits, h]
theorem Ctxt.setQue_queues (x : Ctxt) (w : Bool) (n : Nat) (l : List QEntry) :
    ∃ q' w', x.setQue w n l = { x with q := q', w := w' } := by
  cases w with
  | false => exact (em (n < 4)).elim (fun h => ⟨_, _, dif_pos h⟩) (fun h => ⟨_, _, dif_neg h⟩)
  | true => exact (em (n < 2)).elim (fun h => ⟨_, _, dif_pos h⟩) (fun h => ⟨_, _, dif_neg h⟩)
theorem runAhead_leaves (s : State) (c : CtxId) :
    let t := runAhead s c
    t = { s with cores := t.cores } ∧ (∀ d, d ≠ c → t.slot d = s.slot d) ∧
    ∃ q w l, t.slot c = { s.slot c with cx := { (s.slot c).cx with q := q, w := w, ahead := l } } := by
  intro t
  obtain ht | ⟨w, n, l, e, ht⟩ := runAhead_cases s c
  · rw [show t = s from ht]
    exact ⟨rfl, fun _ _ => rfl, _, _, _, rfl⟩
  · obtain ⟨q', w', hq⟩ := (s.slot c).cx.setQue_queues w n l
    have ht' : t = s.setSlot c { s.slot c with cx := { (s.slot c).cx with q := q', w := w', ahead := (s.slot c).cx.ahead ++ [e] } } := by
      rw [show t = _ from ht, State.modCx, State.modSlot, hq]
    rw [ht']
    exact ⟨rfl, fun d hd => State.slot_setSlot_ne _ _ _ _ hd, _, _, _, State.slot_setSlot ..⟩
theorem queueWaits_some {sl : Slot} (h : sl.queueWait = true) : ∃ w, sl.wait = some w ∧ sl.queueWaits = some w := by
  have hw : sl.queueWaits = sl.wait := if_pos h
  cases hs : sl.wait with
  | none => simp [Slot.queueWait, hs] at h
  | some w => exact ⟨w, rfl, hw.trans hs⟩
theorem stay_unmet {s t : State} {c : CtxId} {w : WaitReason} (hw : (t.slot c).queueWaits = some w)
    (h : waitMet (runAhead t c) c w = false) : stay s c (.next t) = .next t := by
  simp only [stay, hw, h]
  rfl
/-- The slot's wait ends, and its core and the turn of its launch stay with it (R244). -/
def stayed (s : State) (c : CtxId) (u : State) : State :=
  let v := (u.modSlot c (fun sl => { sl with wait := none })).modCore c.core (fun k =>
    { k with issuing := (s.core c.core).issuing, from_ := (s.core c.core).from_ })
  match s.serialOf (s.slot c) with
  | none => v
  | some l => v.modLaunch l (fun x => { x with turn := (s.launch l).turn })
theorem stay_met {s t : State} {c : CtxId} {w : WaitReason} (hw : (t.slot c).queueWaits = some w)
    (h : waitMet (runAhead t c) c w = true) : stay s c (.next t) = .next (stayed s c (runAhead t c)) := by
  simp only [stay, hw, h]
  rfl
theorem stayed_spec (s : State) (c : CtxId) (u : State) :
    let v := stayed s c u
    v.slot c = { u.slot c with wait := none } ∧ (v.core c.core).issuing = (s.core c.core).issuing ∧ v.mem = u.mem ∧ v.gangs = u.gangs ∧
    ∀ d, d ≠ c → v.slot d = u.slot d := by
  let x := u.setSlot c { u.slot c with wait := none }
  let k : Core := { x.core c.core with issuing := (s.core c.core).issuing, from_ := (s.core c.core).from_ }
  have hcores : (stayed s c u).cores = (x.setCore c.core k).cores ∧ (stayed s c u).mem = u.mem ∧ (stayed s c u).gangs = u.gangs := by
    unfold stayed
    extract_lets v
    split <;> exact ⟨rfl, rfl, rfl⟩
  obtain ⟨hc, hmem, hgangs⟩ := hcores
  have hslot : ∀ d, (stayed s c u).slot d = x.slot d := fun d => (State.slot_congr hc d).trans (State.slot_setCore x c.core k rfl d)
  have hcore : (stayed s c u).core c.core = k := (by rw [State.core, hc]; rfl : _ = (x.setCore c.core k).core c.core).trans
    (State.core_setCore ..)
  exact ⟨(hslot c).trans (State.slot_setSlot ..), by rw [hcore], hmem, hgangs,
    fun d hd => (hslot d).trans (State.slot_setSlot_ne _ _ _ _ hd)⟩

/-- Settles O3: the fetch finds the instruction, and a met wait keeps the issue. -/
theorem stepRunsTheDecodedInstruction : Obligations.StepRunsTheDecodedInstruction := by
  unfold Obligations.StepRunsTheDecodedInstruction
  refine ⟨fun s t k i hi hb ha hw => ?_, fun s t c hq => ?_⟩
  · have hstep : step s = stay t t.me (runIn i t) := by
      rw [step_issues hi ha hw, issueAct, fetchDecode_bytesAt hb]
      rfl
    refine ⟨hstep, fun hahead hno => ?_⟩
    rw [hstep, runIn_nothing_ahead i t hahead]
    cases hx : exec i t with
    | next u => exact stay_no_wait t u t.me (hno u hx)
    | refused r => rfl
    | fault f => rfl
  · obtain ⟨w, hw, hws⟩ := queueWaits_some hq
    obtain ⟨hframe, hothers, -⟩ := runAhead_leaves t c
    refine ⟨w, hw, stay_unmet hws, fun hmet => ⟨_, stay_met hws hmet, ?_⟩⟩
    obtain ⟨hslot, hissuing, hmem, hgangs, hslots⟩ := stayed_spec s c (runAhead t c)
    refine ⟨by rw [hslot], by rw [hslot], hissuing, hmem.trans (by rw [hframe]), hgangs.trans (by rw [hframe]), fun d hd => ?_⟩
    rw [hslots d hd, hothers d hd]

end Sys2Proof.Machine
end

section
/-! SUPPORT. Steps that run no instruction: the traps of the fetch, events and cycles, armed errors and watches
(R54, R148, R232, R237, R245, R348). -/

namespace Sys2Proof.Machine

/-! ## Traps of the fetch -/

theorem step_traps {s t : State} {k : CoreId} {e : TrapInfo} (h : IssuesFrom s k t) (ha : s.armed = []) (hw : s.watches = [])
    (hf : fetchDecode t t.me = .error e) : step s = settled t (.next (t.raise e)) := by
  rw [step_issues h ha hw, issueAct, hf]
  rfl
theorem fetchDecode_odd (s : State) (c : CtxId) (h : (s.slot c).cx.pc.toNat % 2 = 1) :
    fetchDecode s c = .error (trapInfo 0x010 (s.slot c).cx.pc) := by
  simp only [fetchDecode, h, if_true]
/-- A word whose first halfword is a 16-bit instruction's is refused for that halfword alone (R32, R54). -/
theorem decode_error_short {b0 b1 b2 b3 : Byte} {e : DecodeError} (hb : b0.toNat % 2 = 0) (h : decode [b0, b1, b2, b3] = .error e) :
    decode [b0, b1] = .error e := by
  have hn : ((b0.toNat + 256 * b1.toNat) % 2 == 0) = true := by simp only [beq_iff_eq]; omega
  simp only [decode, hn, if_true] at h ⊢
  cases hd : decode16 (b0.toNat + 256 * b1.toNat) with
  | error e' => rw [hd] at h; cases h; rfl
  | ok i => rw [hd] at h; cases h

/-! ## Cycles -/

/-- A slot after `n` cycles: a live task's watchdog count goes on (R245). -/
def Slot.aged (n : Nat) (sl : Slot) : Slot := if sl.phase = .live then { sl with wcount := sl.wcount + n } else sl

/-- A core's slots after `n` cycles. -/
def Core.aged (n : Nat) (x : Core) : Core := { x with slots := x.slots.map (Slot.aged n) }
theorem Core.aged_reset (n : Nat) : Core.reset.aged n = Core.reset := by
  have h : Slot.reset.aged n = Slot.reset := if_neg nofun
  simp [Core.aged, Core.reset, Vector.map_replicate, h]
theorem elapse_slot (s : State) (n : Nat) (c : CtxId) : (elapse s n).slot c = (s.slot c).aged n := by
  have hcore : ∀ k, (elapse s n).core k = (s.core k).aged n := fun k =>
    kget_map s.cores _ (Core.aged n) k Core.reset (Core.aged_reset n) (fun _ => Prod.ext rfl (ite_self _).symm)
  simp only [State.slot, hcore, Core.aged, Vector.getElem_map]
theorem Slot.aged_stands (n : Nat) (sl : Slot) : (sl.aged n).cx = sl.cx ∧ (sl.aged n).goesOn = sl.goesOn := by
  unfold Slot.aged
  split <;> exact ⟨rfl, rfl⟩

/-! ## `settled` -/

theorem settled_nothing_ahead (s : State) (o : Host.Outcome State Fault Refusal) (h : ∀ c, (s.slot c).cx.ahead = []) : settled s o = o := by
  cases o with
  | next t => simp [settled, h]
  | refused r => rfl
  | fault f => rfl
/-- A step that leaves every context and whether it goes on is not looked at again. -/
theorem settled_stands (s t : State) (h : ∀ c, (t.slot c).cx = (s.slot c).cx ∧ (t.slot c).goesOn = (s.slot c).goesOn) :
    settled s (.next t) = .next t := by
  refine congrArg Host.Outcome.next (List.foldl_fixed' (fun c => ?_) _)
  obtain ⟨hcx, hgo⟩ := h c
  rw [← hcx]
  exact settle_unchanged c (s.slot c) t hgo.symm

/-! ## The agenda's head -/

theorem eventAct_f (s : State) (i : Instr) : (eventAct s i).f = fun s => exec i s := by
  unfold eventAct
  extract_lets f
  split <;> rfl
theorem step_event {s : State} {r : List Turn} {i : Instr} (ha : s.armed = []) (hw : s.watches = []) (hg : s.agenda = .event i :: r)
    (hi : encode i = none) : step s = settled { s with agenda := r } (exec i { s with agenda := r }) := by
  let u : State := { s with agenda := r }
  have hp : pick s = ({ eventAct u i with f := fun s => settled s ((eventAct u i).f s) }, u) := by
    simp only [pick, hg, turnAct, hi, Option.isNone_none, if_true]
    rfl
  rw [step_unarmed s ha, stepOnce_unwatched s u _ hp hw, eventAct_f]
theorem step_elapse {s : State} {r : List Turn} {n : Nat} (ha : s.armed = []) (hw : s.watches = []) (hg : s.agenda = .elapse n :: r) :
    step s = .next (elapse { s with agenda := r } n) := by
  let u : State := { s with agenda := r }
  have hp : pick s = (Act.other (fun s => settled s (.next (elapse s n))), u) := by
    simp only [pick, hg, turnAct]
    rfl
  rw [step_unarmed s ha, stepOnce_unwatched s u _ hp hw]
  refine settled_stands u (elapse u n) fun c => ?_
  rw [elapse_slot]
  exact Slot.aged_stands n _

/-! ## Armed errors -/

theorem canArm_hbm {u : Nat} (h : isHbm u = true) : canArm u = some (.hbm u) := if_pos h
theorem errorTaken_hbm (s : State) {u : Nat} (h : isHbm u = true) :
    errorTaken s u = { s.countError (locModule u) 0x129 with armed := s.armed.filter (· ≠ u) } := by
  simp only [errorTaken, canArm_hbm h]
  rfl
theorem readsUnit_next {f : State → Out State} {s t t' : State} {u : Nat} (h : f s = .next t) (h' : f (markUnit s u) = .next t') :
    readsUnit f s u = decide (t.unmarked u ≠ t'.unmarked u) := by
  simp only [readsUnit, h, h']
/-- What a step makes of the errors `us` that take effect in it. -/
theorem step_errors {s x : State} (us : List Nat)
    (hus : (let vs := if s.inRun then s.armed.filter (readsUnit stepOnce s) else []
      if vs.any (fetchesUnit s) then vs.filter (fetchesUnit s) else vs) = us)
    (hx : stepOnce (us.foldl markUnit s) = .next x) : step s = .next (us.foldl errorTaken x) := by
  simp only [step, underErrors, hus, hx]
theorem fetchesUnit_same {s : State} {u : Nat} (h : (pick (markUnit s u)).1.ins = (pick s).1.ins) : fetchesUnit s u = false := by
  rw [fetchesUnit, h]
  cases (pick s).1.ins <;> rfl

/-! ## Watches -/

theorem replaceLoad_cases (a : Act) (s t : State) :
    replaceLoad a s t = t ∨ ∃ (c : CtxId) (g : List RbEntry → List RbEntry), replaceLoad a s t = t.modCx c (fun x => { x with rb := g x.rb }) := by
  have keep : t = t ∨ ∃ (c : CtxId) (g : List RbEntry → List RbEntry), t = t.modCx c (fun x => { x with rb := g x.rb }) := .inl rfl
  unfold replaceLoad
  split
  · exact keep
  · extract_lets n v
    split
    · exact keep
    · split
      · split
        · split
          · exact keep
          · exact .inr ⟨_, List.map _, rfl⟩
        · exact keep
      · exact keep
/-- What a watched step leaves: all but the watches and one load's pending result (R232). -/
theorem watched_leaves (a : Act) (s t : State) :
    (watched a s t).mem = t.mem ∧ (watched a s t).gangs = t.gangs ∧
    ∀ c, ∃ l, (watched a s t).slot c = { t.slot c with cx := { (t.slot c).cx with rb := l } } := by
  unfold watched
  split
  · exact ⟨rfl, rfl, fun c => ⟨_, rfl⟩⟩
  · obtain hr | ⟨c, g, hr⟩ := replaceLoad_cases a s t
    · rw [hr]
      exact ⟨rfl, rfl, fun c => ⟨_, rfl⟩⟩
    · rw [hr]
      refine ⟨rfl, rfl, fun d => ?_⟩
      by_cases hd : d = c
      · subst hd
        exact ⟨_, State.slot_setSlot ..⟩
      · exact ⟨_, State.slot_setSlot_ne _ _ _ _ hd⟩
theorem watched_length (a : Act) (s t : State) (h : t.watches = s.watches) : (watched a s t).watches.length = s.watches.length := by
  unfold watched
  split
  · rw [h]
  · exact List.length_map ..

/-! ## The obligation -/

/-- The traps of the fetch, precise at the pc (R54, R148). -/
theorem fetch_traps {s t : State} {k : CoreId} (hi : IssuesFrom s k t) (ha : s.armed = []) (hw : s.watches = []) :
    let pc := t.cx.pc
    (∀ (l : Nat) (e : DecodeError) (b : Nat → Byte), pc.toNat % 2 = 0 → (form pc).isVirt = true → (form (pc + 2)).isVirt = true →
      stationAccess t k.cl.m (t.whoIs t.me).pid pc.toNat 2 .fetch pc = .loc l →
      stationAccess t k.cl.m (t.whoIs t.me).pid (pc + 2).toNat 2 .fetch pc = .loc (l + 2) →
      isHbm l = true → isHbm (l + 2) = true → t.poisoned l 2 = false → t.poisoned (l + 2) 2 = false →
      b = Memory.get t.mem → decode [b l, b (l + 1), b (l + 2), b (l + 3)] = .error e →
      step s = settled t (.next (t.raise (trapInfo (decodeTrap e))))) ∧
    (pc.toNat % 2 = 1 → step s = settled t (.next (t.raise (trapInfo 0x010 pc)))) ∧
    (pc.toNat % 2 = 0 → (form pc).isVirt = false → step s = settled t (.next (t.raise (trapInfo 0x041 pc 3)))) := by
  intro pc
  obtain ⟨-, -, hcur⟩ := pick_issues hi
  refine ⟨?_, fun h => step_traps hi ha hw (fetchDecode_odd t t.me h),
    fun h hf => step_traps hi ha hw (fetchDecode_trap h _ (fetchHalf_not_virtual t t.me pc pc hf))⟩
  intro l e b heven hv hv2 hs hs2 hl hl2 hp hp2 hb hd
  subst hb
  rw [← hcur] at hs hs2
  refine step_traps hi ha hw ?_
  have h1 := fetchHalf_ok (s := t) (c := t.me) hv hs hl hp
  have h2 := fetchHalf_ok (s := t) (c := t.me) hv2 hs2 hl2 hp2
  rcases Nat.mod_two_eq_zero_or_one (Memory.get t.mem l).toNat with ho | ho
  · rw [fetchDecode_short heven _ _ h1 ho, decode_error_short ho hd]
    rfl
  · rw [fetchDecode_long heven _ _ _ _ h1 h2 ho, hd]
    rfl

/-- One armed error: it takes effect where the step's outcome shows it (R237). -/
theorem step_one_error {s t t' : State} {u : Nat} (ha : s.armed = [u]) (ht : stepOnce s = .next t)
    (ht' : stepOnce (markUnit s u) = .next t') (hu : isHbm u = true) :
    (s.inRun = false ∨ t.unmarked u = t'.unmarked u → step s = .next t) ∧
    (s.inRun = true → t.unmarked u ≠ t'.unmarked u →
      step s = .next { t'.countError (locModule u) 0x129 with armed := t'.armed.filter (· ≠ u) }) := by
  have hreads := readsUnit_next ht ht'
  refine ⟨fun h => step_errors [] ?_ ht, fun hrun hne => ?_⟩
  · obtain h | h := h
    · simp [h]
    · simp [ha, hreads, h]
  · have hread : readsUnit stepOnce s u = true := by rw [hreads]; exact decide_eq_true hne
    rw [← errorTaken_hbm t' hu]
    refine step_errors [u] ?_ ht'
    cases hf : fetchesUnit s u <;> simp [hrun, ha, hread, hf]

/-- Settles O4: each kind of step by what `pick` takes, and what stands around a step by what it leaves. -/
theorem stepsThatRunNoInstruction : Obligations.StepsThatRunNoInstruction := by
  unfold Obligations.StepsThatRunNoInstruction
  refine ⟨fun s t k hi ha hw => ?_, fun s r ha hw => ⟨fun i hg hi => step_event ha hw hg hi, fun n hg => ?_⟩,
    fun s o h => settled_nothing_ahead s o h, fun s t t' u ha ht ht' hu => step_one_error ha ht ht' hu, ?_, ?_,
    fun s t a h => ?_, fun s c => ?_⟩
  · obtain ⟨hbytes, hodd, hform⟩ := fetch_traps hi ha hw
    refine ⟨fun l e b heven hv hv2 hs hs2 hl hl2 hp hp2 hb hd p hm he => ?_, hodd, hform⟩
    have hcode : decodeTrap e = p.2 := by
      subst he
      simp only [List.mem_cons, List.not_mem_nil, or_false] at hm
      obtain rfl | rfl | rfl | rfl | rfl | rfl | rfl := hm <;> rfl
    rw [← hcode]
    exact hbytes l e b heven hv hv2 hs hs2 hl hl2 hp hp2 hb hd
  · exact ⟨_, step_elapse ha hw hg, rfl, rfl, rfl, rfl, fun c _ => elapse_slot _ n c⟩
  · intro s t a b x u v harm hne hu hv hrun ht hsame ha hau hb hbv hx hxa
    have hru : readsUnit stepOnce s u = true := by rw [readsUnit_next ht ha]; exact decide_eq_true hau
    have hrv : readsUnit stepOnce s v = true := by rw [readsUnit_next ht hb]; exact decide_eq_true hbv
    have hfu := fetchesUnit_same (hsame u (by simp))
    have hfv := fetchesUnit_same (hsame v (by simp))
    have hstep : step s = .next (errorTaken (errorTaken x u) v) :=
      step_errors [u, v] (by simp [hrun, harm, hru, hrv, hfu, hfv]) hx
    rw [errorTaken_hbm x hu, errorTaken_hbm _ hv] at hstep
    exact ⟨_, hstep, by simp [hxa, harm, hne.symm], rfl, rfl, rfl⟩
  · intro s t a u v harm hne hu hrun ht hins hpu hpv ha hau
    have hru : readsUnit stepOnce s u = true := by rw [readsUnit_next ht ha]; exact decide_eq_true hau
    have hfu : fetchesUnit s u = true := by rw [fetchesUnit, hins, hpu]; rfl
    have hfv := fetchesUnit_same hpv
    rw [← errorTaken_hbm a hu]
    refine step_errors [u] ?_ ha
    cases hrv : readsUnit stepOnce s v <;> simp [hrun, harm, hru, hrv, hfu, hfv]
  · obtain ⟨hmem, hgangs, hslots⟩ := watched_leaves a s t
    exact ⟨hmem, hgangs, watched_length a s t h, fun hs => by simp [watched, hs], hslots⟩
  · obtain ⟨hframe, hothers, hslot⟩ := runAhead_leaves s c
    refine ⟨fun h => runAhead_no_wait s c h, ?_, ?_, ?_, ?_, ?_, ?_, hothers, hslot⟩ <;> rw [hframe]

end Sys2Proof.Machine
end

section
/-! SUPPORT. Scalar loads: the checks at issue, the element read, the drafts (R103, R149 to R156, R270). -/

namespace Sys2Proof.Machine

/-! ## The checks at issue -/

section
variable (s : State) (c : CtxId) (a : DWord) (n : Nat) (acc : Access) (forms : Form → Bool)

theorem issueCheck_misaligned (h : a.toNat % n ≠ 0) : issueCheck s c a n acc forms = some (trapInfo 0x040 a (accCode acc)) := if_pos h
theorem issueCheck_form (h : a.toNat % n = 0) (hf : (form a).isNone = true ∨ forms (form a) = false) :
    issueCheck s c a n acc forms = some (trapInfo 0x041 a (accCode acc)) := by
  rw [issueCheck, if_neg (not_not.mpr h), if_pos (by simpa using hf)]
theorem form_of_priv {a : DWord} (h : a.toNat < 0x8000) : form a = .priv a.toNat := if_pos h
/-- An address of the slot regions, a form every access allows: the regions of the gang, then the tile guard. -/
theorem issueCheck_priv (h : a.toNat % n = 0) (hp : a.toNat < 0x8000) (hf : forms (.priv a.toNat) = true) :
    issueCheck s c a n acc forms =
      if !s.ownsPriv c a.toNat n then some (trapInfo 0x041 a (accCode acc))
      else if s.guarded c.core a.toNat n then some (trapInfo 0x088 a (accCode acc)) else none := by
  rw [issueCheck, if_neg (not_not.mpr h), form_of_priv hp, hf]
  rfl

end

/-- How the checks at issue of a scalar access trap, in their order (R103, R151, R153, R170, R178). -/
def IssueTraps (st t : State) (i : Instr) (a : DWord) (n : Nat) (own : Bool) (code : BitVec 2) : Prop :=
  (a.toNat % n ≠ 0 → exec i st = .next (t.raise (trapInfo 0x040 a code))) ∧
  (a.toNat % n = 0 → (form a).isNone = true ∨ (own = true ∧ ((form a).isGlob = true ∨ (form a).isRemote = true)) →
    exec i st = .next (t.raise (trapInfo 0x041 a code))) ∧
  (a.toNat % n = 0 → a.toNat < 0x8000 → t.ownsPriv t.me a.toNat n = false → exec i st = .next (t.raise (trapInfo 0x041 a code))) ∧
  (a.toNat % n = 0 → a.toNat < 0x8000 → t.ownsPriv t.me a.toNat n = true → t.guarded t.cur a.toNat n = true →
    exec i st = .next (t.raise (trapInfo 0x088 a code)))

/-- An instruction that raises what the checks at issue find traps as they say. -/
theorem issueTraps_of_raises {st t : State} {i : Instr} {a : DWord} {n : Nat} {own : Bool} (acc : Access) {forms : Form → Bool}
    (hi : ∀ x, issueCheck t t.me a n acc forms = some x → exec i st = .next (t.raise x)) (hpriv : ∀ off, forms (.priv off) = true)
    (hown : own = true → ∀ f : Form, f.isGlob = true ∨ f.isRemote = true → forms f = false) :
    IssueTraps st t i a n own (accCode acc) := by
  refine ⟨fun h => hi _ (issueCheck_misaligned _ _ _ _ _ _ h), fun h hf => hi _ (issueCheck_form _ _ _ _ _ _ h ?_),
    fun h hp ho => hi _ ?_, fun h hp ho hg => hi _ ?_⟩
  · exact hf.imp_right fun hg => hown hg.1 _ hg.2
  · rw [issueCheck_priv _ _ _ _ _ _ h hp (hpriv _), ho]
    rfl
  · rw [issueCheck_priv _ _ _ _ _ _ h hp (hpriv _), ho, show t.guarded t.me.core a.toNat n = true from hg]
    rfl
theorem formsOwn_refuses (f : Form) (h : f.isGlob = true ∨ f.isRemote = true) : formsOwn f = false := by
  cases f <;> simp_all [formsOwn, Form.isGlob, Form.isRemote, Form.isPriv, Form.isVirt]

/-! ## Drafts -/

theorem StoreElem.has_iff (e : StoreElem) (a : Nat) : e.has a = true ↔ e.addr.toNat ≤ a ∧ a < e.addr.toNat + e.size := by
  simp [StoreElem.has]
theorem draftByte_other (ds : List Draft) (d : Draft) (a : Nat) (h : ∀ x ∈ d.elems, ¬ (x.addr.toNat ≤ a ∧ a < x.addr.toNat + x.size)) :
    draftByte (d :: ds) a = draftByte ds a := by
  have hany : d.elems.any (fun e => e.has a) = false := List.any_eq_false.mpr fun e he => by
    rw [StoreElem.has_iff]
    exact h e he
  simp only [draftByte, List.find?_cons, hany]
theorem byte_of_ones (n j : Nat) (h : j < n) : (2 ^ (8 * n) - 1) >>> (8 * j) % 256 = 255 := by
  refine Nat.eq_of_testBit_eq fun i => ?_
  rw [show 256 = 2 ^ 8 from rfl, show 255 = 2 ^ 8 - 1 from rfl, Nat.testBit_mod_two_pow, Nat.testBit_shiftRight,
    Nat.testBit_two_pow_sub_one, Nat.testBit_two_pow_sub_one]
  by_cases hi : i < 8
  · simp [hi, show 8 * j + i < 8 * n by omega]
  · simp [hi]
theorem byte_of_value (v j : Nat) : v >>> (8 * j) % 256 &&& 255 = v / 256 ^ j % 256 := by
  rw [show 255 = 2 ^ 8 - 1 from rfl, Nat.and_two_pow_sub_one_eq_mod, Nat.mod_mod, Nat.shiftRight_eq_div_pow, pow_mul]
  rfl
/-- A byte of a whole element: all its bits are the store's. -/
theorem draftByte_whole (ds : List Draft) (d : Draft) (e : StoreElem) (a : Nat) (hd : d.elems = [e]) (hm : e.mask = 2 ^ (8 * e.size) - 1)
    (hlo : e.addr.toNat ≤ a) (hhi : a < e.addr.toNat + e.size) :
    draftByte (d :: ds) a = (255, e.val / 256 ^ (a - e.addr.toNat) % 256) := by
  have hhas : e.has a = true := (e.has_iff a).mpr ⟨hlo, hhi⟩
  have hmask : (e.mask >>> (8 * (a - e.addr.toNat))) % 256 = 255 := by rw [hm, byte_of_ones _ _ (by omega)]
  simp [draftByte, hd, hhas, hmask, byte_of_value]
/-- With no drafts nothing is known. -/
theorem draftBytes_nil (a n : Nat) : draftBytes [] a n = (0, 0) := by
  induction n generalizing a with
  | zero => rfl
  | succ n ih => rw [draftBytes, ih]; rfl
theorem draftView_certain {s : State} {c : CtxId} (h : (s.slot c).speculative = false) : draftView s c = [] := by
  simp [draftView, h]
theorem mem_draftView (s : State) (c : CtxId) (d : Draft) : d ∈ draftView s c ↔ (s.slot c).speculative = true ∧
    d ∈ (s.cluster c.core.cl).drafts ∧ (d.owner = (s.slot c).uid ∨ ∃ p ∈ (s.slot c).parents, d.owner = p.1 ∧ d.n < p.2) := by
  cases hs : (s.slot c).speculative with
  | false => simp [draftView_certain hs]
  | true =>
    simp only [draftView, hs, Bool.not_true, Bool.false_eq_true, if_false, List.mem_append, List.mem_filter, List.mem_reverse,
      List.mem_flatten, List.mem_map, decide_eq_true_eq, true_and]
    constructor
    · rintro (⟨hd, ho⟩ | ⟨l, ⟨p, hp, rfl⟩, hl⟩)
      · exact ⟨hd, .inl ho⟩
      · obtain ⟨hd, ho⟩ := List.mem_filter.mp hl
        exact ⟨List.mem_reverse.mp hd, .inr ⟨p, hp, by simpa using ho⟩⟩
    · rintro ⟨hd, ho | ⟨p, hp, ho⟩⟩
      · exact .inl ⟨hd, ho⟩
      · exact .inr ⟨_, ⟨p, hp, rfl⟩, List.mem_filter.mpr ⟨List.mem_reverse.mpr hd, by simpa using ho⟩⟩
theorem draftView_own {s : State} {c : CtxId} (h : (s.slot c).speculative = true) (hp : (s.slot c).parents = []) :
    draftView s c = ((s.cluster c.core.cl).drafts.filter (fun x => x.owner = (s.slot c).uid)).reverse := by
  simp [draftView, h, hp, List.filter_reverse]

/-! ## The element read -/

theorem Memory.getN_lt (m : List Host.Cell) (a n : Nat) : Memory.getN m a n < 2 ^ (8 * n) := by
  induction n generalizing a with
  | zero => simp [Memory.getN]
  | succ n ih =>
    have hrest := ih (a + 1)
    have hb := (Memory.get m a).isLt
    rw [Memory.getN, Nat.mul_succ, pow_add]
    omega
theorem State.homeRead_lt {s : State} {l n v : Nat} (h : s.homeRead l n = some v) : v < 2 ^ (8 * n) := by
  unfold State.homeRead at h
  split at h
  · cases h
  · split at h
    · cases h
      exact Nat.mod_lt _ (by positivity)
    · split at h <;> cases h
      · exact Nat.mod_lt _ (by positivity)
      · exact Memory.getN_lt ..
section
variable {s : State} {c : CtxId} {a : DWord} {n : Nat} (hn : n ≠ 3)
include hn

theorem loadElem_drafted (h : (draftBytes (draftView s c) a.toNat n).1 = 2 ^ (8 * n) - 1) :
    loadElem s c a n = .val (draftBytes (draftView s c) a.toNat n).2 := by
  simp only [loadElem, loadOne, if_neg hn, if_pos h]
section
variable (h : (draftBytes (draftView s c) a.toNat n).1 ≠ 2 ^ (8 * n) - 1)
include h

theorem loadElem_read {l v : Nat} (ha : access s (s.whoIs c) a n .read = .loc l) (hv : s.homeRead l n = some v) :
    loadElem s c a n = .val ((v &&& (2 ^ (8 * n) - 1 - (draftBytes (draftView s c) a.toNat n).1)) ||| (draftBytes (draftView s c) a.toNat n).2) := by
  simp only [loadElem, loadOne, if_neg hn, if_neg h, readMem, ha, hv]
theorem loadElem_poisoned {l : Nat} (ha : access s (s.whoIs c) a n .read = .loc l) (hv : s.homeRead l n = none) :
    loadElem s c a n = .fault (trapInfo 0x050 a 0) := by
  simp only [loadElem, loadOne, if_neg hn, if_neg h, readMem, ha, hv]
theorem loadElem_fault {f : TrapInfo} (ha : access s (s.whoIs c) a n .read = .fault f) : loadElem s c a n = .fault f := by
  simp only [loadElem, loadOne, if_neg hn, if_neg h, readMem, ha]
theorem loadElem_retry (ha : access s (s.whoIs c) a n .read = .retry) : loadElem s c a n = .retry := by
  simp only [loadElem, loadOne, if_neg hn, if_neg h, readMem, ha]

end
end

/-! ## The extended value -/

theorem sgn_eq_toInt (w v : Nat) : sgn w v = (BitVec.ofNat w v).toInt := by
  rw [sgn, BitVec.toInt_eq_toNat_cond, BitVec.toNat_ofNat]
  cases w with
  | zero => simp [Nat.mod_one]
  | succ w =>
    simp only [Nat.add_sub_cancel, pow_succ, Nat.add_one_ne_zero, if_false]
    split <;> split <;> omega
theorem extend_eq (zx : Bool) (n v : Nat) :
    extend zx n v = if zx then BitVec.ofNat 64 v else (BitVec.ofNat (8 * n) v).signExtend 64 := by
  rw [extend, sgn_eq_toInt]
  rfl

/-! ## The loads -/

/-- What a load does in state `t`: its checks, and the element read into the return buffer. -/
def loadBody (rd : BitVec 5) (ea : DWord) (n : Nat) (zx : Bool) (forms : Form → Bool) (t : State) : State :=
  match issueCheck t t.me ea n .read forms with
  | some x => t.raise x
  | none => loadInto rd ea n (extend zx n) t

theorem ldx_takes {st t : State} {s : Bool} {r : BitVec 5} (h : Takes { s := s, long := true, hOk := true, a := [r] } st t)
    (rd : BitVec 5) (imm : BitVec 12) (n : Nat) (zx : Bool) :
    ldx s rd r imm n zx st = loadBody rd (t.cx.ra r + imm.signExtend 64) n zx formsOwn t := issue_takes h
theorem rld_takes {st t : State} {s : Bool} {r : BitVec 5} (h : Takes { s := s, long := true, hOk := true, a := [r] } st t)
    (rd : BitVec 5) (cls : BitVec 3) (z : Bool) (n : BitVec 2) :
    exec (.rld s rd r cls z n) st = .next (loadBody rd (t.cx.ra r) (2 ^ n.toNat) (z || decide (2 ^ n.toNat = 8)) formsAll t) :=
  congrArg Host.Outcome.next (issue_takes h)
theorem stx_takes {st t : State} {s : Bool} {r q : BitVec 5} (h : Takes { s := s, hOk := true, a := [r, q] } st t)
    (imm : BitVec 12) (n : Nat) : stx s q r imm n st =
      match issueCheck t t.me (t.cx.ra r + imm.signExtend 64) n .write formsOwn with
      | some x => t.raise x
      | none => doStore t [wholeElem (t.cx.ra r + imm.signExtend 64) n (t.cx.ra q).toNat] := issue_takes h
theorem rst_takes {st t : State} {s : Bool} {r q : BitVec 5} (h : Takes { s := s, hOk := true, a := [r, q] } st t)
    (cls : BitVec 3) (n : BitVec 2) : exec (.rst s r q cls n) st =
      .next (match issueCheck t t.me (t.cx.ra r) (2 ^ n.toNat) .write formsAll with
      | some x => t.raise x
      | none => doStore t [wholeElem (t.cx.ra r) (2 ^ n.toNat) (t.cx.ra q).toNat]) := congrArg Host.Outcome.next (issue_takes h)

/-- How a load `i` of `n` bytes at `ea` ends: its value or its fault waits in the return buffer; one refused with RETRY is issued again
(R47, R156, R270, R361). -/
def LoadReads (st t : State) (i : Instr) (rd : BitVec 5) (ea : DWord) (n : Nat) (zx : Bool) : Prop :=
  let waits := fun (x : RbResult) => Host.Outcome.next ((t.setCx (Waiting t.cx (.areg rd) x 0 false)).finish)
  let d := draftBytes (draftView t t.me) ea.toNat n
  let known := 2 ^ (8 * n) - 1
  let gives := fun (v : Nat) => exec i st = waits (.scalar (if zx then BitVec.ofNat 64 v else (BitVec.ofNat (8 * n) v).signExtend 64))
  (t.self.speculative = false → ∀ l v, access t (t.whoIs t.me) ea n .read = .loc l → t.homeRead l n = some v → gives v) ∧
  (t.self.speculative = false → ∀ f, access t (t.whoIs t.me) ea n .read = .fault f →
    exec i st = waits (.fault ⟨{ f with opc := t.cx.pc }, t.cx.order⟩)) ∧
  (d.1 = known → gives d.2) ∧
  (d.1 ≠ known → ∀ l v, access t (t.whoIs t.me) ea n .read = .loc l → t.homeRead l n = some v → gives ((v &&& (known - d.1)) ||| d.2)) ∧
  (d.1 ≠ known → ∀ f, access t (t.whoIs t.me) ea n .read = .fault f →
    exec i st = waits (.fault ⟨{ f with opc := t.cx.pc }, t.cx.order⟩)) ∧
  (d.1 ≠ known → ∀ l, access t (t.whoIs t.me) ea n .read = .loc l → t.homeRead l n = none →
    exec i st = waits (.fault ⟨{ trapInfo 0x050 ea 0 with opc := t.cx.pc }, t.cx.order⟩)) ∧
  (d.1 ≠ known → access t (t.whoIs t.me) ea n .read = .retry → exec i st = .next (t.park (.reissue [ea])))

/-- A context that is not speculative reads no drafts (R270). -/
theorem draftBytes_certain {t : State} (h : t.self.speculative = false) (a n : Nat) : draftBytes (draftView t t.me) a n = (0, 0) := by
  rw [draftView_certain (show (t.slot t.me).speculative = false from h), draftBytes_nil]

theorem loadReads_of_body {st t : State} {i : Instr} {rd : BitVec 5} {ea : DWord} {n : Nat} {zx : Bool} {forms : Form → Bool}
    (hi : exec i st = .next (loadBody rd ea n zx forms t)) (hn : n ≠ 3) (hpos : 0 < n)
    (hc : issueCheck t t.me ea n .read forms = none) : LoadReads st t i rd ea n zx := by
  unfold LoadReads
  intro waits d known gives
  have hbody : exec i st = .next (loadInto rd ea n (extend zx n) t) := by simp only [hi, loadBody, hc]
  have val : ∀ v, loadElem t t.me ea n = .val v → gives v := fun v h => by
    simp only [gives, hbody, loadInto, h, extend_eq]
    rfl
  have fault : ∀ f, loadElem t t.me ea n = .fault f → exec i st = waits (.fault ⟨{ f with opc := t.cx.pc }, t.cx.order⟩) := fun f h => by
    simp only [hbody, loadInto, h]
    rfl
  have unknown : t.self.speculative = false → d.1 ≠ known := fun h => by
    have hk : 2 ^ 8 ≤ 2 ^ (8 * n) := Nat.pow_le_pow_right (by decide) (by omega)
    rw [show d = (0, 0) from draftBytes_certain h _ _]
    simp only [known]
    omega
  refine ⟨fun h l v ha hv => val v ?_, fun h f ha => fault _ (loadElem_fault hn (unknown h) ha), fun h => val _ (loadElem_drafted hn h),
    fun h l v ha hv => val _ (loadElem_read hn h ha hv), fun h f ha => fault _ (loadElem_fault hn h ha),
    fun h l ha hv => fault _ (loadElem_poisoned hn h ha hv), fun h ha => ?_⟩
  · rw [loadElem_read hn (unknown h) ha hv, draftBytes_certain h, Nat.sub_zero, Nat.or_zero, Nat.and_two_pow_sub_one_eq_mod,
      Nat.mod_eq_of_lt (State.homeRead_lt hv)]
  · simp only [hbody, loadInto, loadElem_retry hn h ha]

/-! ## The obligation -/

section
variable {st t : State} {s : Bool} {r q : BitVec 5}

theorem load_traps (h : Takes { s := s, long := true, hOk := true, a := [r] } st t) {i : Instr} {rd : BitVec 5} {imm : BitVec 12} {n : Nat}
    {zx : Bool} (hi : exec i st = .next (ldx s rd r imm n zx st)) : IssueTraps st t i (t.cx.ra r + imm.signExtend 64) n true 0 :=
  issueTraps_of_raises .read (fun x hx => by rw [hi, ldx_takes h, loadBody, hx]) (fun _ => rfl) (fun _ => formsOwn_refuses)
theorem rld_traps (h : Takes { s := s, long := true, hOk := true, a := [r] } st t) (rd : BitVec 5) (cls : BitVec 3) (z : Bool) (n : BitVec 2) :
    IssueTraps st t (.rld s rd r cls z n) (t.cx.ra r) (2 ^ n.toNat) false 0 :=
  issueTraps_of_raises (forms := formsAll) .read (fun x hx => by rw [rld_takes h, loadBody, hx]) (fun _ => rfl) nofun
theorem store_traps (h : Takes { s := s, hOk := true, a := [r, q] } st t) {i : Instr} {imm : BitVec 12} {n : Nat}
    (hi : exec i st = .next (stx s q r imm n st)) : IssueTraps st t i (t.cx.ra r + imm.signExtend 64) n true 1 :=
  issueTraps_of_raises .write (fun x hx => by rw [hi, stx_takes h, hx]) (fun _ => rfl) (fun _ => formsOwn_refuses)
theorem ldx_reads (h : Takes { s := s, long := true, hOk := true, a := [r] } st t) {i : Instr} {rd : BitVec 5} {imm : BitVec 12} {n : Nat}
    {zx : Bool} (hi : exec i st = .next (ldx s rd r imm n zx st)) (hn : n ≠ 3) (hpos : 0 < n)
    (hc : issueCheck t t.me (t.cx.ra r + imm.signExtend 64) n .read formsOwn = none) :
    LoadReads st t i rd (t.cx.ra r + imm.signExtend 64) n zx :=
  loadReads_of_body (by rw [hi, ldx_takes h]) hn hpos hc
theorem rld_reads (h : Takes { s := s, long := true, hOk := true, a := [r] } st t) (rd : BitVec 5) (cls : BitVec 3) {z zx : Bool}
    (w : BitVec 2) {n : Nat} (hw : 2 ^ w.toNat = n) (hz : (z || decide (n = 8)) = zx) (hn : n ≠ 3)
    (hc : issueCheck t t.me (t.cx.ra r) n .read formsAll = none) : LoadReads st t (.rld s rd r cls z w) rd (t.cx.ra r) n zx :=
  loadReads_of_body (by rw [rld_takes h, hw, hz]) hn (hw ▸ Nat.two_pow_pos _) hc
theorem rst_traps (h : Takes { s := s, hOk := true, a := [r, q] } st t) (cls : BitVec 3) (n : BitVec 2) :
    IssueTraps st t (.rst s r q cls n) (t.cx.ra r) (2 ^ n.toNat) false 1 :=
  issueTraps_of_raises (forms := formsAll) .write (fun x hx => by rw [rst_takes h, hx]) (fun _ => rfl) nofun

end

/-- Settles O21: the traps are those of `issueCheck`, the values and faults those of `loadElem`. -/
theorem scalarLoadsAndTheirChecks : Obligations.ScalarLoadsAndTheirChecks := by
  unfold Obligations.ScalarLoadsAndTheirChecks
  refine ⟨?_, ?_, fun ds d e a => ⟨draftByte_other ds d a, draftByte_whole ds d e a, rfl⟩,
    fun s c d => ⟨mem_draftView s c d, draftView_own⟩⟩
  · intro st t s z r q imm cls ea b traps
    simp only [List.forall_mem_cons, List.not_mem_nil, false_imp_iff, implies_true, and_true]
    refine ⟨fun h => ⟨⟨?_, ?_, ?_, ?_, ?_, ?_, ?_⟩, fun n => rld_traps h q cls z n⟩,
      fun h => ⟨⟨?_, ?_, ?_, ?_⟩, fun n => rst_traps h cls n⟩⟩
    · exact load_traps (zx := false) h rfl
    · exact load_traps (zx := true) h rfl
    · exact load_traps (zx := false) h rfl
    · exact load_traps (zx := true) h rfl
    · exact load_traps (zx := false) h rfl
    · exact load_traps (zx := true) h rfl
    · exact load_traps (zx := true) h rfl
    · exact store_traps h rfl
    · exact store_traps h rfl
    · exact store_traps h rfl
    · exact store_traps h rfl
  · intro st t s z rd r imm cls h a b waits
    simp only [List.forall_mem_cons, List.not_mem_nil, false_imp_iff, implies_true, and_true]
    refine ⟨?_, ?_, ?_, ?_, ?_, ?_, ?_, ?_, ?_, ?_, ?_⟩
    · exact ldx_reads (zx := false) h rfl (by decide) (by decide)
    · exact ldx_reads (zx := true) h rfl (by decide) (by decide)
    · exact ldx_reads (zx := false) h rfl (by decide) (by decide)
    · exact ldx_reads (zx := true) h rfl (by decide) (by decide)
    · exact ldx_reads (zx := false) h rfl (by decide) (by decide)
    · exact ldx_reads (zx := true) h rfl (by decide) (by decide)
    · exact ldx_reads (zx := true) h rfl (by decide) (by decide)
    · exact rld_reads (n := 1) (zx := z) h rd cls 0 rfl (Bool.or_false z) (by decide)
    · exact rld_reads (n := 2) (zx := z) h rd cls 1 rfl (Bool.or_false z) (by decide)
    · exact rld_reads (n := 4) (zx := z) h rd cls 2 rfl (Bool.or_false z) (by decide)
    · exact rld_reads (n := 8) (zx := true) h rd cls 3 rfl (Bool.or_true z) (by decide)

end Sys2Proof.Machine
end

section
/-! SUPPORT. The issue of a C-class instruction whose operands are there: where its result goes (R43, R46, R77, R83, R84, R164). -/

namespace Sys2Proof.Machine

/-! ## Destinations -/

theorem Ctxt.vreg_congr {c x : Ctxt} (hv : x.v = c.v) (ho : x.o = c.o) {d : BitVec 6} (hd : d.toNat < 40) : x.vreg d = c.vreg d := by
  have : d.toNat < 32 ∨ d.toNat - 32 < 8 := by omega
  rcases this with h | h <;> simp [Ctxt.vreg, hv, ho, h]
theorem Ctxt.wOf_congr {c x : Ctxt} (h : x.w = c.w) (n : Nat) : x.wOf n = c.wOf n := by simp only [Ctxt.wOf, h]
theorem Ctxt.wOf_setW (c : Ctxt) (n j : Nat) (l : List QEntry) (hj : j < 2) : (c.setW n l).wOf j = if j = n then l else c.wOf j := by
  by_cases hn : n < 2
  · by_cases h : j = n
    · subst h; simp [Ctxt.setW, Ctxt.wOf, hn]
    · simp [Ctxt.setW, Ctxt.wOf, hn, hj, h, Ne.symm h]
  · rw [if_neg (by omega), Ctxt.setW, dif_neg hn]
theorem Ctxt.setW_frame (c : Ctxt) (n : Nat) (l : List QEntry) : c.setW n l = { c with w := (c.setW n l).w } := by
  unfold Ctxt.setW
  split <;> rfl
theorem Ctxt.qOf_setQ (c : Ctxt) (n j : Nat) (l : List QEntry) (hj : j < 4) : (c.setQ n l).qOf j = if j = n then l else c.qOf j := by
  by_cases hn : n < 4
  · by_cases h : j = n
    · subst h; simp [Ctxt.setQ, Ctxt.qOf, hn]
    · simp [Ctxt.setQ, Ctxt.qOf, hn, hj, h, Ne.symm h]
  · rw [if_neg (by omega), Ctxt.setQ, dif_neg hn]
theorem Ctxt.setQ_frame (c : Ctxt) (n : Nat) (l : List QEntry) : c.setQ n l = { c with q := (c.setQ n l).q } := by
  unfold Ctxt.setQ
  split <;> rfl
theorem specIsW_iff (d : BitVec 6) : specIsW d = true ↔ d = 48 ∨ d = 49 := by simp [specIsW]

/-- What a short-class result makes of the registers, the w queues and the return buffer. -/
structure PutsResult (d : BitVec 6) (b : VBits) (t : Tag) (c x : Ctxt) : Prop where
  reg : d.toNat < 40 → x.vreg d = ⟨b, t, none⟩
  others : ∀ e : BitVec 6, e ≠ d → e.toNat < 40 → x.vreg e = c.vreg e
  queues : ∀ n < 2, x.wOf n = if d.toNat = 48 + n ∧ c.pushPending d = false then c.wOf n ++ [⟨b, t, none⟩] else c.wOf n
  rb : x.rb = (if d = 48 ∨ d = 49 then
      (if c.pushPending d then c.rb ++ [⟨.vec d, .vector b t, 0, false, true, false, true, c.pc, c.order⟩] else c.rb)
    else if d = 63 then c.rb else supersede (.vec d) c.rb)
  frame : x = { c with v := x.v, o := x.o, w := x.w, rb := x.rb }

theorem pushW_puts (c : Ctxt) (d : BitVec 6) (b : VBits) (t : Tag) (hd : specIsW d = true) : PutsResult d b t c (c.pushW d b t) := by
  have hw := (specIsW_iff d).mp hd
  have h48 : 48 ≤ d.toNat := by rcases hw with rfl | rfl <;> decide
  cases hp : c.pushPending d with
  | true =>
    have hx : c.pushW d b t = { c with rb := c.rb ++ [⟨.vec d, .vector b t, 0, false, true, false, true, c.pc, c.order⟩] } := if_pos hp
    rw [hx]
    exact ⟨fun h => absurd h (by omega), fun _ _ _ => rfl, fun n _ => by rw [if_neg (by simp [hp])]; rfl,
      by rw [if_pos hw, if_pos hp], rfl⟩
  | false =>
    have hx : c.pushW d b t = c.setW (d.toNat - 48) (c.wOf (d.toNat - 48) ++ [⟨b, t, none⟩]) := if_neg (by simp [hp])
    rw [hx]
    refine ⟨fun h => absurd h (by omega), fun e _ he => ?_, fun n hn => ?_, ?_, ?_⟩
    · rw [Ctxt.setW_frame]
      exact Ctxt.vreg_congr rfl rfl he
    · rw [Ctxt.wOf_setW _ _ _ _ hn]
      by_cases h : d.toNat = 48 + n
      · rw [if_pos (by omega), if_pos ⟨h, hp⟩, show d.toNat - 48 = n by omega]
      · rw [if_neg (by omega), if_neg (fun hh => h hh.1)]
    · rw [if_pos hw, if_neg (by simp [hp]), Ctxt.setW_frame]
    · rw [Ctxt.setW_frame]
theorem Ctxt.wv_frame (c : Ctxt) (d : BitVec 6) (b : VBits) (t : Tag) (h : d ≠ 63) :
    (c.wv d b t).v = (c.putV d ⟨b, t, none⟩).v ∧ (c.wv d b t).o = (c.putV d ⟨b, t, none⟩).o ∧
    c.wv d b t = { c with v := (c.wv d b t).v, o := (c.wv d b t).o, rb := supersede (.vec d) c.rb } := by
  have hx : c.wv d b t = { c.putV d ⟨b, t, none⟩ with rb := supersede (.vec d) c.rb } := if_neg h
  have hv : (c.wv d b t).v = (c.putV d ⟨b, t, none⟩).v := by rw [hx]
  have ho : (c.wv d b t).o = (c.putV d ⟨b, t, none⟩).o := by rw [hx]
  refine ⟨hv, ho, ?_⟩
  rw [hv, ho, hx]
  conv_lhs => rw [Ctxt.putV_frame]
theorem wv_puts (c : Ctxt) (d : BitVec 6) (b : VBits) (t : Tag) (hd : specIsW d = false) : PutsResult d b t c (c.wv d b t) := by
  have hw : ¬ (d = 48 ∨ d = 49) := by rw [← specIsW_iff, hd]; decide
  have hq : ∀ n < 2, d.toNat ≠ 48 + n := fun n hn h => by rw [specIsW_of_queue hn h] at hd; cases hd
  by_cases h63 : d = 63
  · have hx : c.wv d b t = c := if_pos h63
    rw [hx]
    exact ⟨fun h => by rw [h63] at h; exact absurd h (by decide), fun _ _ _ => rfl, fun n hn => by rw [if_neg (fun h => hq n hn h.1)],
      by rw [if_neg hw, if_pos h63], rfl⟩
  · obtain ⟨hv, ho, hframe⟩ := c.wv_frame d b t h63
    refine ⟨fun h => ?_, fun e he hlt => ?_, fun n hn => ?_, by rw [if_neg hw, if_neg h63, hframe], by rw [hframe]⟩
    · rw [Ctxt.vreg_congr hv ho h, Ctxt.vreg_putV _ _ _ _ h h, if_pos rfl]
    · rw [Ctxt.vreg_congr hv ho hlt]
      by_cases h : d.toNat < 40
      · rw [Ctxt.vreg_putV _ _ _ _ h hlt, if_neg he]
      · rw [Ctxt.putV, dif_neg (by omega), dif_neg (by omega)]
    · rw [if_neg (fun h => hq n hn h.1), hframe]
      rfl

/-! ## The issue -/

theorem popAll_of_no_queue {ds : List (BitVec 6)} (h : ds.any specIsQ = false) (c : Ctxt) : popAll c ds = c := by
  induction ds with
  | nil => rfl
  | cons d r ih =>
    obtain ⟨hd, hr⟩ := Bool.or_eq_false_iff.mp ((List.any_cons ..).symm.trans h)
    rw [popAll, List.foldl_cons, if_neg (by simp [hd])]
    exact ih hr
theorem writeVec_result (q : VIss) (c : Ctxt) (b : VBits) (t : Tag) (f : FlagBits) (hq : q.isLong = false) :
    VectorResult q t b f c (writeVec c q.d b t f q.l) := by
  have hx : PutsResult q.d b t c (if specIsW q.d then c.pushW q.d b t else c.wv q.d b t) := by
    split
    next h => exact pushW_puts c q.d b t h
    next h => exact wv_puts c q.d b t (by simpa using h)
  have hw : writeVec c q.d b t f q.l =
      (if q.l then (if specIsW q.d then c.pushW q.d b t else c.wv q.d b t).pushL ⟨b, t, none⟩
        else if specIsW q.d then c.pushW q.d b t else c.wv q.d b t).orFlags f := rfl
  rw [VectorResult, if_neg (by simp [hq]), hw]
  generalize (if specIsW q.d then c.pushW q.d b t else c.wv q.d b t) = x at hx
  have hl : (if q.l then x.pushL ⟨b, t, none⟩ else x).orFlags f =
      { x with l := if q.l then #v[⟨b, t, none⟩, c.l[0], c.l[1], c.l[2]] else c.l, flags := c.flags ||| f.setWidth 64 } := by
    rw [hx.frame]
    cases q.l <;> rfl
  rw [hl]
  refine ⟨rfl, rfl, fun h => ?_, fun e he hlt => ?_, fun n hn => ?_, hx.rb, ?_⟩
  · refine Eq.trans (Ctxt.vreg_congr (c := x) ?_ ?_ h) (hx.reg h) <;> rfl
  · refine Eq.trans (Ctxt.vreg_congr (c := x) ?_ ?_ hlt) (hx.others e he hlt) <;> rfl
  · exact hx.queues n hn
  · conv_lhs => rw [hx.frame]

section
variable {q : VIss} {st t : State} {os : List Opnd} (h : VectorTakes q st t os) {check : Ctxt → List Opnd → Except (BitVec 9) Tag}
  (run : Ctxt → Tag → List Opnd → VBits × FlagBits) {ty : Tag} (hc : check t.cx os = .ok ty)
include h hc

theorem vecIssue_long (hq : q.isLong = true) : vecIssue q st check run =
    t.done (Waiting (popAll t.cx q.srcs) (.vec q.d) (.vector (run t.cx ty os).1 ty) (run t.cx ty os).2 q.l) q.len := by
  obtain ⟨ht, hos, hm, -⟩ := h
  rw [vecIssue, issue_takes ht]
  simp only [hos, hm, hc, hq]
  rfl
/-- A short-class result finds room in its queue, if it goes to one. -/
theorem vecIssue_short (hq : q.isLong = false) :
    vecIssue q st check run = t.done (writeVec t.cx q.d (run t.cx ty os).1 ty (run t.cx ty os).2 q.l) q.len := by
  obtain ⟨ht, hos, hm, hroom⟩ := h
  have hfree : pushWaits t.cx q.d = false := by
    by_cases hw : q.d = 48 ∨ q.d = 49
    · obtain hp | hlen := hroom hq hw
      · simp [pushWaits, hp]
      · rw [pushWaits, decide_eq_false (show ¬ queueRoom ≤ _ from Nat.not_le.mpr hlen), Bool.and_false]
    · have hd : specIsW q.d = false := by simpa [specIsW] using hw
      simp [pushWaits, hd]
  rw [vecIssue, issue_takes ht]
  simp only [hos, hm, hc, hq, hfree, popAll_of_no_queue (Bool.or_eq_false_iff.mp hq).2]
  rfl
/-- A C-class instruction whose operands are there and whose type `check` fixes: its result and flags reach the context (R46, R77, R83, R84). -/
theorem vecIssue_result :
    ∃ c, vecIssue q st check run = (t.setCx c).finish q.len ∧ VectorResult q ty (run t.cx ty os).1 (run t.cx ty os).2 t.cx c := by
  cases hq : q.isLong with
  | true => exact ⟨_, vecIssue_long h run hc hq, by rw [VectorResult, if_pos hq]⟩
  | false => exact ⟨_, vecIssue_short h run hc hq, writeVec_result q t.cx _ ty _ hq⟩

end
/-- A fault entry among the operands becomes the deferred fault of a long-class result (R164). -/
theorem vecIssue_fault {q : VIss} {st t : State} {os : List Opnd} {m : Mark} (ht : Takes q.iss st t) (hos : operands t.cx [] q.srcs = some os)
    (hm : firstMark (os.filterMap Opnd.mark?) = some m) (check : Ctxt → List Opnd → Except (BitVec 9) Tag)
    (run : Ctxt → Tag → List Opnd → VBits × FlagBits) :
    vecIssue q st check run = t.done (Waiting (popAll t.cx q.srcs) (.vec q.d) (.fault m) 0 q.l) q.len := by
  rw [vecIssue, issue_takes ht]
  simp only [hos, hm]
  rfl
/-- Where a queue is too short the instruction waits for it (R43). -/
theorem vecIssue_waits {q : VIss} {st t : State} (ht : Takes q.iss st t) (hos : operands t.cx [] q.srcs = none)
    (check : Ctxt → List Opnd → Except (BitVec 9) Tag) (run : Ctxt → Tag → List Opnd → VBits × FlagBits) :
    vecIssue q st check run = t.park (.qPop (shortQueue t.cx q.srcs)) := by
  rw [vecIssue, issue_takes ht]
  simp only [hos]

end Sys2Proof.Machine
end

section
/-! SUPPORT. VFLRD, VFLCLR, VQPOP and VQPUSH (R43, R91, R108, R164). -/

namespace Sys2Proof.Machine

/-! ## Lanes of a packed vector -/

theorem packLanes_lt (e : Nat) (l : List Nat) : packLanes e l < 2 ^ (l.length * e) := by
  induction l with
  | nil => simp [packLanes]
  | cons x r ih =>
    have hx : x % 2 ^ e < 2 ^ e := Nat.mod_lt _ (Nat.two_pow_pos e)
    rw [packLanes, List.length_cons, Nat.succ_mul, Nat.add_comm (r.length * e), Nat.pow_add]
    calc x % 2 ^ e + 2 ^ e * packLanes e r < 2 ^ e * 1 + 2 ^ e * packLanes e r := by omega
      _ = 2 ^ e * (packLanes e r + 1) := by ring
      _ ≤ 2 ^ e * 2 ^ (r.length * e) := Nat.mul_le_mul_left _ ih
/-- Lane `i` of packed lanes is the `i`-th, and 0 past the last. -/
theorem packLanes_lane (e : Nat) (l : List Nat) (i : Nat) : packLanes e l >>> (i * e) % 2 ^ e = l.getD i 0 % 2 ^ e := by
  induction l generalizing i with
  | nil => simp [packLanes]
  | cons x r ih =>
    cases i with
    | zero => simp [packLanes, Nat.add_mod]
    | succ i =>
      have hx : x % 2 ^ e < 2 ^ e := Nat.mod_lt _ (Nat.two_pow_pos e)
      have hshift : packLanes e (x :: r) >>> e = packLanes e r := by
        rw [packLanes, Nat.shiftRight_eq_div_pow, Nat.add_mul_div_left _ _ (Nat.two_pow_pos e), Nat.div_eq_of_lt hx, Nat.zero_add]
      rw [Nat.succ_mul, Nat.add_comm, Nat.shiftRight_add, hshift, ih]
      rfl
theorem laneOf_ofLanes (e : Nat) (l : List Nat) (i : Nat) (h : l.length * e ≤ 256) : laneOf e (ofLanes e l) i = l.getD i 0 % 2 ^ e := by
  have hlt : packLanes e l < 2 ^ 256 := Nat.lt_of_lt_of_le (packLanes_lt e l) (Nat.pow_le_pow_right (by decide) h)
  rw [laneOf, ofLanes, BitVec.toNat_ofNat, Nat.mod_eq_of_lt hlt, packLanes_lane]

/-! ## Retirement with the context as it stands -/

theorem finish_setCx_cx (t : State) (len : Nat) : (t.setCx t.cx).finish len = t.finish len := by
  have hself : (t.setCx t.cx).slot t.me = t.self := (State.slot_setSlot ..).trans rfl
  have hmod : (t.setCx t.cx).modSlot t.me (fun sl => sl.finish len) = t.modSlot t.me (fun sl => sl.finish len) := by
    rw [State.modSlot, hself]
    exact State.setSlot_setSlot ..
  simp only [State.finish, State.finishAt, State.me_setCx, hmod, hself]
  rfl

/-! ## The queue moves -/

theorem queue_spec {n : Nat} (hn : n < 4) : specIsQ (BitVec.ofNat 6 (44 + n)) = true ∧ (BitVec.ofNat 6 (44 + n)).toNat - 44 = n := by
  have : (BitVec.ofNat 6 (44 + n)).toNat = 44 + n := by rw [BitVec.toNat_ofNat]; omega
  simp only [specIsQ, this]
  simp
  omega
theorem operands_queue (c : Ctxt) {n : Nat} (hn : n < 4) :
    operands c [] [BitVec.ofNat 6 (44 + n)] = ((c.qOf n)[0]?).map (fun e => [.ent e]) := by
  obtain ⟨hq, hk⟩ := queue_spec hn
  have ho : operand c (BitVec.ofNat 6 (44 + n)) 0 = ((c.qOf n)[0]?).map .ent := by rw [operand, if_pos hq, hk]
  simp only [operands, List.filter_nil, List.length_nil, ho]
  cases (c.qOf n)[0]? <;> rfl
theorem shortQueue_empty (c : Ctxt) {n : Nat} (hn : n < 4) (hq : c.qOf n = []) : shortQueue c [BitVec.ofNat 6 (44 + n)] = n := by
  obtain ⟨hs, hk⟩ := queue_spec hn
  generalize BitVec.ofNat 6 (44 + n) = d at hs hk
  subst hk
  simp [shortQueue, hs, hq]
theorem popAll_queue (c : Ctxt) {n : Nat} (hn : n < 4) : popAll c [BitVec.ofNat 6 (44 + n)] = c.setQ n (c.qOf n).tail := by
  obtain ⟨hq, hk⟩ := queue_spec hn
  rw [popAll, List.foldl_cons, List.foldl_nil, if_pos hq, hk]

/-- The context of VQPOP: the queue without its oldest entry, and a result that waits (R91). -/
theorem popped_spec (c : Ctxt) {n : Nat} (hn : n < 4) {e : QEntry} {r : List QEntry} (hq : c.qOf n = e :: r) (d : RbDest) (x : RbResult) :
    let c' := Waiting (popAll c [BitVec.ofNat 6 (44 + n)]) d x 0 true
    c'.qOf n = r ∧ (∀ j < 4, j ≠ n → c'.qOf j = c.qOf j) ∧ c' = Waiting { c with q := c'.q } d x 0 true := by
  intro c'
  have hc' : c' = Waiting (c.setQ n r) d x 0 true := by simp only [c', popAll_queue c hn, hq, List.tail_cons]
  have hqs : ∀ j < 4, c'.qOf j = if j = n then r else c.qOf j := fun j hj => by
    rw [hc']
    exact Ctxt.qOf_setQ c n j r hj
  refine ⟨by rw [hqs n hn, if_pos rfl], fun j hj hne => by rw [hqs j hj, if_neg hne], ?_⟩
  have hqeq : c'.q = (c.setQ n r).q := by rw [hc']; rfl
  rw [hqeq, hc']
  conv_lhs => rw [Ctxt.setQ_frame]

theorem spec5_toNat (r : BitVec 5) : (spec5 r).toNat = r.toNat := by
  rw [spec5, BitVec.toNat_setWidth]
  omega
theorem spec5_not_queue (r : BitVec 5) : specIsQ (spec5 r) = false := by
  have h := spec5_toNat r
  simp only [specIsQ, h]
  simp
  omega
theorem operands_spec5 (c : Ctxt) (r : BitVec 5) : operands c [] [spec5 r] = some [.reg (c.vreg (spec5 r))] := by
  have ho : operand c (spec5 r) 0 = some (.reg (c.vreg (spec5 r))) := by
    have h := spec5_toNat r
    rw [operand, if_neg (by simp [spec5_not_queue]), if_neg (by simp [specIsB, h]; omega), if_pos (by omega)]
  simp only [operands, List.filter_nil, List.length_nil, ho]
  rfl

/-- The issue of VQPOP and of VQPUSH (R91). -/
def popIss (s : Bool) (vd n : BitVec 5) : VIss :=
  { s := s, len := 2, d := spec5 vd, srcs := [BitVec.ofNat 6 (44 + n.toNat)], long := true }
def pushIss (s : Bool) (vd n : BitVec 5) : VIss :=
  { s := s, len := 2, d := BitVec.ofNat 6 (48 + n.toNat), srcs := [spec5 vd], l := false }

/-- A short-class push of a register, with nothing in FLAGS: at the end of its queue, or behind a push that is still pending (R43). -/
theorem writeVec_push (c : Ctxt) (d : BitVec 6) (b : VBits) (t : Tag) (hd : specIsW d = true) : writeVec c d b t 0 false = c.pushW d b t := by
  have hx : writeVec c d b t 0 false = (c.pushW d b t).orFlags 0 := by
    rw [writeVec, if_pos hd]
    rfl
  rw [hx, Ctxt.orFlags]
  simp

section
variable {st t : State} {s : Bool} {vd n : BitVec 5}

theorem vqpush_takes (hn : n.toNat < 2) (h : Takes { s := s, len := 2, v := [spec5 vd] } st t) (htag : (t.cx.vreg (spec5 vd)).tag ≠ .none)
    (hroom : t.cx.pushPending (BitVec.ofNat 6 (48 + n.toNat)) = true ∨ (t.cx.wOf n.toNat).length < 16) :
    exec (.vqpush s vd n) st = .next ((t.setCx (t.cx.pushW (BitVec.ofNat 6 (48 + n.toNat)) (t.cx.vreg (spec5 vd)).bits
      (t.cx.vreg (spec5 vd)).tag)).finish 2) := by
  have hd : (BitVec.ofNat 6 (48 + n.toNat)).toNat = 48 + n.toNat := by rw [BitVec.toNat_ofNat]; omega
  have hlong : (pushIss s vd n).isLong = false := by simp [VIss.isLong, pushIss, spec5_not_queue]
  have hiss : (pushIss s vd n).iss = { s := s, len := 2, v := [spec5 vd] } := by rw [VIss.iss, hlong]; rfl
  have hv : VectorTakes (pushIss s vd n) st t [.reg (t.cx.vreg (spec5 vd))] :=
    ⟨hiss ▸ h, operands_spec5 t.cx vd, rfl, fun _ _ => by
      rw [show (pushIss s vd n).d.toNat - 48 = n.toNat by rw [pushIss, hd]; omega]
      exact hroom⟩
  have hcheck : sourceType [.reg (t.cx.vreg (spec5 vd))] .none = .ok (t.cx.vreg (spec5 vd)).tag := by
    simp [sourceType, Opnd.tag?, htag]
  refine congrArg Host.Outcome.next ((vecIssue_short hv _ hcheck hlong).trans ?_)
  exact congrArg (fun c => t.done c 2) (writeVec_push t.cx _ _ _ (specIsW_of_queue hn hd))

end

/-- Settles O29: FLAGS by the short-class write, the queues by the issue of the one entry they take or push. -/
theorem flagsAndQueueMoves : Obligations.FlagsAndQueueMoves := by
  unfold Obligations.FlagsAndQueueMoves
  intro st t s d a vd n e r
  refine ⟨fun h => ?_, fun h hd => ?_, fun h => congrArg Host.Outcome.next (issue_takes h), fun hn h hq hm => ?_, fun m hn h hq hm => ?_,
    fun hn h hq => ?_, fun hn h htag hp => ?_, fun hn h htag hlen hp => ?_⟩
  · exact congrArg Host.Outcome.next ((issue_takes h).trans (finish_setCx_cx t 4))
  · have h63 : d ≠ 63 := by rintro rfl; exact absurd hd (by decide)
    have hp := wv_puts t.cx d (ofLanes 64 [t.cx.flags.toNat]) .int64 (specIsW_of_lt hd)
    refine ⟨_, congrArg Host.Outcome.next (issue_takes h), ?_, ?_, fun i h1 _ => ?_, hp.others, (t.cx.wv_frame d _ _ h63).2.2⟩
    · rw [hp.reg hd]
    · rw [hp.reg hd, laneOf_ofLanes 64 _ 0 (by simp)]
      exact Nat.mod_eq_of_lt t.cx.flags.isLt
    · rw [hp.reg hd, laneOf_ofLanes 64 _ i (by simp), List.getD_eq_default _ _ (by simpa using h1), Nat.zero_mod]
  · have hos : operands t.cx [] (popIss s vd n).srcs = some [.ent e] := by rw [popIss, operands_queue t.cx hn, hq]; rfl
    have hv : VectorTakes (popIss s vd n) st t [.ent e] := ⟨h, hos, by simp [Opnd.mark?, hm, firstMark], nofun⟩
    exact ⟨_, congrArg Host.Outcome.next (vecIssue_long (ty := e.tag) hv _ rfl rfl), popped_spec t.cx hn hq _ _⟩
  · have hos : operands t.cx [] (popIss s vd n).srcs = some [.ent e] := by rw [popIss, operands_queue t.cx hn, hq]; rfl
    have hmark : firstMark ([Opnd.ent e].filterMap Opnd.mark?) = some m := by simp [Opnd.mark?, hm, firstMark]
    exact ⟨_, congrArg Host.Outcome.next (vecIssue_fault (q := popIss s vd n) h hos hmark _ _), popped_spec t.cx hn hq _ _⟩
  · have hos : operands t.cx [] (popIss s vd n).srcs = none := by rw [popIss, operands_queue t.cx hn, hq]; rfl
    refine congrArg Host.Outcome.next ((vecIssue_waits (q := popIss s vd n) h hos _ _).trans ?_)
    rw [popIss, shortQueue_empty t.cx hn hq]
  · exact (vqpush_takes hn h htag (.inl hp)).trans (by rw [Ctxt.pushW, if_pos hp])
  · have hd : (BitVec.ofNat 6 (48 + n.toNat)).toNat - 48 = n.toNat := by rw [BitVec.toNat_ofNat]; omega
    refine ⟨_, vqpush_takes hn h htag (.inr hlen), ?_⟩
    rw [Ctxt.pushW, if_neg (by simp [hp]), hd]
    refine ⟨?_, fun j hj hne => ?_, Ctxt.setW_frame ..⟩
    · rw [Ctxt.wOf_setW _ _ _ _ hn, if_pos rfl]
    · rw [Ctxt.wOf_setW _ _ _ _ hj, if_neg hne]

end Sys2Proof.Machine
end

section
/-! SUPPORT. Patterns and scalar queue moves (R161 to R166). -/

namespace Sys2Proof.Machine

/-! ## Pattern registers -/

theorem Ctxt.pat_setPat (c : Ctxt) {n j : Nat} (v : Pattern) (hn : n < 4) (hj : j < 4) :
    (c.setPat n v).pat j = if j = n then v else c.pat j := by
  by_cases h : j = n
  · subst h; simp [Ctxt.setPat, Ctxt.pat, hn]
  · simp [Ctxt.setPat, Ctxt.pat, hn, hj, h, Ne.symm h]
/-- One pattern register written: it holds the pattern and nothing else changes. -/
theorem Ctxt.setPat_spec (c : Ctxt) {n : Nat} (v : Pattern) (hn : n < 4) :
    (c.setPat n v).pat n = v ∧ (∀ j < 4, j ≠ n → (c.setPat n v).pat j = c.pat j) ∧ c.setPat n v = { c with pats := (c.setPat n v).pats } := by
  refine ⟨by rw [c.pat_setPat v hn hn, if_pos rfl], fun j hj h => by rw [c.pat_setPat v hn hj, if_neg h], ?_⟩
  rw [Ctxt.setPat, dif_pos hn]

/-! ## SDEF, SGO, SHALT and SQ -/

section
variable {st t : State} {s : Bool} {n rs1 : BitVec 5} {imm : BitVec 12}

theorem sdef_running (h : Takes { s := s, a := [rs1] } st t) (hc : recordCheck t t.me (t.cx.ra rs1 + imm.signExtend 64) 8 64 = none)
    (hs : (t.cx.pat n.toNat).state = .running) : exec (.sdef s n rs1 imm) st = .next (t.raise (trapInfo 0x059)) := by
  change execSdef s n rs1 imm st = _
  rw [execSdef, issue_takes h]
  simp only [hc, if_pos hs]
section
variable {ds : List Nat} (h : Takes { s := s, a := [rs1] } st t)
  (hc : recordCheck t t.me (t.cx.ra rs1 + imm.signExtend 64) 8 64 = none) (hs : (t.cx.pat n.toNat).state ≠ .running)
  (hd : readDwords t t.me (t.cx.ra rs1 + imm.signExtend 64) 8 = .ok ds)
include h hc hs hd

theorem sdef_loads {r : Pattern} (hp : patternOf (t.cx.ra rs1) ds = some r) :
    exec (.sdef s n rs1 imm) st = .next (t.done (t.cx.setPat n.toNat r)) := by
  change execSdef s n rs1 imm st = _
  rw [execSdef, issue_takes h]
  simp only [hc, if_neg hs, hd, hp]
theorem sdef_bad (hp : patternOf (t.cx.ra rs1) ds = none) : exec (.sdef s n rs1 imm) st = .next (t.raise (trapInfo 0x058)) := by
  change execSdef s n rs1 imm st = _
  rw [execSdef, issue_takes h]
  simp only [hc, if_neg hs, hd, hp]

end

/-- SGO starts a pattern in one of the three states of R163 on a queue with no running pattern, and traps otherwise. -/
theorem sgo_takes {p q : BitVec 2} {w : Bool} (h : Takes { s := s, parks := w } st t) :
    let x := t.cx.pat p.toNat
    let legal := (x.state = .defined ∨ x.state = .done ∨ x.state = .fault) ∧ t.cx.bound w q.toNat = false
    (legal → exec (.sgo s p q w) st = .next (t.done (t.cx.setPat p.toNat
      { x with state := .running, pos := 0, isW := w, queue := q.toNat, goPc := t.cx.pc, goOrd := t.cx.order, flt := none }))) ∧
    (¬ legal → exec (.sgo s p q w) st = .next (t.raise (trapInfo 0x059))) := by
  intro x legal
  change (_ → execSgo s p q w st = _) ∧ (_ → execSgo s p q w st = _)
  rw [execSgo, issue_takes h]
  extract_lets c r ok
  have hok : (!ok || c.bound w q.toNat) = false ↔ legal := by
    have : ok = true ↔ x.state = .defined ∨ x.state = .done ∨ x.state = .fault := by
      show (match x.state with | .defined => true | .done => true | .fault => true | _ => false) = true ↔ _
      cases x.state <;> simp
    simp only [legal, ← this, Bool.or_eq_false_iff, Bool.not_eq_false']
    rfl
  refine ⟨fun hl => ?_, fun hl => ?_⟩
  · rw [if_neg (by rw [hok.mpr hl]; decide)]
  · rw [if_pos (by by_contra hn; exact hl (hok.mp (by simpa using hn)))]
theorem shalt_takes (p : BitVec 2) (h : Takes { s := s } st t) :
    let x := t.cx.pat p.toNat
    (x.state = .undef → exec (.shalt s p) st = .next (t.raise (trapInfo 0x059))) ∧
    (x.state ≠ .undef → exec (.shalt s p) st = .next (t.done (t.cx.setPat p.toNat { x with state := .defined, pos := 0, flt := none }))) := by
  intro x
  change (_ → execShalt s p st = _) ∧ (_ → execShalt s p st = _)
  rw [execShalt, issue_takes h]
  exact ⟨fun hx => congrArg _ (if_pos hx), fun hx => congrArg _ (if_neg hx)⟩
theorem sq_takes (rd : BitVec 5) (p : BitVec 2) (h : Takes { s := s, long := true } st t) :
    let x := t.cx.pat p.toNat
    (x.state = .undef → exec (.sq s rd p) st = .next (t.raise (trapInfo 0x059))) ∧
    (x.state ≠ .undef → exec (.sq s rd p) st = .next ((t.setCx (Waiting t.cx (.areg rd) x.left 0 false)).finish)) := by
  intro x
  change (_ → execSq s rd p st = _) ∧ (_ → execSq s rd p st = _)
  rw [execSq, issue_takes h]
  exact ⟨fun hx => congrArg _ (if_pos hx), fun hx => congrArg _ (if_neg hx)⟩

end

/-! ## QPUSH and QPOP -/

theorem Tag.lanes_ebits (t : Tag) : t.lanes * t.ebits = 256 := by cases t <;> rfl
theorem laneOf_splat (t : Tag) (x i : Nat) (hi : i < t.lanes) : laneOf t.ebits (splat t x) i = x % 2 ^ t.ebits := by
  rw [splat, laneOf_ofLanes _ _ _ (by rw [List.length_replicate, t.lanes_ebits])]
  simp [hi]

section
variable {st t : State} {s : Bool} {n rs1 rd : BitVec 5} {fmt : BitVec 7}

theorem qpush_bound (h : Takes { s := s, a := [rs1] } st t) (hb : t.cx.bound false n.toNat = true) :
    exec (.qpush s n rs1 fmt) st = .next (t.raise (trapInfo 0x059)) := by
  change execQpush s n rs1 fmt st = _
  rw [execQpush, issue_takes h]
  exact congrArg _ (if_pos hb)
theorem qpush_free (h : Takes { s := s, a := [rs1] } st t) (hb : t.cx.bound false n.toNat = false) :
    let ty := tagOf fmt.toNat
    (16 ≤ (t.cx.qOf n.toNat).length → exec (.qpush s n rs1 fmt) st = .next (t.park (.qPush n.toNat))) ∧
    ((t.cx.qOf n.toNat).length < 16 → exec (.qpush s n rs1 fmt) st =
      .next (t.done (t.cx.setQ n.toNat (t.cx.qOf n.toNat ++ [⟨splat ty (bcastElem ty (t.cx.ra rs1)), ty, none⟩])))) := by
  intro ty
  change (_ → execQpush s n rs1 fmt st = _) ∧ (_ → execQpush s n rs1 fmt st = _)
  rw [execQpush, issue_takes h]
  have hn : ¬ (t.cx.bound false n.toNat = true) := by simp [hb]
  exact ⟨fun hl => congrArg _ ((if_neg hn).trans (if_pos hl)), fun hl => congrArg _ ((if_neg hn).trans (if_neg (Nat.not_le.mpr hl)))⟩
theorem qpop_bound (h : Takes { s := s } st t) (hb : t.cx.bound true n.toNat = true) :
    exec (.qpop s rd n) st = .next (t.raise (trapInfo 0x059)) := by
  change execQpop s rd n st = _
  rw [execQpop, issue_takes h]
  exact congrArg _ (if_pos hb)
section
variable (h : Takes { s := s } st t) (hb : t.cx.bound true n.toNat = false)
include h hb

theorem qpop_empty (hw : t.cx.wOf n.toNat = []) : exec (.qpop s rd n) st = .next (t.park (.wPop n.toNat)) := by
  change execQpop s rd n st = _
  rw [execQpop, issue_takes h]
  simp only [hb, hw]
  rfl
theorem qpop_value {e : QEntry} {r : List QEntry} (hw : t.cx.wOf n.toNat = e :: r) (hm : e.mark = none) :
    exec (.qpop s rd n) st = .next (t.done ((t.cx.setW n.toNat r).wa rd (popValue e))) := by
  change execQpop s rd n st = _
  rw [execQpop, issue_takes h]
  simp only [hb, hw, hm]
  rfl
theorem qpop_fault {e : QEntry} {r : List QEntry} {m : Mark} (hw : t.cx.wOf n.toNat = e :: r) (hm : e.mark = some m) :
    exec (.qpop s rd n) st = .next (t.done (((t.cx.setW n.toNat r).wa rd 0).putA rd 0 (some m))) := by
  change execQpop s rd n st = _
  rw [execQpop, issue_takes h]
  simp only [hb, hw, hm]
  rfl

end
end

/-! ## The value popped -/

theorem laneOf_zero (w : Nat) (v : VBits) : laneOf w v 0 = v.toNat % 2 ^ w := by rw [laneOf, Nat.zero_mul, Nat.shiftRight_zero]
theorem readLane_plain {t : Tag} (h4 : t ≠ .int4) (h6 : t ≠ .tap6) (v : VBits) : readLane t v 0 = v.toNat % 2 ^ t.ebits := by
  rw [readLane, fixElem, if_neg h4, if_neg h6, laneOf_zero, Nat.mod_mod]
theorem sgn_mod (w n : Nat) : sgn w (n % 2 ^ w) = sgn w n := by simp only [sgn, Nat.mod_mod]
/-- A signed reading of the low bits, extended to 64 bits. -/
theorem toInt_ofInt_sgn {w : Nat} (hw : w ≤ 64) (v : VBits) : (BitVec.ofInt 64 (sgn w v.toNat)).toInt = (v.setWidth w).toInt := by
  have hv : BitVec.ofNat w v.toNat = v.setWidth w := BitVec.ofNat_toNat ..
  rw [sgn_eq_toInt, hv]
  exact BitVec.toInt_signExtend_of_le hw
/-- A popped INT4 lane is the sign extension of its low four bits (R72). -/
theorem sgn_readLane_int4 (v : VBits) : sgn 8 (readLane .int4 v 0) = sgn 4 v.toNat := by
  have hlane : readLane .int4 v 0 = trunc 8 (sgn 4 v.toNat) := by
    rw [readLane, fixElem, if_pos rfl, laneOf_zero, wrapInt, if_pos rfl]
    have h : trunc 4 (v.toNat % 2 ^ 8 : Nat) = v.toNat % 2 ^ 4 := by unfold trunc; omega
    rw [show (Tag.int4.ebits) = 8 from rfl, h, sgn_mod]
  rw [hlane]
  simp only [sgn, trunc]
  omega
theorem popValue_unsigned {e : QEntry} (h : (e.tag.isInt && e.tag.signed) = false) : popValue e = BitVec.ofNat 64 (readLane e.tag e.bits 0) := by
  simp only [popValue, h]
  rfl
theorem popValue_signed {e : QEntry} (h : (e.tag.isInt && e.tag.signed) = true) :
    popValue e = BitVec.ofInt 64 (sgn e.tag.ebits (readLane e.tag e.bits 0)) := if_pos h
theorem popValue_plain {e : QEntry} (h : (e.tag.isInt && e.tag.signed) = false) (h6 : e.tag ≠ .tap6) :
    (popValue e).toNat = e.bits.toNat % 2 ^ e.tag.ebits := by
  have h4 : e.tag ≠ .int4 := by rintro h4; rw [h4] at h; cases h
  have hle : 2 ^ e.tag.ebits ≤ 2 ^ 64 := Nat.pow_le_pow_right (by decide) (by cases e.tag <;> decide)
  rw [popValue_unsigned h, readLane_plain h4 h6, BitVec.toNat_ofNat]
  exact Nat.mod_eq_of_lt (Nat.lt_of_lt_of_le (Nat.mod_lt _ (Nat.two_pow_pos _)) hle)
theorem popValue_integer {e : QEntry} (h : (e.tag.isInt && e.tag.signed) = true) (h4 : e.tag ≠ .int4) :
    (popValue e).toInt = (e.bits.setWidth e.tag.ebits).toInt := by
  have h6 : e.tag ≠ .tap6 := by rintro h6; rw [h6] at h; cases h
  rw [popValue_signed h, readLane_plain h4 h6, sgn_mod]
  exact toInt_ofInt_sgn (by cases e.tag <;> decide) _

/-- What QPOP gives by the tag of the entry (R166). -/
theorem popValue_spec (e : QEntry) :
    (∀ p ∈ [(Tag.fp32, 32), (.uint32, 32), (.fp16, 16), (.bf16, 16), (.uint8, 8), (.tap8, 8), (.tap6, 6)], e.tag = p.1 →
      (popValue e).toNat = e.bits.toNat % 2 ^ p.2) ∧
    (e.tag = .int32 → (popValue e).toInt = (e.bits.setWidth 32).toInt) ∧ (e.tag = .int16 → (popValue e).toInt = (e.bits.setWidth 16).toInt) ∧
    (e.tag = .int8 → (popValue e).toInt = (e.bits.setWidth 8).toInt) ∧ (e.tag = .int4 → (popValue e).toInt = (e.bits.setWidth 4).toInt) ∧
    (e.tag = .int64 ∨ e.tag = .fp64 → popValue e = e.bits.setWidth 64) := by
  have plain : ∀ g : Tag, (g.isInt && g.signed) = false → g ≠ .tap6 → e.tag = g → (popValue e).toNat = e.bits.toNat % 2 ^ g.ebits :=
    fun g hg h6 h => by rw [← h] at hg h6 ⊢; exact popValue_plain hg h6
  have integer : ∀ g : Tag, (g.isInt && g.signed) = true → g ≠ .int4 → e.tag = g → (popValue e).toInt = (e.bits.setWidth g.ebits).toInt :=
    fun g hg h4 h => by subst h; exact popValue_integer hg h4
  refine ⟨?_, integer .int32 rfl nofun, integer .int16 rfl nofun, integer .int8 rfl nofun, fun h => ?_, ?_⟩
  · simp only [List.forall_mem_cons, List.not_mem_nil, false_imp_iff, implies_true, and_true]
    refine ⟨plain .fp32 rfl nofun, plain .uint32 rfl nofun, plain .fp16 rfl nofun, plain .bf16 rfl nofun, plain .uint8 rfl nofun,
      plain .tap8 rfl nofun, fun h => ?_⟩
    rw [popValue_unsigned (by rw [h]; rfl), h, readLane, fixElem, if_neg nofun, if_pos rfl, laneOf_zero, BitVec.toNat_ofNat]
    rw [show Tag.tap6.ebits = 8 from rfl]
    omega
  · rw [popValue_signed (by rw [h]; rfl), h, show Tag.int4.ebits = 8 from rfl, sgn_readLane_int4]
    exact toInt_ofInt_sgn (by decide) _
  · rintro (h | h)
    · exact BitVec.eq_of_toInt_eq (integer .int64 rfl nofun h)
    · exact BitVec.eq_of_toNat_eq ((plain .fp64 rfl nofun h).trans (BitVec.toNat_setWidth ..).symm)

/-- A register that takes a fault entry: it is 0 with the fault as its mark; a0 takes neither (R166). -/
theorem faultWrite_spec (c : Ctxt) (r : BitVec 5) (m : Mark) :
    let y := (c.wa r 0).putA r 0 (some m)
    y.ra r = 0 ∧ (r ≠ 0 → y.am[r.toNat] = some m) ∧ (∀ q : BitVec 5, q ≠ r → y.ra q = c.ra q ∧ y.am[q.toNat] = c.am[q.toNat]) ∧
    y = { c with a := y.a, am := y.am, rb := if r = 0 then c.rb else supersede (.areg r) c.rb } := by
  intro y
  by_cases h : r = 0
  · have hy : y = c := by simp only [y, Ctxt.wa, Ctxt.putA, if_pos h]
    rw [hy, if_pos h]
    exact ⟨if_pos h, fun hr => absurd h hr, fun _ _ => ⟨rfl, rfl⟩, rfl⟩
  · have hy : y = { c with
        a := (c.a.set r.toNat 0).set r.toNat 0, am := (c.am.set r.toNat none).set r.toNat (some m),
        rb := supersede (.areg r) c.rb } := by simp only [y, Ctxt.wa, Ctxt.putA, if_neg h]
    rw [hy, if_neg h]
    refine ⟨?_, fun _ => Vector.getElem_set_self .., fun q hq => ?_, rfl⟩
    · simp only [Ctxt.ra, if_neg h, Vector.getElem_set_self]
    · have hne : r.toNat ≠ q.toNat := fun e => hq (BitVec.eq_of_toNat_eq e.symm)
      simp only [Ctxt.ra, Vector.getElem_set_ne _ _ hne, and_self]

/-- A w queue written: it holds the list and nothing else changes. -/
theorem Ctxt.setW_spec (c : Ctxt) {n : Nat} (l : List QEntry) (hn : n < 2) :
    (c.setW n l).wOf n = l ∧ (∀ j < 2, j ≠ n → (c.setW n l).wOf j = c.wOf j) ∧ c.setW n l = { c with w := (c.setW n l).w } :=
  ⟨by rw [c.wOf_setW n n l hn, if_pos rfl], fun j hj h => by rw [c.wOf_setW n j l hj, if_neg h], c.setW_frame n l⟩
theorem Ctxt.setQ_spec (c : Ctxt) {n : Nat} (l : List QEntry) (hn : n < 4) :
    (c.setQ n l).qOf n = l ∧ (∀ j < 4, j ≠ n → (c.setQ n l).qOf j = c.qOf j) ∧ c.setQ n l = { c with q := (c.setQ n l).q } :=
  ⟨by rw [c.qOf_setQ n n l hn, if_pos rfl], fun j hj h => by rw [c.qOf_setQ n j l hj, if_neg h], c.setQ_frame n l⟩

/-- Settles O31: each instruction by its own cases, then what the written pattern, queue or register leaves. -/
theorem patternsAndScalarQueueMoves : Obligations.PatternsAndScalarQueueMoves := by
  unfold Obligations.PatternsAndScalarQueueMoves
  constructor
  · intro st t s w n rs1 rd imm p q ds r
    have hp4 : p.toNat < 4 := p.isLt
    refine ⟨fun h hn hc hs hd => ⟨fun hp => ?_, fun hp => ?_⟩, fun h _ hc hs => ?_, fun h => ⟨fun hl => ?_, fun hl => ?_⟩,
      fun h => ⟨fun hx => ?_, fun hx => ?_⟩, fun h => ?_⟩
    · exact ⟨_, sdef_loads h hc hs hd hp, t.cx.setPat_spec r hn⟩
    · exact sdef_bad h hc hs hd hp
    · exact sdef_running h hc hs
    · obtain ⟨hpat, hothers, hframe⟩ := t.cx.setPat_spec { t.cx.pat p.toNat with
        state := .running, pos := 0, isW := w, queue := q.toNat, goPc := t.cx.pc, goOrd := t.cx.order, flt := none } hp4
      exact ⟨_, (sgo_takes h).1 hl, hothers, hframe, hpat⟩
    · exact (sgo_takes h).2 hl
    · exact (shalt_takes p h).1 hx
    · obtain ⟨hpat, hothers, hframe⟩ := t.cx.setPat_spec { t.cx.pat p.toNat with state := .defined, pos := 0, flt := none } hp4
      exact ⟨_, (shalt_takes p h).2 hx, hframe, hothers, hpat⟩
    · intro x size
      obtain ⟨hundef, hleft⟩ := sq_takes rd p h
      have left : ∀ y, x.state ≠ .undef → x.left = y → exec (.sq s rd p) st = .next ((t.setCx (Waiting t.cx (.areg rd) y 0 false)).finish) :=
        fun y hx hy => by rw [← hy]; exact hleft hx
      refine ⟨hundef, fun hx => left _ (by simp [hx]) ?_, fun hx => left _ (by simp [hx]) ?_, fun m hx hm => left _ (by simp [hx]) ?_,
        fun hx => left _ (by simp [hx]) ?_⟩ <;> simp only [Pattern.left, *] <;> rfl
  · intro st t s n rs1 rd fmt e r
    refine ⟨fun h hn => ?_, fun h hn => ⟨qpop_bound h, fun hb hw => qpop_empty h hb hw, fun hb hw hm => ?_, fun m hb hw hm => ?_⟩⟩
    · intro ty
      refine ⟨qpush_bound h, fun hb hl => (qpush_free h hb).1 hl, fun hb hl => ?_⟩
      obtain ⟨hq, hothers, hframe⟩ := t.cx.setQ_spec (t.cx.qOf n.toNat ++ [⟨splat ty (bcastElem ty (t.cx.ra rs1)), ty, none⟩]) hn
      exact ⟨_, _, (qpush_free h hb).2 hl, hframe, hothers, hq, fun i hi => laneOf_splat ty _ i hi⟩
    · obtain ⟨hwn, hothers, hframe⟩ := t.cx.setW_spec r hn
      have hwrites := (t.cx.setW n.toNat r).wa_writesA rd (popValue e)
      have hw' : ((t.cx.setW n.toNat r).wa rd (popValue e)).w = (t.cx.setW n.toNat r).w := by rw [hwrites.2.2.2]
      refine ⟨_, _, qpop_value h hb hw hm, ?_, (Ctxt.wOf_congr hw' _).trans hwn, fun j hj hne => (Ctxt.wOf_congr hw' _).trans (hothers j hj hne),
        popValue_spec e⟩
      rw [hw', ← hframe]
      exact hwrites
    · obtain ⟨hwn, hothers, hframe⟩ := t.cx.setW_spec r hn
      obtain ⟨ha, ham, hregs, hx⟩ := faultWrite_spec (t.cx.setW n.toNat r) rd m
      have hw' : (((t.cx.setW n.toNat r).wa rd 0).putA rd 0 (some m)).w = (t.cx.setW n.toNat r).w := by rw [hx]
      refine ⟨_, qpop_fault h hb hw hm, ha, ham, (Ctxt.wOf_congr hw' _).trans hwn,
        fun j hj hne => (Ctxt.wOf_congr hw' _).trans (hothers j hj hne), fun q hq => ?_, ?_⟩
      · rw [(hregs q hq).1, (hregs q hq).2, hframe]
        exact ⟨rfl, rfl⟩
      · generalize ((t.cx.setW n.toNat r).wa rd 0).putA rd 0 (some m) = y at hx hw' ⊢
        rw [hw']
        exact hx.trans (by rw [hframe])

end Sys2Proof.Machine
end

section
/-! SUPPORT. The lanes of a C-class result: an operation on each active lane, and where the result goes (R46, R64, R77, R82 to R84). -/

namespace Sys2Proof.Machine

/-! ## Lanes and their flags -/

theorem getLsbD_orAll (l : List FlagBits) (b : Nat) : (orAll l).getLsbD b = true ↔ ∃ x ∈ l, x.getLsbD b = true := by
  have h : ∀ a : FlagBits, (l.foldl (· ||| ·) a).getLsbD b = true ↔ a.getLsbD b = true ∨ ∃ x ∈ l, x.getLsbD b = true := by
    induction l with
    | nil => simp
    | cons x r ih =>
      intro a
      rw [List.foldl_cons, ih]
      simp [or_assoc]
  rw [orAll, h 0]
  simp
/-- The common effect of R83 on the lanes gives each active lane its operation's value, and FLAGS the bits of the active lanes. -/
theorem applyLanes_laneResult (t : Tag) (k : PBits) (z : Bool) (old : VBits) (op : Nat → Nat × FlagBits) :
    LaneResult t k z old op (applyLanes t k z old op).1 (applyLanes t k z old op).2 := by
  refine ⟨fun i hi => ?_, fun b _ => ?_⟩
  · rw [applyLanes, laneOf_ofLanes _ _ _ (by simp [t.lanes_ebits])]
    simp only [List.getD_eq_getElem?_getD, List.getElem?_map, List.getElem?_range hi, Option.map_some, Option.getD_some]
    by_cases hk : active t k i = true
    · rw [if_pos hk]
      exact (if_pos hk).symm
    · rw [if_neg hk]
      refine Eq.trans ?_ (if_neg hk).symm
      cases z with
      | true => exact Nat.zero_mod _
      | false => exact Nat.mod_mod ..
  · rw [applyLanes, getLsbD_orAll]
    simp only [List.map_map, List.mem_map, List.mem_range, Function.comp_apply, exists_exists_and_eq_and, active]
    refine exists_congr fun i => and_congr_right fun _ => ?_
    by_cases hk : k.getLsbD (i * (t.ebits / 8)) = true <;> simp [hk]
/-- The lane of an operand as an operation reads it. -/
theorem arg_map (t : Tag) (os : List Opnd) (j i : Nat) :
    arg t (os.map (fun o => o.bits t)) j i = readLane t ((os.getD j .zero).bits t) i := by
  rw [arg, show (0 : VBits) = Opnd.bits .zero t from rfl, List.getD_map]

/-! ## The issue of a lane operation -/

/-- An instruction gives the lanes of `op`, under a predicate, over the destination's old lanes. -/
def GivesLanes (i : Instr) (st t : State) (q : VIss) (ty : Tag) (k : BitVec 3) (z : Bool) (op : Nat → Nat × FlagBits) : Prop :=
  ∃ c r f, exec i st = .next ((t.setCx c).finish q.len) ∧ VectorResult q ty r f t.cx c ∧
    LaneResult ty (t.cx.rk k.toNat) z (oldOf t.cx q.d) op r f
theorem GivesLanes.result {i : Instr} {st t : State} {q : VIss} {ty : Tag} {k : BitVec 3} {z : Bool} {op : Nat → Nat × FlagBits}
    (h : GivesLanes i st t q ty k z op) : ∃ c r f, exec i st = .next ((t.setCx c).finish q.len) ∧ VectorResult q ty r f t.cx c ∧
      LaneResult ty (t.cx.rk k.toNat) z (oldOf t.cx q.d) op r f := h

section
variable {i : Instr} {q : VIss} {st t : State} {os : List Opnd} {ty : Tag} {ok : Tag → Bool} {k : BitVec 3} {z : Bool}
  (h : VectorTakes q st t os) (hc : typeOf t.cx os q.d ok = .ok ty)
include h hc

theorem vecIssue_lanes {op : Tag → List Opnd → Nat → Nat × FlagBits}
    (he : exec i st = .next (vecIssue q st (fun c os => typeOf c os q.d ok) fun c t os => applyLanes t (c.rk k.toNat) z (oldOf c q.d) (op t os))) :
    GivesLanes i st t q ty k z (op ty os) := by
  obtain ⟨c, hn, hr⟩ := vecIssue_result h (fun c t os => applyLanes t (c.rk k.toNat) z (oldOf c q.d) (op t os))
    (check := fun c os => typeOf c os q.d ok) hc
  exact ⟨c, _, _, he.trans (congrArg _ hn), hr, applyLanes_laneResult ..⟩
theorem laneIssue_lanes {op : Tag → List VBits → Nat → Nat × FlagBits} (he : exec i st = .next (laneIssue q k z ok op st)) :
    GivesLanes i st t q ty k z (op ty (os.map (fun o => o.bits ty))) :=
  by
  rw [laneIssue] at he
  exact vecIssue_lanes h hc he
theorem vshift_lanes {op : Tag → Nat → Nat → Nat} (hok : ok = tyInt) (he : exec i st = .next (vshift q k z op st)) :
    GivesLanes i st t q ty k z (fun i => (op ty (readLane ty ((os.getD 0 .zero).bits ty) i) (shiftAmount ty (os.getD 1 .zero)), 0)) := by
  subst hok
  rw [vshift] at he
  exact vecIssue_lanes h hc he
/-- One, two and three sources, each lane of them as R64, R72 and R117 read it. -/
theorem lanes1 {op : Tag → Nat → Nat × FlagBits} (he : exec i st = .next (laneIssue q k z ok (fun t vs i => op t (arg t vs 0 i)) st)) :
    GivesLanes i st t q ty k z (fun i => op ty (readLane ty ((os.getD 0 .zero).bits ty) i)) := by
  simpa only [arg_map] using laneIssue_lanes h hc he
theorem lanes2 {op : Tag → Nat → Nat → Nat × FlagBits}
    (he : exec i st = .next (laneIssue q k z ok (fun t vs i => op t (arg t vs 0 i) (arg t vs 1 i)) st)) :
    GivesLanes i st t q ty k z
      (fun i => op ty (readLane ty ((os.getD 0 .zero).bits ty) i) (readLane ty ((os.getD 1 .zero).bits ty) i)) := by
  simpa only [arg_map] using laneIssue_lanes h hc he
theorem lanes3 {op : Tag → Nat → Nat → Nat → Nat × FlagBits}
    (he : exec i st = .next (laneIssue q k z ok (fun t vs i => op t (arg t vs 0 i) (arg t vs 1 i) (arg t vs 2 i)) st)) :
    GivesLanes i st t q ty k z (fun i => op ty (readLane ty ((os.getD 0 .zero).bits ty) i) (readLane ty ((os.getD 1 .zero).bits ty) i)
      (readLane ty ((os.getD 2 .zero).bits ty) i)) := by
  simpa only [arg_map] using laneIssue_lanes h hc he
/-- A copy of the bits. -/
theorem lanesCopy (he : exec i st = .next (laneIssue q k z ok (fun t vs i => (laneOf t.ebits (vs.getD 0 0) i, 0)) st)) :
    GivesLanes i st t q ty k z (fun i => (laneOf ty.ebits ((os.getD 0 .zero).bits ty) i, 0)) := by
  have := laneIssue_lanes h hc he
  rwa [show (os.map (fun o => o.bits ty)).getD 0 0 = (os.getD 0 .zero).bits ty from List.getD_map (d := Opnd.zero) ..] at this

end

end Sys2Proof.Machine
end

section
/-! SUPPORT. Sums and products of elements apart from the machine: each the exact value rounded once (R67 to R69, R74, R87). -/

namespace Sys2Proof.Machine

theorem ieeeLayouts_spec {p : Tag × Ieee} (hp : p ∈ ieeeLayouts) :
    p.1.ieee = some p.2 ∧ 2 ≤ p.2.eb ∧ p.2.eb ≤ 11 ∧ 7 ≤ p.2.fb ∧ p.2.fb ≤ 52 := by
  have : ∀ p ∈ ieeeLayouts, p.1.ieee = some p.2 ∧ 2 ≤ p.2.eb ∧ p.2.eb ≤ 11 ∧ 7 ≤ p.2.fb ∧ p.2.fb ≤ 52 := by decide
  exact this p hp
theorem byType_ieee {t : Tag} {f : Ieee} (h : t.ieee = some f) (fp : Ieee → Nat × FlagBits) (n : Nat) : byType t fp n = fp f := by
  simp only [byType, h]

/-! ## Exact values -/

/-- The value of a signed dyadic. -/
def dyVal (n : Bool) (m : Nat) (e : Int) : ℚ := (if n then -1 else 1) * (m * (2 : ℚ) ^ e)

theorem Num.exact_fin (n : Bool) (m : Nat) (e : Int) : (Num.fin n m e).exact = some (.fin n (dyVal n m e)) := rfl
theorem dyVal_eq_zero (n : Bool) (m : Nat) (e : Int) : dyVal n m e = 0 ↔ m = 0 := by
  cases n <;> simp [dyVal, zpow_ne_zero]
theorem dyVal_not (n : Bool) (m : Nat) (e : Int) : dyVal (!n) m e = - dyVal n m e := by
  cases n <;> simp [dyVal]
theorem dyVal_mul (x y : Bool) (m n : Nat) (e g : Int) : dyVal (x != y) (m * n) (e + g) = dyVal x m e * dyVal y n g := by
  rw [dyVal, dyVal, dyVal, zpow_add₀ two_ne_zero]
  cases x <;> cases y <;> simp <;> ring
/-- A magnitude moved to a smaller exponent. -/
theorem dyVal_shift (n : Bool) (m : Nat) {e g : Int} (h : g ≤ e) : dyVal n (m <<< (e - g).natAbs) g = dyVal n m e := by
  have he : e = ((e - g).natAbs : ℕ) + g := by omega
  rw [dyVal, dyVal, Nat.shiftLeft_eq]
  conv_rhs => rw [he, zpow_add₀ two_ne_zero, zpow_natCast]
  push_cast
  ring
theorem dyVal_natAbs (v : Int) (e : Int) : dyVal (decide (v < 0)) v.natAbs e = v * (2 : ℚ) ^ e := by
  rcases lt_or_ge v 0 with h | h
  · have : (v.natAbs : ℚ) = -v := by rw [← Int.cast_natCast, Int.natCast_natAbs, abs_of_neg h]; push_cast; ring
    simp [dyVal, h, this]
  · have : (v.natAbs : ℚ) = v := by rw [← Int.cast_natCast, Int.natCast_natAbs, abs_of_nonneg h]
    simp [dyVal, not_lt.mpr h, this]

/-- The sum that is rounded is the exact one; an exact zero is negative only where both are negative (R87). -/
theorem addExact_value (an : Bool) (am : Nat) (ae : Int) (bn : Bool) (bm : Nat) (be : Int) :
    let r := addExact an am ae bn bm be
    dyVal r.1 r.2.1 r.2.2 = dyVal an am ae + dyVal bn bm be ∧ (dyVal an am ae + dyVal bn bm be = 0 → r.1 = (an && bn)) := by
  have hx := dyVal_shift an am (min_le_left ae be)
  have hy := dyVal_shift bn bm (min_le_right ae be)
  intro r
  set x := am <<< (ae - min ae be).natAbs with hxd
  set y := bm <<< (be - min ae be).natAbs with hyd
  set v : Int := (if an then -(x : Int) else x) + (if bn then -(y : Int) else y) with hv
  have hsum : dyVal an am ae + dyVal bn bm be = v * (2 : ℚ) ^ min ae be := by
    rw [← hx, ← hy, dyVal, dyVal, hv]
    cases an <;> cases bn <;> push_cast <;> simp <;> ring
  have hr : r = if v = 0 then (an && bn && am = 0 && bm = 0, 0, 0) else (decide (v < 0), v.natAbs, min ae be) := rfl
  have hu : (2 : ℚ) ^ min ae be ≠ 0 := zpow_ne_zero _ two_ne_zero
  by_cases h0 : v = 0
  · rw [if_pos h0] at hr
    rw [hsum, hr, h0]
    refine ⟨by simp [dyVal], fun _ => ?_⟩
    have hzero : an = true → bn = true → am = 0 ∧ bm = 0 := by
      rintro rfl rfl
      have h := (by omega : ∀ x y : ℕ, -(x : Int) + -(y : Int) = 0 → x = 0 ∧ y = 0) x y h0
      have ha := (dyVal_eq_zero true am ae).mp (hx ▸ (dyVal_eq_zero true x _).mpr h.1)
      have hb := (dyVal_eq_zero true bm be).mp (hy ▸ (dyVal_eq_zero true y _).mpr h.2)
      exact ⟨ha, hb⟩
    cases an <;> cases bn <;> simp_all
  · rw [if_neg h0] at hr
    rw [hsum, hr]
    exact ⟨dyVal_natAbs v _, fun h => absurd h (mul_ne_zero (by exact_mod_cast h0) hu)⟩

/-- Where two numbers have exact values, their product does, or both are none: an infinity times a zero (R87). -/
theorem mulNum_exact {a b : Num} {p q : Exact} (ha : a.exact = some p) (hb : b.exact = some q) :
    (mulNum a b = none ∧ p.times q = none) ∨ ∃ c e, mulNum a b = some c ∧ p.times q = some e ∧ c.exact = some e := by
  cases a with
  | nan | tapNan => cases ha
  | fin x m e =>
    cases b with
    | nan | tapNan => cases hb
    | fin y n g =>
      cases ha; cases hb
      exact .inr ⟨_, _, rfl, rfl, by rw [Num.exact_fin, dyVal_mul]; rfl⟩
    | inf y =>
      cases ha; cases hb
      by_cases h : m = 0
      · exact .inl ⟨if_pos h, if_pos ((dyVal_eq_zero x m e).mpr h)⟩
      · exact .inr ⟨.inf (x != y), _, if_neg h, if_neg (mt (dyVal_eq_zero x m e).mp h), rfl⟩
  | inf x =>
    cases b with
    | nan | tapNan => cases hb
    | fin y n g =>
      cases ha; cases hb
      by_cases h : n = 0
      · exact .inl ⟨if_pos h, if_pos ((dyVal_eq_zero y n g).mpr h)⟩
      · exact .inr ⟨.inf (x != y), _, if_neg h, if_neg (mt (dyVal_eq_zero y n g).mp h), rfl⟩
    | inf y =>
      cases ha; cases hb
      exact .inr ⟨.inf (x != y), _, rfl, rfl, rfl⟩
theorem negate_exact {a : Num} {p : Exact} (ha : a.exact = some p) : a.negate.exact = some p.opp := by
  cases a with
  | nan | tapNan => cases ha
  | fin x m e =>
    cases ha
    exact congrArg (fun v => some (Exact.fin (!x) v)) (dyVal_not x m e)
  | inf x =>
    cases ha
    rfl

/-! ## One rounding -/

/-- The sign of a zero matters to the rounding of 0 alone. -/
theorem roundsTo_of_sign {f : Ieee} {x : ℝ} {n k : Bool} {r : Nat × FlagBits} (h : RoundsTo f x n r) (hk : x = 0 → n = k) :
    RoundsTo f x k r := by
  obtain ⟨hover, hunder, hin⟩ := h
  refine ⟨hover, hunder, fun hx => ?_⟩
  obtain ⟨hlt, hfin, hsign, hrest⟩ := hin hx
  refine ⟨hlt, hfin, hsign.trans ?_, hrest⟩
  by_cases h0 : x = 0
  · rw [hk h0]
  · simp [h0]

section
variable {f : Ieee} (h2 : 2 ≤ f.eb) (h1 : 1 ≤ f.fb)
include h2 h1

theorem roundIeee_exact (n : Bool) (m : Nat) (e : Int) : RoundsTo f (dyVal n m e : ℚ) n (roundIeee f n ⟨m, e, false⟩) := by
  have h := roundIeee_roundsTo f h2 h1 n ⟨m, e, false⟩ (m * 2 ^ e) (by simp [Mag.names]) nofun
  have hv : ((dyVal n m e : ℚ) : ℝ) = (if n = true then -1 else 1) * (m * 2 ^ e) := by
    rw [dyVal]
    cases n <;> simp
  rwa [hv]
theorem roundNum_product {c : Num} {p : Exact} (hc : c.exact = some p) : ProductRounds f (some p) (roundNum f c) := by
  cases c with
  | nan | tapNan => cases hc
  | fin n m e =>
    cases hc
    exact roundIeee_exact h2 h1 n m e
  | inf n =>
    cases hc
    rfl
theorem fpAddNum_sum {a b : Num} {p q : Exact} (ha : a.exact = some p) (hb : b.exact = some q) :
    SumRounds f (some p) (some q) (fpAddNum f a b) := by
  cases a with
  | nan | tapNan => cases ha
  | fin x m e =>
    cases b with
    | nan | tapNan => cases hb
    | fin y n g =>
      cases ha; cases hb
      obtain ⟨hval, hsign⟩ := addExact_value x m e y n g
      have h := roundIeee_exact h2 h1 (addExact x m e y n g).1 (addExact x m e y n g).2.1 (addExact x m e y n g).2.2
      rw [hval] at h
      exact roundsTo_of_sign h fun h0 => hsign (Rat.cast_eq_zero.mp h0)
    | inf y =>
      cases ha; cases hb
      rfl
  | inf x =>
    cases b with
    | nan | tapNan => cases hb
    | fin y n g =>
      cases ha; cases hb
      rfl
    | inf y =>
      cases ha; cases hb
      rfl

end

/-! ## NaN operands (R69) -/

section
variable {f : Ieee} (h : 1 ≤ f.eb) (h1 : 1 ≤ f.fb)
include h h1

/-- The exact value of an element that is no NaN. -/
theorem num_exact {b : Nat} (hb : ieeeNan f b = false) : (f.num b).exact = some (exactOf f b) := (num_reads f h h1 b).2.2 hb
theorem propagate_eq (l : List Nat) (hl : ∀ b ∈ l, b < 2 ^ (f.eb + f.fb + 1)) : propagate f (l.map f.num) =
    (l.find? (ieeeNan f)).map (fun x => (x ||| 2 ^ (f.fb - 1), if l.any (ieeeSig f) then fInvalid else 0)) := by
  have hfind : (l.map f.num).find? Num.isNan = (l.find? (ieeeNan f)).map f.num := by
    rw [List.find?_map]
    exact congrArg (fun p => (l.find? p).map f.num) (funext fun b => (num_reads f h h1 b).1)
  have hany : (l.map f.num).any Num.isSig = l.any (ieeeSig f) := by
    rw [List.any_map]
    exact congrArg l.any (funext fun b => (num_reads f h h1 b).2.1)
  rw [propagate, hfind, hany]
  cases hc : l.find? (ieeeNan f) with
  | none => rfl
  | some b =>
    obtain ⟨neg, q, p, e, hq⟩ := nan_quieted f h h1 b (hl b (List.mem_of_find?_eq_some hc)) (by simpa using List.find?_some hc)
    simp [e, hq]

end

/-! ## Fused results (R69, R87) -/

section
variable {f : Ieee} (h2 : 2 ≤ f.eb) (h1 : 1 ≤ f.fb)
include h2 h1

theorem fpFused_rounds (sub : Bool) (l : List Nat) {a b d : Nat} (hl : ∀ x ∈ l, x < 2 ^ (f.eb + f.fb + 1)) (ha : a ∈ l)
    (hb : b ∈ l) (hd : d ∈ l) :
    FusedRounds f sub l a b d (fpFused f sub l a b d) := by
  have heb : 1 ≤ f.eb := by omega
  have hbad : ((mulNum (f.num a) (f.num b)).isNone && !(f.num a).isNan && !(f.num b).isNan) =
      (!ieeeNan f a && !ieeeNan f b && ((exactOf f a).times (exactOf f b)).isNone) := by
    rw [(num_reads f heb h1 a).1, (num_reads f heb h1 b).1]
    cases hna : ieeeNan f a with
    | true => simp
    | false =>
      cases hnb : ieeeNan f b with
      | true => simp
      | false =>
        obtain ⟨hm, ht⟩ | ⟨c, e, hm, ht, -⟩ := mulNum_exact (num_exact heb h1 hna) (num_exact heb h1 hnb) <;> simp [hm, ht]
  rw [FusedRounds, WithNans, fpFused, propagate_eq heb h1 l hl]
  simp only [hbad]
  cases hf : l.find? (ieeeNan f) with
  | some x =>
    simp only [Option.map_some]
    generalize (!ieeeNan f a && !ieeeNan f b && ((exactOf f a).times (exactOf f b)).isNone) = bad
    cases bad <;> cases l.any (ieeeSig f) <;> rfl
  | none =>
    have hnone : ∀ x ∈ l, ieeeNan f x = false := by simpa using hf
    simp only [Option.map_none]
    obtain ⟨hm, ht⟩ | ⟨c, e, hm, ht, hce⟩ := mulNum_exact (num_exact heb h1 (hnone a ha)) (num_exact heb h1 (hnone b hb))
    · rw [hm, ht]
      cases sub <;> cases exactOf f d <;> rfl
    · rw [hm, ht]
      cases sub with
      | false => exact fpAddNum_sum h2 h1 (num_exact heb h1 (hnone d hd)) hce
      | true => exact fpAddNum_sum h2 h1 (num_exact heb h1 (hnone d hd)) (negate_exact hce)

end

end Sys2Proof.Machine
end

section
/-! SUPPORT. VFMA, VFMS, the 16-bit forms, the immediate forms and VSLIDE (R33, R86, R87, R90, R91, R98). -/

namespace Sys2Proof.Machine

/-! ## VSLIDE (R98) -/

theorem vslide_lanes {st t : State} {s : Bool} {d a : BitVec 6} {n : BitVec 8} {k : BitVec 2} {os : List Opnd} {ty : Tag}
    (h : VectorTakes { s := s, d := d, srcs := [a] } st t os) (hc : typeOf t.cx os d tyAny = .ok ty) :
    GivesLanes (.vslide s d a n k) st t { s := s, d := d, srcs := [a] } ty (k.setWidth 3) false (fun i =>
      if 0 ≤ (i : Int) - n.toInt ∧ (i : Int) - n.toInt < ty.lanes then
        (readLane ty ((os.getD 0 .zero).bits ty) ((i : Int) - n.toInt).toNat, 0) else (0, 0)) := by
  simpa only [arg_map, Bool.and_eq_true, decide_eq_true_eq] using laneIssue_lanes h hc (i := .vslide s d a n k) rfl

/-! ## The 16-bit forms (R91) -/

/-- A 16-bit instruction gives the lanes of `op` under k0. -/
abbrev GivesShortLanes (i : Instr) (st t : State) (s : Bool) (vd : BitVec 5) (srcs : List (BitVec 6)) (ty : Tag)
    (op : Nat → Nat × FlagBits) : Prop :=
  ∃ c r f, exec i st = .next ((t.setCx c).finish 2) ∧ VectorResult { s := s, len := 2, d := spec5 vd, srcs := srcs } ty r f t.cx c ∧
    LaneResult ty (t.cx.rk 0) false (oldOf t.cx (spec5 vd)) op r f

section
variable {i : Instr} {st t : State} {s : Bool} {vd vs : BitVec 5} {os : List Opnd} {ty : Tag} {ok : Tag → Bool}

section
variable (h : VectorTakes { s := s, len := 2, d := spec5 vd, srcs := [spec5 vd, spec5 vs] } st t os) (hc : typeOf t.cx os (spec5 vd) ok = .ok ty)
include h hc

theorem v16_lanes {op : Tag → Nat → Nat → Nat × FlagBits} (he : exec i st = .next (v16 s vd vs ok op st)) :
    GivesShortLanes i st t s vd [spec5 vd, spec5 vs] ty
      (fun i => op ty (readLane ty ((os.getD 0 .zero).bits ty) i) (readLane ty ((os.getD 1 .zero).bits ty) i)) :=
  (lanes2 (k := 0) (z := false) h hc he).result
theorem vshift16_lanes {op : Tag → Nat → Nat → Nat} (hok : ok = tyInt)
    (he : exec i st = .next (vshift { s := s, len := 2, d := spec5 vd, srcs := [spec5 vd, spec5 vs] } 0 false op st)) :
    GivesShortLanes i st t s vd [spec5 vd, spec5 vs] ty
      (fun i => (op ty (readLane ty ((os.getD 0 .zero).bits ty) i) (shiftAmount ty (os.getD 1 .zero)), 0)) :=
  (vshift_lanes (k := 0) (z := false) h hc hok he).result

end
section
variable (h : VectorTakes { s := s, len := 2, d := spec5 vd, srcs := [spec5 vs] } st t os) (hc : typeOf t.cx os (spec5 vd) ok = .ok ty)
include h hc

theorem v16u_lanes {op : Tag → Nat → Nat × FlagBits} (he : exec i st = .next (v16u s vd vs ok op st)) :
    GivesShortLanes i st t s vd [spec5 vs] ty (fun i => op ty (readLane ty ((os.getD 0 .zero).bits ty) i)) :=
  (lanes1 (k := 0) (z := false) h hc he).result

end
theorem vmov16_lanes (h : VectorTakes { s := s, len := 2, d := spec5 vd, srcs := [spec5 vs] } st t os)
    (hc : typeOf t.cx os (spec5 vd) tyAny = .ok ty) :
    GivesShortLanes (.vmov16 s vd vs) st t s vd [spec5 vs] ty (fun i => (laneOf ty.ebits ((os.getD 0 .zero).bits ty) i, 0)) :=
  (lanesCopy (i := .vmov16 s vd vs) (k := 0) (z := false) h hc rfl).result
theorem vfmal_lanes (h : VectorTakes { s := s, len := 2, d := spec5 vd, srcs := [spec5 vd, spec5 vs, 40] } st t os)
    (hc : typeOf t.cx os (spec5 vd) tyFp = .ok ty) :
    GivesShortLanes (.vfmal s vd vs) st t s vd [spec5 vd, spec5 vs, 40] ty (fun i => laneFmal ty (readLane ty ((os.getD 0 .zero).bits ty) i)
      (readLane ty ((os.getD 1 .zero).bits ty) i) (readLane ty ((os.getD 2 .zero).bits ty) i)) :=
  (lanes3 (i := .vfmal s vd vs) (k := 0) (z := false) (op := laneFmal) h hc rfl).result

end

/-! ## The fused results -/

theorem laneFma_fused {p : Tag × Ieee} (hp : p ∈ ieeeLayouts) (sub : Bool) {a b d : Nat} (ha : a < 2 ^ (p.2.eb + p.2.fb + 1))
    (hb : b < 2 ^ (p.2.eb + p.2.fb + 1)) (hd : d < 2 ^ (p.2.eb + p.2.fb + 1)) :
    FusedRounds p.2 sub [a, b, d] a b d (laneFma p.1 sub a b d) ∧ FusedRounds p.2 false [d, a, b] a b d (laneFmal p.1 d a b) := by
  obtain ⟨ht, h2, -, h1, -⟩ := ieeeLayouts_spec hp
  rw [laneFma, laneFmal, byType_ieee ht, byType_ieee ht]
  have h1 : 1 ≤ p.2.fb := by omega
  exact ⟨fpFused_rounds h2 h1 sub [a, b, d] (by simp [ha, hb, hd]) (by simp) (by simp) (by simp),
    fpFused_rounds h2 h1 false [d, a, b] (by simp [ha, hb, hd]) (by simp) (by simp) (by simp)⟩

/-- Settles O24: the lanes by the issue of a lane operation, the fused results by the exact product and the exact sum, rounded once. -/
theorem fusedShortAndImmediateResults : Obligations.FusedShortAndImmediateResults := by
  unfold Obligations.FusedShortAndImmediateResults
  refine ⟨fun st t s z d a b k vd vs os ty ok => ⟨?_, ?_⟩, fun st t s d a n k os ty => ?_, ?_⟩
  · simp only [List.forall_mem_cons]
    refine ⟨?_, ?_, List.forall_mem_nil _⟩ <;> intro h hc
    · exact lanes3 h hc (op := fun t => laneFma t false) rfl
    · exact lanes3 h hc (op := fun t => laneFma t true) rfl
  · simp only [List.forall_mem_cons]
    refine ⟨?_, ?_, ?_, ?_, ?_, ?_, ?_, ?_, ?_, ?_, ?_, ?_, ?_, ?_, List.forall_mem_nil _⟩ <;> rintro h rfl hc
    · exact v16_lanes h hc (op := laneAdd) rfl
    · exact v16_lanes h hc (op := laneSub) rfl
    · exact v16_lanes h hc (op := laneMul) rfl
    · exact v16_lanes h hc (op := laneMax) rfl
    · exact v16_lanes h hc (op := laneMin) rfl
    · exact v16_lanes h hc (op := lAnd) rfl
    · exact v16_lanes h hc (op := lOr) rfl
    · exact v16_lanes h hc (op := lXor) rfl
    · exact vshift16_lanes h hc (op := laneSll) rfl rfl
    · exact vshift16_lanes h hc (op := laneSrl) rfl rfl
    · exact vmov16_lanes h hc
    · exact v16u_lanes h hc (op := laneNeg) rfl
    · exact v16u_lanes h hc (op := laneAbs) rfl
    · exact vfmal_lanes h hc
  · have hk : k.toNat = (k.setWidth 3).toNat := by rw [BitVec.toNat_setWidth]; omega
    simp only [List.forall_mem_cons, hk]
    refine ⟨?_, ?_, ?_, ?_, ?_, ?_, List.forall_mem_nil _⟩ <;> intro h hc
    · exact lanes1 h hc (op := fun t x => (wrapInt t (intVal t x + n.toInt), 0)) rfl
    · exact lanes1 h hc (op := fun t x => (laneSll t x n.toNat, 0)) rfl
    · exact lanes1 h hc (op := fun t x => (laneSrl t x n.toNat, 0)) rfl
    · exact lanes1 h hc (op := fun t x => (laneSra t x n.toNat, 0)) rfl
    · exact laneIssue_lanes h hc (op := fun t _ _ => (immElem t n, 0)) rfl
    · exact vslide_lanes h hc
  · exact fun p hp sub a b d ha hb hd => laneFma_fused hp sub ha hb hd

end Sys2Proof.Machine
end

section
/-! SUPPORT. Patterns by their fields: the cases of an element that is no NaN, and the order of VMAX and VMIN (R67, R69, R87). -/

namespace Sys2Proof.Machine

/-! ## Fields -/

/-- The magnitude field of a pattern is its exponent and its fraction. -/
theorem ieeeMag_fields (f : Ieee) (b : Nat) : b % 2 ^ (f.eb + f.fb) = ieeeExp f b * 2 ^ f.fb + ieeeFrac f b := by
  rw [ieeeExp, ieeeFrac, Nat.add_comm f.eb, Nat.pow_add, Nat.mod_mul]
  ring
theorem ieeePattern_fields (f : Ieee) {b : Nat} (hb : b < 2 ^ (f.eb + f.fb + 1)) :
    b = f.zero (ieeeSign f b) + (ieeeExp f b * 2 ^ f.fb + ieeeFrac f b) := by
  have hq : b / 2 ^ (f.eb + f.fb) < 2 := by
    rw [Nat.div_lt_iff_lt_mul (by positivity), Nat.mul_comm, ← Nat.pow_succ]
    exact hb
  have hz : f.zero (ieeeSign f b) = 2 ^ (f.eb + f.fb) * (b / 2 ^ (f.eb + f.fb)) := by
    rw [Ieee.zero, ieeeSign]
    generalize b / 2 ^ (f.eb + f.fb) = q at hq
    interval_cases q <;> simp
  rw [hz, ← ieeeMag_fields]
  exact (Nat.div_add_mod _ _).symm
theorem ieeeFrac_lt (f : Ieee) (b : Nat) : ieeeFrac f b < 2 ^ f.fb := Nat.mod_lt _ (Nat.two_pow_pos _)

section
variable {f : Ieee} (heb : 1 ≤ f.eb) (hfb : 1 ≤ f.fb)
include heb hfb

/-- An element that is no NaN: a finite number with its significand, of which 0 is a signed zero, or a signed infinity. -/
theorem num_cases {a : Nat} (ha : a < 2 ^ (f.eb + f.fb + 1)) (hn : ieeeNan f a = false) :
    (∃ n m e, f.num a = .fin n m e ∧ exactOf f a = .fin n (dyVal n m e) ∧ m < 2 ^ (f.fb + 1) ∧ (m = 0 → a = f.zero n)) ∨
    (∃ n, f.num a = .inf n ∧ exactOf f a = .inf n ∧ a = f.inf n) := by
  have hx := num_exact heb hfb hn
  have hp := ieeePattern_fields f ha
  have hfr := ieeeFrac_lt f a
  rw [Ieee.num, ieeeExp_bits f heb, ← ieeeSign_bit, show a % 2 ^ f.fb = ieeeFrac f a from rfl] at *
  by_cases he : ieeeExp f a = 2 ^ f.eb - 1
  · have h0 : ieeeFrac f a = 0 := by simpa [ieeeNan, ieeeFin, he] using hn
    simp only [if_pos he, if_pos h0] at hx ⊢
    exact .inr ⟨_, rfl, (Option.some.inj hx).symm, by rw [he, h0] at hp; exact hp⟩
  · by_cases h0 : ieeeExp f a = 0
    · simp only [if_neg he, if_pos h0] at hx ⊢
      exact .inl ⟨_, _, _, rfl, (Option.some.inj hx).symm, by rw [Nat.pow_succ]; omega, fun hz => by rw [h0, hz] at hp; simpa using hp⟩
    · simp only [if_neg he, if_neg h0] at hx ⊢
      exact .inl ⟨_, _, _, rfl, (Option.some.inj hx).symm, by rw [Nat.pow_succ]; omega, fun hz => absurd hz (by positivity)⟩

/-- The decoded parts of an element that is no NaN. -/
theorem exactOf_fin {a : Nat} (hn : ieeeNan f a = false) {n : Bool} {m : Nat} {e : Int} (hx : f.num a = .fin n m e) :
    exactOf f a = .fin n (dyVal n m e) := by
  have h := num_exact heb hfb hn
  rw [hx] at h
  exact (Option.some.inj h).symm
theorem exactOf_inf {a : Nat} (hn : ieeeNan f a = false) {n : Bool} (hx : f.num a = .inf n) : exactOf f a = .inf n := by
  have h := num_exact heb hfb hn
  rw [hx] at h
  exact (Option.some.inj h).symm

end

/-! ## The order of patterns (R87) -/

/-- A finite magnitude in units of the least subnormal: the fraction, or the significand moved up with the exponent (R67, R68). -/
def binadeUnits (k ex fr : Nat) : Nat := if ex = 0 then fr else (2 ^ k + fr) * 2 ^ (ex - 1)

theorem binadeUnits_lt_next {k x p : Nat} (hp : p < 2 ^ k) : binadeUnits k x p < 2 ^ k * 2 ^ x := by
  rw [binadeUnits]
  cases x with
  | zero => simpa using hp
  | succ x =>
    rw [if_neg (by omega), Nat.add_sub_cancel, Nat.pow_succ, Nat.mul_comm (2 ^ x), ← Nat.mul_assoc]
    exact Nat.mul_lt_mul_of_pos_right (by omega) (Nat.two_pow_pos x)
theorem binadeUnits_ge {k y q : Nat} (hy : y ≠ 0) : 2 ^ k * 2 ^ (y - 1) ≤ binadeUnits k y q := by
  rw [binadeUnits, if_neg hy]
  exact Nat.mul_le_mul_right _ (Nat.le_add_right ..)
theorem binadeUnits_mono {k x y p q : Nat} (hp : p < 2 ^ k) (h : x * 2 ^ k + p < y * 2 ^ k + q) (hq : q < 2 ^ k) :
    binadeUnits k x p < binadeUnits k y q := by
  rcases lt_trichotomy x y with hxy | rfl | hxy
  · calc binadeUnits k x p < 2 ^ k * 2 ^ x := binadeUnits_lt_next hp
      _ ≤ 2 ^ k * 2 ^ (y - 1) := Nat.mul_le_mul_left _ (Nat.pow_le_pow_right (by decide) (by omega))
      _ ≤ binadeUnits k y q := binadeUnits_ge (by omega)
  · have hpq : p < q := by omega
    rw [binadeUnits, binadeUnits]
    split
    · exact hpq
    · exact Nat.mul_lt_mul_of_pos_right (by omega) (Nat.two_pow_pos _)
  · have := Nat.mul_le_mul_right (2 ^ k) (Nat.succ_le_of_lt hxy)
    rw [Nat.succ_mul] at this
    omega
theorem ieeeExp_mag (f : Ieee) (b : Nat) : ieeeExp f b = b % 2 ^ (f.eb + f.fb) / 2 ^ f.fb := by
  rw [Nat.add_comm, Nat.pow_add, Nat.mod_mul_right_div_self]
  rfl
theorem ieeeFrac_mag (f : Ieee) (b : Nat) : ieeeFrac f b = b % 2 ^ (f.eb + f.fb) % 2 ^ f.fb :=
  (Nat.mod_mod_of_dvd b (Nat.pow_dvd_pow 2 (Nat.le_add_left ..))).symm
/-- The units of a finite pattern. -/
def ieeeUnits (f : Ieee) (b : Nat) : Nat := binadeUnits f.fb (ieeeExp f b) (ieeeFrac f b)

theorem ieeeUnits_lt_iff (f : Ieee) (a b : Nat) : ieeeUnits f a < ieeeUnits f b ↔ a % 2 ^ (f.eb + f.fb) < b % 2 ^ (f.eb + f.fb) := by
  have mono : ∀ a b, a % 2 ^ (f.eb + f.fb) < b % 2 ^ (f.eb + f.fb) → ieeeUnits f a < ieeeUnits f b := fun a b h => by
    rw [ieeeMag_fields, ieeeMag_fields] at h
    exact binadeUnits_mono (ieeeFrac_lt f a) h (ieeeFrac_lt f b)
  refine ⟨fun h => ?_, mono a b⟩
  rcases lt_trichotomy (a % 2 ^ (f.eb + f.fb)) (b % 2 ^ (f.eb + f.fb)) with hlt | heq | hgt
  · exact hlt
  · have : ieeeUnits f a = ieeeUnits f b := by simp only [ieeeUnits, ieeeExp_mag, ieeeFrac_mag, heq]
    omega
  · have := mono b a hgt
    omega
theorem ieeeVal_eq_units (f : Ieee) (b : Nat) : ieeeVal f b = dyVal (ieeeSign f b) (ieeeUnits f b) (1 - ieeeBias f - f.fb) := by
  rw [ieeeVal, dyVal, ieeeUnits, binadeUnits]
  by_cases h : ieeeExp f b = 0
  · rw [if_pos h, if_pos h]
  · rw [if_neg h, if_neg h]
    have he : (ieeeExp f b : ℤ) - ieeeBias f - f.fb = ((ieeeExp f b - 1 : ℕ) : ℤ) + (1 - ieeeBias f - f.fb) := by omega
    rw [he, zpow_add₀ two_ne_zero, zpow_natCast]
    push_cast
    ring

theorem exactOf_eq_fin {f : Ieee} {a : Nat} {n : Bool} {u : ℚ} (h : exactOf f a = .fin n u) :
    ieeeFin f a = true ∧ ieeeSign f a = n ∧ ieeeVal f a = u := by
  rw [exactOf] at h
  split at h
  next hf =>
    cases h
    exact ⟨hf, rfl, rfl⟩
  next => cases h
theorem exactOf_eq_inf {f : Ieee} {a : Nat} {n : Bool} (h : exactOf f a = .inf n) : ieeeFin f a = false ∧ ieeeSign f a = n := by
  rw [exactOf] at h
  split at h
  next => cases h
  next hf =>
    cases h
    exact ⟨by simpa using hf, rfl⟩
theorem dyLe_iff (m : Nat) (e : Int) (n : Nat) (g : Int) : dyLe m e n g = true ↔ (m : ℚ) * 2 ^ e ≤ n * 2 ^ g := by
  rw [dyLe]
  rcases le_or_gt g e with h | h
  · have hs : (m : ℚ) * 2 ^ e = (m <<< (e - g).natAbs : ℕ) * 2 ^ g := by simpa [dyVal] using (dyVal_shift false m h).symm
    rw [if_pos h, hs, decide_eq_true_eq, mul_le_mul_iff_left₀ (by positivity), Nat.cast_le]
  · have hs : (n : ℚ) * 2 ^ g = (n <<< (g - e).natAbs : ℕ) * 2 ^ e := by simpa [dyVal] using (dyVal_shift false n h.le).symm
    rw [if_neg (not_le.mpr h), hs, decide_eq_true_eq, mul_le_mul_iff_left₀ (by positivity), Nat.cast_le]
/-- Finite numbers: by sign, and of one sign by value. -/
theorem numLt_fin (x y : Bool) (m n : Nat) (e g : Int) :
    numLt (.fin x m e) (.fin y n g) = true ↔ (x = true ∧ y = false) ∨ (x = y ∧ dyVal x m e < dyVal y n g) := by
  have hle := dyLe_iff m e n g
  have hge := dyLe_iff n g m e
  cases x <;> cases y <;> simp [numLt, dyVal, ← not_le, ← hle, ← hge]
/-- The rank of a pattern orders by sign, and in one sign by the magnitude field. -/
theorem ieeeRank_lt_iff (f : Ieee) (a b : Nat) : ieeeRank f a < ieeeRank f b ↔ (ieeeSign f a = true ∧ ieeeSign f b = false) ∨
    (ieeeSign f a = ieeeSign f b ∧ if ieeeSign f a then b % 2 ^ (f.eb + f.fb) < a % 2 ^ (f.eb + f.fb)
      else a % 2 ^ (f.eb + f.fb) < b % 2 ^ (f.eb + f.fb)) := by
  simp only [ieeeRank]
  generalize a % 2 ^ (f.eb + f.fb) = x
  generalize b % 2 ^ (f.eb + f.fb) = y
  cases ieeeSign f a <;> cases ieeeSign f b <;> grind
theorem ieeeVal_lt_iff {f : Ieee} {a b : Nat} (h : ieeeSign f a = ieeeSign f b) : ieeeVal f a < ieeeVal f b ↔
    if ieeeSign f a then b % 2 ^ (f.eb + f.fb) < a % 2 ^ (f.eb + f.fb) else a % 2 ^ (f.eb + f.fb) < b % 2 ^ (f.eb + f.fb) := by
  have hu : (0 : ℚ) < 2 ^ (1 - ieeeBias f - f.fb) := by positivity
  rw [ieeeVal_eq_units, ieeeVal_eq_units, ← h, ← ieeeUnits_lt_iff, ← ieeeUnits_lt_iff]
  cases ieeeSign f a <;> simp [dyVal, hu]

section
variable {f : Ieee} {a : Nat}

theorem ieeeMag_fin (h : ieeeFin f a = true) : a % 2 ^ (f.eb + f.fb) < (2 ^ f.eb - 1) * 2 ^ f.fb := by
  have he : ieeeExp f a < 2 ^ f.eb := Nat.mod_lt _ (Nat.two_pow_pos _)
  have hne : ieeeExp f a ≠ 2 ^ f.eb - 1 := by simpa [ieeeFin] using h
  have hm := Nat.mul_le_mul_right (2 ^ f.fb) (show ieeeExp f a + 1 ≤ 2 ^ f.eb - 1 by omega)
  have hfr := ieeeFrac_lt f a
  rw [ieeeMag_fields]
  rw [Nat.succ_mul] at hm
  omega
theorem ieeeMag_inf (h : ieeeFin f a = false) (hn : ieeeNan f a = false) : a % 2 ^ (f.eb + f.fb) = (2 ^ f.eb - 1) * 2 ^ f.fb := by
  have he : ieeeExp f a = 2 ^ f.eb - 1 := by simpa [ieeeFin] using h
  have h0 : ieeeFrac f a = 0 := by simpa [ieeeNan, h] using hn
  rw [ieeeMag_fields, he, h0, Nat.add_zero]

end

/-- The machine's order of two elements that are no NaN is that of VMAX and VMIN. -/
theorem numLt_iff_rank {f : Ieee} (heb : 1 ≤ f.eb) (hfb : 1 ≤ f.fb) {a b : Nat} (ha : a < 2 ^ (f.eb + f.fb + 1)) (hb : b < 2 ^ (f.eb + f.fb + 1))
    (hna : ieeeNan f a = false) (hnb : ieeeNan f b = false) :
    numLt (f.num a) (f.num b) = true ↔ ieeeRank f a < ieeeRank f b := by
  rw [ieeeRank_lt_iff]
  obtain ⟨n, m, e, hx, hu, -⟩ | ⟨n, hx, hu, -⟩ := num_cases heb hfb ha hna <;>
    obtain ⟨k, j, g, hy, hv, -⟩ | ⟨k, hy, hv, -⟩ := num_cases heb hfb hb hnb
  · obtain ⟨-, rfl, hua⟩ := exactOf_eq_fin hu
    obtain ⟨-, rfl, hvb⟩ := exactOf_eq_fin hv
    rw [hx, hy, numLt_fin, ← hua, ← hvb]
    exact or_congr_right (and_congr_right fun h => ieeeVal_lt_iff h)
  · obtain ⟨hfa, rfl, -⟩ := exactOf_eq_fin hu
    obtain ⟨hfb, rfl⟩ := exactOf_eq_inf hv
    have hlt := ieeeMag_fin hfa
    rw [hx, hy, ieeeMag_inf hfb hnb]
    cases ieeeSign f a <;> cases ieeeSign f b <;> simp [numLt] <;> omega
  · obtain ⟨hfa, rfl⟩ := exactOf_eq_inf hu
    obtain ⟨hfb, rfl, -⟩ := exactOf_eq_fin hv
    have hlt := ieeeMag_fin hfb
    rw [hx, hy, ieeeMag_inf hfa hna]
    cases ieeeSign f a <;> cases ieeeSign f b <;> simp [numLt] <;> omega
  · obtain ⟨hfa, rfl⟩ := exactOf_eq_inf hu
    obtain ⟨hfb, rfl⟩ := exactOf_eq_inf hv
    rw [hx, hy, ieeeMag_inf hfa hna, ieeeMag_inf hfb hnb]
    cases ieeeSign f a <;> cases ieeeSign f b <;> simp [numLt]

end Sys2Proof.Machine
end

section
/-! SUPPORT. The two-source operations, the steps, the quotient and the square root: the exact value rounded once (R69, R87, R110, R115). -/

namespace Sys2Proof.Machine

/-! ## Roots and quotients as magnitudes -/

theorem dyVal_div (n : Bool) (m : Nat) (e h : Int) : dyVal n m (e - h) = dyVal n m e / 2 ^ h := by
  rw [dyVal, dyVal, zpow_sub₀ two_ne_zero]
  ring
theorem bitLen_ge {k m : Nat} (h : 2 ^ k ≤ m) : k + 1 ≤ bitLen m := by
  have h0 : m ≠ 0 := by have := Nat.two_pow_pos k; omega
  rw [bitLen, if_neg h0]
  exact Nat.succ_le_succ ((Nat.le_log2 h0).mpr h)
/-- The root by bits is the largest whose square is at most the number. -/
theorem isqrt_spec (n k r : Nat) (h1 : r * r ≤ n) (h2 : n < (r + 2 ^ k) * (r + 2 ^ k)) :
    isqrt n k r * isqrt n k r ≤ n ∧ n < (isqrt n k r + 1) * (isqrt n k r + 1) := by
  induction k generalizing r with
  | zero => exact ⟨h1, h2⟩
  | succ k ih =>
    rw [isqrt]
    split
    next h => exact ih _ h (by rwa [Nat.add_assoc, ← Nat.two_mul, ← Nat.pow_succ'])
    next h => exact ih _ h1 (Nat.not_le.mp h)
/-- A magnitude known by its whole units, with `more` where it has more than them. -/
theorem names_of_floor {m : Nat} {e : Int} {more : Bool} {v : ℝ} (h1 : m * (2 : ℝ) ^ e ≤ v) (h2 : v < (m + 1) * (2 : ℝ) ^ e)
    (hm : more = false ↔ v = m * (2 : ℝ) ^ e) : Mag.names ⟨m, e, more⟩ v := by
  rw [Mag.names]
  cases more with
  | false => exact hm.mp rfl
  | true => exact ⟨lt_of_le_of_ne h1 fun h => by simpa using hm.mpr h.symm, h2⟩
theorem names_sqrt {r v : Nat} (e : Int) (h1 : r * r ≤ v) (h2 : v < (r + 1) * (r + 1)) :
    Mag.names ⟨r, e, decide (r * r ≠ v)⟩ (Real.sqrt v * 2 ^ e) := by
  have hu : (0 : ℝ) < 2 ^ e := by positivity
  have hle : (r : ℝ) ≤ Real.sqrt v := Real.le_sqrt_of_sq_le (by rw [sq]; exact_mod_cast h1)
  have hlt : Real.sqrt v < r + 1 := by
    rw [Real.sqrt_lt' (by positivity), sq]
    exact_mod_cast h2
  refine names_of_floor (mul_le_mul_of_nonneg_right hle hu.le) (mul_lt_mul_of_pos_right hlt hu) ?_
  rw [mul_left_inj' hu.ne', Real.sqrt_eq_iff_mul_self_eq (by positivity) (by positivity), decide_eq_false_iff_not, not_not]
  norm_cast
  exact eq_comm
theorem sqrt_dyVal {m k : Nat} {e h : Int} (hh : 2 * h = e - k) :
    Real.sqrt ((dyVal false m e : ℚ) : ℝ) = Real.sqrt (m <<< k : ℕ) * 2 ^ h := by
  have hv : ((dyVal false m e : ℚ) : ℝ) = (m <<< k : ℕ) * (2 ^ h * 2 ^ h) := by
    have he : e = (k : ℤ) + (h + h) := by omega
    rw [dyVal, he, zpow_add₀ two_ne_zero, zpow_natCast, zpow_add₀ two_ne_zero, Nat.shiftLeft_eq]
    push_cast
    simp
    ring
  rw [hv, Real.sqrt_mul (by positivity), Real.sqrt_mul_self (by positivity)]
theorem names_quotient {m n k : Nat} (e : Int) (hn : n ≠ 0) :
    Mag.names ⟨(m <<< k) / n, e - k, decide ((m <<< k) / n * n ≠ m <<< k)⟩ (m / n * 2 ^ e) := by
  have hu : (0 : ℝ) < 2 ^ (e - k) := by positivity
  have hn0 : (0 : ℝ) < n := by positivity
  have hv : (m : ℝ) / n * 2 ^ e = ((m <<< k : ℕ) : ℝ) / n * 2 ^ (e - k) := by
    have he : e = (k : ℤ) + (e - k) := by ring
    conv_lhs => rw [he, zpow_add₀ two_ne_zero, zpow_natCast]
    rw [Nat.shiftLeft_eq]
    push_cast
    ring
  rw [hv]
  have hle : (((m <<< k) / n : ℕ) : ℝ) ≤ ((m <<< k : ℕ) : ℝ) / n := Nat.cast_div_le
  have hlt : ((m <<< k : ℕ) : ℝ) / n < ((m <<< k) / n : ℕ) + 1 := by
    rw [div_lt_iff₀ hn0]
    exact_mod_cast Nat.lt_mul_of_div_lt (Nat.lt_succ_self _) (by omega)
  refine names_of_floor (mul_le_mul_of_nonneg_right hle hu.le) (mul_lt_mul_of_pos_right hlt hu) ?_
  rw [mul_left_inj' hu.ne', div_eq_iff hn0.ne', decide_eq_false_iff_not, not_not, eq_comm]
  norm_cast

/-! ## Rounded quotients and roots -/

section
variable {f : Ieee} (h52 : f.fb ≤ 52)
include h52

/-- The quotient to 160 places has more of them than a format, where it is not exact. -/
theorem quotient_places {m n : Nat} (hn : n < 2 ^ (f.fb + 1)) (hn0 : n ≠ 0) (hm : m ≠ 0) :
    f.fb + 2 ≤ bitLen ((m <<< 160) / n) := by
  have hn53 : n ≤ 2 ^ 53 := hn.le.trans (Nat.pow_le_pow_right (by decide) (by omega))
  have hm1 : 2 ^ 160 ≤ m <<< 160 := by
    rw [Nat.shiftLeft_eq]
    exact Nat.le_mul_of_pos_left _ (by omega)
  have hq : 2 ^ 107 ≤ (m <<< 160) / n := by
    rw [Nat.le_div_iff_mul_le (by omega)]
    calc 2 ^ 107 * n ≤ 2 ^ 107 * 2 ^ 53 := Nat.mul_le_mul_left _ hn53
      _ ≤ m <<< 160 := hm1
  have := bitLen_ge hq
  omega

section
variable (h2 : 2 ≤ f.eb) (h7 : 7 ≤ f.fb)
include h2 h7

theorem roundIeee_quotient {x y : Bool} {m n : Nat} (e g : Int) (hn : n < 2 ^ (f.fb + 1)) (hn0 : n ≠ 0) :
    RoundsTo f ((dyVal x m e / dyVal y n g : ℚ) : ℝ) (x != y)
      (roundIeee f (x != y) ⟨(m <<< 160) / n, e - g - 160, decide ((m <<< 160) / n * n ≠ m <<< 160)⟩) := by
  have hnames := names_quotient (m := m) (k := 160) (e - g) hn0
  have hr := roundIeee_roundsTo f h2 (by omega) (x != y) _ _ hnames fun hmore => by
    refine quotient_places h52 hn hn0 fun hm => ?_
    simp [hm] at hmore
  have hv : ((dyVal x m e / dyVal y n g : ℚ) : ℝ) = (if (x != y) = true then -1 else 1) * (m / n * 2 ^ (e - g)) := by
    rw [dyVal, dyVal, zpow_sub₀ two_ne_zero]
    cases x <;> cases y <;> simp <;> ring
  rw [hv]
  exact hr
/-- The root of a number of 120 places and more has more places than a format. -/
theorem roundIeee_root {v : Nat} (h : Int) (hv : 2 ^ 120 ≤ v) (hlt : v < 2 ^ 192) :
    RoundsTo f (Real.sqrt v * 2 ^ h) false (roundIeee f false ⟨isqrt v 96 0, h, decide (isqrt v 96 0 * isqrt v 96 0 ≠ v)⟩) := by
  obtain ⟨hle, hgt⟩ := isqrt_spec v 96 0 (by omega) (by simpa using hlt)
  generalize isqrt v 96 0 = r at hle hgt
  have hr : 2 ^ 60 ≤ r := by
    by_contra hc
    have : (r + 1) * (r + 1) ≤ 2 ^ 60 * 2 ^ 60 := Nat.mul_le_mul (by omega) (by omega)
    omega
  have hplaces := bitLen_ge hr
  have := roundIeee_roundsTo f h2 (by omega) false _ _ (names_sqrt h hle hgt) fun _ => by show f.fb + 2 ≤ bitLen r; omega
  simpa using this

end
end

/-! ## The rule of NaN operands -/

/-- An operation's own rule holds where no operand is a NaN, and R69's where one is. -/
theorem withNans_of {f : Ieee} (heb : 1 ≤ f.eb) (hfb : 1 ≤ f.fb) {l : List Nat} (hl : ∀ b ∈ l, b < 2 ^ (f.eb + f.fb + 1)) {r alt : Nat × FlagBits}
    (hr : r = (propagate f (l.map f.num)).getD alt) (rule : Nat × FlagBits → Prop) (h : (∀ b ∈ l, ieeeNan f b = false) → rule alt) :
    WithNans f l false r (rule r) := by
  subst hr
  refine propagate_withNans f heb hfb l hl alt _ fun hn => ?_
  have hfind : l.find? (ieeeNan f) = none := by simpa using hn
  rw [propagate_eq heb hfb l hl, hfind]
  exact h hn

/-! ## What the results are, by the exact values of the operands -/

/-- The steps (`q` - x·y) / `d`: 1 where an operand is a zero or an infinity (R115). -/
def StepRule (f : Ieee) (q d : ℚ) (x y : Exact) (r : Nat × FlagBits) : Prop :=
  match x, y with
  | .fin _ u, .fin _ v => if u = 0 ∨ v = 0 then r = (f.one, 0) else RoundsTo f (((q - u * v) / d : ℚ) : ℝ) false r
  | _, _ => r = (f.one, 0)
/-- The quotient (R115). -/
def DivRule (f : Ieee) (x y : Exact) (r : Nat × FlagBits) : Prop :=
  match x, y with
  | .fin m u, .fin n v => if v = 0 then r = (if u = 0 then (ieeeDefault f, 1) else (ieeeInfinity f (m != n), 2))
    else RoundsTo f ((u / v : ℚ) : ℝ) (m != n) r
  | .inf m, .fin n _ => r = (ieeeInfinity f (m != n), 0)
  | .fin m _, .inf n => r = (if m != n then 2 ^ (f.eb + f.fb) else 0, 0)
  | .inf _, .inf _ => r = (ieeeDefault f, 1)
/-- The square root of the pattern `a` (R110, R114). -/
def SqrtRule (f : Ieee) (a : Nat) (x : Exact) (r : Nat × FlagBits) : Prop :=
  match x with
  | .fin n u => if u = 0 then r = (a, 0) else if n then r = (ieeeDefault f, 1) else RoundsTo f (Real.sqrt (u : ℝ)) false r
  | .inf n => r = if n then (ieeeDefault f, 1) else (a, 0)

section
variable {f : Ieee} (h2 : 2 ≤ f.eb) (h7 : 7 ≤ f.fb) {a b : Nat} (ha : a < 2 ^ (f.eb + f.fb + 1)) (hb : b < 2 ^ (f.eb + f.fb + 1))
include h2 h7 ha hb

theorem two_withNans {r alt : Nat × FlagBits} (hr : r = (propagate f [f.num a, f.num b]).getD alt) (rule : Nat × FlagBits → Prop)
    (h : ieeeNan f a = false → ieeeNan f b = false → rule alt) : WithNans f [a, b] false r (rule r) :=
  withNans_of (by omega) (by omega) (l := [a, b]) (by simp [ha, hb]) hr rule fun hn => h (hn a (by simp)) (hn b (by simp))

/-! ## Sums, products, the larger and the smaller -/

theorem fpAdd_rounds : WithNans f [a, b] false (fpAdd f a b) (SumRounds f (some (exactOf f a)) (some (exactOf f b)) (fpAdd f a b)) :=
  two_withNans h2 h7 ha hb rfl _ fun hna hnb =>
    fpAddNum_sum h2 (by omega) (num_exact (by omega) (by omega) hna) (num_exact (by omega) (by omega) hnb)
theorem fpSub_rounds : WithNans f [a, b] false (fpSub f a b) (SumRounds f (some (exactOf f a)) (some (exactOf f b).opp) (fpSub f a b)) :=
  two_withNans h2 h7 ha hb rfl _ fun hna hnb =>
    fpAddNum_sum h2 (by omega) (num_exact (by omega) (by omega) hna) (negate_exact (num_exact (by omega) (by omega) hnb))
theorem fpMul_rounds : WithNans f [a, b] false (fpMul f a b) (ProductRounds f ((exactOf f a).times (exactOf f b)) (fpMul f a b)) :=
  two_withNans h2 h7 ha hb rfl _ fun hna hnb => by
    obtain ⟨hm, ht⟩ | ⟨c, e, hm, ht, hc⟩ := mulNum_exact (num_exact (by omega) (by omega) hna) (num_exact (by omega) (by omega) hnb)
    · rw [hm, ht]
      rfl
    · rw [hm, ht]
      exact roundNum_product h2 (by omega) hc
theorem fpMax_rank : WithNans f [a, b] false (fpMax f a b) (fpMax f a b = (if ieeeRank f a < ieeeRank f b then b else a, 0)) :=
  two_withNans h2 h7 ha hb rfl (· = (if ieeeRank f a < ieeeRank f b then b else a, 0)) fun hna hnb => by
    simp only [numLt_iff_rank (by omega) (by omega) ha hb hna hnb]
    split <;> rfl
theorem fpMin_rank : WithNans f [a, b] false (fpMin f a b) (fpMin f a b = (if ieeeRank f b < ieeeRank f a then b else a, 0)) :=
  two_withNans h2 h7 ha hb rfl (· = (if ieeeRank f b < ieeeRank f a then b else a, 0)) fun hna hnb => by
    simp only [numLt_iff_rank (by omega) (by omega) hb ha hnb hna]
    split <;> rfl

/-! ## The refinement steps (R115) -/

theorem fpStep_rounds {c : Nat} {h : Int} {q d : ℚ} (hq : (c : ℚ) = q) (hd : (2 : ℚ) ^ h = d) :
    WithNans f [a, b] false (fpStep f c h a b) (StepRule f q d (exactOf f a) (exactOf f b) (fpStep f c h a b)) :=
  two_withNans h2 h7 ha hb rfl (StepRule f q d (exactOf f a) (exactOf f b)) fun hna hnb => by
    subst hq hd
    obtain ⟨x, m, e, hx, hu, -⟩ | ⟨x, hx, hu, -⟩ := num_cases (by omega) (by omega) ha hna <;>
      obtain ⟨y, n, g, hy, hv, -⟩ | ⟨y, hy, hv, -⟩ := num_cases (by omega) (by omega) hb hnb <;> rw [hx, hy, hu, hv]
    · simp only [StepRule, dyVal_eq_zero, Num.isZero, Num.isInf, Bool.or_false]
      by_cases h0 : m = 0 ∨ n = 0
      · rw [if_pos h0, if_pos (by simpa using h0)]
      · rw [if_neg h0, if_neg (by simpa using h0)]
        obtain ⟨hval, hsign⟩ := addExact_value false c 0 (x == y) (m * n) (e + g)
        have hc : dyVal false c 0 + dyVal (x == y) (m * n) (e + g) = c - dyVal x m e * dyVal y n g := by
          rw [show (x == y) = !(x != y) from (Bool.not_not _).symm, dyVal_not, dyVal_mul, dyVal]
          simp [sub_eq_add_neg]
        generalize addExact false c 0 (x == y) (m * n) (e + g) = r at hval hsign
        have hr := roundIeee_exact h2 (by omega) r.1 r.2.1 (r.2.2 - h)
        rw [dyVal_div, hval, hc] at hr
        refine roundsTo_of_sign hr fun hz => ?_
        have hz : (c - dyVal x m e * dyVal y n g) / (2 : ℚ) ^ h = 0 := Rat.cast_eq_zero.mp hz
        rw [div_eq_zero_iff, or_iff_left (zpow_ne_zero _ two_ne_zero)] at hz
        exact hsign (hc.trans hz)
    · simp [StepRule, Num.isInf]
    · simp [StepRule, Num.isInf]
    · simp [StepRule, Num.isInf]

/-! ## The quotient (R115) -/

theorem fpDiv_rounds (h52 : f.fb ≤ 52) :
    WithNans f [a, b] false (fpDiv f a b) (DivRule f (exactOf f a) (exactOf f b) (fpDiv f a b)) :=
  two_withNans h2 h7 ha hb rfl (DivRule f (exactOf f a) (exactOf f b)) fun hna hnb => by
    obtain ⟨x, m, e, hx, hu, -⟩ | ⟨x, hx, hu, -⟩ := num_cases (by omega) (by omega) ha hna <;>
      obtain ⟨y, n, g, hy, hv, hn, -⟩ | ⟨y, hy, hv, -⟩ := num_cases (by omega) (by omega) hb hnb <;> rw [hx, hy, hu, hv]
    · simp only [DivRule, dyVal_eq_zero]
      by_cases hn0 : n = 0
      · rw [if_pos hn0, if_pos hn0]
        split <;> rfl
      · rw [if_neg hn0, if_neg hn0]
        exact roundIeee_quotient h52 h2 h7 e g hn hn0
    · rfl
    · rfl
    · rfl

end

/-! ## The square root (R110, R114) -/

section
variable {f : Ieee} (h2 : 2 ≤ f.eb) (h7 : 7 ≤ f.fb) {a : Nat} (ha : a < 2 ^ (f.eb + f.fb + 1))
include h2 h7 ha

theorem one_withNans {r alt : Nat × FlagBits} (hr : r = (propagate f [f.num a]).getD alt) (rule : Nat × FlagBits → Prop)
    (h : ieeeNan f a = false → rule alt) : WithNans f [a] false r (rule r) :=
  withNans_of (by omega) (by omega) (l := [a]) (by simp [ha]) hr rule fun hn => h (hn a (by simp))
theorem fpSqrt_rounds (h52 : f.fb ≤ 52) : WithNans f [a] false (fpSqrt f a) (SqrtRule f a (exactOf f a) (fpSqrt f a)) :=
  one_withNans h2 h7 ha rfl (SqrtRule f a (exactOf f a)) fun hna => by
    obtain ⟨n, m, e, hx, hu, hm, hz⟩ | ⟨n, hx, hu, hinf⟩ := num_cases (by omega) (by omega) ha hna <;> rw [hx, hu]
    · simp only [SqrtRule, dyVal_eq_zero]
      by_cases h0 : m = 0
      · rw [if_pos h0, if_pos h0, ← hz h0]
      · rw [if_neg h0, if_neg h0]
        cases n with
        | true => rfl
        | false =>
          have hm1 : 1 ≤ m := by omega
          have hm53 : m < 2 ^ 53 := hm.trans_le (Nat.pow_le_pow_right (by decide) (by omega))
          by_cases he : e % 2 = 0
          · simp only [if_pos he, Bool.false_eq_true, if_false]
            rw [sqrt_dyVal (k := 120) (h := (e - 120) / 2) (by omega)]
            exact roundIeee_root h52 h2 h7 _ (by omega) (by omega)
          · simp only [if_neg he, Bool.false_eq_true, if_false]
            rw [sqrt_dyVal (k := 121) (h := (e - 121) / 2) (by omega)]
            exact roundIeee_root h52 h2 h7 _ (by omega) (by omega)
    · cases n with
      | true => rfl
      | false => exact congrArg (·, 0) hinf.symm

end

end Sys2Proof.Machine
end

section
/-! SUPPORT. The reciprocal and reciprocal square-root estimates (R112 to R114). -/

namespace Sys2Proof.Machine

/-! ## Leading places -/

theorem bitLen_sub_one {m : Nat} (hm : m ≠ 0) : bitLen m - 1 = Nat.log2 m := by rw [bitLen, if_neg hm, Nat.add_sub_cancel]
theorem abs_dyVal (n : Bool) (m : Nat) (e : Int) : |dyVal n m e| = m * (2 : ℚ) ^ e := by
  have h : (0 : ℚ) ≤ m * 2 ^ e := by positivity
  cases n
  · simp [dyVal, abs_of_nonneg h]
  · simp [dyVal, abs_of_nonneg h]
theorem log_dyVal (n : Bool) {m : Nat} (e : Int) (hm : m ≠ 0) : Int.log 2 |dyVal n m e| = e + (bitLen m - 1 : ℕ) := by
  have hpos : (0 : ℚ) < m * 2 ^ e := by positivity
  have hlo : ((2 ^ Nat.log2 m : ℕ) : ℚ) ≤ m := by exact_mod_cast Nat.log2_self_le hm
  have hhi : (m : ℚ) < ((2 ^ (Nat.log2 m + 1) : ℕ) : ℚ) := by exact_mod_cast Nat.lt_log2_self
  have hu : (0 : ℚ) < 2 ^ e := by positivity
  rw [abs_dyVal, bitLen_sub_one hm]
  refine le_antisymm ?_ ?_
  · rw [← Int.lt_add_one_iff, ← Int.lt_zpow_iff_log_lt one_lt_two hpos, Nat.cast_ofNat, add_assoc, zpow_add₀ two_ne_zero, mul_comm]
    refine mul_lt_mul_of_pos_left (hhi.trans_eq ?_) hu
    push_cast
    exact (zpow_natCast 2 _).symm
  · rw [← Int.zpow_le_iff_le_log one_lt_two hpos, Nat.cast_ofNat, zpow_add₀ two_ne_zero, mul_comm]
    refine mul_le_mul_of_nonneg_right (le_trans (le_of_eq ?_) hlo) hu.le
    push_cast
    exact zpow_natCast 2 _
/-- The first places of a number, by whole units. -/
theorem floor_places (n : Bool) (m s l : Nat) (e : Int) : ⌊|dyVal n m e| * (2 : ℚ) ^ ((s : Int) - (e + l))⌋ = (((m <<< s) >>> l : ℕ) : ℤ) := by
  have hx : |dyVal n m e| * (2 : ℚ) ^ ((s : Int) - (e + l)) = ((m <<< s : ℕ) : ℚ) / ((2 ^ l : ℕ) : ℚ) := by
    have hu : (2 : ℚ) ^ e ≠ 0 := zpow_ne_zero _ two_ne_zero
    rw [abs_dyVal, zpow_sub₀ two_ne_zero, zpow_add₀ two_ne_zero, zpow_natCast, zpow_natCast, Nat.shiftLeft_eq]
    push_cast
    field_simp
  rw [hx, Rat.floor_natCast_div_natCast, Nat.shiftRight_eq_div_pow]
  norm_cast
theorem places_bounds {m l : Nat} (s : Nat) (hl : l = bitLen m - 1) (hm : m ≠ 0) : 2 ^ s ≤ (m <<< s) >>> l ∧ (m <<< s) >>> l < 2 ^ (s + 1) := by
  rw [bitLen_sub_one hm] at hl
  subst hl
  have hlo := Nat.log2_self_le hm
  have hhi : m < 2 ^ (Nat.log2 m + 1) := Nat.lt_log2_self
  rw [Nat.shiftRight_eq_div_pow, Nat.shiftLeft_eq, Nat.le_div_iff_mul_le (Nat.two_pow_pos _), Nat.div_lt_iff_lt_mul (Nat.two_pow_pos _)]
  constructor
  · rw [Nat.mul_comm]
    exact Nat.mul_le_mul_right _ hlo
  · calc m * 2 ^ s < 2 ^ (Nat.log2 m + 1) * 2 ^ s := Nat.mul_lt_mul_of_pos_right hhi (Nat.two_pow_pos s)
      _ = 2 ^ (s + 1) * 2 ^ Nat.log2 m := by ring

/-! ## The table values -/

/-- The nearest whole number to a quotient of whole numbers. -/
theorem round_quotient (p q : Nat) (hq : q ≠ 0) : round ((p : ℚ) / q) = (((2 * p + q) / (2 * q) : ℕ) : ℤ) := by
  have h : (p : ℚ) / q + 1 / 2 = ((2 * p + q : ℕ) : ℚ) / ((2 * q : ℕ) : ℚ) := by
    have : (q : ℚ) ≠ 0 := by exact_mod_cast hq
    push_cast
    field_simp
  rw [round_eq, h, Rat.floor_natCast_div_natCast]
  norm_cast
/-- The nearest whole number to a root is had from the root of four times the number, to its whole units. -/
theorem half_root_near {y : ℝ} {n : Nat} (h1 : (n : ℝ) ≤ y) (h2 : y < n + 1) (hn : n < 2 ^ 40) :
    |(((isqrt n 20 0 + 1) / 2 : ℕ) : ℝ) - Real.sqrt y / 2| ≤ 1 / 2 := by
  obtain ⟨hle, hgt⟩ := isqrt_spec n 20 0 (by omega) (by simpa using hn)
  generalize isqrt n 20 0 = s at hle hgt
  have hlo : (s : ℝ) ≤ Real.sqrt y := Real.le_sqrt_of_sq_le (by
    rw [sq]
    exact le_trans (by exact_mod_cast hle) h1)
  have hhi : Real.sqrt y < s + 1 := by
    rw [Real.sqrt_lt' (by positivity), sq]
    exact h2.trans_le (by exact_mod_cast hgt)
  obtain ⟨j, rfl | rfl⟩ := Nat.even_or_odd' s
  · rw [show (2 * j + 1) / 2 = j by omega, abs_le]
    push_cast at hlo hhi
    constructor <;> linarith
  · rw [show (2 * j + 1 + 1) / 2 = j + 1 by omega, abs_le]
    push_cast at hlo hhi ⊢
    constructor <;> linarith
/-- The reciprocal of a root of `k` places and a half, as a whole number of units of 2^-12, to the nearest. -/
theorem rsqe_table (k : Nat) : |((((isqrt (2 ^ 37 / (2 * k + 1)) 20 0 + 1) / 2 : ℕ) : ℤ) : ℝ) -
    (2 : ℝ) ^ 12 / Real.sqrt ((((k : ℤ) + 1 / 2) / 2 ^ 10 : ℚ) : ℝ)| ≤ 1 / 2 := by
  have hq : (0 : ℝ) < (2 * k + 1 : ℕ) := by positivity
  have hn : 2 ^ 37 / (2 * k + 1) < 2 ^ 40 := (Nat.div_le_self _ _).trans_lt (by norm_num)
  have hhi : ((2 ^ 37 : ℕ) : ℝ) / (2 * k + 1 : ℕ) < (2 ^ 37 / (2 * k + 1) : ℕ) + 1 := by
    rw [div_lt_iff₀ hq]
    exact_mod_cast Nat.lt_mul_of_div_lt (Nat.lt_succ_self _) (by omega)
  have hroot : (2 : ℝ) ^ 12 / Real.sqrt ((((k : ℤ) + 1 / 2) / 2 ^ 10 : ℚ) : ℝ) = Real.sqrt (((2 ^ 37 : ℕ) : ℝ) / (2 * k + 1 : ℕ)) / 2 := by
    have hy : ((2 ^ 37 : ℕ) : ℝ) / (2 * k + 1 : ℕ) = (2 ^ 13 * 2 ^ 13) / ((((k : ℤ) + 1 / 2) / 2 ^ 10 : ℚ) : ℝ) := by
      push_cast
      field_simp
      norm_num
    rw [hy, Real.sqrt_div (by positivity), Real.sqrt_mul_self (by positivity)]
    ring
  rw [hroot, Int.cast_natCast]
  exact half_root_near Nat.cast_div_le hhi hn

/-! ## The estimates -/

/-- An estimate is its table value rounded once, with the flags of an overflow or an underflow alone (R113). -/
def EstimateOf (f : Ieee) (v : ℝ) (r : Nat × FlagBits) : Prop :=
  ∃ fl : FlagBits, RoundsTo f v false (r.1, fl) ∧ r.2 = if fl &&& 12 = 0 then 0 else fl

/-- The reciprocal estimate: the table value of the first 12 places of the significand (R112, R114). -/
def RcpeRule (f : Ieee) (x : Exact) (r : Nat × FlagBits) : Prop :=
  match x with
  | .fin n u => if u = 0 then r = (ieeeInfinity f n, 0) else
    let e := Int.log 2 |u|
    let m : ℚ := (⌊|u| * (2 : ℚ) ^ (11 - e)⌋ + 1 / 2) / 2 ^ 11
    let g : ℤ := round ((2 : ℚ) ^ 12 / m)
    EstimateOf f ((if n then -1 else 1) * g / 2 ^ 12 * (2 : ℝ) ^ (-e)) r
  | .inf n => r = (if n then 2 ^ (f.eb + f.fb) else 0, 0)
/-- The reciprocal square-root estimate (R113, R114). -/
def RsqeRule (f : Ieee) (x : Exact) (r : Nat × FlagBits) : Prop :=
  match x with
  | .fin n u => if u = 0 then r = (ieeeInfinity f n, 0) else if n then r = (ieeeDefault f, 1) else
    let h := Int.log 2 |u| / 2
    let m : ℚ := (⌊|u| * (2 : ℚ) ^ (10 - 2 * h)⌋ + 1 / 2) / 2 ^ 10
    ∃ g : ℤ, |(g : ℝ) - (2 : ℝ) ^ 12 / Real.sqrt (m : ℝ)| ≤ 1 / 2 ∧ EstimateOf f ((g : ℝ) / 2 ^ 12 * (2 : ℝ) ^ (-h)) r
  | .inf n => r = if n then (ieeeDefault f, 1) else (0, 0)

theorem estFlags_estimate {f : Ieee} {v : ℝ} {n : Bool} {r : Nat × FlagBits} (h : RoundsTo f v n r) (hn : v = 0 → n = false) :
    EstimateOf f v (estFlags r) := ⟨r.2, roundsTo_of_sign h hn, rfl⟩

theorem table_value (n : Bool) (r : Nat) (h : Int) :
    ((dyVal n r (-12 - h) : ℚ) : ℝ) = (if n then -1 else 1) * ((r : ℤ) : ℝ) / 2 ^ 12 * (2 : ℝ) ^ (-h) := by
  rw [dyVal, sub_eq_add_neg, zpow_add₀ two_ne_zero]
  cases n <;> push_cast <;> norm_num <;> ring

section
variable {f : Ieee} (h2 : 2 ≤ f.eb) (h7 : 7 ≤ f.fb)
include h2 h7

theorem rsqe_rounded {m s : Nat} {e h : Int} (hs : 10 - 2 * h = s - (e + (bitLen m - 1 : ℕ))) : ∃ g : ℤ,
    |(g : ℝ) - (2 : ℝ) ^ 12 / Real.sqrt (((⌊|dyVal false m e| * (2 : ℚ) ^ (10 - 2 * h)⌋ + 1 / 2) / 2 ^ 10 : ℚ) : ℝ)| ≤ 1 / 2 ∧
    EstimateOf f ((g : ℝ) / 2 ^ 12 * (2 : ℝ) ^ (-h)) (estFlags (roundIeee f false
      ⟨(isqrt (2 ^ 37 / (2 * ((m <<< s) >>> (bitLen m - 1)) + 1)) 20 0 + 1) / 2, -12 - h, false⟩)) := by
  rw [hs, floor_places]
  refine ⟨_, rsqe_table _, ?_⟩
  have hr := roundIeee_exact h2 (by omega) false
    ((isqrt (2 ^ 37 / (2 * ((m <<< s) >>> (bitLen m - 1)) + 1)) 20 0 + 1) / 2) (-12 - h)
  rw [table_value, if_neg Bool.false_ne_true, one_mul] at hr
  exact estFlags_estimate hr fun _ => rfl

variable {a : Nat} (ha : a < 2 ^ (f.eb + f.fb + 1))
include ha

theorem fpRcpe_estimate : WithNans f [a] false (fpRcpe f a) (RcpeRule f (exactOf f a) (fpRcpe f a)) :=
  one_withNans h2 h7 ha rfl (RcpeRule f (exactOf f a)) fun hna => by
    obtain ⟨n, m, e, hx, hu, -⟩ | ⟨n, hx, hu, -⟩ := num_cases (by omega) (by omega) ha hna <;> rw [hx, hu]
    · simp only [RcpeRule, dyVal_eq_zero]
      by_cases h0 : m = 0
      · rw [if_pos h0, if_pos h0]
        rfl
      · rw [if_neg h0, if_neg h0, log_dyVal n e h0]
        obtain ⟨hlo, hhi⟩ := places_bounds 11 rfl h0
        have hfl := floor_places n m 11 (bitLen m - 1) e
        rw [Nat.cast_ofNat] at hfl
        rw [hfl]
        generalize (m <<< 11) >>> (bitLen m - 1) = k at hlo hhi
        have hg : round ((2 : ℚ) ^ 12 / (((k : ℤ) + 1 / 2) / 2 ^ 11)) = (((2 ^ 25 + (2 * k + 1)) / (2 * (2 * k + 1)) : ℕ) : ℤ) := by
          have hq : (2 : ℚ) ^ 12 / (((k : ℤ) + 1 / 2) / 2 ^ 11) = ((2 ^ 24 : ℕ) : ℚ) / ((2 * k + 1 : ℕ) : ℚ) := by
            push_cast
            field_simp
            norm_num
          rw [hq, round_quotient _ _ (by omega), show 2 * 2 ^ 24 = 2 ^ 25 from rfl]
        simp only [hg]
        have hr0 : (2 ^ 25 + (2 * k + 1)) / (2 * (2 * k + 1)) ≠ 0 := by
          rw [Nat.div_ne_zero_iff]
          omega
        generalize (2 ^ 25 + (2 * k + 1)) / (2 * (2 * k + 1)) = r at hr0
        have hr := roundIeee_exact h2 (by omega) n r (-12 - (e + (bitLen m - 1 : ℕ)))
        have hv := table_value n r (e + (bitLen m - 1 : ℕ))
        rw [hv] at hr
        exact estFlags_estimate hr fun hz => absurd (Rat.cast_eq_zero.mp (hv.trans hz)) (mt (dyVal_eq_zero ..).mp hr0)
    · rfl
theorem fpRsqe_estimate : WithNans f [a] false (fpRsqe f a) (RsqeRule f (exactOf f a) (fpRsqe f a)) :=
  one_withNans h2 h7 ha rfl (RsqeRule f (exactOf f a)) fun hna => by
    obtain ⟨n, m, e, hx, hu, -⟩ | ⟨n, hx, hu, -⟩ := num_cases (by omega) (by omega) ha hna <;> rw [hx, hu]
    · simp only [RsqeRule, dyVal_eq_zero]
      by_cases h0 : m = 0
      · rw [if_pos h0, if_pos h0]
        rfl
      · rw [if_neg h0, if_neg h0, log_dyVal n e h0]
        cases n with
        | true => rfl
        | false =>
          simp only [Bool.false_eq_true, if_false]
          by_cases he : (e + (bitLen m - 1 : ℕ)) % 2 = 0
          · simp only [he, ne_eq, not_true_eq_false, if_false]
            exact rsqe_rounded h2 h7 (s := 10) (by omega)
          · simp only [he, ne_eq, not_false_eq_true, if_true]
            rw [show (e + (bitLen m - 1 : ℕ) - 1) / 2 = (e + (bitLen m - 1 : ℕ)) / 2 by omega]
            exact rsqe_rounded h2 h7 (s := 11) (by omega)
    · cases n <;> rfl

end

end Sys2Proof.Machine
end

section
/-! SUPPORT. The special functions where their values are exact or special (R114). -/

namespace Sys2Proof.Machine

/-! ## What the results are, by the exact value of the operand (R114) -/

/-- VSIN and VCOS where their values are exact or out of range: `z` is the value at a zero. -/
def RangeRule (f : Ieee) (z : Nat × FlagBits) (x : Exact) (r : Nat × FlagBits) : Prop :=
  match x with
  | .fin _ u => (u = 0 → r = z) ∧ (2 ^ 16 < |u| → r = (ieeeDefault f + 1, 64))
  | .inf _ => r = (ieeeDefault f + 1, 64)
/-- VEXP2 of a whole number, and of an infinity whose pattern is `a`. -/
def Exp2Rule (f : Ieee) (a : Nat) (x : Exact) (r : Nat × FlagBits) : Prop :=
  match x with
  | .fin _ u => ∀ n : ℤ, u = n → RoundsTo f ((2 : ℝ) ^ n) false r
  | .inf n => r = if n then (0, 0) else (a, 0)
/-- VLOG2 of a zero, a negative number, a power of two, and an infinity whose pattern is `a`. -/
def Log2Rule (f : Ieee) (a : Nat) (x : Exact) (r : Nat × FlagBits) : Prop :=
  match x with
  | .fin n u => (u = 0 → r = (ieeeInfinity f true, 2)) ∧ (u ≠ 0 → n = true → r = (ieeeDefault f, 1)) ∧
    (∀ e : ℤ, u = (2 : ℚ) ^ e → RoundsTo f (e : ℝ) false r)
  | .inf n => r = if n then (ieeeDefault f, 1) else (a, 0)

/-! ## The sign bit (R87) -/

theorem xor_top_bit {w a : Nat} (ha : a < 2 * 2 ^ w) : a ^^^ 2 ^ w = (a + 2 ^ w) % (2 * 2 ^ w) := by
  rw [← Nat.pow_succ'] at ha ⊢
  refine Nat.eq_of_testBit_eq fun i => ?_
  rw [Nat.testBit_xor, Nat.testBit_two_pow, Nat.testBit_mod_two_pow, Nat.add_comm]
  rcases lt_trichotomy i w with h | rfl | h
  · simp [Nat.testBit_two_pow_add_gt h, h.ne', show i < w + 1 by omega]
  · simp [Nat.testBit_two_pow_add_eq]
  · have hbit : a.testBit i = false := Nat.testBit_lt_two_pow (ha.trans_le (Nat.pow_le_pow_right (by decide) h))
    simp [hbit, h.ne, show ¬ i < w + 1 by omega]

/-! ## Powers of two -/

theorem ieeeBias_le {f : Ieee} (h11 : f.eb ≤ 11) : ieeeBias f ≤ 1023 := by
  have h : (2 : Int) ^ (f.eb - 1) ≤ 2 ^ 10 := pow_le_pow_right₀ (by norm_num) (by omega)
  rw [ieeeBias]
  norm_num at h
  omega
/-- From half a step above the largest finite value on, every value is rounded alike. -/
theorem roundsTo_over {f : Ieee} {x y : ℝ} {n : Bool} {r : Nat × FlagBits} (h : RoundsTo f x n r) (hx : (2 : ℝ) ^ (ieeeBias f + 1) ≤ x)
    (hy : (2 : ℝ) ^ (ieeeBias f + 1) ≤ y) : RoundsTo f y n r := by
  have hu : (0 : ℝ) < 2 ^ ieeeBias f := by positivity
  have hs : (0 : ℝ) < 2 ^ (-1 - (f.fb : Int)) := by positivity
  have hs1 : (2 : ℝ) ^ (-1 - (f.fb : Int)) ≤ 1 := zpow_le_one_of_nonpos₀ (by norm_num) (by omega)
  have htop : (2 - (2 : ℝ) ^ (-1 - (f.fb : Int))) * (2 : ℝ) ^ ieeeBias f ≤ 2 ^ (ieeeBias f + 1) := by
    rw [zpow_add_one₀ two_ne_zero]
    nlinarith
  have hpos : 0 < (2 - (2 : ℝ) ^ (-1 - (f.fb : Int))) * (2 : ℝ) ^ ieeeBias f := mul_pos (by linarith) hu
  obtain ⟨hover, -, -⟩ := h
  refine ⟨fun _ => hover (htop.trans hx), fun h => ?_, fun h => ?_⟩
  · linarith
  · rw [abs_of_pos (by linarith)] at h
    linarith
/-- A power of two far below a unit is no unit of it. -/
theorem roundUnits_far {k q : Int} (h : k + 2 ≤ q) : roundUnits ⟨1, k, false⟩ q false = (0, true) := by
  obtain ⟨j, hj⟩ : ∃ j : ℕ, (q - k).natAbs = j + 2 := ⟨(q - k).natAbs - 2, by omega⟩
  have hone : 1 < 2 ^ (j + 2) := Nat.one_lt_two_pow (by omega)
  have hhalf : 1 < 2 ^ (j + 1) := Nat.one_lt_two_pow (by omega)
  have hhi : 1 >>> (j + 2) = 0 := by rw [Nat.shiftRight_eq_div_pow, Nat.div_eq_of_lt hone]
  have hlo : 1 % 2 ^ (j + 2) = 1 := Nat.mod_eq_of_lt hone
  simp only [roundUnits, if_neg (show ¬ q - k ≤ 0 by omega), hj, hhi, hlo, show j + 2 - 1 = j + 1 by omega]
  simp [hhalf.ne, hhalf.not_gt]
/-- A power of two far below the least subnormal is rounded to zero. -/
theorem roundIeee_tiny {f : Ieee} (h2 : 2 ≤ f.eb) (h11 : f.eb ≤ 11) (h52 : f.fb ≤ 52) {k : Int} (hk : k ≤ -4000) :
    roundIeee f false ⟨1, k, false⟩ = (0, 24) := by
  have hb := ieeeBias_le h11
  rw [ieeeBias_eq] at hb
  have he : k + (bitLen 1 : ℕ) - 1 = k := by rw [show bitLen 1 = 1 from rfl]; push_cast; ring
  have hmax : max k (1 - (f.bias : Int)) = 1 - f.bias := max_eq_right (by omega)
  have hinf : ¬ (2 ^ f.eb - 1) * 2 ^ f.fb ≤ (0 : ℤ) := by
    have : (2 : ℤ) ^ 2 ≤ 2 ^ f.eb := pow_le_pow_right₀ (by norm_num) h2
    have : 0 < ((2 : ℤ) ^ f.eb - 1) * 2 ^ f.fb := mul_pos (by linarith) (by positivity)
    omega
  have hfield : (1 - (f.bias : ℤ) - f.fb + f.fb + f.bias - 1) * 2 ^ f.fb + (0 : ℕ) = 0 := by push_cast; ring
  simp only [roundIeee, he, hmax, roundUnits_far (show k + 2 ≤ 1 - (f.bias : Int) - f.fb by omega), hfield, ge_iff_le, if_neg hinf]
  simp [show k < 1 - (f.bias : Int) by omega, show ¬ k = -(f.bias : Int) by omega]
  exact ⟨rfl, rfl⟩

/-- A power of two rounds as it does with its exponent brought within bounds. -/
theorem roundIeee_clamped {f : Ieee} (h2 : 2 ≤ f.eb) (h11 : f.eb ≤ 11) (h7 : 7 ≤ f.fb) (h52 : f.fb ≤ 52) {k v : Int}
    (hv : v = k ∨ (4000 ≤ v ∧ 4000 ≤ k) ∨ (v ≤ -4000 ∧ k ≤ -4000)) :
    RoundsTo f ((2 : ℝ) ^ k) false (roundIeee f false ⟨1, clampExp v, false⟩) := by
  have hpow : ∀ j : Int, RoundsTo f ((2 : ℝ) ^ j) false (roundIeee f false ⟨1, j, false⟩) := fun j => by
    have h := roundIeee_exact h2 (by omega) false 1 j
    rwa [show ((dyVal false 1 j : ℚ) : ℝ) = (2 : ℝ) ^ j by simp [dyVal]] at h
  have hb := ieeeBias_le h11
  rcases le_or_gt 4000 k with hk | hk
  · have hc : clampExp v = 4000 := by rw [clampExp]; omega
    rw [hc]
    exact roundsTo_over (hpow 4000) (zpow_le_zpow_right₀ one_le_two (by omega)) (zpow_le_zpow_right₀ one_le_two (by omega))
  · rcases le_or_gt k (-4000) with hk' | hk'
    · have hc : clampExp v = -4000 := by rw [clampExp]; omega
      have h := hpow k
      rw [roundIeee_tiny h2 h11 h52 hk'] at h
      rwa [hc, roundIeee_tiny h2 h11 h52 le_rfl]
    · have hc : clampExp v = k := by rw [clampExp]; omega
      rw [hc]
      exact hpow k
/-- A dyadic that is a whole number. -/
theorem dyVal_int {n : Bool} {m : Nat} {e k : Int} (h : dyVal n m e = k) :
    k = (if n then -(k.natAbs : Int) else k.natAbs) ∧ (k.natAbs : ℚ) = m * 2 ^ e := by
  have habs : (k.natAbs : ℚ) = m * 2 ^ e := by rw [← abs_dyVal n, h, ← Int.cast_natCast, Int.natCast_natAbs, Int.cast_abs]
  refine ⟨?_, habs⟩
  have hk : ((if n then -(k.natAbs : Int) else k.natAbs : Int) : ℚ) = k := by
    rw [← h, dyVal, ← habs]
    cases n <;> simp
  exact_mod_cast hk.symm

/-- The whole units of a whole number, as VEXP2 takes them: all of them, or more than any format has a power of two for. -/
theorem whole_units {m : Nat} {e k : Int} (h0 : m ≠ 0) (h : (k.natAbs : ℚ) = m * 2 ^ e) :
    (decide (e ≥ 0) || decide (m % 2 ^ e.natAbs = 0)) = true ∧
    let v := if e ≥ 0 then m * 2 ^ min e.natAbs 200 else m / 2 ^ e.natAbs
    v = k.natAbs ∨ (4000 ≤ v ∧ 4000 ≤ k.natAbs) := by
  rcases le_or_gt 0 e with he | he
  · obtain ⟨j, rfl⟩ := Int.eq_ofNat_of_zero_le he
    have hm : k.natAbs = m * 2 ^ j := by
      rw [zpow_natCast] at h
      exact_mod_cast h
    rw [if_pos he, Int.natAbs_natCast, hm]
    refine ⟨by simp, ?_⟩
    rcases le_or_gt j 200 with hj | hj
    · exact .inl (by rw [min_eq_left hj])
    · have hbig : ∀ i, 200 ≤ i → 4000 ≤ m * 2 ^ i := fun i hi =>
        calc 4000 ≤ 1 * 2 ^ 200 := by norm_num
          _ ≤ m * 2 ^ i := Nat.mul_le_mul (Nat.pos_of_ne_zero h0) (Nat.pow_le_pow_right (by decide) hi)
      exact .inr ⟨hbig _ (by omega), hbig _ hj.le⟩
  · obtain ⟨j, rfl⟩ : ∃ j : ℕ, e = -(j : Int) := ⟨e.natAbs, by omega⟩
    have hm : m = k.natAbs * 2 ^ j := by
      rw [zpow_neg, zpow_natCast, ← div_eq_mul_inv, eq_div_iff (by positivity)] at h
      exact_mod_cast h.symm
    rw [if_neg (not_le.mpr he), Int.natAbs_neg, Int.natAbs_natCast, hm]
    exact ⟨by simp, .inl (Nat.mul_div_cancel _ (Nat.two_pow_pos j))⟩

/-! ## VSIN and VCOS -/

theorem beyondRange_iff (n : Bool) (m : Nat) (e : Int) : beyondRange m e = true ↔ 2 ^ 16 < |dyVal n m e| := by
  have h := dyLe_iff m e 1 16
  rw [beyondRange, abs_dyVal, Bool.not_eq_true', ← Bool.not_eq_true, h, not_le]
  norm_num
/-- The cases of VSIN and VCOS apart from the series. -/
theorem sinCos_special (f : Ieee) (n : Bool) (m : Nat) (e : Int) (z y : Nat × FlagBits) :
    let r := if m = 0 then z else if beyondRange m e then rangeNan f else y
    (dyVal n m e = 0 → r = z) ∧ (2 ^ 16 < |dyVal n m e| → r = (ieeeDefault f + 1, 64)) := by
  refine ⟨fun h => if_pos ((dyVal_eq_zero ..).mp h), fun h => ?_⟩
  have h0 : m ≠ 0 := by
    rintro rfl
    rw [(dyVal_eq_zero n 0 e).mpr rfl] at h
    norm_num at h
  exact (if_neg h0).trans (if_pos ((beyondRange_iff n m e).mpr h))

section
variable {f : Ieee} (h2 : 2 ≤ f.eb) (h7 : 7 ≤ f.fb) {a : Nat} (ha : a < 2 ^ (f.eb + f.fb + 1))
include h2 h7 ha

theorem fpSin_special : WithNans f [a] false (fpSin f a) (RangeRule f (a, 0) (exactOf f a) (fpSin f a)) :=
  one_withNans h2 h7 ha rfl (RangeRule f (a, 0) (exactOf f a)) fun hna => by
    obtain ⟨n, m, e, hx, hu, -⟩ | ⟨n, hx, hu, -⟩ := num_cases (by omega) (by omega) ha hna <;> rw [hx, hu]
    · exact sinCos_special f n m e _ _
    · rfl
theorem fpCos_special : WithNans f [a] false (fpCos f a) (RangeRule f (f.one, 0) (exactOf f a) (fpCos f a)) :=
  one_withNans h2 h7 ha rfl (RangeRule f (f.one, 0) (exactOf f a)) fun hna => by
    obtain ⟨n, m, e, hx, hu, -⟩ | ⟨n, hx, hu, -⟩ := num_cases (by omega) (by omega) ha hna <;> rw [hx, hu]
    · exact sinCos_special f n m e _ _
    · rfl

/-! ## VEXP2 and VLOG2 -/

theorem fpExp2_exact (h11 : f.eb ≤ 11) (h52 : f.fb ≤ 52) (hone : roundIeee f false ⟨1, 0, false⟩ = (f.one, 0)) :
    WithNans f [a] false (fpExp2 f a) (Exp2Rule f a (exactOf f a) (fpExp2 f a)) :=
  one_withNans h2 h7 ha rfl (Exp2Rule f a (exactOf f a)) fun hna => by
    obtain ⟨n, m, e, hx, hu, -⟩ | ⟨n, hx, hu, hinf⟩ := num_cases (by omega) (by omega) ha hna <;> rw [hx, hu]
    · intro k hk
      obtain ⟨hsign, habs⟩ := dyVal_int hk
      by_cases h0 : m = 0
      · have hk0 : k = 0 := by
          rw [(dyVal_eq_zero n m e).mpr h0] at hk
          exact_mod_cast hk.symm
        have h := roundIeee_exact h2 (by omega) false 1 0
        rw [hone] at h
        simp only [if_pos h0, hk0]
        simpa [dyVal] using h
      · obtain ⟨hwhole, hv⟩ := whole_units h0 habs
        simp only [if_neg h0, if_pos hwhole]
        refine roundIeee_clamped h2 h11 h7 h52 ?_
        generalize (if e ≥ 0 then m * 2 ^ min e.natAbs 200 else m / 2 ^ e.natAbs) = v at hv
        cases n <;> simp only [Bool.false_eq_true, if_false, if_true] at hsign ⊢ <;> omega
    · cases n with
      | true => rfl
      | false => exact congrArg (·, 0) hinf.symm
theorem fpLog2_exact : WithNans f [a] false (fpLog2 f a) (Log2Rule f a (exactOf f a) (fpLog2 f a)) :=
  one_withNans h2 h7 ha rfl (Log2Rule f a (exactOf f a)) fun hna => by
    obtain ⟨n, m, e, hx, hu, -⟩ | ⟨n, hx, hu, hinf⟩ := num_cases (by omega) (by omega) ha hna <;> rw [hx, hu]
    · refine ⟨fun h => if_pos ((dyVal_eq_zero ..).mp h), fun h hn => ?_, fun k hk => ?_⟩
      · exact (if_neg (mt (dyVal_eq_zero ..).mpr h)).trans (if_pos hn)
      · have hpos : 0 < dyVal n m e := hk ▸ by positivity
        have h0 : m ≠ 0 := mt (dyVal_eq_zero n m e).mpr hpos.ne'
        have hn : n = false := by
          cases n with
          | false => rfl
          | true =>
            rw [← Bool.not_false, dyVal_not, Left.neg_pos_iff, dyVal] at hpos
            exact absurd hpos (not_lt.mpr (by simp; positivity))
        subst hn
        have hlog : e + (bitLen m - 1 : ℕ) = k := by
          rw [← log_dyVal false e h0, hk, abs_of_pos (by positivity)]
          exact Int.log_zpow one_lt_two k
        have hm : m = 2 ^ (bitLen m - 1) := by
          have hv : (m : ℚ) * 2 ^ e = 2 ^ (bitLen m - 1) * 2 ^ e := by
            rw [← zpow_natCast, ← zpow_add₀ two_ne_zero, add_comm, hlog, ← hk, dyVal]
            simp
          exact_mod_cast mul_right_cancel₀ (zpow_ne_zero e two_ne_zero) hv
        simp only [if_neg h0, Bool.false_eq_true, if_false, if_pos hm, hlog]
        have hr := roundIeee_exact h2 (by omega) (decide (k < 0)) k.natAbs 0
        rw [dyVal_natAbs, zpow_zero, mul_one, Rat.cast_intCast] at hr
        exact roundsTo_of_sign hr fun hz => by simp [Int.cast_eq_zero.mp hz]
    · cases n with
      | true => rfl
      | false => exact congrArg (·, 0) hinf.symm

end

end Sys2Proof.Machine
end

section
/-! SUPPORT. The lane operations of one and two sources and the special functions (R66, R86 to R92, R110 to R115). -/

namespace Sys2Proof.Machine

theorem roundIeee_one {p : Tag × Ieee} (hp : p ∈ ieeeLayouts) : roundIeee p.2 false ⟨1, 0, false⟩ = (p.2.one, 0) := by
  have : ∀ p ∈ ieeeLayouts, roundIeee p.2 false ⟨1, 0, false⟩ = (p.2.one, 0) := by decide
  exact this p hp

/-- Settles O23: the lanes by the issue of a lane operation, each operation's values by one rounding of the exact value it names. -/
theorem laneResults : Obligations.LaneResults := by
  unfold Obligations.LaneResults
  refine ⟨fun st t s z d a b k os ty long h => ?_, fun st t s z d a k os ty long h => ?_, ?_⟩
  · simp only [List.forall_mem_cons]
    refine ⟨?_, ?_, ?_, ?_, ?_, ?_, ?_, ?_, ?_, ?_, ?_, ?_, ?_, ?_, ?_, ?_, List.forall_mem_nil _⟩ <;> rintro rfl hc
    · exact lanes2 h hc (op := laneAdd) rfl
    · exact lanes2 h hc (op := laneSub) rfl
    · exact lanes2 h hc (op := laneMul) rfl
    · exact lanes2 h hc (op := laneMax) rfl
    · exact lanes2 h hc (op := laneMin) rfl
    · exact lanes2 h hc (op := fun t x y => (laneMulh t x y, 0)) rfl
    · exact lanes2 h hc (op := lAnd) rfl
    · exact lanes2 h hc (op := lOr) rfl
    · exact lanes2 h hc (op := lXor) rfl
    · exact lanes2 h hc (op := lAndn) rfl
    · exact vshift_lanes h hc (op := laneSll) rfl rfl
    · exact vshift_lanes h hc (op := laneSrl) rfl rfl
    · exact vshift_lanes h hc (op := laneSra) rfl rfl
    · exact lanes2 h hc (op := fp2 fpRcps) rfl
    · exact lanes2 h hc (op := fp2 fpRsqs) rfl
    · exact lanes2 h hc (op := fp2 fpDiv) rfl
  · simp only [List.forall_mem_cons]
    refine ⟨?_, ?_, ?_, ?_, ?_, ?_, ?_, ?_, ?_, ?_, List.forall_mem_nil _⟩ <;> rintro rfl hc
    · exact (lanesCopy (i := .vmov s d a k z) (k := k) (z := z) h hc rfl).result
    · exact lanes1 h hc (op := laneAbs) rfl
    · exact lanes1 h hc (op := laneNeg) rfl
    · exact lanes1 h hc (op := fp1 fpRcpe) rfl
    · exact lanes1 h hc (op := fp1 fpRsqe) rfl
    · exact lanes1 h hc (op := fp1 fpSin) rfl
    · exact lanes1 h hc (op := fp1 fpCos) rfl
    · exact lanes1 h hc (op := fp1 fpExp2) rfl
    · exact lanes1 h hc (op := fp1 fpLog2) rfl
    · exact lanes1 h hc (op := fp1 fpSqrt) rfl
  · intro p hp a b
    obtain ⟨ht, h2, h11, h7, h52⟩ := ieeeLayouts_spec hp
    intro t f sgn x y one two solo step estimate ha hb
    have hwidth : 2 * sgn = 2 ^ (f.eb + f.fb + 1) := (Nat.pow_succ' ..).symm
    rw [hwidth] at ha hb
    simp only [t, laneAdd, laneSub, laneMul, laneMax, laneMin, laneAbs, laneNeg, fp1, fp2, byType_ieee ht]
    refine ⟨fpAdd_rounds h2 h7 ha hb, fpSub_rounds h2 h7 ha hb, fpMul_rounds h2 h7 ha hb, fpMax_rank h2 h7 ha hb, fpMin_rank h2 h7 ha hb, rfl,
      congrArg (·, 0) (xor_top_bit (hwidth ▸ ha)), fpStep_rounds h2 h7 ha hb (by norm_num) (by norm_num),
      fpStep_rounds h2 h7 ha hb (by norm_num) (by norm_num), fpDiv_rounds h2 h7 ha hb h52, fpSqrt_rounds h2 h7 ha h52, fpRcpe_estimate h2 h7 ha,
      fpRsqe_estimate h2 h7 ha, fpSin_special h2 h7 ha, fpCos_special h2 h7 ha, fpExp2_exact h2 h7 ha h11 h52 (roundIeee_one hp),
      fpLog2_exact h2 h7 ha⟩

end Sys2Proof.Machine
end

section
/-! SUPPORT. The types that source tags fix, and integer lanes as values modulo 2^w (R64, R66, R73, R88, R89). -/

namespace Sys2Proof.Machine

/-! ## Integer elements as values (R73) -/

/-- An integer brought into the range of an integer format, modulo 2^w (R73). -/
def Tag.wrap (t : Tag) (v : Int) : Int := if t.signed then v.bmod (2 ^ t.iw) else v % (2 ^ t.iw : Nat)

theorem Tag.iw_pos (t : Tag) : 0 < t.iw := by cases t <;> decide
theorem Tag.ieee_of_isInt (t : Tag) : t.isInt = true → t.ieee = Option.none := by cases t <;> decide
theorem sgn_eq_bmod (w v : Nat) : sgn w v = (v : Int).bmod (2 ^ w) := by
  rw [sgn_eq_toInt, BitVec.toInt_ofNat']
theorem Tag.wrap_emod (t : Tag) (v : Int) : t.wrap v % (2 ^ t.iw : Nat) = v % (2 ^ t.iw : Nat) := by
  unfold Tag.wrap
  split
  · exact Int.bmod_emod
  · exact Int.emod_emod ..
theorem Tag.wrap_congr {t : Tag} {v w : Int} (h : v % (2 ^ t.iw : Nat) = w % (2 ^ t.iw : Nat)) : t.wrap v = t.wrap w := by
  rw [Tag.wrap, Tag.wrap, h, ← Int.emod_bmod, h, Int.emod_bmod]
theorem intVal_eq_wrap (t : Tag) (b : Nat) : intVal t b = t.wrap b := by
  rw [intVal, Tag.wrap, sgn_eq_bmod]
  push_cast
  rfl
theorem trunc_emod (w : Nat) (v : Int) : (trunc w v : Int) = v % (2 ^ w : Nat) :=
  Int.toNat_of_nonneg (Int.emod_nonneg _ (by positivity))
/-- The bits of a wrapped integer are those of the integer, modulo 2^w. -/
theorem wrapInt_emod (t : Tag) (v : Int) : (wrapInt t v : Int) % (2 ^ t.iw : Nat) = v % (2 ^ t.iw : Nat) := by
  unfold wrapInt
  split
  next h =>
    subst h
    rw [trunc_emod, sgn_eq_bmod, trunc_emod]
    rw [Int.emod_emod_of_dvd _ (by decide : ((2 ^ Tag.iw .int4 : Nat) : Int) ∣ (2 ^ 8 : Nat))]
    exact Int.bmod_emod.trans (Int.emod_emod ..)
  next h => rw [Tag.iw, if_neg h, trunc_emod, Int.emod_emod]
theorem wrapInt_lt (t : Tag) (v : Int) : wrapInt t v < 2 ^ t.ebits := by
  have h (w : Nat) (v : Int) : trunc w v < 2 ^ w := by
    have := Int.emod_lt_of_pos v (show (0 : Int) < (2 ^ w : Nat) by positivity)
    have := trunc_emod w v
    omega
  unfold wrapInt
  split
  next h4 => subst h4; exact h 8 _
  next => exact h _ _
/-- An integer written into an element reads as itself, wrapped. -/
theorem intVal_wrapInt (t : Tag) (v : Int) : intVal t (wrapInt t v) = t.wrap v :=
  (intVal_eq_wrap ..).trans (Tag.wrap_congr (wrapInt_emod t v))
theorem intVal_wrapInt_emod (t : Tag) (v : Int) : intVal t (wrapInt t v) % (2 ^ t.iw : Nat) = v % (2 ^ t.iw : Nat) := by
  rw [intVal_wrapInt, Tag.wrap_emod]

/-! ## Values in range -/

theorem two_pow_iw (t : Tag) : ((2 ^ t.iw : Nat) : Int) = 2 * (2 ^ (t.iw - 1) : Nat) := by
  have := t.iw_pos
  rw [← Nat.sub_add_cancel this, Nat.pow_succ']
  push_cast
  rfl
theorem Tag.wrap_range (t : Tag) (v : Int) : intMin t ≤ t.wrap v ∧ t.wrap v ≤ intMax t := by
  have hp := two_pow_iw t
  have hpos : 0 < 2 ^ t.iw := by positivity
  unfold intMin intMax Tag.wrap
  split
  · have h1 := Int.le_bmod (x := v) hpos
    have h2 := Int.bmod_lt (x := v) hpos
    omega
  · have h1 := Int.emod_nonneg v (show ((2 ^ t.iw : Nat) : Int) ≠ 0 by positivity)
    have h2 := Int.emod_lt_of_pos v (show (0 : Int) < (2 ^ t.iw : Nat) by positivity)
    omega
theorem intVal_range (t : Tag) (b : Nat) : intMin t ≤ intVal t b ∧ intVal t b ≤ intMax t := by
  rw [intVal_eq_wrap]
  exact t.wrap_range b
/-- A value in the range of the format is not changed by wrapping. -/
theorem Tag.wrap_of_range {t : Tag} {v : Int} (h : intMin t ≤ v) (h' : v ≤ intMax t) : t.wrap v = v := by
  have hp := two_pow_iw t
  unfold intMin at h
  unfold intMax at h'
  unfold Tag.wrap
  cases hs : t.signed <;> simp only [hs, if_true, if_false, Bool.false_eq_true] at h h' ⊢
  · exact Int.emod_eq_of_lt h (by omega)
  · exact Int.bmod_eq_of_le (by omega) (by omega)
theorem intVal_wrapInt_of_range {t : Tag} {v : Int} (h : intMin t ≤ v ∧ v ≤ intMax t) : intVal t (wrapInt t v) = v :=
  (intVal_wrapInt t v).trans (Tag.wrap_of_range h.1 h.2)
/-- A floor quotient of a value of the range by a positive divisor is in the range. -/
theorem ediv_range {t : Tag} {v k : Int} (h : intMin t ≤ v ∧ v ≤ intMax t) (hk : 0 < k) : intMin t ≤ v / k ∧ v / k ≤ intMax t := by
  have hmin : intMin t ≤ 0 := by unfold intMin; split <;> [exact neg_nonpos.mpr (by positivity); exact le_rfl]
  have hmax : 0 ≤ intMax t := by
    have : (0 : Int) < (2 ^ (t.iw - 1) : Nat) := by positivity
    have : (0 : Int) < (2 ^ t.iw : Nat) := by positivity
    unfold intMax; split <;> omega
  rcases le_or_gt 0 v with h0 | h0
  · exact ⟨hmin.trans (Int.ediv_nonneg h0 hk.le), (Int.ediv_le_self _ h0).trans h.2⟩
  · have hneg : v / k < 0 := Int.ediv_neg_of_neg_of_pos h0 hk
    refine ⟨h.1.trans ?_, by omega⟩
    rw [Int.le_ediv_iff_mul_le hk]
    nlinarith
/-- The high half of a product of two values of the range is in the range (R88). -/
theorem mulh_range (t : Tag) (a b : Nat) :
    intMin t ≤ intVal t a * intVal t b / (2 ^ t.iw : Nat) ∧ intVal t a * intVal t b / (2 ^ t.iw : Nat) ≤ intMax t := by
  have hp := two_pow_iw t
  have hpos : (0 : Int) < (2 ^ (t.iw - 1) : Nat) := by positivity
  have ha := intVal_range t a
  have hb := intVal_range t b
  generalize intVal t a = x at ha ⊢
  generalize intVal t b = y at hb ⊢
  rw [hp]
  unfold intMin intMax at *
  generalize ((2 ^ (t.iw - 1) : Nat) : Int) = h at *
  cases hs : t.signed <;> simp only [hs, if_true, if_false, Bool.false_eq_true, hp] at ha hb ⊢
  · refine ⟨Int.ediv_nonneg (mul_nonneg ha.1 hb.1) (by omega), Int.le_sub_one_of_lt ?_⟩
    rw [Int.ediv_lt_iff_lt_mul (by omega)]
    nlinarith
  · have hxy : |x * y| ≤ h * h := by
      rw [abs_mul]
      exact mul_le_mul (abs_le.mpr ⟨ha.1, by omega⟩) (abs_le.mpr ⟨hb.1, by omega⟩) (abs_nonneg _) hpos.le
    obtain ⟨h1, h2⟩ := abs_le.mp hxy
    refine ⟨?_, Int.le_sub_one_of_lt ?_⟩
    · rw [Int.le_ediv_iff_mul_le (by omega)]
      nlinarith
    · rw [Int.ediv_lt_iff_lt_mul (by omega)]
      nlinarith

/-! ## Integer lanes (R88, R89) -/

section
variable {t : Tag} (ht : t.isInt = true)
include ht

theorem byType_int (fp : Ieee → Nat × FlagBits) (n : Nat) : byType t fp n = (n, 0) := by
  simp only [byType, t.ieee_of_isInt ht]

end

theorem intVal_laneMulh (t : Tag) (a b : Nat) : intVal t (laneMulh t a b) = intVal t a * intVal t b / (2 ^ t.iw : Nat) :=
  intVal_wrapInt_of_range (mulh_range t a b)
theorem intVal_zero (t : Tag) : intVal t 0 = 0 := by
  rw [intVal_eq_wrap, Tag.wrap]
  split <;> simp
theorem laneSll_of_le {t : Tag} {n : Nat} (a : Nat) (h : t.iw ≤ n) : laneSll t a n = 0 := if_pos h
theorem laneSrl_of_le {t : Tag} {n : Nat} (a : Nat) (h : t.iw ≤ n) : laneSrl t a n = 0 := if_pos h
theorem intVal_emod (t : Tag) (a : Nat) : intVal t a % (2 ^ t.iw : Nat) = (a % 2 ^ t.iw : Nat) := by
  rw [intVal_eq_wrap, Tag.wrap_emod]
  rfl
theorem intVal_laneSll_emod {t : Tag} {n : Nat} (a : Nat) (h : n < t.iw) :
    intVal t (laneSll t a n) % (2 ^ t.iw : Nat) = intVal t a * 2 ^ n % (2 ^ t.iw : Nat) := by
  rw [laneSll, if_neg (by omega), intVal_wrapInt_emod, Nat.shiftLeft_eq, Nat.cast_mul, ← intVal_emod]
  push_cast
  rw [Int.mul_emod, Int.emod_emod, ← Int.mul_emod]
/-- A shift by the width or more leaves the sign: of a value of the range, the quotient by 2^n is then that by 2^w. -/
theorem ediv_two_pow_min {t : Tag} {v : Int} (h : intMin t ≤ v ∧ v ≤ intMax t) (n : Nat) : v / 2 ^ min n t.iw = v / 2 ^ n := by
  rcases le_or_gt n t.iw with hn | hn
  · rw [min_eq_left hn]
  rw [min_eq_right hn.le]
  have hp := two_pow_iw t
  have hlt : -(2 ^ t.iw : Int) ≤ v ∧ v < 2 ^ t.iw := by
    have : (0 : Int) < (2 ^ (t.iw - 1) : Nat) := by positivity
    have hc : ((2 ^ t.iw : Nat) : Int) = 2 ^ t.iw := by push_cast; rfl
    unfold intMin intMax at h
    cases hs : t.signed <;> simp only [hs, if_true, if_false, Bool.false_eq_true] at h <;> omega
  have hle : (2 ^ t.iw : Int) ≤ 2 ^ n := pow_le_pow_right₀ (by norm_num) hn.le
  rcases le_or_gt 0 v with h0 | h0
  · rw [Int.ediv_eq_zero_of_lt h0 hlt.2, Int.ediv_eq_zero_of_lt h0 (by omega)]
  · have hneg (k : Int) (hk : 0 < k) (hv : -k ≤ v) : v / k = -1 := by
      rw [Int.ediv_eq_iff_of_pos hk]
      omega
    rw [hneg _ (by positivity) hlt.1, hneg _ (by positivity) (by omega)]
theorem intVal_laneSra (t : Tag) (a n : Nat) : intVal t (laneSra t a n) = intVal t a / 2 ^ n := by
  have hr := intVal_range t a
  rw [laneSra, Int.shiftRight_eq_div_pow]
  push_cast
  rw [ediv_two_pow_min hr]
  exact intVal_wrapInt_of_range (ediv_range hr (by positivity))

/-! ## The type of an instruction (R64) -/

/-- An instruction whose tag check fails traps and does nothing else. -/
theorem vecIssue_traps {q : VIss} {st t : State} {os : List Opnd} {e : BitVec 9} (h : VectorTakes q st t os)
    {check : Ctxt → List Opnd → Except (BitVec 9) Tag} (hc : check t.cx os = .error e) (run : Ctxt → Tag → List Opnd → VBits × FlagBits) :
    vecIssue q st check run = t.raise (trapInfo e) := by
  obtain ⟨ht, hos, hm, -⟩ := h
  rw [vecIssue, issue_takes ht]
  simp only [hos, hm, hc]

theorem laneIssue_traps {q : VIss} {st t : State} {os : List Opnd} {e : BitVec 9} (h : VectorTakes q st t os) {k : BitVec 3} {z : Bool}
    {ok : Tag → Bool} (hc : typeOf t.cx os q.d ok = .error e) (op : Tag → List VBits → Nat → Nat × FlagBits) :
    laneIssue q k z ok op st = t.raise (trapInfo e) := by
  rw [laneIssue]
  exact vecIssue_traps h (check := fun c os => typeOf c os q.d ok) hc _

section
variable (c : Ctxt) (d : BitVec 6) (ok : Tag → Bool) {x y : VReg}

theorem typeOf_first_none (hx : x.tag = .none) : typeOf c [.reg x, .reg y] d ok = .error 0x009 := by
  simp [typeOf, sourceType, Opnd.tag?, hx]
theorem typeOf_second_none (hx : x.tag ≠ .none) (hy : y.tag = .none) : typeOf c [.reg x, .reg y] d ok = .error 0x009 := by
  simp [typeOf, sourceType, Opnd.tag?, hx, hy]
theorem typeOf_mismatch (hx : x.tag ≠ .none) (hy : y.tag ≠ .none) (hxy : y.tag ≠ x.tag) :
    typeOf c [.reg x, .reg y] d ok = .error 0x008 := by
  simp [typeOf, sourceType, Opnd.tag?, hx, hy, hxy]
theorem typeOf_common (hx : x.tag ≠ .none) (hxy : y.tag = x.tag) :
    typeOf c [.reg x, .reg y] d ok = if ok x.tag then .ok x.tag else .error 0x00A := by
  simp [typeOf, sourceType, Opnd.tag?, hx, hxy]
theorem typeOf_bcast_reg (v : DWord) (hy : y.tag ≠ .none) :
    typeOf c [.bcast v, .reg y] d ok = if ok y.tag then .ok y.tag else .error 0x00A := by
  simp [typeOf, sourceType, Opnd.tag?, hy]
/-- Sources that fix no tag leave the destination's. -/
theorem typeOf_bcast_bcast (v w : DWord) (hd : d.toNat < 40) : typeOf c [.bcast v, .bcast w] d ok =
    if (c.vreg d).tag = .none then .error 0x009 else if ok (c.vreg d).tag then .ok (c.vreg d).tag else .error 0x00A := by
  have hw : specIsW d = false := by
    cases h : specIsW d with
    | false => rfl
    | true => rcases (specIsW_iff d).mp h with rfl | rfl <;> exact absurd hd (by decide)
  simp [typeOf, sourceType, Opnd.tag?, destTag, hw, hd]

end

/-- Settles O25: the tag check by its cases; the integer lanes as the operation's exact value, wrapped into the range of the format. -/
theorem typesAndIntegerLanes : Obligations.TypesAndIntegerLanes := by
  unfold Obligations.TypesAndIntegerLanes
  refine ⟨fun c x y d ok => ⟨typeOf_first_none c d ok, typeOf_second_none c d ok, typeOf_mismatch c d ok, typeOf_common c d ok,
    typeOf_bcast_reg c d ok, typeOf_bcast_bcast c d ok, fun st t s z a b k os e h he => ?_⟩, fun t a b n ht => ?_⟩
  · have hx : exec (.vadd s d a b k z) st = .next (vr2 s d a b k z tyFpInt laneAdd false st) := rfl
    rw [hx, vr2, laneIssue_traps h he]
  · simp only [laneAdd, laneSub, laneMul, laneMax, laneMin, byType_int ht]
    have hmax : intMin t ≤ max (intVal t a) (intVal t b) ∧ max (intVal t a) (intVal t b) ≤ intMax t :=
      ⟨(intVal_range t a).1.trans (le_max_left ..), max_le (intVal_range t a).2 (intVal_range t b).2⟩
    have hmin : intMin t ≤ min (intVal t a) (intVal t b) ∧ min (intVal t a) (intVal t b) ≤ intMax t :=
      ⟨le_min (intVal_range t a).1 (intVal_range t b).1, (min_le_left ..).trans (intVal_range t a).2⟩
    exact ⟨trivial, trivial, trivial, trivial, intVal_wrapInt_emod .., intVal_wrapInt_emod .., intVal_wrapInt_emod .., wrapInt_lt .., wrapInt_lt ..,
      intVal_wrapInt_of_range hmax, intVal_wrapInt_of_range hmin, intVal_laneMulh .., fun h => by simp only [laneSll_of_le a h, laneSrl_of_le a h, intVal_zero, and_self],
      intVal_laneSll_emod a, intVal_laneSra ..⟩

end Sys2Proof.Machine
end

section
/-! SUPPORT. The permutes and zips, which move lanes, and the ordered reductions, which fold them (R96 to R101). -/

namespace Sys2Proof.Machine

/-! ## Operands and flags -/

theorem operands_length {c : Ctxt} {seen ds : List (BitVec 6)} {os : List Opnd} (h : operands c seen ds = some os) : os.length = ds.length := by
  induction ds generalizing seen os with
  | nil => cases h; rfl
  | cons d r ih =>
    simp only [operands, Option.bind_eq_bind, Option.bind_eq_some_iff] at h
    obtain ⟨o, -, rest, hr, hos⟩ := h
    cases hos
    rw [List.length_cons, List.length_cons, ih hr]
/-- One source field has one operand. -/
theorem take_one_of_takes {q : VIss} {st t : State} {os : List Opnd} (h : VectorTakes q st t os) (hq : q.srcs.length = 1) : os.take 1 = os := by
  obtain ⟨-, hos, -⟩ := h
  exact List.take_of_length_le (by rw [operands_length hos, hq])
/-- Lanes whose operation raises nothing leave FLAGS as they are. -/
theorem laneResult_flags_zero {t : Tag} {k : PBits} {z : Bool} {old r : VBits} {op : Nat → Nat} {f : FlagBits}
    (h : LaneResult t k z old (fun i => (op i, 0)) r f) : f = 0 := by
  refine BitVec.eq_of_getLsbD_eq fun b hb => ?_
  simpa using h.2 b hb

theorem readLane_zero (t : Tag) (i : Nat) : readLane t 0 i = 0 := by
  have : laneOf t.ebits 0 i = 0 := by simp [laneOf]
  rw [readLane, this]
  cases t <;> rfl

/-! ## Permutes (R96, R97) -/

/-- An instruction moves lanes: it gives those of `op`, under a predicate, and no flag. -/
def MovesLanes (i : Instr) (st t : State) (q : VIss) (ty : Tag) (k : BitVec 3) (z : Bool) (op : Nat → Nat) : Prop :=
  ∃ c r, exec i st = .next ((t.setCx c).finish q.len) ∧ VectorResult q ty r 0 t.cx c ∧
    LaneResult ty (t.cx.rk k.toNat) z (oldOf t.cx q.d) (fun i => (op i, 0)) r 0
theorem MovesLanes.result {i : Instr} {st t : State} {q : VIss} {ty : Tag} {k : BitVec 3} {z : Bool} {op : Nat → Nat}
    (h : MovesLanes i st t q ty k z op) : ∃ c r, exec i st = .next ((t.setCx c).finish q.len) ∧ VectorResult q ty r 0 t.cx c ∧
      LaneResult ty (t.cx.rk k.toNat) z (oldOf t.cx q.d) (fun i => (op i, 0)) r 0 := h
theorem GivesLanes.moves {i : Instr} {st t : State} {q : VIss} {ty : Tag} {k : BitVec 3} {z : Bool} {op : Nat → Nat}
    (h : GivesLanes i st t q ty k z (fun i => (op i, 0))) : MovesLanes i st t q ty k z op := by
  obtain ⟨c, r, f, hx, hr, hl⟩ := h
  obtain rfl := laneResult_flags_zero hl
  exact ⟨c, r, hx, hr, hl⟩

section
variable {i : Instr} {q : VIss} {st t : State} {os : List Opnd} {ty : Tag} {k : BitVec 3} {z : Bool} (h : VectorTakes q st t os)
include h

/-- A C-class instruction with a check of its own that sets lanes. -/
theorem vecIssue_moves {check : Ctxt → List Opnd → Except (BitVec 9) Tag} (hc : check t.cx os = .ok ty) {op : Ctxt → Tag → List Opnd → Nat → Nat}
    (he : exec i st = .next (vecIssue q st check fun c t os => applyLanes t (c.rk k.toNat) z (oldOf c q.d) (fun i => (op c t os i, 0)))) :
    MovesLanes i st t q ty k z (op t.cx ty os) := by
  obtain ⟨c, hn, hr⟩ := vecIssue_result h (fun c t os => applyLanes t (c.rk k.toNat) z (oldOf c q.d) (fun i => (op c t os i, 0))) hc
  exact GivesLanes.moves ⟨c, _, _, he.trans (congrArg _ hn), hr, applyLanes_laneResult ..⟩
/-- A permute that names a lane of the type. -/
theorem vlane_moves {lane : BitVec 6} {op : Tag → VBits → VBits → Nat → Nat} {extra : Ctxt → Tag → Except (BitVec 9) Tag}
    (hc : typeOf t.cx (os.take 1) q.d tyAny = .ok ty) (hlane : lane.toNat < ty.lanes) (hx : extra t.cx ty = .ok ty)
    (he : exec i st = .next (vlane q k z lane op extra st)) :
    MovesLanes i st t q ty k z (op ty ((os.getD 0 .zero).bits ty) (oldOf t.cx q.d)) := by
  rw [vlane] at he
  refine vecIssue_moves h (op := fun c t os => op t ((os.getD 0 .zero).bits t) (oldOf c q.d)) ?_ he
  simp only [hc, bind, Except.bind, if_neg (Nat.not_le.mpr hlane), hx]
/-- A lane operation over several registers that only moves lanes. -/
theorem laneIssue_moves (hc : typeOf t.cx os q.d tyAny = .ok ty) {f g : Tag → Nat → Nat}
    (he : exec i st = .next (laneIssue q k z tyAny (fun t vs i => (arg t vs (f t i) (g t i), 0)) st)) :
    MovesLanes i st t q ty k z (fun i => readLane ty ((os.getD (f ty i) .zero).bits ty) (g ty i)) := by
  simpa only [arg_map] using (laneIssue_lanes h hc he).moves

end

/-- The indices of VPERM: those of an integer register or queue entry, the low bits of a broadcast signed, and 0 of vz (R96). -/
def PermIndices (ty : Tag) (o : Opnd) (n : Nat → Int) : Prop :=
  match o with
  | .reg u => u.tag.isInt = true ∧ u.tag.ebits = ty.ebits ∧ ∀ i, n i = intVal u.tag (laneOf u.tag.ebits u.bits i)
  | .ent u => u.tag.isInt = true ∧ u.tag.ebits = ty.ebits ∧ ∀ i, n i = intVal u.tag (laneOf u.tag.ebits u.bits i)
  | .bcast v => ∀ i, n i = sgn ty.ebits v.toNat
  | .zero => ∀ i, n i = 0
/-- VPERM's check of its index source, and the index that it takes from it. -/
def permCheck (ty : Tag) (o : Opnd) : Except (BitVec 9) Tag :=
  match o.tag? with
  | none => .ok ty
  | some u => if u = .none then .error 0x009 else if indexOk u ty then .ok ty else .error 0x008
def permIndex (ty : Tag) (o : Opnd) (i : Nat) : Int :=
  match o with
  | .bcast v => sgn ty.ebits v.toNat
  | .zero => 0
  | o => match o.tag? with
    | some u => intVal u (laneOf u.ebits (o.bits u) i)
    | none => 0
theorem permCheck_int {ty u : Tag} {o : Opnd} (hu : o.tag? = some u) (hint : u.isInt = true) (hw : u.ebits = ty.ebits) : permCheck ty o = .ok ty := by
  have hnone : u ≠ .none := by rintro rfl; cases hint
  simp only [permCheck, hu, if_neg hnone, indexOk, hint, hw, decide_true, Bool.and_self, if_true]
theorem PermIndices.check {ty : Tag} {o : Opnd} {n : Nat → Int} (h : PermIndices ty o n) : permCheck ty o = .ok ty := by
  cases o with
  | reg u => exact permCheck_int rfl h.1 h.2.1
  | ent u => exact permCheck_int rfl h.1 h.2.1
  | bcast v => rfl
  | zero => rfl
theorem PermIndices.index {ty : Tag} {o : Opnd} {n : Nat → Int} (h : PermIndices ty o n) (i : Nat) : permIndex ty o i = n i := by
  cases o with
  | reg u => exact (h.2.2 i).symm
  | ent u => exact (h.2.2 i).symm
  | bcast v => exact (h i).symm
  | zero => exact (h i).symm
/-- VPERM takes the lane that its index names, and 0 for an index that names none. -/
theorem vperm_moves {st t : State} {s z : Bool} {d a b : BitVec 6} {k : BitVec 3} {os : List Opnd} {ty : Tag} {n : Nat → Int}
    (h : VectorTakes { s := s, d := d, srcs := [a, b] } st t os) (hc : typeOf t.cx (os.take 1) d tyAny = .ok ty)
    (hn : PermIndices ty (os.getD 1 .zero) n) : MovesLanes (.vperm s d a b k z) st t { s := s, d := d, srcs := [a, b] } ty k z
      (fun i => if 0 ≤ n i ∧ n i < ty.lanes then readLane ty ((os.getD 0 .zero).bits ty) (n i).toNat else 0) := by
  have hcheck : (typeOf t.cx (os.take 1) d tyAny).bind (fun ty => permCheck ty (os.getD 1 .zero)) = .ok ty := by
    rw [hc]
    exact hn.check
  obtain ⟨c, hx, hr⟩ := vecIssue_result h (check := fun c os => (typeOf c (os.take 1) d tyAny).bind (fun ty => permCheck ty (os.getD 1 .zero)))
    (fun c ty os => applyLanes ty (c.rk k.toNat) z (oldOf c d) (fun i =>
      if permIndex ty (os.getD 1 .zero) i < 0 || permIndex ty (os.getD 1 .zero) i ≥ ty.lanes then (0, 0)
      else (readLane ty ((os.getD 0 .zero).bits ty) (permIndex ty (os.getD 1 .zero) i).toNat, 0))) hcheck
  have hop : (fun i => if permIndex ty (os.getD 1 .zero) i < 0 || permIndex ty (os.getD 1 .zero) i ≥ ty.lanes then ((0 : Nat), (0 : FlagBits))
      else (readLane ty ((os.getD 0 .zero).bits ty) (permIndex ty (os.getD 1 .zero) i).toNat, 0)) =
      fun i => (if 0 ≤ n i ∧ n i < ty.lanes then readLane ty ((os.getD 0 .zero).bits ty) (n i).toNat else 0, 0) := by
    funext i
    rw [hn.index]
    by_cases h0 : 0 ≤ n i ∧ n i < ty.lanes
    · rw [if_pos h0, if_neg (by simp; omega)]
    · rw [if_neg h0, if_pos (by simp; omega)]
  refine GivesLanes.moves ⟨c, _, _, Eq.trans rfl (congrArg Host.Outcome.next hx), hr, ?_⟩
  rw [← hop]
  exact applyLanes_laneResult ..

/-! ## Ordered reductions (R100, R101) -/

/-- The values of lanes taken in order by an operation from the first on, and the identity of none (R100). -/
def foldLanes (id : Nat) (op : Nat → Nat → Nat) (x : Nat → Nat) : List Nat → Nat
  | [] => id
  | i :: is => is.foldl (fun v j => op v (x j)) (x i)

theorem foldl_fst (op : Nat → Nat → Nat × FlagBits) (x : Nat → Nat) (l : List Nat) (acc : Nat × FlagBits) :
    ((l.map (fun i => (i, x i))).foldl (fun (acc : Nat × FlagBits) (y : Nat × Nat) => let v := op acc.1 y.2; (v.1, acc.2 ||| v.2)) acc).1 =
      l.foldl (fun v j => (op v (x j)).1) acc.1 := by
  induction l generalizing acc with
  | nil => rfl
  | cons i is ih => exact ih _
/-- A reduction over lanes that hold no NaN. -/
theorem reduce_value {t : Tag} {x : Nat → Nat} {l : List Nat} (id : Nat) (op : Nat → Nat → Nat × FlagBits)
    (hnan : ∀ f, t.ieee = some f → ∀ i ∈ l, (f.num (x i)).isNan = false) :
    (reduce t id op (l.map (fun i => (i, x i)))).1 = foldLanes id (fun v x => (op v x).1) x l := by
  have hnone : ∀ f, t.ieee = some f → (l.map (fun i => (i, x i))).find? (fun y => (f.num y.2).isNan) = none := fun f hf => by
    simpa using hnan f hf
  cases hf : t.ieee with
  | none =>
    simp only [reduce, hf]
    cases l with
    | nil => rfl
    | cons i is => exact foldl_fst op x is (x i, 0)
  | some f =>
    simp only [reduce, hf, hnone f hf]
    cases l with
    | nil => rfl
    | cons i is => exact foldl_fst op x is (x i, 0)

/-- The lanes active under a predicate, in ascending order. -/
def activeLanes (ty : Tag) (p : PBits) : List Nat := (List.range ty.lanes).filter (fun i => p.getLsbD (i * (ty.ebits / 8)))
/-- A reduction's result stands in lane 0, with 0 in every other lane. -/
theorem laneOf_ofLanes_one (e x i : Nat) (he : e ≤ 256) : laneOf e (ofLanes e [x]) i = if i ≠ 0 then 0 else x % 2 ^ e := by
  rw [laneOf_ofLanes _ _ _ (by simpa using he)]
  cases i <;> simp

section
variable {i : Instr} {st t : State} {s : Bool} {d a : BitVec 6} {k : BitVec 3} {os : List Opnd} {ty : Tag} {ok : Tag → Bool}
  (h : VectorTakes { s := s, d := d, srcs := [a] } st t os) (hc : typeOf t.cx os d ok = .ok ty)
  (hnan : ∀ f, ty.ieee = some f → ∀ i ∈ activeLanes ty (t.cx.rk k.toNat), (f.num (readLane ty ((os.getD 0 .zero).bits ty) i)).isNan = false)
include h hc hnan

theorem vreduce_folds {id : Tag → Nat} {op : Tag → Nat → Nat → Nat × FlagBits} (he : exec i st = .next (vreduce s d a k ok id op st)) :
    ∃ c r f, exec i st = .next ((t.setCx c).finish) ∧ VectorResult { s := s, d := d, srcs := [a] } ty r f t.cx c ∧
      ∀ i < ty.lanes, laneOf ty.ebits r i = if i ≠ 0 then 0 else
        foldLanes (id ty) (fun v x => (op ty v x).1) (readLane ty ((os.getD 0 .zero).bits ty)) (activeLanes ty (t.cx.rk k.toNat)) % 2 ^ ty.ebits := by
  rw [vreduce] at he
  obtain ⟨c, hn, hr⟩ := vecIssue_result h _ (check := fun c os => typeOf c os d ok) hc
  refine ⟨c, _, _, he.trans (congrArg Host.Outcome.next hn), hr, fun i _ => ?_⟩
  exact (laneOf_ofLanes_one ty.ebits _ i (by cases ty <;> decide)).trans
    (congrArg (fun v => if i ≠ 0 then 0 else v % 2 ^ ty.ebits) (reduce_value (id ty) (op ty) hnan))

end

/-- Settles O27: the permutes by the lanes they move, the reductions by the fold of the active lanes' values. -/
theorem permutesAndReductions : Obligations.PermutesAndReductions := by
  unfold Obligations.PermutesAndReductions
  refine ⟨fun st t s z d a b k os ty => ⟨fun n h hc hn => (vperm_moves h hc ?_).result, fun h hc hb => ⟨?_, ?_⟩, fun hd h hc hb ht => ?_, fun hd h hc hb => ?_, ?_, ?_⟩,
    fun st t s d a k os ty h hnan => ?_⟩
  · generalize os.getD 1 .zero = o at hn ⊢
    cases o <;> exact hn
  · exact (vlane_moves (i := .vbcast s d a b k z) h ((take_one_of_takes h rfl).symm ▸ hc) hb rfl rfl).result
  · exact (vlane_moves (i := .vext s d a b k z) h ((take_one_of_takes h rfl).symm ▸ hc) hb rfl rfl).result
  · have he : exec (.vins s d a b k z) st = .next (vlane { s := s, d := d, srcs := if d = 63 then [a] else [a, d] } k z b _ _ st) := rfl
    rw [if_neg hd] at he
    exact (vlane_moves h hc hb (by rcases ht with ht | ht <;> simp [ht]) he).result
  · subst hd
    have he : exec (.vins s 63 a b k z) st = .next (vlane { s := s, d := 63, srcs := if (63 : BitVec 6) = 63 then [a] else [a, 63] } k z b _ _ st) := rfl
    rw [if_pos rfl] at he
    simpa only [show oldOf t.cx 63 = 0 from rfl, readLane_zero] using (vlane_moves h hc hb rfl he).result
  · simp only [List.forall_mem_cons]
    refine ⟨?_, ?_, ?_, List.forall_mem_nil _⟩ <;> intro h hc
    · exact (laneIssue_moves h hc (i := .vzip2 s d a b k z) (f := fun t i => (b.toNat * t.lanes + i) % 2) rfl).result
    · exact (laneIssue_moves h hc (i := .vzip3 s d a b k z) (f := fun t i => (b.toNat * t.lanes + i) % 3) rfl).result
    · exact (laneIssue_moves h hc (i := .vzip4 s d a b k z) (f := fun t i => (b.toNat * t.lanes + i) % 4) rfl).result
  · simp only [List.forall_mem_cons]
    refine ⟨?_, ?_, ?_, List.forall_mem_nil _⟩ <;> intro h hc
    · exact (laneIssue_moves h hc (i := .vunzip2 s d a b k z) (f := fun t i => (i * 2 + b.toNat) / t.lanes) rfl).result
    · exact (laneIssue_moves h hc (i := .vunzip3 s d a b k z) (f := fun t i => (i * 3 + b.toNat) / t.lanes) rfl).result
    · exact (laneIssue_moves h hc (i := .vunzip4 s d a b k z) (f := fun t i => (i * 4 + b.toNat) / t.lanes) rfl).result
  · simp only [List.forall_mem_cons]
    refine ⟨?_, ?_, ?_, ?_, ?_, ?_, List.forall_mem_nil _⟩ <;> intro hc
    · exact vreduce_folds h hc hnan (i := .vrsum s d a k) rfl
    · exact vreduce_folds h hc hnan (i := .vrmax s d a k) rfl
    · exact vreduce_folds h hc hnan (i := .vrmin s d a k) rfl
    · exact vreduce_folds h hc hnan (i := .vrand s d a k) rfl
    · exact vreduce_folds h hc hnan (i := .vror s d a k) rfl
    · exact vreduce_folds h hc hnan (i := .vrxor s d a k) rfl

end Sys2Proof.Machine
end

section
/-! SUPPORT. Elements written to tiles and read back, packed as their tag packs them, and the jobs of copy entries from their transfer to their
end (R72, R122, R177, R179 to R183, R216). -/

namespace Sys2Proof.Machine

/-! ## Elements written end to end (R72) -/

theorem writeElems_frame (l n : Nat) (vs : List Nat) (s : State) (e : Nat) :
    writeElems s l n vs e = { s with mem := (writeElems s l n vs e).mem, poison := (writeElems s l n vs e).poison } := by
  induction vs generalizing s e with
  | nil => rfl
  | cons v r ih => rw [writeElems, ih]; rfl
theorem writeElems_wf (l n : Nat) (vs : List Nat) (s : State) (e : Nat) (hw : Memory.wf s.mem = true) :
    Memory.wf (writeElems s l n vs e).mem = true := by
  induction vs generalizing s e with
  | nil => exact hw
  | cons v r ih => exact ih _ _ (State.write_wf _ _ _ _ hw)
/-- A byte outside the elements written. -/
theorem get_writeElems_out (l n : Nat) (vs : List Nat) (s : State) (e a : Nat) (hw : Memory.wf s.mem = true)
    (ha : a < l + e * n ∨ l + (e + vs.length) * n ≤ a) : Memory.get (writeElems s l n vs e).mem a = Memory.get s.mem a := by
  induction vs generalizing s e with
  | nil => rfl
  | cons v r ih =>
    have h1 : (e + 1) * n = e * n + n := Nat.succ_mul e n
    have h2 : (e + 1 + r.length) * n = e * n + n + r.length * n := by rw [Nat.add_mul, h1]
    have h3 : (e + (r.length + 1)) * n = e * n + n + r.length * n := by rw [← h2]; congr 1; omega
    rw [List.length_cons] at ha
    rw [writeElems, ih _ _ (State.write_wf _ _ _ _ hw) (by omega), State.write_mem, Memory.get_setN_out _ _ _ _ _ hw (by omega)]
/-- An element read where it was written. -/
theorem getN_writeElems (l n : Nat) (vs : List Nat) (s : State) (e x : Nat) (hw : Memory.wf s.mem = true) (hx : x < vs.length) :
    Memory.getN (writeElems s l n vs e).mem (l + (e + x) * n) n = vs.getD x 0 % 256 ^ n := by
  induction vs generalizing s e x with
  | nil => exact absurd hx (Nat.not_lt_zero x)
  | cons v r ih =>
    rw [writeElems]
    cases x with
    | zero =>
      have h1 : (e + 1) * n = e * n + n := Nat.succ_mul e n
      rw [Nat.add_zero e, Memory.getN_congr _ (s.write (l + e * n) n v).mem]
      · exact Memory.getN_setN _ _ _ _ hw
      · exact fun i hi => get_writeElems_out _ _ _ _ _ _ (State.write_wf _ _ _ _ hw) (.inl (by omega))
    | succ x =>
      rw [show e + (x + 1) = e + 1 + x by omega]
      exact ih _ _ _ (State.write_wf _ _ _ _ hw) (Nat.lt_of_succ_lt_succ hx)

/-! ## Elements of a tile (R72, R122) -/

/-- A register element as one that memory holds packed is read: six bits of a TAP6, the sign extension of four of an INT4 (R72). -/
def ElemFits (t : Tag) (y : Nat) : Prop := (t = .tap6 → y < 64) ∧ (t = .int4 → trunc 8 (sgn 4 y) = y)

theorem trunc_lt (w : Nat) (v : Int) : trunc w v < 2 ^ w := by
  have := Int.emod_lt_of_pos v (show (0 : Int) < (2 ^ w : Nat) by positivity)
  have := trunc_emod w v
  omega
theorem sgn_trunc {w v : Nat} (h : w ≤ v) (x : Int) : sgn w (trunc v x) = x.bmod (2 ^ w) := by
  have hd : ((2 ^ w : Nat) : Int) ∣ (2 ^ v : Nat) := Int.natCast_dvd_natCast.mpr (Nat.pow_dvd_pow 2 h)
  rw [sgn_eq_bmod, trunc_emod, ← Int.emod_bmod, Int.emod_emod_of_dvd _ hd, Int.emod_bmod]
theorem elemFits_zero (t : Tag) : ElemFits t 0 := ⟨fun _ => by decide, fun _ => by decide⟩
theorem elemFits_fromMem (t : Tag) (p v : Nat) : ElemFits t (fromMem t p v) := by
  constructor
  · rintro rfl
    exact Nat.mod_lt _ (by decide)
  · rintro rfl
    rw [fromMem, sgn_trunc (by decide), sgn_eq_bmod, Int.bmod_bmod]
/-- Every element of a window as it is read fits its tag. -/
theorem readWindow_fits {s : State} {j : EJob} {e : CopyEntry} {n : Nat} {v : List Nat} (h : readWindow s j e n = .ok v) :
    v.length = n ∧ ∀ y ∈ v, ElemFits e.fmt y := by
  induction n generalizing v with
  | zero =>
    cases h
    exact ⟨rfl, fun y hy => absurd hy List.not_mem_nil⟩
  | succ n ih =>
    rw [readWindow] at h
    split at h
    next => cases h
    next l hl =>
      obtain ⟨hlen, hfit⟩ := ih hl
      have hend : ∃ y, v = l ++ [y] ∧ ElemFits e.fmt y := by
        split at h
        next => cases h; exact ⟨0, rfl, elemFits_zero _⟩
        next =>
          simp only at h
          split at h
          next => cases h; exact ⟨_, rfl, elemFits_fromMem ..⟩
          next => cases h
      obtain ⟨y, rfl, hy⟩ := hend
      refine ⟨by rw [List.length_append, hlen]; rfl, fun x hx => ?_⟩
      rcases List.mem_append.mp hx with hx | hx
      · exact hfit x hx
      · exact List.mem_singleton.mp hx ▸ hy
/-- The units of a tile, each of the bytes of a memory access. -/
theorem packUnits_length (t : Tag) {v : List Nat} (hv : v.length = 1024) (ht : t ≠ .none) : (packUnits t v).length * t.mbytes = tileBytes t := by
  cases t with
  | none => exact absurd rfl ht
  | _ => simp [packUnits, hv, Tag.mbytes, Tag.ebits, tileBytes]
theorem getD_map_range (f : Nat → Nat) {n i : Nat} (h : i < n) : ((List.range n).map f).getD i 0 = f i := by
  rw [List.getD_eq_getElem?_getD, List.getElem?_map, List.getElem?_range h, Option.map_some, Option.getD_some]
/-- The six-bit fields of `n` elements, one above the other. -/
def sixBits (y : Nat → Nat) (n : Nat) : Nat := (List.range n).foldl (fun a i => a + y i % 64 * 2 ^ (6 * i)) 0
theorem sixBits_succ (y : Nat → Nat) (n : Nat) : sixBits y (n + 1) = sixBits y n + y n % 64 * 2 ^ (6 * n) := by
  rw [sixBits, List.range_succ, List.foldl_append]
  rfl
theorem sixBits_lt (y : Nat → Nat) (n : Nat) : sixBits y n < 2 ^ (6 * n) := by
  induction n with
  | zero => exact Nat.one_pos
  | succ n ih =>
    have h : y n % 64 * 2 ^ (6 * n) ≤ 63 * 2 ^ (6 * n) := Nat.mul_le_mul_right _ (by omega)
    have hp : 2 ^ (6 * (n + 1)) = 64 * 2 ^ (6 * n) := by rw [Nat.mul_add, Nat.pow_add, Nat.mul_comm]
    rw [sixBits_succ]
    omega
theorem sixBits_field (y : Nat → Nat) {n j : Nat} (hj : j < n) : sixBits y n / 2 ^ (6 * j) % 64 = y j % 64 := by
  induction n with
  | zero => exact absurd hj (Nat.not_lt_zero j)
  | succ n ih =>
    rw [sixBits_succ]
    rcases Nat.lt_succ_iff_lt_or_eq.mp hj with hjn | rfl
    · have hp : 2 ^ (6 * n) = 64 * 2 ^ (6 * (n - j - 1)) * 2 ^ (6 * j) := by
        rw [show 6 * n = 6 + 6 * (n - j - 1) + 6 * j by omega, Nat.pow_add, Nat.pow_add]
      rw [hp, ← Nat.mul_assoc, Nat.add_mul_div_right _ _ (by positivity), ← Nat.mul_assoc, Nat.mul_comm (y n % 64), Nat.mul_assoc,
        Nat.add_mul_mod_self_left, ih hjn]
    · rw [Nat.add_mul_div_right _ _ (by positivity), Nat.div_eq_of_lt (sixBits_lt y j), Nat.zero_add, Nat.mod_mod]
/-- The value of a TAP6 element in its group, and of an INT4 element in its byte (R72). -/
theorem packUnits_tap6 (v : List Nat) : packUnits .tap6 v = (List.range 256).map (fun g => sixBits (fun i => v.getD (4 * g + i) 0) 4) := rfl
theorem packUnits_int4 (v : List Nat) : packUnits .int4 v =
    (List.range 512).map (fun g => v.getD (2 * g) 0 % 16 + 16 * (v.getD (2 * g + 1) 0 % 16)) := rfl
theorem tap6_group (v : List Nat) {x : Nat} (hx : x < 1024) :
    fromMem .tap6 (x % 4) ((packUnits .tap6 v).getD (x / 4) 0 % 256 ^ 3) = v.getD x 0 % 64 := by
  have hlt : sixBits (fun i => v.getD (4 * (x / 4) + i) 0) 4 < 256 ^ 3 := sixBits_lt _ 4
  rw [packUnits_tap6, getD_map_range _ (by omega), Nat.mod_eq_of_lt hlt, fromMem, Nat.shiftRight_eq_div_pow, sixBits_field _ (Nat.mod_lt _ (by decide)),
    Nat.div_add_mod]
theorem int4_byte (v : List Nat) {x : Nat} (hx : x < 1024) :
    fromMem .int4 (x % 2) ((packUnits .int4 v).getD (x / 2) 0 % 256 ^ 1) = trunc 8 (sgn 4 (v.getD x 0)) := by
  have hunit : (packUnits .int4 v).getD (x / 2) 0 = v.getD (2 * (x / 2)) 0 % 16 + 16 * (v.getD (2 * (x / 2) + 1) 0 % 16) := by
    rw [packUnits_int4, getD_map_range _ (by omega)]
  obtain ⟨g, j, rfl, hj⟩ : ∃ g j, x = 2 * g + j ∧ j < 2 := ⟨x / 2, x % 2, by omega, by omega⟩
  rw [show (2 * g + j) / 2 = g by omega] at hunit ⊢
  rw [hunit, show (2 * g + j) % 2 = j by omega, fromMem, Nat.shiftRight_eq_div_pow, ← sgn_mod 4, ← sgn_mod 4 (v.getD (2 * g + j) 0)]
  refine congrArg (fun y => trunc 8 (sgn 4 y)) ?_
  interval_cases j
  · norm_num
  · norm_num
    omega
/-- An element is found again in the units that hold it. -/
theorem elemOf_units {m : List Host.Cell} {l : Nat} {t : Tag} {v : List Nat} (ht : t ≠ .none) (hv : v.length = 1024)
    (hfit : ∀ y ∈ v, ElemFits t y)
    (hm : ∀ x < (packUnits t v).length, Memory.getN m (l + x * t.mbytes) t.mbytes = (packUnits t v).getD x 0 % 256 ^ t.mbytes)
    {x : Nat} (hx : x < 1024) : elemOf m l t x = v.getD x 0 % 2 ^ t.ebits := by
  have hmem : v.getD x 0 ∈ v := by
    rw [List.getD_eq_getElem _ _ (hv ▸ hx)]
    exact List.getElem_mem _
  by_cases h6 : t = .tap6
  · subst h6
    have hlt := (hfit _ hmem).1 rfl
    have hg : Memory.getN m (l + x / 4 * 3) 3 = (packUnits .tap6 v).getD (x / 4) 0 % 256 ^ 3 :=
      hm (x / 4) (by rw [packUnits_tap6, List.length_map, List.length_range]; omega)
    have he : elemOf m l .tap6 x = fromMem .tap6 (x % 4) (Memory.getN m (l + 3 * (x / 4)) 3) := rfl
    rw [he, Nat.mul_comm 3, hg, tap6_group v hx, Nat.mod_eq_of_lt hlt, Nat.mod_eq_of_lt (hlt.trans (by decide))]
  by_cases h4 : t = .int4
  · subst h4
    have hfix := (hfit _ hmem).2 rfl
    have hg : Memory.getN m (l + x / 2 * 1) 1 = (packUnits .int4 v).getD (x / 2) 0 % 256 ^ 1 :=
      hm (x / 2) (by rw [packUnits_int4, List.length_map, List.length_range]; omega)
    have he : elemOf m l .int4 x = fromMem .int4 (x % 2) (Memory.getN m (l + x / 2) 1) := rfl
    have hlt : v.getD x 0 < 2 ^ 8 := by
      have := trunc_lt 8 (sgn 4 (v.getD x 0))
      rwa [hfix] at this
    rw [he, ← Nat.mul_one (x / 2), hg, int4_byte v hx, hfix]
    exact (Nat.mod_eq_of_lt hlt).symm
  · have hpack : packUnits t v = v := by
      unfold packUnits
      split <;> [exact absurd rfl h6; exact absurd rfl h4; rfl]
    have he : elemOf m l t x = Memory.getN m (l + x * t.mbytes) t.mbytes := by
      unfold elemOf
      split <;> [exact absurd rfl h6; exact absurd rfl h4; rfl]
    have hw : t.ebits = 8 * t.mbytes := by cases t <;> trivial
    rw [hpack] at hm
    rw [he, hm x (hv ▸ hx), hw, Nat.pow_mul]

/-! ## Tiles (R122, R180) -/

theorem slot_modTables (s : State) (c d : CtxId) (f : Ctxt → Ctxt) : (s.modTables c f).slot d =
    if d = c then { s.slot c with cx := f (s.slot c).cx, ck := (s.slot c).ck.map (fun k => { k with cx := f k.cx }) } else s.slot d := by
  by_cases h : d = c
  · rw [if_pos h, h, State.modTables, State.modSlot, State.slot_setSlot]
  · rw [if_neg h, State.modTables, State.modSlot, State.slot_setSlot_ne _ _ _ _ h]
theorem Ctxt.setTile_storage (x : Ctxt) (h k : Nat) (v : Tile) (hv : v.storage = (x.tile h).storage) :
    ((x.setTile h v).tile k).storage = (x.tile k).storage := by
  unfold Ctxt.setTile
  split
  next hh =>
    simp only [Ctxt.tile, dif_pos hh] at hv ⊢
    split
    next hk => by_cases e : h = k <;> simp_all
    next => rfl
  next => rfl
/-- A tile's update leaves where tiles stand. -/
theorem tileOf_modTile_storage (s : State) (c d : CtxId) (h k : Nat) (f : Tile → Tile) (hf : ∀ t, (f t).storage = t.storage) :
    ((s.modTile c h f).tileOf d k).storage = (s.tileOf d k).storage := by
  rw [State.tileOf, State.modTile, slot_modTables]
  split
  next hd =>
    subst hd
    refine Ctxt.setTile_storage _ _ _ _ ?_
    dsimp only
    split
    · exact hf _
    · rfl
  next => rfl

theorem writeElems_tileOf (l n : Nat) (vs : List Nat) (s : State) (e : Nat) (c : CtxId) (h : Nat) :
    (writeElems s l n vs e).tileOf c h = s.tileOf c h := by
  rw [writeElems_frame]
  rfl
theorem writeTile_clusters (s : State) (c : CtxId) (h : Nat) (t : Tag) (v : List Nat) (aon : Bool) :
    (writeTile s c h t v aon).clusters = s.clusters := by
  have he : (writeElems s (privLoc c.core (s.tileOf c h).storage.toNat) t.mbytes (packUnits t v) 0).clusters = s.clusters := by
    rw [writeElems_frame]
  cases aon <;> exact he
theorem writeTile_mem (s : State) (c : CtxId) (h : Nat) (t : Tag) (v : List Nat) (aon : Bool) : (writeTile s c h t v aon).mem =
    (writeElems s (privLoc c.core (s.tileOf c h).storage.toNat) t.mbytes (packUnits t v) 0).mem := by
  cases aon <;> rfl
theorem writeTile_storage (s : State) (c d : CtxId) (h k : Nat) (t : Tag) (v : List Nat) (aon : Bool) :
    ((writeTile s c h t v aon).tileOf d k).storage = (s.tileOf d k).storage := by
  cases aon with
  | false => exact congrArg Tile.storage (writeElems_tileOf ..)
  | true =>
    refine (tileOf_modTile_storage _ c d h k (fun x => { x with version := x.version + 2 }) (fun _ => rfl)).trans ?_
    exact congrArg Tile.storage (writeElems_tileOf ..)

/-- What stands in the bytes of a tile does not depend on any other byte. -/
theorem elemOf_congr {m m' : List Host.Cell} {l : Nat} {t : Tag} (ht : t ≠ .none)
    (h : ∀ a, l ≤ a → a < l + tileBytes t → Memory.get m' a = Memory.get m a) {x : Nat} (hx : x < 1024) : elemOf m' l t x = elemOf m l t x := by
  have hn (o n : Nat) (ho : o + n ≤ tileBytes t) : Memory.getN m' (l + o) n = Memory.getN m (l + o) n :=
    Memory.getN_congr _ _ _ _ (fun i hi => h _ (by omega) (by omega))
  unfold elemOf
  split
  next => rw [hn _ 3 (by simp only [tileBytes]; omega)]
  next => rw [hn _ 1 (by simp only [tileBytes]; omega)]
  next h6 h4 =>
    refine hn _ _ ?_
    have hb : tileBytes t = 1024 * t.mbytes := by cases t <;> trivial
    rw [hb, ← Nat.succ_mul]
    exact Nat.mul_le_mul_right _ hx

/-- A window of elements. -/
def TileVals (t : Tag) (v : List Nat) : Prop := t ≠ .none ∧ v.length = 1024 ∧ ∀ y ∈ v, ElemFits t y

section
variable {t : Tag} {v : List Nat} (hv : TileVals t v) {s : State} (hw : Memory.wf s.mem = true) (c : CtxId) (h : Nat) (aon : Bool)
include hv hw

/-- A tile holds what is written to it, and no byte outside it changes. -/
theorem writeTile_spec :
    let l := privLoc c.core (s.tileOf c h).storage.toNat
    let u := writeTile s c h t v aon
    Memory.wf u.mem = true ∧ (∀ x < 1024, elemOf u.mem l t x = v.getD x 0 % 2 ^ t.ebits) ∧
      ∀ a, a < l ∨ l + tileBytes t ≤ a → Memory.get u.mem a = Memory.get s.mem a := by
  obtain ⟨ht, hlen, hfit⟩ := hv
  intro l u
  have hm : u.mem = (writeElems s l t.mbytes (packUnits t v) 0).mem := writeTile_mem ..
  rw [hm]
  refine ⟨writeElems_wf _ _ _ _ _ hw, fun x hx => elemOf_units ht hlen hfit (fun i hi => ?_) hx, fun a ha => get_writeElems_out _ _ _ _ _ _ hw ?_⟩
  · rw [← getN_writeElems l t.mbytes _ s 0 i hw hi, Nat.zero_add]
  · rwa [Nat.zero_add, packUnits_length t hlen ht, Nat.zero_mul, Nat.add_zero]

end

/-- Tiles written one after the other, at locations that do not overlap. -/
theorem writeTiles_spec {t : Tag} {v : List Nat} (hv : TileVals t v) (h : Nat) (aon : Bool) (at_ : CtxId → Nat) (owners : List CtxId)
    (hsep : owners.Pairwise (fun c d => at_ c + tileBytes t ≤ at_ d ∨ at_ d + tileBytes t ≤ at_ c)) (s : State) (hw : Memory.wf s.mem = true)
    (hat : ∀ c, at_ c = privLoc c.core (s.tileOf c h).storage.toNat) :
    let u := owners.foldl (fun s c => writeTile s c h t v aon) s
    u.clusters = s.clusters ∧ (∀ c ∈ owners, ∀ x < 1024, elemOf u.mem (at_ c) t x = v.getD x 0 % 2 ^ t.ebits) ∧
      ∀ a, (∀ c ∈ owners, a < at_ c ∨ at_ c + tileBytes t ≤ a) → Memory.get u.mem a = Memory.get s.mem a := by
  induction owners generalizing s with
  | nil => exact ⟨rfl, fun c hc => absurd hc List.not_mem_nil, fun _ _ => rfl⟩
  | cons c r ih =>
    obtain ⟨hc, hr⟩ := List.pairwise_cons.mp hsep
    obtain ⟨hw', helem, hframe⟩ := writeTile_spec hv hw c h aon
    rw [← hat c] at helem hframe
    obtain ⟨hcl, hrest, hout⟩ := ih hr (writeTile s c h t v aon) hw' (fun d => by rw [writeTile_storage, hat d])
    refine ⟨hcl.trans (writeTile_clusters ..), fun d hd x hx => ?_, fun a ha => ?_⟩
    · rcases List.mem_cons.mp hd with rfl | hd
      · rw [List.foldl_cons, elemOf_congr hv.1 (fun a h1 h2 => hout a (fun d hd => ?_)) hx, helem x hx]
        have := hc d hd
        omega
      · exact hrest d hd x hx
    · rw [List.foldl_cons, hout a (fun d hd => ha d (List.mem_cons_of_mem _ hd)), hframe a (ha c List.mem_cons_self)]

/-- The scratchpads of two cores share no byte. -/
theorem privLoc_apart {k k' : CoreId} (hne : k ≠ k') (hk : k.cl.ok = true ∧ k.n < 8) (hk' : k'.cl.ok = true ∧ k'.n < 8) {o o' n : Nat}
    (ho : o + n ≤ 0x8000) (ho' : o' + n ≤ 0x8000) : privLoc k o + n ≤ privLoc k' o' ∨ privLoc k' o' + n ≤ privLoc k o := by
  obtain ⟨⟨m, x, y⟩, i⟩ := k
  obtain ⟨⟨m', x', y'⟩, i'⟩ := k'
  simp only [ClusterId.ok, Bool.and_eq_true, decide_eq_true_eq] at hk hk'
  simp only [privLoc, globLoc]
  by_contra hcon
  refine hne ?_
  have : m = m' ∧ y = y' ∧ x = x' ∧ i = i' := by omega
  obtain ⟨rfl, rfl, rfl, rfl⟩ := this
  rfl

/-! ## Jobs and statuses under updates (R216) -/

/-- The jobs of a cluster with one replaced. -/
theorem find_job_replace {l : List EJob} {n : Nat} {j j' : EJob} (h : l.find? (fun x => x.uid = n) = some j) (hj : j'.uid = n) :
    (l.map (fun x => if x.uid = j'.uid then j' else x)).find? (fun x => x.uid = n) = some j' := by
  subst hj
  have hp : ((fun x : EJob => decide (x.uid = j'.uid)) ∘ fun x => if x.uid = j'.uid then j' else x) = fun x => decide (x.uid = j'.uid) := by
    funext x
    by_cases hx : x.uid = j'.uid <;> simp [hx]
  rw [List.find?_map, hp, h, Option.map_some, if_pos (by simpa using List.find?_some h)]
theorem job_setJob {s : State} {cl : ClusterId} {n : Nat} {j j' : EJob} (h : (s.cluster cl).job n = some j) (hj : j'.uid = j.uid) :
    ((s.setJob cl j').cluster cl).job n = some j' := by
  have hn : j.uid = n := by simpa using List.find?_some h
  rw [State.setJob, State.cluster_modCluster, if_pos rfl]
  exact find_job_replace h (hj.trans hn)
theorem job_modCopy (s : State) (cl k : ClusterId) (g i n : Nat) (f : CopyStatus → CopyStatus) :
    ((modCopy s cl g i f).cluster k).job n = (s.cluster k).job n := by
  rw [modCopy, State.cluster_modCluster]
  split <;> rfl
/-- The status of the entry changed. -/
theorem walk_modCopy {s : State} {cl : ClusterId} {g i : Nat} (f : CopyStatus → CopyStatus) {x : CopyStatus}
    (h : (kget (s.cluster cl).walk g [])[i]? = some x) : (kget ((modCopy s cl g i f).cluster cl).walk g [])[i]? = some (f x) := by
  rw [modCopy, State.cluster_modCluster, if_pos rfl]
  dsimp only
  rw [kget_kset_self, List.getElem?_mapIdx, h, Option.map_some, if_pos rfl]
/-- A transfer that has been made, or met a fault. -/
theorem copyWorked_job {s : State} {cl : ClusterId} {n : Nat} {j : EJob} (i bad : Nat) (cause : BitVec 9)
    (h : (s.cluster cl).job n = some j) :
    ((copyWorked s cl j i bad cause).cluster cl).job n = some { j with running := true, worked := true, bad := bad, cause := cause } := by
  rw [copyWorked, job_modCopy]
  exact job_setJob h rfl
theorem copyReady_job {s : State} {cl : ClusterId} {n i : Nat} {p : CopyEntry → Bool} {j : EJob} {e : CopyEntry}
    (h : copyReady s cl n p = some (j, i, e)) : (s.cluster cl).job n = some j := by
  unfold copyReady at h
  split at h
  next j' hj' =>
    split at h
    next =>
      split at h
      next => cases h; exact hj'
      next => cases h
    next => cases h
  next => cases h

/-! ## Transfers (R179, R180) -/

/-- A COPY into a tile and a MULTICAST. -/
theorem copyInto_ok {s : State} {cl : ClusterId} {n i : Nat} {p : CopyEntry → Bool} {j : EJob} {e : CopyEntry} {v : List Nat}
    (hr : copyReady s cl n p = some (j, i, e)) (hv : readWindow s j e 1024 = .ok v) : copyInto s cl n p =
      copyWorked ((j.tiles.map (·.1)).foldl (fun s c => writeTile s c e.handle e.fmt v e.aon) s) cl j i 0 0 := by
  simp only [copyInto, hr, hv]

/-- Memory and marks may have changed; the clusters are as they were. -/
theorem homeWrite_clusters (s : State) (w : Who) (a : DWord) (l n v m : Nat) : (s.homeWrite w a l n v m).clusters = s.clusters := by
  unfold State.homeWrite
  split
  · rfl
  · split
    · rfl
    · rfl
    · split <;> rfl
theorem engineStore_clusters {s u : State} {j : EJob} {x : StoreElem} (h : engineStore s j x = .ok u) : u.clusters = s.clusters := by
  have hinv : ∀ v : State, engineStore s j x = .ok v → v.clusters = s.clusters := by
    refine List.foldlRecOn (motive := fun acc => ∀ v : State, acc = Except.ok v → v.clusters = s.clusters) _ _ ?_ ?_
    · rintro v ⟨⟩
      rfl
    · intro acc hacc p _ v hv
      split at hv
      next => cases hv
      next w =>
        split at hv
        next => cases hv
        next => cases hv
        next =>
          dsimp only at hv
          split at hv
          · cases hv
          · cases hv
            exact (homeWrite_clusters ..).trans (hacc w rfl)
  exact hinv u h
theorem writeWindow_clusters (j : EJob) (e : CopyEntry) (vs : List Nat) (s : State) (i : Nat) :
    (writeWindow j e vs s i).1.clusters = s.clusters := by
  induction vs generalizing s i with
  | nil => rfl
  | cons v r ih =>
    rw [writeWindow]
    split
    next => exact ih s _
    next =>
      dsimp only
      split
      next u hu => exact (ih u _).trans (engineStore_clusters hu)
      next => rfl

/-- A tile that a copy out drains. -/
def Tile.drained (t : Tile) : Tile := if t.state = .ready then { t with state := .draining } else t
theorem Tile.drained_storage (t : Tile) : t.drained.storage = t.storage := by
  unfold Tile.drained
  split <;> rfl
/-- A COPY out whose window takes every element. -/
theorem copyOut_ok {s u : State} {cl : ClusterId} {n i : Nat} {j : EJob} {e : CopyEntry}
    (hr : copyReady s cl n (fun e => e.kind = 0 && e.out) = some (j, i, e)) {l : Nat}
    (hl : l = privLoc j.owner.core (s.tileOf j.owner e.handle).storage.toNat) (hp : s.poisoned l (tileBytes e.fmt) = false)
    (hu : writeWindow j e (((List.range 1024).map (elemOf s.mem l e.fmt)).drop j.left) (s.modTile j.owner e.handle Tile.drained) j.left = (u, none)) :
    exec (.copyOut cl n) s = .next (copyWorked u cl j i 0 0) := by
  have hx : exec (.copyOut cl n) s = execCopyOut cl n s := rfl
  have hl' : privLoc j.owner.core ((s.modTile j.owner e.handle Tile.drained).tileOf j.owner e.handle).storage.toNat = l := by
    rw [tileOf_modTile_storage _ _ _ _ _ _ Tile.drained_storage, hl]
  have hp' : (s.modTile j.owner e.handle Tile.drained).poisoned l (tileBytes e.fmt) = false := hp
  have hu' : writeWindow j e (((List.range 1024).map (elemOf (s.modTile j.owner e.handle Tile.drained).mem l e.fmt)).drop j.left)
      (s.modTile j.owner e.handle Tile.drained) j.left = (u, none) := hu
  unfold Tile.drained at hl' hp' hu'
  rw [hx]
  simp only [execCopyOut, hr, hl', hp', hu', Bool.false_eq_true, if_false]

/-! ## The end of an entry (R177, R180) -/

/-- Memory, the numbers of the jobs, the statuses of entries, and which contexts a gang holds and which run its tasks are as they were. -/
structure EntryStands (s t : State) : Prop where
  mem : t.mem = s.mem
  uids : ∀ k, (t.cluster k).jobs.map (·.uid) = (s.cluster k).jobs.map (·.uid)
  walk : ∀ k, (t.cluster k).walk = (s.cluster k).walk
  held : ∀ g, (t.gang g).held = (s.gang g).held
  tasks : ∀ c, (t.slot c).gang = (s.slot c).gang

theorem EntryStands.refl (s : State) : EntryStands s s := ⟨rfl, fun _ => rfl, fun _ => rfl, fun _ => rfl, fun _ => rfl⟩
theorem EntryStands.trans {s t u : State} (h : EntryStands s t) (h' : EntryStands t u) : EntryStands s u :=
  ⟨h'.mem.trans h.mem, fun k => (h'.uids k).trans (h.uids k), fun k => (h'.walk k).trans (h.walk k), fun g => (h'.held g).trans (h.held g),
    fun c => (h'.tasks c).trans (h.tasks c)⟩
theorem EntryStands.foldl {α : Type} {f : State → α → State} (h : ∀ s a, EntryStands s (f s a)) (l : List α) (s : State) :
    EntryStands s (l.foldl f s) :=
  List.foldlRecOn l f (.refl s) (fun t ht a _ => ht.trans (h t a))
theorem EntryStands.modTables (s : State) (c : CtxId) (f : Ctxt → Ctxt) : EntryStands s (s.modTables c f) := by
  refine ⟨rfl, fun _ => rfl, fun _ => rfl, fun _ => rfl, fun d => ?_⟩
  rw [slot_modTables]
  split
  next h => rw [h]
  next => rfl
theorem EntryStands.modGang (s : State) (g : Nat) (f : Gang → Gang) (h : ∀ x, (f x).held = x.held) : EntryStands s (s.modGang g f) := by
  refine ⟨rfl, fun _ => rfl, fun _ => rfl, fun i => ?_, fun _ => rfl⟩
  rw [State.gang_modGang]
  split
  · exact h _
  · rfl
theorem EntryStands.setJob (s : State) (cl : ClusterId) (j : EJob) : EntryStands s (s.setJob cl j) := by
  have hc (k : ClusterId) : ((s.setJob cl j).cluster k).jobs.map (·.uid) = (s.cluster k).jobs.map (·.uid) ∧
      ((s.setJob cl j).cluster k).walk = (s.cluster k).walk := by
    rw [State.setJob, State.cluster_modCluster]
    split
    next =>
      refine ⟨?_, rfl⟩
      rw [List.map_map]
      refine List.map_congr_left fun x _ => ?_
      by_cases hx : x.uid = j.uid <;> simp [hx]
    next => exact ⟨rfl, rfl⟩
  exact ⟨rfl, fun k => (hc k).1, fun k => (hc k).2, fun _ => rfl, fun _ => rfl⟩

theorem barArrive_entryStands (s : State) (g : Nat) (n : BitVec 6) (p : Bool) : EntryStands s (barArrive s g n p) := by
  unfold barArrive barComplete
  extract_lets t b deliver u
  have ht : EntryStands s t := .modGang _ _ _ (fun _ => rfl)
  split
  · exact ht
  · have hu : EntryStands t u := .foldl (f := fun s c => s.modTables c deliver) (fun s c => .modTables s c deliver) _ t
    exact (ht.trans hu).trans (.modGang _ _ _ (fun _ => rfl))
theorem engineArrive_entryStands (s : State) (g : Nat) (a : Bool) (n : BitVec 6) (p : Bool) : EntryStands s (engineArrive s g a n p) := by
  unfold engineArrive
  split
  · exact barArrive_entryStands ..
  · exact .refl s
theorem passPrior_entryStands (s : State) (c : CtxId) (h : Nat) (p : Tag × TileState) : EntryStands s (passPrior s c h p) := by
  unfold passPrior
  split
  · exact .refl s
  · exact .setJob ..
theorem endWriter_entryStands (j : EJob) (w : Bool) (s : State) (c : CtxId) (h : Nat) : EntryStands s (endWriter j w s c h) := by
  unfold endWriter
  extract_lets t more p
  split
  · exact (EntryStands.modTables ..).trans (passPrior_entryStands ..)
  · split
    · exact passPrior_entryStands ..
    · exact .modTables ..
theorem endTiles_entryStands (j : EJob) (w : Bool) (s : State) : EntryStands s (endTiles j w s) :=
  .foldl (f := fun s (t : CtxId × Nat × Bool) => endWriter j w s t.1 t.2.1) (fun s t => endWriter_entryStands j w s t.1 t.2.1) _ s
theorem endCopyOut_entryStands (s : State) (c : CtxId) (h : Nat) : EntryStands s (endCopyOut s c h) := by
  unfold endCopyOut
  split
  · exact .refl s
  · split
    · exact .modTables ..
    · exact .refl s
    · exact (passPrior_entryStands ..).trans (.modTables ..)

theorem copyLeave_entryStands (s : State) (cl : ClusterId) (j : EJob) (e : CopyEntry) (w : Bool) :
    EntryStands (s.dropJob cl j.uid) (copyLeave s cl j e w) := by
  unfold copyLeave
  extract_lets t u
  have hu : EntryStands t u := ⟨rfl, fun _ => rfl, fun _ => rfl, fun _ => rfl, fun _ => rfl⟩
  split
  · exact hu.trans (endCopyOut_entryStands ..)
  · exact hu.trans (endTiles_entryStands ..)
theorem job_none_iff {c : Cluster} {n : Nat} : c.job n = none ↔ n ∉ c.jobs.map (·.uid) := by
  simp only [Cluster.job, List.find?_eq_none, decide_eq_true_eq, List.mem_map, not_exists, not_and]
theorem EntryStands.job_none {s t : State} (h : EntryStands s t) {cl : ClusterId} {n : Nat} (hn : (s.cluster cl).job n = none) :
    (t.cluster cl).job n = none := by
  rw [job_none_iff] at hn ⊢
  rwa [h.uids cl]
theorem dropJob_job (s : State) (cl : ClusterId) (n : Nat) : ((s.dropJob cl n).cluster cl).job n = none := by
  rw [job_none_iff, State.dropJob, State.cluster_modCluster, if_pos rfl]
  simp
theorem dropJob_walk (s : State) (cl k : ClusterId) (n : Nat) : ((s.dropJob cl n).cluster k).walk = (s.cluster k).walk := by
  rw [State.dropJob, State.cluster_modCluster]
  split <;> rfl
/-- A gang with a task that has not ended does not end. -/
theorem settle_of_task {s : State} {g : Nat} {c : CtxId} (hc : c ∈ (s.gang g).held) (hg : (s.slot c).gang = some g) : s.settle g = s := by
  have hheld : (s.gang g).held.all (fun c => decide ((s.slot c).gang ≠ some g)) = false := by
    rw [List.all_eq_false]
    exact ⟨c, hc, by simp [hg]⟩
  have htasks : tasksDone s g = false := by simp only [tasksDone, hheld, Bool.and_false, Bool.false_and]
  rw [State.settle, if_neg (by simp [gangDone, htasks])]
/-- An entry leaves the scheduler, its status is set and it arrives where its card says so. -/
theorem entry_ends (s : State) (cl : ClusterId) (j : EJob) (e : CopyEntry) (i : Nat) (w a p : Bool) (b : BitVec 6) (f : CopyStatus → CopyStatus)
    (ht : ∃ c ∈ (s.gang j.gang).held, (s.slot c).gang = some j.gang) :
    let u := engineArrive (modCopy (copyLeave s cl j e w) cl j.gang i f) j.gang a b p
    u.settle j.gang = u ∧ u.mem = s.mem ∧ (u.cluster cl).job j.uid = none ∧
      ∀ x, (kget (s.cluster cl).walk j.gang [])[i]? = some x → (kget (u.cluster cl).walk j.gang [])[i]? = some (f x) := by
  obtain ⟨c, hc, hg⟩ := ht
  intro u
  have hl := copyLeave_entryStands s cl j e w
  have hu : EntryStands _ u := engineArrive_entryStands (modCopy (copyLeave s cl j e w) cl j.gang i f) j.gang a b p
  refine ⟨settle_of_task (c := c) ?_ ?_, hu.mem.trans hl.mem, hu.job_none ?_, fun x hx => ?_⟩
  · rw [hu.held]
    exact (hl.held j.gang).symm ▸ hc
  · exact (hu.tasks c).trans ((hl.tasks c).trans hg)
  · rw [job_modCopy]
    exact hl.job_none (dropJob_job ..)
  · rw [hu.walk]
    exact walk_modCopy f (by rw [hl.walk, dropJob_walk, hx])

/-! ## Decoders (R181 to R183) -/

theorem frameTile_clusters (b : List Byte) (f : Nat) (e : CopyEntry) (bad : Bool) (s : State) (x : CtxId × Nat × Nat × Nat × Nat) :
    (frameTile b f e bad s x).clusters = s.clusters := by
  obtain ⟨c, h, plane, tx, ty⟩ := x
  exact (writeTile_clusters ..).trans rfl
theorem frameTiles_clusters (b : List Byte) (f : Nat) (e : CopyEntry) (bad : Bool) (l : List (CtxId × Nat × Nat × Nat × Nat)) (s : State) :
    (l.foldl (frameTile b f e bad) s).clusters = s.clusters :=
  List.foldlRecOn (motive := fun t => t.clusters = s.clusters) l _ rfl (fun t ht x _ => (frameTile_clusters b f e bad t x).trans ht)

theorem barArrive_clusters (s : State) (g : Nat) (n : BitVec 6) (p : Bool) : (barArrive s g n p).clusters = s.clusters := by
  unfold barArrive barComplete
  extract_lets t b deliver u
  split
  · rfl
  · have hu : u.clusters = s.clusters :=
      List.foldlRecOn (motive := fun v : State => v.clusters = s.clusters) _ (fun (v : State) c => v.modTables c deliver) rfl (fun v hv c _ => hv)
    exact hu
theorem engineArrive_clusters (s : State) (g : Nat) (a : Bool) (n : BitVec 6) (p : Bool) : (engineArrive s g a n p).clusters = s.clusters := by
  unfold engineArrive
  split
  · exact barArrive_clusters ..
  · rfl
/-- A job goes on with the status of its entry changed, and arrives where its card says so. -/
theorem entry_goes_on {s t : State} {cl : ClusterId} {n : Nat} {j j' : EJob} (ht : t.clusters = s.clusters) (h : (s.cluster cl).job n = some j)
    (hj : j'.uid = j.uid) (g i : Nat) (f : CopyStatus → CopyStatus) (a p : Bool) (b : BitVec 6) :
    let u := engineArrive (modCopy (t.setJob cl j') cl g i f) g a b p
    u.mem = t.mem ∧ (u.cluster cl).job n = some j' ∧
      ∀ x, (kget (s.cluster cl).walk g [])[i]? = some x → (kget (u.cluster cl).walk g [])[i]? = some (f x) := by
  intro u
  have hu : u.clusters = (modCopy (t.setJob cl j') cl g i f).clusters := engineArrive_clusters ..
  refine ⟨(engineArrive_entryStands ..).mem, ?_, fun x hx => ?_⟩
  · rw [State.cluster_congr hu, job_modCopy]
    exact job_setJob (by rwa [State.cluster_congr ht]) hj
  · rw [State.cluster_congr hu]
    exact walk_modCopy f (by rw [(EntryStands.setJob t cl j').walk, State.cluster_congr ht, hx])

/-- The first free decoder of a quadrant takes the card of a DECODE entry. -/
theorem decode_ok {s : State} {cl : ClusterId} {n i k : Nat} {j : EJob} {e : CopyEntry}
    (hr : copyReady s cl n (fun e => e.kind = 2) = some (j, i, e)) (hk : k < 8) (hfree : (s.decoder cl.m (8 * quadrantOf cl + k)).job = none)
    (hbusy : ∀ x < k, (s.decoder cl.m (8 * quadrantOf cl + x)).job.isSome = true) : exec (.decode cl n) s = .next
      (modCopy { s.setJob cl { j with running := true, left := bits (e.card.getD 1 0) 63 32 } with
        decoders := kset s.decoders (cl.m, 8 * quadrantOf cl + k) ⟨some (cl, n)⟩ } cl j.gang i (fun x => { x with state := .running })) := by
  have hx : exec (.decode cl n) s = execDecode cl n s := rfl
  have hfind : (List.range 8).find? (fun d => (s.decoder cl.m (8 * quadrantOf cl + d)).job.isNone) = some k := by
    rw [List.find?_range_eq_some]
    exact ⟨by simp [hfree], List.mem_range.mpr hk, fun x hx => by simpa using hbusy x hx⟩
  rw [hx]
  simp only [execDecode, hr, hfind]

/-- A decoder's job after a frame. -/
def EJob.nextFrame (j : EJob) (bad : Bool) : EJob :=
  { j with frame := j.frame + 1, left := j.left - 1, tries := 0, worked := decide (j.left = 1), badFrames := j.badFrames + (if bad then 1 else 0) }

section
variable {s : State} {cl : ClusterId} {m dec n i : Nat} {j : EJob} {e : CopyEntry} (hdec : (s.decoder m dec).job = some (cl, n))
  (hj : (s.cluster cl).job n = some j) (hkind : j.kind = .copy i e)
include hdec hj hkind

/-- A decoder waits while a tile of its crop is not free. -/
theorem decoderFrame_waits {x : CtxId × Nat × Nat × Nat × Nat} (hx : x ∈ cropTiles (s.gang j.gang) e)
    (hfree : ¬((s.tileOf x.1 x.2.1).alloc = true ∧ (s.tileOf x.1 x.2.1).state = .empty ∧ s.tileBusy x.1 x.2.1 = false)) :
    exec (.decoderFrame m dec) s = .next s := by
  have he : exec (.decoderFrame m dec) s = execDecoderFrame m dec s := rfl
  rw [he]
  simp only [execDecoderFrame, hdec, hj, hkind]
  refine congrArg _ (if_pos ?_)
  refine Bool.or_eq_true_iff.mpr (.inr ?_)
  rw [Bool.not_eq_true', List.all_eq_false]
  exact ⟨x, hx, by simpa [and_assoc] using hfree⟩
/-- A decoder whose tiles are free and stay inside the gang's regions writes its next frame and arrives. -/
theorem decoderFrame_writes {b : List Byte} (hworked : j.worked = false) (hleft : j.left ≠ 0)
    (hfree : ∀ x ∈ cropTiles (s.gang j.gang) e, (s.tileOf x.1 x.2.1).alloc = true ∧ (s.tileOf x.1 x.2.1).state = .empty ∧ s.tileBusy x.1 x.2.1 = false)
    (hb : engineStream s j (BitVec.ofNat 64 (e.card.getD 0 0)) (bits (e.card.getD 1 0) 31 0) = .ok b)
    (haway : ∀ x ∈ cropTiles (s.gang j.gang) e, tileAway s (s.gang j.gang) x.1 x.2.1 (frameTag b) = false) :
    let bad := frameCorrupt b j.frame
    exec (.decoderFrame m dec) s = .next (engineArrive
      (modCopy (((cropTiles (s.gang j.gang) e).foldl (frameTile b j.frame e bad) s).setJob cl (j.nextFrame bad)) cl j.gang i
        (fun x => { x with corrupt := Nat.min 65535 (j.nextFrame bad).badFrames })) j.gang e.arrive e.bar bad) := by
  have he : exec (.decoderFrame m dec) s = execDecoderFrame m dec s := rfl
  have hall : (cropTiles (s.gang j.gang) e).all (fun x => (s.tileOf x.1 x.2.1).alloc && (s.tileOf x.1 x.2.1).state = .empty && !s.tileBusy x.1 x.2.1) =
      true := by
    rw [List.all_eq_true]
    exact fun x hx => by simpa [and_assoc] using hfree x hx
  have hany : (cropTiles (s.gang j.gang) e).any (fun x => tileAway s (s.gang j.gang) x.1 x.2.1 (frameTag b)) = false := by
    rw [List.any_eq_false]
    exact fun x hx => by simp [haway x hx]
  rw [he]
  simp only [execDecoderFrame, hdec, hj, hkind, hworked, hall, hb, hany, decide_eq_false hleft, Bool.not_true, Bool.or_self, Bool.false_eq_true, if_false,
    EJob.nextFrame]

end

section
variable {s : State} {cl : ClusterId} {n i : Nat} {j : EJob} {e : CopyEntry} (hj : (s.cluster cl).job n = some j) (hkind : j.kind = .copy i e)
  (hworked : j.worked = true) (htask : ∃ c ∈ (s.gang j.gang).held, (s.slot c).gang = some j.gang)
include hj hkind hworked htask

theorem copyEntryComplete_done (hbad : j.bad = 0) (hctr : e.ctr = 0) : exec (.copyEntryComplete cl n) s =
    .next (engineArrive (modCopy (copyLeave s cl j e true) cl j.gang i (fun x => { x with state := .done })) j.gang (e.arrive && e.kind ≠ 2) e.bar false) := by
  have he : exec (.copyEntryComplete cl n) s = execCopyEntryComplete cl n s := rfl
  have hcount : engineCount (copyLeave s cl j e true) j e.ctr = .ok (copyLeave s cl j e true) := by
    simp only [engineCount, engineIncr, hctr, if_true]
  rw [he]
  simp only [execCopyEntryComplete, hj, hkind, hworked, hbad, hcount, ne_eq, not_true_eq_false, Bool.not_true, Bool.false_eq_true, if_false]
  exact congrArg _ (entry_ends s cl j e i true _ false _ _ htask).1
theorem copyEntryComplete_fault (hbad : j.bad ≠ 0) : exec (.copyEntryComplete cl n) s =
    .next (engineArrive (modCopy (copyLeave s cl j e false) cl j.gang i
      (fun x => { x with state := .fault, kind := BitVec.ofNat 8 j.bad, cause := j.cause, passed := true })) j.gang e.arrive e.bar true) := by
  have he : exec (.copyEntryComplete cl n) s = execCopyEntryComplete cl n s := rfl
  rw [he]
  simp only [execCopyEntryComplete, hj, hkind, hworked, hbad, ne_eq, not_false_eq_true, if_true, Bool.not_true, Bool.false_eq_true, if_false]
  exact congrArg _ (entry_ends s cl j e i false _ true _ _ htask).1

end

/-- A record loaded into a weight buffer. -/
theorem wbload_ok {s : State} {cl : ClusterId} {n i : Nat} {j : EJob} {e : CopyEntry} {ds : List Nat}
    (hr : copyReady s cl n (fun e => e.kind = 3) = some (j, i, e)) (hds : whoDwords s j.who e.base (bits e.extra.toNat 31 16) = .ok ds) :
    let u := writeElems s (wbufLoc cl (bits e.extra.toNat 15 0)) 8 ds 0
    exec (.wbload cl n) s = .next (copyWorked u cl j i 0 0) ∧ u.clusters = s.clusters := by
  have hx : exec (.wbload cl n) s = execWbload cl n s := rfl
  refine ⟨?_, by rw [writeElems_frame]⟩
  rw [hx]
  simp only [execWbload, hr, hds]

/-- Settles O40: the transfers by what they write to tiles and buffers, the decoders by their frames, and the end of an entry. -/
theorem copyEntriesAreCarriedOut : Obligations.CopyEntriesAreCarriedOut := by
  unfold Obligations.CopyEntriesAreCarriedOut
  intro s cl n i j e hw does at_
  refine ⟨fun owners v htiles hcores hfit ht hv => ?_, fun u hr hp hu => ?_, fun ds hr hds => ?_, fun k hr hk hfree hbusy => ?_,
    fun m dec b hdec hj hkind hworked hleft => ⟨?_, ?_⟩, fun hj hkind hworked htask => ?_⟩
  · have hsep : owners.Pairwise (fun c d => at_ c + tileBytes e.fmt ≤ at_ d ∨ at_ d + tileBytes e.fmt ≤ at_ c) :=
      hcores.imp_of_mem fun {c d} hc hd hne => privLoc_apart hne (hfit c hc).2 (hfit d hd).2 (hfit c hc).1 (hfit d hd).1
    obtain ⟨hlen, hfits⟩ := readWindow_fits hv
    have howners : j.tiles.map (·.1) = owners := by rw [htiles, List.map_map]; exact List.map_id _
    obtain ⟨hcl, helem, hframe⟩ := writeTiles_spec ⟨ht, hlen, hfits⟩ e.handle e.aon at_ owners hsep s hw (fun _ => rfl)
    have hdoes (p : CopyEntry → Bool) (x : Instr) (hx : exec x s = .next (copyInto s cl n p)) (hr : copyReady s cl n p = some (j, i, e)) :
        does x (fun u => (∀ c ∈ owners, ∀ x < 1024, elemOf u.mem (at_ c) e.fmt x = v.getD x 0 % 2 ^ e.fmt.ebits) ∧
          ∀ a, (∀ c ∈ owners, a < at_ c ∨ at_ c + tileBytes e.fmt ≤ a) → Memory.get u.mem a = Memory.get s.mem a) := by
      rw [copyInto_ok hr hv, howners] at hx
      refine ⟨_, hx, ⟨helem, hframe⟩, copyWorked_job i 0 0 ?_⟩
      rw [State.cluster_congr hcl]
      exact copyReady_job hr
    exact ⟨hdoes _ _ rfl, hdoes _ _ rfl⟩
  · have hdone := copyOut_ok hr rfl hp hu
    have hcl : u.clusters = s.clusters := by
      have h := writeWindow_clusters j e (((List.range 1024).map (elemOf s.mem (at_ j.owner) e.fmt)).drop j.left)
        (s.modTile j.owner e.handle Tile.drained) j.left
      rw [show writeWindow j e _ (s.modTile j.owner e.handle Tile.drained) j.left = (u, none) from hu] at h
      exact h
    refine ⟨_, hdone, ⟨rfl, rfl⟩, copyWorked_job i 0 0 ?_⟩
    rw [State.cluster_congr hcl]
    exact copyReady_job hr
  · intro l
    obtain ⟨hx, hcl⟩ := wbload_ok hr hds
    refine ⟨_, hx, ⟨fun x hx => ?_, fun a ha => ?_⟩, copyWorked_job i 0 0 ?_⟩
    · have h := getN_writeElems l 8 ds s 0 x hw hx
      rwa [Nat.zero_add, Nat.mul_comm x 8, show 256 ^ 8 = 2 ^ 64 by norm_num] at h
    · exact get_writeElems_out l 8 ds s 0 a hw (by omega)
    · rw [State.cluster_congr hcl]
      exact copyReady_job hr
  · refine ⟨_, decode_ok hr hk hfree hbusy, rfl, ?_, fun m x hne => ?_, ?_⟩
    · exact congrArg Decoder.job (kget_kset_self ..)
    · exact kget_kset_ne _ _ _ _ _ hne
    · rw [job_modCopy]
      exact job_setJob (copyReady_job hr) rfl
  · rintro ⟨x, hx, hfree⟩
    exact decoderFrame_waits hdec hj hkind hx hfree
  · intro hfree hb haway bad
    refine ⟨_, decoderFrame_writes hdec hj hkind hworked hleft hfree hb haway, ?_⟩
    exact entry_goes_on (j' := j.nextFrame bad) (frameTiles_clusters ..) hj rfl j.gang i _ e.arrive bad e.bar
  · obtain rfl : j.uid = n := by simpa using List.find?_some hj
    exact ⟨fun hbad hctr => ⟨_, copyEntryComplete_done hj hkind hworked htask hbad hctr, (entry_ends s cl j e i true _ false _ _ htask).2⟩,
      fun hbad => ⟨_, copyEntryComplete_fault hj hkind hworked htask hbad, (entry_ends s cl j e i false _ true _ _ htask).2⟩⟩

end Sys2Proof.Machine
end

section
/-! SUPPORT. A Kettle part whose operation and format do not belong together (R222): where its elements are wider than FP32, a NaN is not the one
that R69 names. -/

namespace Sys2Proof.Machine

/-- A SCALE by 1.0 of one element of eight bytes at the virtual address 0 of process 1. R222 gives SCALE the format FP32 alone, and KCMD refuses a
card that asks for this part; the statement leaves a part's format open. -/
def wideScale : KPart :=
  { uid := 1, cuid := 0, owner := ⟨⟨⟨0, 0, 0⟩, 0⟩, 0⟩, gang := 0, pid := 1, lid := 0, gen := 0, m := 0, op := 6, fmt := .fp64, ctr := false, ord := false,
    dst := 0, src := 0, s1 := 0x3F800000, s2 := 0, count := 1, ctrOff := 0, idx := 0, elems := [0], started := false, worked := false, kind := 0,
    flags := 0, out := true, seq := 0, low := 0, bad := [] }
/-- The part at the head of Kettle 0 of module 0. Its page is at the physical address 0, where the low half of the doubleword is an FP32 NaN and the
high half is 1. -/
def wideScaling : State :=
  { State.reset with
    mem := Memory.setN [] (hbmLoc 0 0) 8 0x17FC00000,
    modules := [(0, { Module.reset with pids := [(1, 1)] })],
    tlb := [{ m := 0, station := 0, pid := 1, va := 0, size := 65536, pa := 0, r := true, w := true, x := false }],
    kettles := [((0, 0), ⟨[wideScale], [], []⟩)] }

theorem wideScaling_turn : kTurn wideScaling 0 0 1 6 = some wideScale := by decide +kernel
theorem wideScaling_checked : wideScale.elems.findSome? (kElemFault wideScaling 0 wideScale) = none := by decide +kernel
/-- The machine writes the NaN of the low half, whose high half is 0. -/
theorem wideScaling_writes {u : State} (h : exec (.scale 0 0 1) wideScaling = .next u) :
    Memory.getN u.mem (kLoc wideScaling wideScale (wideScale.dstVa 0) .write) 8 = 0x7FC00000 := by
  have hrun : kRun wideScaling 0 0 1 6 = u := Host.Outcome.next.inj h
  rw [← hrun]
  decide +kernel
/-- R69 names the old element itself, quieted. -/
theorem wideScaling_element {c : Nat} {r : Nat × FlagBits}
    (h : KettleElement 6 8 wideScale.s1.toNat wideScale.s2.toNat c
      (Memory.getN wideScaling.mem (kLoc wideScaling wideScale (wideScale.srcVa 0) .read) 8)
      (Memory.getN wideScaling.mem (kLoc wideScaling wideScale (wideScale.dstVa 0) .write) 8) r) : r.1 = 0x17FC00000 := by
  have hold : Memory.getN wideScaling.mem (kLoc wideScaling wideScale (wideScale.dstVa 0) .write) 8 = 0x17FC00000 := by decide +kernel
  have hfind : [wideScale.s1.toNat, 0x17FC00000].find? (ieeeNan ⟨8, 23⟩) = some 0x17FC00000 := by decide +kernel
  rw [hold] at h
  simp only [KettleElement, WithNans, hfind] at h
  rw [h]
  decide +kernel

/-- Refutes O44: a SCALE part of a 64-bit format writes the NaN of its element's low half and loses the high half, where the statement's formula keeps
the element's own bits. The hypothesis that is missing is R222's: AXPY, FADE and SCALE work on FP32 elements. -/
theorem not_kettlePartsRun : ¬ Obligations.KettlePartsRun := by
  unfold Obligations.KettlePartsRun
  intro h
  obtain ⟨hrun, -⟩ := h wideScaling 0 0 1 wideScale (by decide +kernel)
  obtain ⟨-, hvalues⟩ := hrun (.scale 0 0 1, 6) (by simp) wideScaling_turn wideScaling_checked
  have hsorted : wideScale.elems.Pairwise (· < ·) := List.pairwise_singleton ..
  have hone : ∀ i ∈ wideScale.elems, i = 0 := fun i hi => List.mem_singleton.mp hi
  obtain ⟨u, q, c, r, hx, -, -, helem, -⟩ := hvalues hsorted (fun i hi k hk hne => absurd ((hone i hi).trans (hone k hk).symm) hne)
  obtain ⟨hmem, hvalue⟩ := helem 0 List.mem_cons_self (fun k _ _ v hmeets => by
    obtain ⟨⟨y, hy, -⟩, -⟩ := hmeets
    exact absurd hy List.not_mem_nil)
  have hwritten := wideScaling_writes hx
  have hnamed : Memory.getN u.mem (kLoc wideScaling wideScale (wideScale.dstVa 0) .write) 8 = 0x17FC00000 % 2 ^ (8 * wideScale.size) :=
    wideScaling_element hvalue ▸ hmem
  exact absurd (hwritten.symm.trans hnamed) (by decide +kernel)

end Sys2Proof.Machine
end

section
/-! SUPPORT. Vector loads and stores: the lanes read in their order up to the first that is refused, and the elements stored (R82, R102 to R106). -/

namespace Sys2Proof.Machine

/-! ## The lanes of an access -/

theorem laneAddrs_eq (c : Ctxt) (t : Tag) (k : BitVec 2) (base : DWord) (x : Nat → Int) :
    laneAddrs c t k base x = (activeLanes t (c.rk k.toNat)).map (fun i => (i, elemAt t base (x i))) := rfl
theorem laneAddrs_addresses (c : Ctxt) (t : Tag) (k : BitVec 2) (base : DWord) (x : Nat → Int) :
    (laneAddrs c t k base x).map (fun l => l.2.1) = (activeLanes t (c.rk k.toNat)).map (fun i => (elemAt t base (x i)).1) := by
  rw [laneAddrs_eq, List.map_map]
  rfl
theorem activeLanes_sorted (t : Tag) (p : PBits) : (activeLanes t p).Pairwise (· < ·) := List.pairwise_lt_range.filter _
/-- A member of an ascending list stands behind smaller ones only. -/
theorem exists_split_of_sorted {l : List Nat} (hl : l.Pairwise (· < ·)) {i : Nat} (hi : i ∈ l) :
    ∃ pre post, l = pre ++ i :: post ∧ ∀ j ∈ pre, j < i := by
  obtain ⟨pre, post, rfl⟩ := List.append_of_mem hi
  obtain ⟨-, -, hlt⟩ := List.pairwise_append.mp hl
  exact ⟨pre, post, rfl, fun j hj => hlt j hj i List.mem_cons_self⟩

/-! ## Lanes read in their order (R105) -/

section
variable {s : State} {c : CtxId} {t : Tag}

theorem readLanes_all {ls : List (Nat × DWord × Nat)} {m : Nat → Nat} (h : ∀ l ∈ ls, loadElem s c l.2.1 t.mbytes = .val (m l.1)) :
    readLanes s c t ls = .ok (ls.map fun l => (l.1, fromMem t l.2.2 (m l.1))) := by
  induction ls with
  | nil => rfl
  | cons l ls ih =>
    obtain ⟨hl, hls⟩ := List.forall_mem_cons.mp h
    simp only [readLanes, hl, ih hls, List.map_cons]
/-- A refusal behind lanes that are read is the refusal of them all. -/
theorem readLanes_append_error {pre post : List (Nat × DWord × Nat)} {e : Load} (h : ∀ l ∈ pre, ∃ v, loadElem s c l.2.1 t.mbytes = .val v)
    (he : readLanes s c t post = .error e) : readLanes s c t (pre ++ post) = .error e := by
  induction pre with
  | nil => exact he
  | cons l pre ih =>
    obtain ⟨⟨v, hl⟩, hpre⟩ := List.forall_mem_cons.mp h
    simp only [List.cons_append, readLanes, hl, ih hpre]

/-- The refusal of a first lane, as the read of lanes passes it on: the fault's address is the element's. -/
theorem readLanes_cons_fault (l : Nat × DWord × Nat) (post : List (Nat × DWord × Nat)) {x : TrapInfo}
    (h : loadElem s c l.2.1 t.mbytes = .fault x) : readLanes s c t (l :: post) = .error (.fault { x with eaddr := l.2.1 }) := by
  simp only [readLanes, h]
theorem readLanes_cons_retry (l : Nat × DWord × Nat) (post : List (Nat × DWord × Nat))
    (h : loadElem s c l.2.1 t.mbytes = .retry) : readLanes s c t (l :: post) = .error .retry := by
  simp only [readLanes, h]

end

/-- The vector of a load: the lanes read, and the destination's old lanes between them. -/
def loadedLanes (t : Tag) (old : VBits) (vs : List (Nat × Nat)) : VBits :=
  ofLanes t.ebits ((List.range t.lanes).map (fun i => match vs.find? (fun x => x.1 = i) with | some x => x.2 | none => laneOf t.ebits old i))
theorem find_lane (act : List Nat) (val : Nat → Nat) (i : Nat) :
    (act.map (fun j => (j, val j))).find? (fun x => decide (x.1 = i)) = if i ∈ act then some (i, val i) else none := by
  induction act with
  | nil => rfl
  | cons j act ih =>
    by_cases h : j = i
    · simp [h]
    · simp [h, ih, Ne.symm h]
theorem laneOf_loadedLanes (t : Tag) (old : VBits) (act : List Nat) (val : Nat → Nat) {i : Nat} (hi : i < t.lanes) :
    laneOf t.ebits (loadedLanes t old (act.map (fun j => (j, val j)))) i = if i ∈ act then val i % 2 ^ t.ebits else laneOf t.ebits old i := by
  rw [loadedLanes, laneOf_ofLanes _ _ _ (by simp [t.lanes_ebits])]
  simp only [List.getD_eq_getElem?_getD, List.getElem?_map, List.getElem?_range hi, Option.map_some, Option.getD_some, find_lane]
  by_cases h : i ∈ act
  · rw [if_pos h, if_pos h]
  · rw [if_neg h, if_neg h]
    exact Nat.mod_mod _ _

/-! ## Loads (R102 to R105) -/

section
variable {t : State} {ty : Tag} {d : BitVec 6} {whole : Bool} {ls : List (Nat × DWord × Nat)}
  (hc : vecCheck t t.me ty.mbytes .read whole (ls.map (fun l => l.2.1)) = none)
include hc

theorem vload_read {vs : List (Nat × Nat)} (hr : readLanes t t.me ty ls = .ok vs) : vload d ty whole ls t =
    (t.setCx (Waiting t.cx (.vec d) (.vector (loadedLanes ty (oldOf t.cx d) vs) ty) 0 false)).finish := by
  simp only [vload, hc, hr]
  rfl
theorem vload_fault {x : TrapInfo} (hr : readLanes t t.me ty ls = .error (.fault x)) : vload d ty whole ls t =
    (t.setCx (Waiting t.cx (.vec d) (.fault ⟨{ x with opc := t.cx.pc }, t.cx.order⟩) 0 false)).finish := by
  simp only [vload, hc, hr]
  rfl
theorem vload_retry (hr : readLanes t t.me ty ls = .error .retry) : vload d ty whole ls t = t.park (.reissue (ls.map (fun l => l.2.1))) := by
  simp only [vload, hc, hr]

end

/-- How a vector load at `base` ends once its operands are there: the checks of the addresses, the first element that is refused, or the lanes. -/
def LoadsLanes (st t : State) (i : Instr) (d : BitVec 6) (ty : Tag) (act : List Nat) (whole : Bool) (base : DWord) (ea : Nat → DWord × Nat)
    (m : Nat → Nat) : Prop :=
  (base.toNat % ty.align ≠ 0 → exec i st = .next (t.raise (trapInfo 0x040 base 0))) ∧
  (∀ x, base.toNat % ty.align = 0 → vecCheck t t.me ty.mbytes .read whole (act.map (fun j => (ea j).1)) = some x → exec i st = .next (t.raise x)) ∧
  (base.toNat % ty.align = 0 → vecCheck t t.me ty.mbytes .read whole (act.map (fun j => (ea j).1)) = none →
    (∀ n ∈ act, (∀ j ∈ act, j < n → ∃ v, loadElem t t.me (ea j).1 ty.mbytes = .val v) →
      (∀ x, loadElem t t.me (ea n).1 ty.mbytes = .fault x →
        exec i st = .next ((t.setCx (Waiting t.cx (.vec d) (.fault ⟨{ x with eaddr := (ea n).1, opc := t.cx.pc }, t.cx.order⟩) 0 false)).finish)) ∧
      (loadElem t t.me (ea n).1 ty.mbytes = .retry → ∃ as, exec i st = .next (t.park (.reissue as)))) ∧
    ((∀ n ∈ act, loadElem t t.me (ea n).1 ty.mbytes = .val (m n)) →
      ∃ r, exec i st = .next ((t.setCx (Waiting t.cx (.vec d) (.vector r ty) 0 false)).finish) ∧
        ∀ n < ty.lanes, laneOf ty.ebits r n =
          if n ∈ act then fromMem ty (ea n).2 (m n) % 2 ^ ty.ebits else laneOf ty.ebits (oldOf t.cx d) n))

theorem loadsLanes_of_body {st t : State} {i : Instr} {d : BitVec 6} {ty : Tag} {k : BitVec 2} {whole : Bool} {base : DWord} {x : Nat → Int}
    (hi : exec i st = .next (if base.toNat % ty.align ≠ 0 then t.raise (trapInfo 0x040 base 0)
      else vload d ty whole (laneAddrs t.cx ty k base x) t)) (m : Nat → Nat) :
    LoadsLanes st t i d ty (activeLanes ty (t.cx.rk k.toNat)) whole base (fun j => elemAt ty base (x j)) m := by
  refine ⟨fun h => by rw [hi, if_pos h], fun y h hc => ?_, fun h hc => ?_⟩
  · rw [hi, if_neg (not_not.mpr h), vload, laneAddrs_addresses, hc]
  · rw [← laneAddrs_addresses] at hc
    have hload : exec i st = .next (vload d ty whole (laneAddrs t.cx ty k base x) t) := by rw [hi, if_neg (not_not.mpr h)]
    refine ⟨fun n hn hbefore => ?_, fun hall => ?_⟩
    · obtain ⟨pre, post, hact, hpre⟩ := exists_split_of_sorted (activeLanes_sorted ty (t.cx.rk k.toNat)) hn
      have hread : ∀ e, readLanes t t.me ty ((n, elemAt ty base (x n)) :: post.map (fun j => (j, elemAt ty base (x j)))) = .error e →
          readLanes t t.me ty (laneAddrs t.cx ty k base x) = .error e := fun e he => by
        rw [laneAddrs_eq, hact, List.map_append, List.map_cons]
        refine readLanes_append_error (List.forall_mem_map.mpr fun j hj => ?_) he
        exact hbefore j (hact ▸ List.mem_append_left _ hj) (hpre j hj)
      refine ⟨fun f hf => ?_, fun hr => ?_⟩
      · rw [hload, vload_fault hc (hread _ (readLanes_cons_fault _ _ hf))]
      · exact ⟨_, by rw [hload, vload_retry hc (hread _ (readLanes_cons_retry _ _ hr))]⟩
    · have hvals : ∀ l ∈ laneAddrs t.cx ty k base x, loadElem t t.me l.2.1 ty.mbytes = .val (m l.1) := by
        rw [laneAddrs_eq]
        exact List.forall_mem_map.mpr hall
      have hread : readLanes t t.me ty (laneAddrs t.cx ty k base x) =
          .ok ((activeLanes ty (t.cx.rk k.toNat)).map fun j => (j, fromMem ty (elemAt ty base (x j)).2 (m j))) := by
        rw [readLanes_all hvals, laneAddrs_eq, List.map_map]
        rfl
      exact ⟨_, hload.trans (congrArg Host.Outcome.next (vload_read hc hread)), fun n hlt => laneOf_loadedLanes ty _ _ _ hlt⟩

/-! ## The tags of stored and index registers (R64, R102, R104) -/

theorem storeTag_none {o : Opnd} {t : Tag} (h : o.tag? = some .none) : storeTag o t = some 0x009 := by simp [storeTag, h]
theorem storeTag_other {o : Opnd} {t g : Tag} (h : o.tag? = some g) (hg : g ≠ .none) (ht : g ≠ t) : storeTag o t = some 0x008 := by
  simp [storeTag, h, hg, ht]
theorem storeTag_same {o : Opnd} {t : Tag} (ht : t ≠ .none) (h : o.tag? = some t ∨ o.tag? = none) : storeTag o t = none := by
  obtain h | h := h <;> simp [storeTag, h, ht]
theorem indexTag_none {x : VReg} {t : Tag} (h : x.tag = .none) : indexTag x t = some 0x009 := if_pos h
theorem indexTag_other {x : VReg} {t : Tag} (h : x.tag ≠ .none) (hi : ¬ (x.tag.isInt = true ∧ x.tag.ebits = t.ebits)) :
    indexTag x t = some 0x008 := by
  rw [indexTag, if_neg h, if_neg (by simpa using hi)]
theorem indexTag_integer {x : VReg} {t : Tag} (h : x.tag.isInt = true ∧ x.tag.ebits = t.ebits) : indexTag x t = none := by
  have hx : x.tag ≠ .none := fun e => by rw [e] at h; exact absurd h.1 (by decide)
  rw [indexTag, if_neg hx, if_pos (by simpa using h)]
/-- The register, the broadcast value or the zero that a vector store's specifier names (R41). -/
theorem storeSource_eq {c : Ctxt} {d : BitVec 6} {o : Opnd}
    (h : (d.toNat < 44 ∧ o = .reg (c.vreg d)) ∨ (50 ≤ d.toNat ∧ d.toNat < 58 ∧ o = .bcast (c.ra (BitVec.ofNat 5 (d.toNat - 26)))) ∨
      (d = 63 ∧ o = .zero)) : storeSource c d = o := by
  rw [storeSource, operand]
  obtain ⟨hd, rfl⟩ | ⟨hlo, hhi, rfl⟩ | ⟨rfl, rfl⟩ := h
  · rw [if_neg (by simp [specIsQ]; omega), if_neg (by simp [specIsB]; omega), if_pos hd]
    rfl
  · rw [if_neg (by simp [specIsQ]; omega), if_pos (by simp [specIsB, hlo, hhi])]
    rfl
  · rfl

/-! ## Stores (R102 to R104, R106) -/

/-- How a vector store at `base` ends once its operands are there: the checks of the addresses, or the active lanes' elements as one store. -/
def StoresLanes (st t : State) (i : Instr) (ty : Tag) (act : List Nat) (whole : Bool) (base : DWord) (ea : Nat → DWord × Nat) (v : VBits) : Prop :=
  (base.toNat % ty.align ≠ 0 → exec i st = .next (t.raise (trapInfo 0x040 base 1))) ∧
  (∀ y, base.toNat % ty.align = 0 → vecCheck t t.me ty.mbytes .write whole (act.map (fun j => (ea j).1)) = some y → exec i st = .next (t.raise y)) ∧
  (base.toNat % ty.align = 0 → vecCheck t t.me ty.mbytes .write whole (act.map (fun j => (ea j).1)) = none →
    exec i st = .next (doStore t (act.map (fun j => toMem ty (ea j).1 (ea j).2 (laneOf ty.ebits v j)))))

theorem storesLanes_of_body {st t : State} {i : Instr} {ty : Tag} {k : BitVec 2} {whole : Bool} {base : DWord} {x : Nat → Int} {v : VBits}
    (hi : exec i st = .next (if base.toNat % ty.align ≠ 0 then t.raise (trapInfo 0x040 base 1)
      else vstore ty whole v (laneAddrs t.cx ty k base x) t)) :
    StoresLanes st t i ty (activeLanes ty (t.cx.rk k.toNat)) whole base (fun j => elemAt ty base (x j)) v := by
  refine ⟨fun h => by rw [hi, if_pos h], fun y h hc => ?_, fun h hc => ?_⟩
  · rw [hi, if_neg (not_not.mpr h), vstore, laneAddrs_addresses, hc]
  · rw [hi, if_neg (not_not.mpr h), vstore, laneAddrs_addresses, hc, laneAddrs_eq, List.map_map]
    rfl

/-! ## The four instructions -/

section
variable {st t : State} {s : Bool} {d : BitVec 6} {b vx : BitVec 5}

theorem vld_takes (h : Takes { s := s, long := true, a := [b] } st t) (fmt : BitVec 4) (off : BitVec 5) (k : BitVec 2) :
    exec (.vld s d b fmt off k) st = .next (if (vmEa t.cx b off).toNat % (tagOf fmt.toNat).align ≠ 0 then t.raise (trapInfo 0x040 (vmEa t.cx b off) 0)
      else vload d (tagOf fmt.toNat) true (laneAddrs t.cx (tagOf fmt.toNat) k (vmEa t.cx b off) (fun i => i)) t) :=
  congrArg Host.Outcome.next (issue_takes h)
theorem vgather_takes (h : Takes { s := s, long := true, a := [b], v := [spec5 vx] } st t) (fmt : BitVec 4) (k : BitVec 2) :
    exec (.vgather s d b fmt vx k) st = .next (match indexTag (t.cx.vreg (spec5 vx)) (tagOf fmt.toNat) with
      | some e => t.raise (trapInfo e)
      | none => if (t.cx.ra b).toNat % (tagOf fmt.toNat).align ≠ 0 then t.raise (trapInfo 0x040 (t.cx.ra b) 0)
        else vload d (tagOf fmt.toNat) false (laneAddrs t.cx (tagOf fmt.toNat) k (t.cx.ra b) (indexLane (t.cx.vreg (spec5 vx)))) t) :=
  congrArg Host.Outcome.next (issue_takes h)
theorem vst_takes (h : Takes { s := s, a := [b], v := [d] } st t) (fmt : BitVec 4) (off : BitVec 5) (k : BitVec 2) :
    exec (.vst s d b fmt off k) st = .next (match storeTag (storeSource t.cx d) (tagOf fmt.toNat) with
      | some e => t.raise (trapInfo e)
      | none => if (vmEa t.cx b off).toNat % (tagOf fmt.toNat).align ≠ 0 then t.raise (trapInfo 0x040 (vmEa t.cx b off) 1)
        else vstore (tagOf fmt.toNat) true ((storeSource t.cx d).bits (tagOf fmt.toNat))
          (laneAddrs t.cx (tagOf fmt.toNat) k (vmEa t.cx b off) (fun i => i)) t) :=
  congrArg Host.Outcome.next (issue_takes h)
theorem vscatter_takes (h : Takes { s := s, a := [b], v := [d, spec5 vx] } st t) (fmt : BitVec 4) (k : BitVec 2) :
    exec (.vscatter s d b fmt vx k) st = .next (match storeTag (storeSource t.cx d) (tagOf fmt.toNat) with
      | some e => t.raise (trapInfo e)
      | none => match indexTag (t.cx.vreg (spec5 vx)) (tagOf fmt.toNat) with
        | some e => t.raise (trapInfo e)
        | none => if (t.cx.ra b).toNat % (tagOf fmt.toNat).align ≠ 0 then t.raise (trapInfo 0x040 (t.cx.ra b) 1)
          else vstore (tagOf fmt.toNat) false ((storeSource t.cx d).bits (tagOf fmt.toNat))
            (laneAddrs t.cx (tagOf fmt.toNat) k (t.cx.ra b) (indexLane (t.cx.vreg (spec5 vx)))) t) :=
  congrArg Host.Outcome.next (issue_takes h)

end

/-- Settles O30: loads by their lanes read in order, stores by the elements they hand to `doStore`. -/
theorem vectorAccesses : Obligations.VectorAccesses := by
  unfold Obligations.VectorAccesses
  constructor
  · intro st t s d b off vx fmt k m ty act ix i1 i2 _
    rw [List.forall_mem_cons, List.forall_mem_singleton]
    constructor
    · intro ea h
      exact ⟨nofun, nofun, fun _ => loadsLanes_of_body (vld_takes h fmt off k) m⟩
    · intro ea h
      refine ⟨fun _ hx => ?_, fun _ hx hi => ?_, fun hx => ?_⟩
      · rw [vgather_takes h, indexTag_none hx]
      · rw [vgather_takes h, indexTag_other hx hi]
      · have hexec := vgather_takes (d := d) h fmt k
        rw [indexTag_integer (hx rfl)] at hexec
        exact loadsLanes_of_body hexec m
  · intro st t s d b off vx fmt k o ho ty act ix x i1 i2 hty
    have hsource : storeSource t.cx d = o := storeSource_eq ho
    rw [List.forall_mem_cons, List.forall_mem_singleton]
    constructor
    · intro ea h
      have hexec := vst_takes h fmt off k
      rw [hsource] at hexec
      refine ⟨fun hn => ?_, fun g hg hn hne => ?_, fun hs _ => ?_⟩
      · rw [hexec, storeTag_none hn]
      · rw [hexec, storeTag_other hg hn hne]
      · rw [storeTag_same hty hs] at hexec
        exact storesLanes_of_body hexec
    · intro ea h
      have hexec := vscatter_takes h fmt k
      rw [hsource] at hexec
      refine ⟨fun hn => ?_, fun g hg hn hne => ?_, fun hs hx => ?_⟩
      · rw [hexec, storeTag_none hn]
      · rw [hexec, storeTag_other hg hn hne]
      · rw [storeTag_same hty hs, indexTag_integer (hx rfl)] at hexec
        exact storesLanes_of_body hexec

end Sys2Proof.Machine
end

section
/-! SUPPORT. Stores: a write at its home, a store performed, drafted, and confirmed (R106, R109, R150, R154, R225, R270, R360, R362, R369). -/

namespace Sys2Proof.Machine

/-! ## A write at its home (R175, R360, R362) -/

section
variable (s : State) (w : Who) (a : DWord) (n v mask : Nat) {l : Nat}

/-- Only an inbox can want room (R360). -/
theorem room_free (h : locRegion l ≠ 3) : s.room l n = .free := by
  have hin : inboxAt l = none := if_neg (by simp [h])
  simp only [State.room, hin]
theorem not_window (h : isHbm l = true ∨ locRegion l ≠ 4) : ¬ (!isHbm l && decide (locRegion l = 4)) = true := by
  simpa [or_iff_not_imp_left] using h
theorem homeWrite_window (hl : isHbm l = false) (hr : locRegion l = 4) : s.homeWrite w a l n v mask =
    windowWrite s (if w.sys then some w.core else none) (locCore l) (bits l 14 0) (BitVec.ofNat 64 v) := if_pos (by simp [hl, hr])
section
variable (h : isHbm l = true ∨ locRegion l ≠ 4)
include h

theorem homeWrite_free (hr : s.room l n = .free) : s.homeWrite w a l n v (2 ^ (8 * n) - 1) = s.write l n v := by
  rw [State.homeWrite, if_neg (not_window h), hr]
  exact if_pos rfl
theorem homeWrite_area {d : CtxId} {g : Nat} (hr : s.room l n = .area d g) : s.homeWrite w a l n v mask =
    s.overflow g ⟨⟨w.pid, w.lid, w.gen, w.sys, a, .write, n, v, mask⟩, none, d, w.ctx, none⟩ := by
  rw [State.homeWrite, if_neg (not_window h), hr]
theorem homeWrite_full (hr : s.room l n = .full) : s.homeWrite w a l n v mask = s := by
  rw [State.homeWrite, if_neg (not_window h), hr]

end
end

/-- Memory with its marks, the agenda and the overflow areas are all that writes at their homes change. -/
def OnlyHomes (s t : State) : Prop := t = { s with agenda := t.agenda, mem := t.mem, poison := t.poison, gangs := t.gangs, fresh := t.fresh }
theorem OnlyHomes.refl (s : State) : OnlyHomes s s := rfl
theorem OnlyHomes.trans {s t u : State} (h : OnlyHomes s t) (h' : OnlyHomes t u) : OnlyHomes s u := by
  rw [OnlyHomes] at h h' ⊢
  rw [h', h]
theorem OnlyHomes.cores {s t : State} (h : OnlyHomes s t) : t.cores = s.cores := by rw [h]
theorem OnlyHomes.clusters {s t : State} (h : OnlyHomes s t) : t.clusters = s.clusters := by rw [h]
theorem OnlyHomes.me {s t : State} (h : OnlyHomes s t) : t.me = s.me := by rw [h]; rfl
theorem homeWrite_onlyHomes (s : State) (w : Who) (a : DWord) (l n v mask : Nat) : OnlyHomes s (s.homeWrite w a l n v mask) := by
  unfold State.homeWrite
  split
  · rfl
  · split
    · rfl
    · rfl
    · split <;> rfl
theorem writePiece_onlyHomes (w : Who) (e : StoreElem) (s : State) (p : Nat × Nat) : OnlyHomes s (writePiece w e s p) := by
  unfold writePiece
  split
  · exact homeWrite_onlyHomes ..
  · exact .refl s
theorem writeElems_onlyHomes (w : Who) (es : List StoreElem) (s : State) : OnlyHomes s (es.foldl (writeElem w) s) :=
  List.foldlRecOn es (writeElem w) (.refl s) fun _ ht e _ =>
    List.foldlRecOn e.pieces (writePiece w e) ht fun _ hu p _ => hu.trans (writePiece_onlyHomes w e _ p)

/-! ## The digest (R369) -/

theorem foldElem_whole {e : StoreElem} (h : e.mask = 2 ^ (8 * e.size) - 1) (d : DWord) :
    foldElem d e = gen (d ^^^ BitVec.ofNat 64 e.val) (BitVec.ofNat 64 (16 * digestKey e.addr + e.size)) := if_pos (decide_eq_true h)

section
variable {s : State} {c : CtxId} (es : List StoreElem)

theorem foldDigest_off (h : (s.launchOf c).rc.digest = false) : s.foldDigest c es = s := if_neg (by simp [h])
theorem foldDigest_certain (h : (s.launchOf c).rc.digest = true) (hs : (s.slot c).speculative = false) :
    s.foldDigest c es = s.setSlot c { s.slot c with digest := es.foldl foldElem (s.slot c).digest } := by
  rw [State.foldDigest, if_pos h, State.modSlot]
  simp only [hs, Bool.false_eq_true, if_false]
theorem foldDigest_me : (s.foldDigest c es).me = s.me := by
  unfold State.foldDigest
  split
  · exact State.me_setSlot ..
  · rfl
theorem foldDigest_slot_ne {d : CtxId} (h : d ≠ c) : (s.foldDigest c es).slot d = s.slot d := by
  unfold State.foldDigest
  split
  · exact State.slot_setSlot_ne _ _ _ _ h
  · rfl
theorem foldDigest_slot : ∃ d l, (s.foldDigest c es).slot c = { s.slot c with digest := d, late := l } := by
  unfold State.foldDigest
  split
  · rw [State.modSlot, State.slot_setSlot]
    split <;> exact ⟨_, _, rfl⟩
  · exact ⟨_, _, rfl⟩

end

/-! ## A store performed (R106, R150) -/

/-- What a performed store leaves of its context and of every cluster. -/
theorem performStore_spec (s : State) (c : CtxId) (es : List StoreElem) :
    let u := performStore s c es
    u.me = s.me ∧ u.clusters = s.clusters ∧ (∃ d l, u.slot c = { s.slot c with digest := d, late := l }) ∧ ∀ d, d ≠ c → u.slot d = s.slot d := by
  have h := writeElems_onlyHomes (s.whoIs c) es s
  have hslot : ∀ d, (es.foldl (writeElem (s.whoIs c)) s).slot d = s.slot d := State.slot_congr h.cores
  refine ⟨(foldDigest_me es).trans h.me, ?_, ?_, fun d hd => (foldDigest_slot_ne es hd).trans (hslot d)⟩
  · rw [performStore, foldDigest_frame]
    exact h.clusters
  · obtain ⟨d, l, hd⟩ := foldDigest_slot (s := es.foldl (writeElem (s.whoIs c)) s) (c := c) es
    exact ⟨d, l, hd.trans (by rw [hslot])⟩

/-- The element of a scalar store (R150, R154): one, two, four or eight whole bytes. -/
def StoreElem.Scalar (e : StoreElem) : Prop :=
  (e.size = 1 ∨ e.size = 2 ∨ e.size = 4 ∨ e.size = 8) ∧ e.mask = 2 ^ (8 * e.size) - 1 ∧ e.val < 2 ^ (8 * e.size)

section
variable {e : StoreElem} (he : e.Scalar)
include he

theorem StoreElem.Scalar.pieces : e.pieces = [(0, e.size)] := by
  obtain ⟨hsize, -, -⟩ := he
  exact if_neg (by omega)
/-- A scalar store's element is one piece, all of whose bits are written. -/
theorem writeElem_scalar {s : State} {w : Who} {l : Nat} (ha : access s w e.addr e.size .write = .loc l) :
    writeElem w s e = s.homeWrite w e.addr l e.size e.val (2 ^ (8 * e.size) - 1) := by
  have hpieces := he.pieces
  obtain ⟨-, hmask, hval⟩ := he
  have hpos := Nat.two_pow_pos (8 * e.size)
  simp only [writeElem, hpieces, List.foldl_cons, List.foldl_nil, writePiece, BitVec.add_zero, ha, Nat.mul_zero,
    Nat.shiftRight_zero, hmask, Nat.mod_eq_of_lt hval, Nat.mod_eq_of_lt (Nat.sub_lt hpos Nat.one_pos)]

end

/-! ## Stores in the core's own scratchpad (R150) -/

theorem access_priv (s : State) (w : Who) {a : DWord} (h : a.toNat < 0x8000) (n : Nat) (acc : Access) :
    access s w a n acc = .loc (privLoc w.core a.toNat) := by rw [access, form_of_priv h]
theorem locRegion_privLoc (k : CoreId) {off : Nat} (h : off < 0x8000) : locRegion (privLoc k off) = 0 := by
  simp only [locRegion, privLoc, globLoc, bits, Nat.shiftRight_eq_div_pow]
  omega
theorem whoIs_core (s : State) (c : CtxId) : (s.whoIs c).core = c.core := by
  rw [State.whoIs]
  split <;> rfl
theorem writeElem_priv {e : StoreElem} (he : e.Scalar) (h : e.addr.toNat < 0x8000) (s : State) (w : Who) :
    writeElem w s e = s.write (privLoc w.core e.addr.toNat) e.size e.val := by
  have hr := locRegion_privLoc w.core h
  rw [writeElem_scalar he (access_priv s w h _ _), homeWrite_free _ _ _ _ _ (.inr (by omega)) (room_free _ _ (by omega))]
/-- The elements of a store in the scratchpad written in order, and what they leave. -/
theorem writeElems_priv (w : Who) (es : List StoreElem) (he : ∀ e ∈ es, e.Scalar ∧ e.addr.toNat < 0x8000) (s : State)
    (hw : Memory.wf s.mem = true) :
    let u := es.foldl (writeElem w) s
    u.mem = es.foldl (fun m e => Memory.setN m (privLoc w.core e.addr.toNat) e.size e.val) s.mem ∧
    (∀ l, (∀ e ∈ es, l < privLoc w.core e.addr.toNat ∨ privLoc w.core e.addr.toNat + e.size ≤ l) → Memory.get u.mem l = Memory.get s.mem l) ∧
    u = { s with mem := u.mem, poison := u.poison } := by
  induction es generalizing s with
  | nil => exact ⟨rfl, fun _ _ => rfl, rfl⟩
  | cons e es ih =>
    obtain ⟨⟨hscalar, hlt⟩, hes⟩ := List.forall_mem_cons.mp he
    have hwrite := writeElem_priv hscalar hlt s w
    obtain ⟨hmem, hout, hframe⟩ := ih hes (s.write (privLoc w.core e.addr.toNat) e.size e.val) (State.write_wf _ _ _ _ hw)
    simp only [List.foldl_cons, hwrite]
    refine ⟨hmem, fun l hl => ?_, hframe⟩
    obtain ⟨hle, hles⟩ := List.forall_mem_cons.mp hl
    exact (hout l hles).trans (Memory.get_setN_out _ _ _ _ _ hw hle)

/-! ## What a store does (R106, R109, R150, R154, R270) -/

theorem drafted_certain {sl : Slot} (c : CtxId) (es : List StoreElem) (h : sl.speculative = false) : drafted c sl es = [] := if_pos (by simp [h])
theorem drafted_runAhead {sl : Slot} (c : CtxId) (es : List StoreElem) (h : sl.speculative = true) (hk : sl.ck.isSome = true) :
    drafted c sl es = es := by
  rw [drafted, if_neg (by simp [h]), if_pos hk]
theorem drafted_segment {sl : Slot} (c : CtxId) (es : List StoreElem) (h : sl.speculative = true) (hk : sl.ck = none) :
    drafted c sl es = es.filter (fun e => !inOwnRegion c e) := by
  rw [drafted, if_neg (by simp [h]), if_neg (by simp [hk])]

section
variable {t : State} {es : List StoreElem}

theorem doStore_performs (hd : drafted t.me t.self es = []) (hp : ∀ e ∈ es, (form e.addr).isPriv = true) :
    doStore t es = (performStore t t.me es).finish := by
  simp only [doStore, hd, List.all_eq_true.mpr hp]
  rfl
theorem doStore_waits (hd : drafted t.me t.self es = []) (hp : es.any (fun e => !(form e.addr).isPriv) = true) :
    doStore t es = t.park (.confirm es) := by
  have hall : es.all (fun e => (form e.addr).isPriv) = false := by simpa [List.any_eq_true, List.all_eq_false] using hp
  simp only [doStore, hd, hall]
  rfl
section
variable (hd : drafted t.me t.self es ≠ [])
include hd

theorem doStore_parks (h : 1024 ≤ (t.cluster t.cur.cl).drafts.length) : doStore t es = t.park .certain := by
  rw [doStore]
  exact (if_pos (by simpa using hd)).trans (if_pos h)
theorem doStore_drafts (h : (t.cluster t.cur.cl).drafts.length < 1024) : doStore t es =
    (addDraft (performStore t t.me (es.filter (fun e => !(drafted t.me t.self es).contains e))) t.me (drafted t.me t.self es)).finish := by
  rw [doStore]
  exact (if_pos (by simpa using hd)).trans (if_neg (Nat.not_le.mpr h))

end
end

/-- The draft that a context enters (R270). -/
def draftOf (s : State) (c : CtxId) (es : List StoreElem) : Draft :=
  { owner := (s.slot c).uid, gang := (s.slot c).gang.getD 0, n := (s.slot c).made, opc := (s.slot c).cx.pc, elems := es }
/-- It stands last in the buffer of its cluster (R270). -/
theorem addDraft_spec (s : State) (c : CtxId) (es : List StoreElem) :
    let u := addDraft s c es
    u.mem = s.mem ∧ u.me = s.me ∧ u.slot c = { s.slot c with made := (s.slot c).made + 1 } ∧ (∀ d, d ≠ c → u.slot d = s.slot d) ∧
    (u.cluster c.core.cl).drafts = (s.cluster c.core.cl).drafts ++ [draftOf s c es] := by
  refine ⟨rfl, State.me_setSlot .., State.slot_setSlot .., fun d hd => State.slot_setSlot_ne _ _ _ _ hd, ?_⟩
  have hclusters : (addDraft s c es).clusters =
      (s.modCluster c.core.cl (fun cl => { cl with drafts := cl.drafts ++ [draftOf s c es] })).clusters := rfl
  rw [State.cluster_congr hclusters, State.cluster_modCluster, if_pos rfl]
/-- A store drafted behind elements that are performed: memory as those leave it, the context as it was, and the draft. -/
theorem drafted_store_spec (t : State) (now later : List StoreElem) :
    let u := addDraft (performStore t t.me now) t.me later
    u.mem = (performStore t t.me now).mem ∧ u.cx = t.cx ∧ (∀ d, d ≠ t.me → u.slot d = t.slot d) ∧
    ∃ d, (u.cluster t.cur.cl).drafts = (t.cluster t.cur.cl).drafts ++ [d] ∧ d.owner = t.self.uid ∧ d.elems = later ∧ d.opc = t.cx.pc := by
  obtain ⟨hme, hclusters, ⟨dg, lt, hslot⟩, hothers⟩ := performStore_spec t t.me now
  obtain ⟨hmem', hme', hslot', hothers', hdrafts⟩ := addDraft_spec (performStore t t.me now) t.me later
  rw [State.cluster_congr hclusters, draftOf, hslot] at hdrafts
  refine ⟨hmem', ?_, fun d hd => (hothers' d hd).trans (hothers d hd), _, hdrafts, rfl, rfl, rfl⟩
  rw [State.cx, State.self, hme', hme, hslot', hslot]
  rfl

/-- What a filter has not kept out is what it has kept. -/
theorem filter_not_contains (p : StoreElem → Bool) (es : List StoreElem) :
    es.filter (fun e => !(es.filter (fun e => !p e)).contains e) = es.filter p :=
  List.filter_congr fun e he => by simp [he]
/-- The slot region of a context, by the addresses of an element's first and last byte (R270). -/
theorem inOwnRegion_eq {c : CtxId} (h : c.who ≠ 4) (e : StoreElem) : inOwnRegion c e =
    (decide (e.addr.toNat / 0x2000 = c.who.val) && decide ((e.addr.toNat + e.size - 1) / 0x2000 = c.who.val)) := by
  have hwho : c.who.val < 4 := by have := c.who.isLt; omega
  by_cases hp : e.addr.toNat < 0x8000
  · rw [inOwnRegion, form_of_priv hp]
  · have hlo : ¬ e.addr.toNat / 0x2000 = c.who.val := by omega
    have hform : (form e.addr).isPriv = false := by
      rw [form, if_neg hp]
      split
      · rfl
      · split
        · rfl
        · split <;> rfl
    rw [inOwnRegion, decide_eq_false hlo, Bool.false_and]
    cases hf : form e.addr <;> simp [hf, Form.isPriv] at hform ⊢
theorem isPriv_of_inOwnRegion {c : CtxId} {e : StoreElem} (h : inOwnRegion c e = true) : (form e.addr).isPriv = true := by
  rw [inOwnRegion] at h
  split at h
  next hf => rw [hf]; rfl
  · cases h

/-! ## A store's confirmation (R106, R150, R154, R225, R360, R362) -/

section
variable {s : State} {c : CtxId} {es : List StoreElem} (hw : (s.slot c).wait = some (.confirm es))
include hw

theorem confirm_retry (h : storeFault s (s.whoIs c) es = .retry) : exec (.storeConfirmation c) s = .next s := by
  refine congrArg Host.Outcome.next ?_
  simp only [confirmStore, hw, h]
theorem confirm_fault {f : TrapInfo} (h : storeFault s (s.whoIs c) es = .fault f) : exec (.storeConfirmation c) s = .next (s.raiseAt c f) := by
  refine congrArg Host.Outcome.next ?_
  simp only [confirmStore, hw, h]
theorem confirm_performs {l : Nat} (h : storeFault s (s.whoIs c) es = .loc l) : exec (.storeConfirmation c) s =
    .next (((performStore s c es).modSlot c (fun sl => { sl with wait := none, wcount := 0 })).finishAt c 4) := by
  refine congrArg Host.Outcome.next ?_
  simp only [confirmStore, hw, h]

end

section
variable {s : State} {w : Who} {e : StoreElem} (he : e.Scalar)
include he

theorem storeFault_retry (ha : access s w e.addr e.size .write = .retry) : storeFault s w [e] = .retry := by
  simp only [storeFault, storeChecks, he.pieces, List.foldl_cons, List.foldl_nil, BitVec.add_zero, ha]
theorem storeFault_fault {f : TrapInfo} (ha : access s w e.addr e.size .write = .fault f) :
    storeFault s w [e] = .fault { f with eaddr := e.addr } := by
  simp only [storeFault, storeChecks, he.pieces, List.foldl_cons, List.foldl_nil, BitVec.add_zero, ha]
section
variable {l : Nat} (ha : access s w e.addr e.size .write = .loc l)
include ha

theorem storeFault_slotctl (hr : slotctlRefuses l e.val = true) : storeFault s w [e] = .fault (trapInfo 0x051 e.addr 1) := by
  simp only [storeFault, storeChecks, he.pieces, List.foldl_cons, List.foldl_nil, BitVec.add_zero, ha, hr]
  rfl
theorem roomFound_scalar : ([e].foldl (fun a e => e.pieces.foldl (pieceRoom w e) a) (s, true)).2 = decide (s.room l e.size ≠ .full) := by
  simp only [he.pieces, List.foldl_cons, List.foldl_nil, pieceRoom, BitVec.add_zero, ha, Bool.true_and]
theorem storeRoom_found (hroom : s.room l e.size ≠ .full) : storeRoom s w [e] = true := by
  rw [storeRoom, roomFound_scalar he ha, decide_eq_true hroom, Bool.or_true]
theorem storeFault_loc (hr : slotctlRefuses l e.val = false) (hroom : s.room l e.size ≠ .full) : storeFault s w [e] = .loc 0 := by
  simp only [storeFault, storeChecks, he.pieces, List.foldl_cons, List.foldl_nil, BitVec.add_zero, ha, hr, storeRoom_found he ha hroom]
  rfl
/-- A store that names an inbox and finds it full is refused (R360). -/
theorem storeFault_full {m x y k off : Nat} (hf : form e.addr = .glob m x y k 3 off) (hr : slotctlRefuses l e.val = false)
    (hroom : s.room l e.size = .full) : storeFault s w [e] = .retry := by
  have hno : storeRoom s w [e] = false := by
    rw [storeRoom, roomFound_scalar he ha, List.any_cons, hf, hroom]
    rfl
  simp only [storeFault, storeChecks, he.pieces, List.foldl_cons, List.foldl_nil, BitVec.add_zero, ha, hr, hno]
  rfl

end
end

/-- The state behind a confirmed store: what its write has left, the digest, and the wait ended with the watchdog count 0. -/
def State.confirmed (x : State) (c : CtxId) (es : List StoreElem) : State :=
  (x.foldDigest c es).modSlot c (fun sl => { sl with wait := none, wcount := 0 })
theorem confirmed_spec {s x : State} (h : x.cores = s.cores) (c : CtxId) (es : List StoreElem) :
    let u := x.confirmed c es
    u.mem = x.mem ∧ u.agenda = x.agenda ∧ u.gangs = x.gangs ∧
    u.slot c = { s.slot c with wait := none, wcount := 0, digest := (u.slot c).digest, late := (u.slot c).late } ∧
    ∀ d, d ≠ c → u.slot d = s.slot d := by
  intro u
  have hu : u = { x with cores := u.cores } := by
    simp only [u, State.confirmed]
    rw [foldDigest_frame]
    rfl
  obtain ⟨d, l, hd⟩ := foldDigest_slot (s := x) (c := c) es
  have hslot : u.slot c = { s.slot c with wait := none, wcount := 0, digest := d, late := l } := by
    rw [← State.slot_congr h]
    exact (State.slot_setSlot ..).trans (by rw [hd])
  refine ⟨by rw [hu], by rw [hu], by rw [hu], by rw [hslot], fun j hj => ?_⟩
  rw [← State.slot_congr h]
  exact (State.slot_setSlot_ne _ _ _ _ hj).trans (foldDigest_slot_ne es hj)
/-- In a DET launch a store of a certain context folds into its digest as it is confirmed (R369). -/
theorem confirmed_digest {s x : State} (h : x.cores = s.cores) {c : CtxId} (es : List StoreElem) (hl : (x.launchOf c).rc.digest = true)
    (hs : (s.slot c).speculative = false) :
    ((x.confirmed c es).slot c).late = (s.slot c).late ∧ ((x.confirmed c es).slot c).digest = es.foldl foldElem (s.slot c).digest := by
  rw [← State.slot_congr h] at hs ⊢
  have hslot : (x.confirmed c es).slot c =
      { x.slot c with wait := none, wcount := 0, digest := es.foldl foldElem (x.slot c).digest } := by
    rw [State.confirmed, foldDigest_certain es hl hs, State.modSlot, State.slot_setSlot, State.slot_setSlot]
  rw [hslot]
  exact ⟨rfl, rfl⟩

/-- What becomes of a scalar store whose check finds the location `l`, with room there. -/
theorem confirm_scalar {s : State} {c : CtxId} {e : StoreElem} (hw : (s.slot c).wait = some (.confirm [e])) (he : e.Scalar) {l : Nat}
    (ha : access s (s.whoIs c) e.addr e.size .write = .loc l) (hr : slotctlRefuses l e.val = false) (hroom : s.room l e.size ≠ .full) :
    exec (.storeConfirmation c) s =
      .next (((s.homeWrite (s.whoIs c) e.addr l e.size e.val (2 ^ (8 * e.size) - 1)).confirmed c [e]).finishAt c 4) := by
  rw [confirm_performs hw (storeFault_loc he ha hr hroom), performStore, List.foldl_cons, List.foldl_nil, writeElem_scalar he ha]
  rfl
/-- The message that a scalar store to a full inbox becomes (R360). -/
def overflowOf (w : Who) (e : StoreElem) (d : CtxId) : Overflow :=
  ⟨⟨w.pid, w.lid, w.gen, w.sys, e.addr, .write, e.size, e.val, 2 ^ (8 * e.size) - 1⟩, none, d, w.ctx, none⟩
theorem slotctlRefuses_home {l : Nat} (h : isHbm l = true ∨ locRegion l ≠ 4) (v : Nat) : slotctlRefuses l v = false := by
  obtain h | h := h <;> simp [slotctlRefuses, h]
theorem bits_low (v : Nat) : bits v 14 0 = v % 2 ^ 15 := rfl
theorem slotctlRefuses_iff {l : Nat} (hl : isHbm l = false) (hr : locRegion l = 4) (v : Nat) :
    slotctlRefuses l v = true ↔ l % 2 ^ 15 = 0x018 ∧ 2 ≤ v % 4 := by
  rw [slotctlRefuses, hl, decide_eq_true hr, bits_low, Bool.and_eq_true, decide_eq_true_eq, Bool.not_false, Bool.true_and, Bool.true_and,
    decide_eq_true_eq]

section
variable {s : State} {c : CtxId} {e : StoreElem} (hw : (s.slot c).wait = some (.confirm [e])) (he : e.Scalar) {l : Nat}
  (ha : access s (s.whoIs c) e.addr e.size .write = .loc l)
include hw he ha

/-- A store that its home takes (R106). -/
theorem confirm_written (hh : isHbm l = true ∨ locRegion l ≠ 4) (hroom : s.room l e.size = .free) :
    exec (.storeConfirmation c) s = .next (((s.write l e.size e.val).confirmed c [e]).finishAt c 4) := by
  rw [confirm_scalar hw he ha (slotctlRefuses_home hh _) (by simp [hroom]), homeWrite_free _ _ _ _ _ hh hroom]
/-- A store to a core's system window (R362). -/
theorem confirm_window (hl : isHbm l = false) (hr : locRegion l = 4) (hv : l % 2 ^ 15 ≠ 0x018 ∨ e.val % 4 < 2) :
    exec (.storeConfirmation c) s = .next (((windowWrite s (if (s.whoIs c).sys then some c.core else none) (locCore l) (l % 2 ^ 15)
      (BitVec.ofNat 64 e.val)).confirmed c [e]).finishAt c 4) := by
  have hno : slotctlRefuses l e.val = false := by
    rw [Bool.eq_false_iff, Ne, slotctlRefuses_iff hl hr]
    omega
  rw [confirm_scalar hw he ha hno (by rw [room_free s _ (by omega)]; nofun), homeWrite_window _ _ _ _ _ _ hl hr, whoIs_core]
  rfl
theorem confirm_slotctl (hl : isHbm l = false) (hr : locRegion l = 4) (hv : l % 2 ^ 15 = 0x018 ∧ 2 ≤ e.val % 4) :
    exec (.storeConfirmation c) s = .next (s.raiseAt c (trapInfo 0x051 e.addr 1)) :=
  confirm_fault hw (storeFault_slotctl he ha ((slotctlRefuses_iff hl hr _).mpr hv))
/-- A store to the inbox of a stopping gang that is full goes to the gang's overflow area (R360). -/
theorem confirm_overflows (hh : isHbm l = true ∨ locRegion l ≠ 4) {d : CtxId} {g : Nat} (hroom : s.room l e.size = .area d g) :
    exec (.storeConfirmation c) s = .next (((s.overflow g (overflowOf (s.whoIs c) e d)).confirmed c [e]).finishAt c 4) := by
  rw [confirm_scalar hw he ha (slotctlRefuses_home hh _) (by simp [hroom]), homeWrite_area _ _ _ _ _ _ hh hroom]
  rfl

end

/-! ## An inbox by its location -/

theorem locRegion_globLoc (m x y k region off : Nat) (hr : region < 2 ^ 18) (ho : off < 2 ^ 15) : locRegion (globLoc m x y k region off) = region := by
  simp only [locRegion, globLoc, bits, Nat.shiftRight_eq_div_pow]
  omega
theorem locRegion_wbufLoc (cl : ClusterId) (k : Nat) {off : Nat} (ho : off < 2 ^ 15) : locRegion (wbufLoc cl (k % 2 * 2 ^ 15 + off)) = 8 + k % 2 := by
  simp only [locRegion, wbufLoc, globLoc, bits, Nat.shiftRight_eq_div_pow]
  omega
theorem isHbm_hbmLoc {m pa : Nat} (hm : m < 1024) (hp : pa < 2 ^ 52) : isHbm (hbmLoc m pa) = true := by
  refine decide_eq_true ?_
  rw [hbmLoc]
  omega
theorem stationAccess_hbm {s : State} {m : Nat} {pid : BitVec 8} {va n : Nat} {acc : Access} {ea : DWord} {wr : Bool} {l : Nat}
    (h : stationAccess s m pid va n acc ea wr = .loc l) (hm : m < 1024) : isHbm l = true := by
  simp only [stationAccess] at h
  split at h
  · cases h
  · split_ifs at h with hallow hsealed hsize
    cases h
    rw [hbmSize] at hsize
    exact isHbm_hbmLoc hm (by omega)
theorem ownerAccess_loc {s : State} {w : Who} {m x y core region off n : Nat} {acc : Access} {ea : DWord} {l : Nat}
    (h : ownerAccess s w m x y core region off n acc ea = .loc l) :
    l = wbufLoc ⟨m, x, y⟩ (core % 2 * 2 ^ 15 + off) ∨ l = globLoc m x y core region off := by
  simp only [ownerAccess] at h
  split_ifs at h
  · exact .inl (Acc.loc.inj h).symm
  · exact .inr (Acc.loc.inj h).symm
/-- From a module that a pod can have, only a global address of an inbox region reaches an inbox (R169, R185). -/
theorem form_of_inbox {s : State} {w : Who} {a : DWord} {n : Nat} {acc : Access} {l : Nat} (h : access s w a n acc = .loc l)
    (hm : w.core.cl.m < 1024) (hl : isHbm l = false) (hr : locRegion l = 3) : ∃ m x y k off, form a = .glob m x y k 3 off := by
  have hbits : ∀ hi lo, bits a.toNat hi lo < 2 ^ (hi + 1 - lo) := fun hi lo => Nat.mod_lt _ (Nat.two_pow_pos _)
  by_cases hp : a.toNat < 0x8000
  · rw [access_priv s w hp] at h
    cases h
    rw [locRegion_privLoc _ hp] at hr
    cases hr
  · rw [access, form, if_neg hp] at h
    rw [form, if_neg hp]
    split_ifs at h ⊢ with hvirt hglob hremote
    · rw [stationAccess_hbm h hm] at hl
      cases hl
    · obtain rfl | rfl := ownerAccess_loc h
      · rw [locRegion_wbufLoc _ _ (hbits 14 0)] at hr
        omega
      · rw [locRegion_globLoc] at hr
        · rw [hr]
          exact ⟨_, _, _, _, _, rfl⟩
        · have := hbits 17 15; omega
        · exact hbits 14 0
    · dsimp only at h
      split_ifs at h
      rw [stationAccess_hbm h (hbits 61 52)] at hl
      cases hl
/-- Where a write does not find room at once, it is one to an inbox (R360). -/
theorem inbox_of_room {s : State} {l n : Nat} (h : s.room l n ≠ .free) : isHbm l = false ∧ locRegion l = 3 := by
  by_contra hno
  have hin : inboxAt l = none := if_neg (by simpa using hno)
  exact h (by simp only [State.room, hin])
/-- In a module that a pod can have, a store that finds the inbox and its overflow area full goes on waiting (R360). -/
theorem confirm_full_waits {s : State} {c : CtxId} {e : StoreElem} (hw : (s.slot c).wait = some (.confirm [e])) (he : e.Scalar) {l : Nat}
    (ha : access s (s.whoIs c) e.addr e.size .write = .loc l) (hroom : s.room l e.size = .full) (hm : c.core.cl.m < 1024) :
    exec (.storeConfirmation c) s = .next s := by
  obtain ⟨hl, hr⟩ := inbox_of_room (s := s) (l := l) (n := e.size) (by simp [hroom])
  obtain ⟨m, x, y, k, off, hf⟩ := form_of_inbox ha (by rwa [whoIs_core]) hl hr
  exact confirm_retry hw (storeFault_full he ha hf (slotctlRefuses_home (.inr (by omega)) _) hroom)

end Sys2Proof.Machine
end

section
/-! SUPPORT. The scalar stores as their statement puts them, and where its clause of a full inbox fails (R106, R109, R150, R154, R270, R360, R369). -/

namespace Sys2Proof.Machine

/-! ## The statement, but for a full inbox -/

/-- A confirmation that finds the overflow area of an inbox full changes nothing, whatever the number of the module. -/
def FullInboxesHoldStores : Prop :=
  ∀ (s : State) (c : CtxId) (e : StoreElem) (l : Nat), (s.slot c).wait = some (.confirm [e]) → e.Scalar →
    access s (s.whoIs c) e.addr e.size .write = .loc l → s.room l e.size = .full → exec (.storeConfirmation c) s = .next s

theorem store_takes {st t : State} {s : Bool} {r q : BitVec 5} (h : Takes { s := s, hOk := true, a := [r, q] } st t) {i : Instr} {imm : BitVec 12}
    {n : Nat} (hi : exec i st = .next (stx s q r imm n st)) (hc : issueCheck t t.me (t.cx.ra r + imm.signExtend 64) n .write formsOwn = none) :
    exec i st = .next (doStore t [wholeElem (t.cx.ra r + imm.signExtend 64) n (t.cx.ra q).toNat]) := by
  rw [hi, stx_takes h, hc]

/-- Of a context that is certain, in its core's scratchpad (R150, R369). -/
theorem store_in_scratchpad {t : State} {es : List StoreElem} (hspec : t.self.speculative = false) (hwf : Memory.wf t.mem = true)
    (hes : ∀ e ∈ es, e.Scalar ∧ e.addr.toNat < 0x8000) :
    ∃ u : State, doStore t es = u.finish ∧
      u.mem = es.foldl (fun m e => Memory.setN m (privLoc t.cur e.addr.toNat) e.size e.val) t.mem ∧
      (∀ l, (∀ e ∈ es, l < privLoc t.cur e.addr.toNat ∨ privLoc t.cur e.addr.toNat + e.size ≤ l) → Memory.get u.mem l = Memory.get t.mem l) ∧
      u = { t with mem := u.mem, poison := u.poison, cores := u.cores } ∧ SameOutside t.me { t with mem := u.mem, poison := u.poison } u ∧
      u.self = { t.self with digest := u.self.digest } ∧ ((t.launchOf t.me).rc.digest = false → u.cores = t.cores) ∧
      ((t.launchOf t.me).rc.digest = true → u.self.digest =
        es.foldl (fun d e => gen (d ^^^ BitVec.ofNat 64 e.val) (BitVec.ofNat 64 (16 * e.addr.toNat + e.size))) t.self.digest) := by
  have hpriv : ∀ e ∈ es, (form e.addr).isPriv = true := fun e he => by rw [form_of_priv (hes e he).2]; rfl
  have hcore : (t.whoIs t.me).core = t.cur := whoIs_core t t.me
  obtain ⟨hmem, hout, hframe⟩ := writeElems_priv (t.whoIs t.me) es hes t hwf
  rw [hcore] at hmem hout
  refine ⟨performStore t t.me es, doStore_performs (drafted_certain _ _ hspec) hpriv, ?_⟩
  rw [performStore]
  generalize es.foldl (writeElem (t.whoIs t.me)) t = x at hmem hout hframe
  obtain ⟨m, p, rfl⟩ : ∃ m p, x = { t with mem := m, poison := p } := ⟨_, _, hframe⟩
  cases hd : (t.launchOf t.me).rc.digest with
  | false =>
    rw [foldDigest_off (s := { t with mem := m, poison := p }) es hd]
    exact ⟨hmem, hout, rfl, ⟨rfl, fun _ _ => rfl, fun _ _ => rfl, rfl⟩, rfl, fun _ => rfl, nofun⟩
  | true =>
    have hfold : es.foldl foldElem t.self.digest =
        es.foldl (fun d e => gen (d ^^^ BitVec.ofNat 64 e.val) (BitVec.ofNat 64 (16 * e.addr.toNat + e.size))) t.self.digest := by
      refine List.foldl_ext _ _ _ fun d e he => ?_
      obtain ⟨⟨-, hmask, -⟩, hlt⟩ := hes e he
      rw [foldElem_whole hmask, digestKey, form_of_priv hlt]
    have hself : ∀ v : Slot, (State.setSlot { t with mem := m, poison := p } t.me v).self = v := State.self_setSelf _
    rw [foldDigest_certain (s := { t with mem := m, poison := p }) es hd hspec]
    refine ⟨hmem, hout, rfl, sameOutside_setSlot .., ?_, nofun, fun _ => ?_⟩
    · rw [hself]
      rfl
    · rw [hself, ← hfold]
      rfl
/-- Of a speculative segment that is not a run-ahead (R270). -/
theorem store_in_segment {t : State} {es : List StoreElem} (hspec : t.self.speculative = true) (hck : t.self.ck = none) (hwho : t.me.who ≠ 4) :
    let own := es.filter (fun e => decide (e.addr.toNat / 0x2000 = t.me.who.val) && decide ((e.addr.toNat + e.size - 1) / 0x2000 = t.me.who.val))
    (own ≠ es → 1024 ≤ (t.cluster t.cur.cl).drafts.length → doStore t es = t.park .certain) ∧
    (own ≠ es → (t.cluster t.cur.cl).drafts.length < 1024 → ∃ u : State, doStore t es = u.finish ∧ u.mem = (performStore t t.me own).mem ∧
      u.cx = t.cx ∧ ∃ d, (u.cluster t.cur.cl).drafts = (t.cluster t.cur.cl).drafts ++ [d] ∧ d.owner = t.self.uid ∧ d.opc = t.cx.pc ∧
        d.elems = es.filter (fun e => !own.contains e)) ∧
    (own = es → doStore t es = (performStore t t.me es).finish) := by
  intro own
  have hown : own = es.filter (inOwnRegion t.me) := List.filter_congr fun e _ => (inOwnRegion_eq hwho e).symm
  have hlater : drafted t.me t.self es = es.filter (fun e => !inOwnRegion t.me e) := drafted_segment _ _ hspec hck
  have hnone : drafted t.me t.self es = [] ↔ own = es := by
    rw [hlater, hown, List.filter_eq_nil_iff, List.filter_eq_self]
    simp
  have hnow : es.filter (fun e => !(drafted t.me t.self es).contains e) = own := by rw [hlater, filter_not_contains, hown]
  have hdrafts : drafted t.me t.self es = es.filter (fun e => !own.contains e) := by
    have hkeep := filter_not_contains (fun e => !inOwnRegion t.me e) es
    simp only [Bool.not_not] at hkeep
    rw [hlater, hown, hkeep]
  refine ⟨fun hne hfull => doStore_parks (mt hnone.mp hne) hfull, fun hne hroom => ?_, fun heq => ?_⟩
  · obtain ⟨hmem, hcx, -, d, hd, howner, helems, hopc⟩ := drafted_store_spec t own (drafted t.me t.self es)
    exact ⟨_, (doStore_drafts (mt hnone.mp hne) hroom).trans (by rw [hnow]), hmem, hcx, d, hd, howner, hopc, helems.trans hdrafts⟩
  · refine doStore_performs (hnone.mpr heq) fun e he => isPriv_of_inOwnRegion (c := t.me) ?_
    rw [hown, List.filter_eq_self] at heq
    exact heq e he
/-- Of a run-ahead (R109, R270). -/
theorem store_in_runAhead {t : State} {es : List StoreElem} (hspec : t.self.speculative = true) (hck : t.self.ck.isSome = true) (hes : es ≠ [])
    (hroom : (t.cluster t.cur.cl).drafts.length < 1024) :
    ∃ u : State, doStore t es = u.finish ∧ u.mem = t.mem ∧ u.cx = t.cx ∧ (∀ d, d ≠ t.me → u.slot d = t.slot d) ∧
      ∃ d, (u.cluster t.cur.cl).drafts = (t.cluster t.cur.cl).drafts ++ [d] ∧ d.owner = t.self.uid ∧ d.elems = es ∧ d.opc = t.cx.pc := by
  have hdrafted : drafted t.me t.self es = es := drafted_runAhead _ _ hspec hck
  have hnow : es.filter (fun e => !(drafted t.me t.self es).contains e) = [] := by
    rw [hdrafted, List.filter_eq_nil_iff]
    simp
  obtain ⟨hmem, hcx, hslots, hd⟩ := drafted_store_spec t [] es
  have hstore := doStore_drafts (es := es) (by rwa [hdrafted]) hroom
  rw [hnow, hdrafted] at hstore
  refine ⟨_, hstore, hmem.trans ?_, hcx, hslots, hd⟩
  rw [performStore, foldDigest_frame]
  rfl

/-- Every clause of O22 but that of a full inbox holds. -/
theorem scalarStoresAreMade_of_fullInboxesHoldStores (hfull : FullInboxesHoldStores) : Obligations.ScalarStoresAreMade := by
  unfold Obligations.ScalarStoresAreMade
  refine ⟨?_, fun t es => ⟨fun hspec hwf hes => store_in_scratchpad hspec hwf fun e he => ?_, fun hspec hany => ?_,
    store_in_runAhead, store_in_segment⟩, ?_⟩
  · intro st t s q r imm cls h a v
    simp only [List.forall_mem_cons, List.not_mem_nil, false_imp_iff, implies_true, and_true]
    refine ⟨⟨?_, ?_, ?_, ?_⟩, fun z hc => ?_⟩
    · exact store_takes h rfl
    · exact store_takes h rfl
    · exact store_takes h rfl
    · exact store_takes h rfl
    · rw [rst_takes h, hc]
      rfl
  · obtain ⟨hlt, hsize, hmask, hval⟩ := hes e he
    exact ⟨⟨hsize, hmask, hval⟩, hlt⟩
  · exact doStore_waits (drafted_certain _ _ hspec) hany
  · intro s c e hw hsize hmask hval hwf
    have he : e.Scalar := ⟨hsize, hmask, hval⟩
    refine ⟨fun l ha hh hroom => ?_, fun l ha hl hr => ⟨fun h1 h2 => confirm_slotctl hw he ha hl hr ⟨h1, h2⟩, fun hv => ?_⟩,
      fun l d g ha hh hroom => ?_, fun l ha hroom => hfull s c e l hw he ha hroom, fun f ha => confirm_fault hw (storeFault_fault he ha),
      fun ha => confirm_retry hw (storeFault_retry he ha)⟩
    · obtain ⟨hmem, -, -, hslot, hothers⟩ := confirmed_spec (x := s.write l e.size e.val) (s := s) rfl c [e]
      refine ⟨_, confirm_written hw he ha hh hroom, hmem, fun i hi => ?_, fun x hx => ?_, hslot, ?_, hothers⟩
      · rw [hmem]
        exact Memory.get_setN_in _ _ _ _ _ hwf hi
      · rw [hmem]
        exact Memory.get_setN_out _ _ _ _ _ hwf hx
      · intro key hdet hcertain
        obtain ⟨hlate, hdigest⟩ := confirmed_digest (x := s.write l e.size e.val) (s := s) rfl [e] hdet hcertain
        exact ⟨hlate, hdigest.trans (foldElem_whole hmask _)⟩
    · obtain ⟨hmem, hagenda, -, hslot, -⟩ := confirmed_spec (s := s) rfl c [e]
        (x := windowWrite s (if (s.whoIs c).sys then some c.core else none) (locCore l) (l % 2 ^ 15) (BitVec.ofNat 64 e.val))
      exact ⟨_, confirm_window hw he ha hl hr hv, hmem, by rw [hslot], hagenda⟩
    · obtain ⟨hmem, -, hgangs, hslot, -⟩ := confirmed_spec (s := s) rfl c [e]
        (x := s.overflow g (overflowOf (s.whoIs c) e d))
      refine ⟨_, overflowOf (s.whoIs c) e d, confirm_overflows hw he ha hh hroom, hmem, by rw [hslot], ?_, rfl, rfl, rfl, rfl, fun j hj => ?_⟩
      · rw [State.gang_congr hgangs]
        exact congrArg Gang.overflow (State.gang_setGang ..)
      · rw [State.gang_congr hgangs]
        exact State.gang_setGang_ne _ _ _ _ hj

/-! ## A full inbox that no address names -/

/-- A context of module 1024, which no pod has and no address names, with a store to a page that its station maps into HBM. The location is
above HBM's, and reads as that of an inbox of module 0. -/
def strayCtx : CtxId := ⟨⟨⟨1024, 0, 0⟩, 0⟩, 0⟩
def strayStore : StoreElem := ⟨0x100000000, 8, 0, 2 ^ 64 - 1⟩
def strayPage : TlbEntry :=
  { m := 1024, station := stationOf 0x100000000, pid := 1, va := 0x100000000, size := 65536, pa := 0x18000, r := true, w := true, x := false }
def straySlot : Slot := { Slot.reset with wait := some (.confirm [strayStore]), pid := 1 }
/-- The gang of that inbox is stopping, with more than 64 KiB in its overflow area; the next free value is the `n`-th. -/
def strayStopping : Gang :=
  { Gang.reset with
    status := .stopping
    overflow := [⟨⟨0, 0, 0, false, 0, .write, 65536, 0, 0⟩, none, ⟨⟨⟨0, 0, 0⟩, 0⟩, 0⟩, ⟨⟨⟨0, 0, 0⟩, 0⟩, 0⟩, none⟩] }
def stray (n : Nat) : State :=
  { State.reset.setSlot strayCtx straySlot with
    fresh := n, modules := [(1024, { Module.reset with pids := [(1, 1)] })], tlb := [strayPage], gangs := [(0, strayStopping)] }

theorem stray_slot (n : Nat) : (stray n).slot strayCtx = straySlot := State.slot_setSlot ..
theorem stray_form : form strayStore.addr = .virt 0x100000000 := by decide +kernel
theorem stray_scalar : strayStore.Scalar := by
  unfold StoreElem.Scalar
  decide
theorem stray_walk (n : Nat) : pageWalk (stray n) 1024 1 0x100000000 = .leaf strayPage := by
  have hpid : kget ((stray n).module 1024).pids 1 0 = 1 := rfl
  have hpage : cached (stray n) 1024 1 0x100000000 = some strayPage := List.find?_cons_of_pos (by decide +kernel)
  simp only [pageWalk, hpid, hpage]
  rfl
theorem stray_access (n : Nat) : access (stray n) ((stray n).whoIs strayCtx) strayStore.addr strayStore.size .write = .loc (hbmLoc 1024 0x18000) := by
  have hwho : (stray n).whoIs strayCtx = ⟨1, 0, 0, false, strayCtx⟩ := by
    rw [State.whoIs, stray_slot]
    rfl
  have hsealed : (stray n).sealed 1024 1 0x100000000 8 = false := rfl
  have hstation : stationAccess (stray n) 1024 1 0x100000000 8 .write strayStore.addr true = .loc (hbmLoc 1024 0x18000) := by
    simp only [stationAccess, stray_walk, hsealed]
    decide +kernel
  rw [hwho, access, stray_form]
  exact hstation
theorem stray_room {n : Nat} (h : (Config.freeValue n).getLsbD 0 = false) : (stray n).room (hbmLoc 1024 0x18000) strayStore.size = .full := by
  have hin : inboxAt (hbmLoc 1024 0x18000) = some ⟨⟨⟨0, 0, 0⟩, 0⟩, 0⟩ := by decide +kernel
  have hgang : ((stray n).slot ⟨⟨⟨0, 0, 0⟩, 0⟩, 0⟩).gang.getD 0 = 0 := by
    have hother : (stray n).slot ⟨⟨⟨0, 0, 0⟩, 0⟩, 0⟩ = State.reset.slot ⟨⟨⟨0, 0, 0⟩, 0⟩, 0⟩ := State.slot_setSlot_ne _ _ _ _ (by decide)
    rw [hother]
    decide +kernel
  have hstopping : ((stray n).gang 0).status = .stopping := rfl
  have hsize : ((stray n).gang 0).overflowed ⟨0, 0, 0⟩ = 65536 + Config.overflowHead := rfl
  have hfree : (stray n).fresh = n := rfl
  simp only [State.room, hin, hgang, hstopping, hsize, hfree, h, strayStore]
  rw [if_neg (by decide), if_pos (by omega)]
/-- The store is confirmed, and its bytes are lost. -/
theorem stray_confirms {n : Nat} (h : (Config.freeValue n).getLsbD 0 = false) :
    exec (.storeConfirmation strayCtx) (stray n) = .next (((stray n).confirmed strayCtx [strayStore]).finishAt strayCtx 4) := by
  have haccess := stray_access n
  have hwait : ((stray n).slot strayCtx).wait = some (.confirm [strayStore]) := by
    rw [stray_slot]
    rfl
  have hchecks : storeChecks (stray n) ((stray n).whoIs strayCtx) [strayStore] = .loc 0 := by
    simp only [storeChecks, stray_scalar.pieces, List.foldl_cons, List.foldl_nil, BitVec.add_zero, haccess]
    decide +kernel
  have hroom : storeRoom (stray n) ((stray n).whoIs strayCtx) [strayStore] = true := by
    rw [storeRoom, List.any_cons, List.any_nil, stray_form]
    rfl
  have hfault : storeFault (stray n) ((stray n).whoIs strayCtx) [strayStore] = .loc 0 := by
    simp only [storeFault, hchecks, hroom]
    rfl
  rw [confirm_performs hwait hfault, performStore, List.foldl_cons, List.foldl_nil, writeElem_scalar stray_scalar haccess,
    homeWrite_full _ _ _ _ _ _ (.inr (by decide +kernel)) (stray_room h)]
  rfl
theorem stray_moves (n : Nat) : ((stray n).confirmed strayCtx [strayStore]).finishAt strayCtx 4 ≠ stray n := by
  intro heq
  obtain ⟨-, -, -, hslot, -⟩ := confirmed_spec (s := stray n) (x := stray n) rfl strayCtx [strayStore]
  rw [stray_slot] at hslot
  generalize (stray n).confirmed strayCtx [strayStore] = u at heq hslot
  have hdelay : (u.slot strayCtx).cx.delay = none := by
    rw [hslot]
    rfl
  have hfinish : u.finishAt strayCtx 4 = u.modSlot strayCtx (fun sl => sl.finish 4) := by simp only [State.finishAt, hdelay]
  have hwait : ((u.slot strayCtx).finish 4).wait = none := by
    rw [hslot]
    rfl
  rw [hfinish] at heq
  have hstays : (u.slot strayCtx).finish 4 = straySlot := by
    rw [← stray_slot n, ← heq, State.modSlot, State.slot_setSlot]
  rw [hstays] at hwait
  cases hwait

/-! ## What the statement comes to -/

theorem room_found (s : State) (l n : Nat) (h : (Config.freeValue s.fresh).getLsbD 0 = true) : s.room l n = .free := by
  cases hin : inboxAt l with
  | none => simp only [State.room, hin]
  | some c => simp only [State.room, hin, h, Bool.or_true, if_true]
/-- What O22 comes to: it holds just where no free value lets an inbox be full (entry 8), and the free values are opaque. In a module that a pod can
have the clause of a full inbox holds (`confirm_full_waits`); the statement ranges over every number of a module, and past 1023 a store may reach an
inbox by a virtual address, for which `storeRoom` does not ask whether there is room. -/
theorem scalarStoresAreMade_iff : Obligations.ScalarStoresAreMade ↔ ∀ n, (Config.freeValue n).getLsbD 0 = true := by
  constructor
  · intro h n
    by_contra hno
    have hfree : (Config.freeValue n).getLsbD 0 = false := by simpa using hno
    unfold Obligations.ScalarStoresAreMade at h
    obtain ⟨-, -, hconfirm⟩ := h
    obtain ⟨-, -, -, hfull, -⟩ := hconfirm (stray n) strayCtx strayStore (by rw [stray_slot]; rfl) (by decide) (by decide) (by decide) rfl
    have hstay := hfull _ (stray_access n) (stray_room hfree)
    rw [stray_confirms hfree] at hstay
    exact stray_moves n (Host.Outcome.next.inj hstay)
  · intro h
    refine scalarStoresAreMade_of_fullInboxesHoldStores fun s c e l _ _ _ hroom => ?_
    rw [room_found s l _ (h _)] at hroom
    cases hroom

end Sys2Proof.Machine
end

section
/-! SUPPORT. VCVT, VTAG and VRQ: the lanes converted and requantised, the tag changed, and the words of VTAG that are no instruction (R53, R116 to
R118). -/

namespace Sys2Proof

/-! ## Words that the decoder refuses -/

/-- A word whose bit 0 is 1 is read, or refused, as one 32-bit instruction, whatever bytes follow (R32). -/
theorem decode_leBytes_four {w : Nat} (rest : List Byte) (hw : w < 2 ^ 32) (ho : w % 2 = 1) :
    decode (leBytes 4 w ++ rest) = (decode32 w).map (fun i => (i, rest)) := by
  have h1 : w % 256 + 256 * (w / 256 % 256) + 65536 * (w / 256 / 256 % 256 + 256 * (w / 256 / 256 / 256 % 256)) = w := by omega
  have h2 : (w % 256 + 256 * (w / 256 % 256)) % 2 = 1 := by omega
  simp only [leBytes_four, decode, BitVec.toNat_ofNat, Nat.reducePow, h1, h2]
  rfl
/-- Fields with a reserved value are what the decoder finds first (R53). -/
theorem checked_of_not_fieldsOk {i : Instr} (h : i.fieldsOk = false) : checked i = .error .reservedField := by simp [checked, h]
/-- The row of VTAG (R60): its format stands in the field of a second source, under a predicate field that is zero. -/
theorem decodeC_vtag {w : Nat} {s : Bool} {d a fmt : BitVec 6}
    (hw : w = fmt.toNat * 2 ^ 22 + a.toNat * 2 ^ 16 + d.toNat * 2 ^ 10 + 0x2D * 2 ^ 3 + 2 ^ 2 + (BitVec.ofBool s).toNat * 2 + 1) :
    decodeC w = .ok (.vtag s d a fmt) := by
  have hrow : w / 8 % 128 = 45 := by omega
  have hzero : (w / 268435456 % 16 == 0) = true := by rw [beq_iff_eq]; omega
  rw [decodeC, hrow]
  refine (zeros_ok hzero).trans ?_
  rw [bitAt_field (s := s) (by omega), ofNat_field (x := d) (by omega), ofNat_field (x := a) (by omega), ofNat_field (x := fmt) (by omega)]
/-- VTAG of a broadcast register or of vz is no instruction (R117). -/
theorem vtag_fieldsOk_of_no_register (s : Bool) (d fmt : BitVec 6) {a : BitVec 6} (ha : (50 ≤ a.toNat ∧ a.toNat < 58) ∨ a = 63) :
    (Instr.vtag s d a fmt).fieldsOk = false := by
  rcases ha with ⟨h50, h58⟩ | rfl
  · have hb : isBcast a = true := by rw [isBcast, decide_eq_true h50, decide_eq_true (by omega : a.toNat ≤ 57)]; rfl
    simp [Instr.fieldsOk, hb]
  · simp [Instr.fieldsOk]
theorem decode_vtag_of_no_register {w : Nat} {s : Bool} {d a fmt : BitVec 6} (ha : (50 ≤ a.toNat ∧ a.toNat < 58) ∨ a = 63)
    (hw : w = fmt.toNat * 2 ^ 22 + a.toNat * 2 ^ 16 + d.toNat * 2 ^ 10 + 0x2D * 2 ^ 3 + 2 ^ 2 + (BitVec.ofBool s).toNat * 2 + 1) (rest : List Byte) :
    decode (leBytes 4 w ++ rest) = .error .reservedField := by
  have hmap : bitAt (w / 4) = true := bitAt_field (s := true) (by rw [show (BitVec.ofBool true).toNat = 1 from rfl]; omega)
  have hrefused : decode32 w = .error .reservedField := by
    rw [decode32, if_pos hmap, decodeC_vtag hw]
    exact checked_of_not_fieldsOk (vtag_fieldsOk_of_no_register s d fmt ha)
  rw [decode_leBytes_four rest (by omega) (by omega), hrefused]
  rfl

end Sys2Proof

namespace Sys2Proof.Machine

/-! ## Lanes under a check of the instruction's own -/

/-- A C-class instruction whose own check fixes its type gives the lanes of its operation. -/
theorem vecIssue_checked_lanes {i : Instr} {q : VIss} {st t : State} {os : List Opnd} {ty : Tag} {k : BitVec 3} {z : Bool}
    {check : Ctxt → List Opnd → Except (BitVec 9) Tag} {op : Tag → List Opnd → Nat → Nat × FlagBits}
    (h : VectorTakes q st t os) (hc : check t.cx os = .ok ty)
    (he : exec i st = .next (vecIssue q st check fun c t os => applyLanes t (c.rk k.toNat) z (oldOf c q.d) (op t os))) :
    GivesLanes i st t q ty k z (op ty os) := by
  obtain ⟨c, hn, hr⟩ := vecIssue_result h (fun c t os => applyLanes t (c.rk k.toNat) z (oldOf c q.d) (op t os)) hc
  exact ⟨c, _, _, he.trans (congrArg _ hn), hr, applyLanes_laneResult ..⟩

/-! ## VCVT (R116) -/

/-- The type that VCVT reads its source under: the source's tag, INT64 of a broadcast, and the target of vz. -/
def cvtSource (ty : Tag) : Opnd → Tag
  | .bcast _ => .int64
  | .zero => ty
  | o => o.tag?.getD .none
/-- A lane of VCVT: the source's lane converted, and 0 beyond the source's lanes. -/
def cvtLane (ty : Tag) (o : Opnd) (i : Nat) : Nat × FlagBits :=
  if i < (cvtSource ty o).lanes then convert (cvtSource ty o) ty (readLane (cvtSource ty o) (o.bits (cvtSource ty o)) i) else (0, 0)

/-- VCVT's check of its source, which only a source tagged NONE fails. -/
def cvtCheck (ty : Tag) (o : Opnd) : Except (BitVec 9) Tag :=
  match o.tag? with
  | some .none => .error 0x009
  | _ => .ok ty
theorem cvtCheck_none (ty : Tag) {o : Opnd} (h : o.tag? = some .none) : cvtCheck ty o = .error 0x009 := by rw [cvtCheck, h]
theorem cvtCheck_tagged (ty : Tag) {o : Opnd} (h : o.tag? ≠ some .none) : cvtCheck ty o = .ok ty := by
  unfold cvtCheck
  split
  next hn => exact absurd hn h
  next => rfl

/-- A broadcast gives its whole register in every lane of INT64. -/
theorem readLane_splat_int64 (v : DWord) {i : Nat} (hi : i < 4) : readLane .int64 (Opnd.bits (.bcast v) .int64) i = v.toNat := by
  have hlane : laneOf 64 (splat .int64 v.toNat) i = v.toNat := by
    have hsome : (List.replicate 4 v.toNat)[i]? = some v.toNat := by rw [List.getElem?_replicate, if_pos hi]
    rw [splat, show Tag.ebits .int64 = 64 from rfl, show Tag.lanes .int64 = 4 from rfl, laneOf_ofLanes 64 _ i (by simp), List.getD_eq_getElem?_getD,
      hsome]
    exact Nat.mod_eq_of_lt v.isLt
  have hbits : Opnd.bits (.bcast v) .int64 = splat .int64 v.toNat :=
    congrArg (splat .int64) (Nat.mod_eq_of_lt v.isLt : v.toNat % 2 ^ 64 = v.toNat)
  rw [hbits, readLane, show Tag.ebits .int64 = 64 from rfl, hlane]
  exact Nat.mod_eq_of_lt v.isLt
theorem cvtLane_bcast (ty : Tag) (v : DWord) : cvtLane ty (.bcast v) = fun i => if i < 4 then convert .int64 ty v.toNat else (0, 0) := by
  funext i
  rw [cvtLane, show cvtSource ty (.bcast v) = .int64 from rfl, show Tag.lanes .int64 = 4 from rfl]
  exact ite_congr rfl (fun hi => congrArg (convert .int64 ty) (readLane_splat_int64 v hi)) fun _ => rfl
/-- vz is read under the target, so that it is copied as +0. -/
theorem cvtLane_zero (ty : Tag) : cvtLane ty .zero = fun _ => (0, 0) := by
  funext i
  have hcopy : convert ty ty (readLane ty 0 i) = (0, 0) := by rw [convert, if_pos rfl, readLane_zero]
  exact (ite_congr rfl (fun _ => hcopy) fun _ => rfl).trans (ite_self _)

theorem vcvt_issue (s : Bool) (d a fmt : BitVec 6) (k : BitVec 3) (z : Bool) (st : State) :
    exec (.vcvt s d a fmt k z) st = .next (vecIssue { s := s, d := d, srcs := [a] } st (fun _ os => cvtCheck (tagOf fmt.toNat) (os.getD 0 .zero))
      fun c t os => applyLanes t (c.rk k.toNat) z (oldOf c d) (cvtLane t (os.getD 0 .zero))) := rfl

section
variable {st t : State} {s : Bool} {d a : BitVec 6} {o : Opnd} (h : VectorTakes { s := s, d := d, srcs := [a] } st t [o]) (fmt : BitVec 6)
include h

theorem vcvt_lanes (k : BitVec 3) (z : Bool) (hs : o.tag? ≠ some .none) :
    GivesLanes (.vcvt s d a fmt k z) st t { s := s, d := d, srcs := [a] } (tagOf fmt.toNat) k z (cvtLane (tagOf fmt.toNat) o) :=
  vecIssue_checked_lanes (op := fun t os => cvtLane t (os.getD 0 .zero)) h (cvtCheck_tagged _ hs) (vcvt_issue ..)
theorem vcvt_traps (k : BitVec 3) (z : Bool) (hs : o.tag? = some .none) : exec (.vcvt s d a fmt k z) st = .next (t.raise (trapInfo 0x009)) :=
  (vcvt_issue ..).trans (congrArg Host.Outcome.next (vecIssue_traps h (cvtCheck_none _ hs) _))

/-! ## VTAG (R117) -/

theorem vtag_result : ∃ c, exec (.vtag s d a fmt) st = .next ((t.setCx c).finish) ∧
    VectorResult { s := s, d := d, srcs := [a] } (tagOf fmt.toNat) (o.bits (tagOf fmt.toNat)) 0 t.cx c := by
  obtain ⟨c, hn, hr⟩ := vecIssue_result h (fun _ t os => ((os.getD 0 .zero).bits t, 0)) (check := fun _ _ => .ok (tagOf fmt.toNat)) rfl
  exact ⟨c, congrArg Host.Outcome.next hn, hr⟩

/-- What R116 and R117 say of a register or a queue entry. -/
theorem tagged_source {b : VBits} {g : Tag} (hg : o.tag? = some g) (hsrc : ∀ ty, cvtSource ty o = g) (hb : ∀ ty, o.bits ty = b) (k : BitVec 3)
    (z : Bool) :
    (g = .none → exec (.vcvt s d a fmt k z) st = .next (t.raise (trapInfo 0x009))) ∧
    (g ≠ .none → GivesLanes (.vcvt s d a fmt k z) st t { s := s, d := d, srcs := [a] } (tagOf fmt.toNat) k z
      (fun i => if i < g.lanes then convert g (tagOf fmt.toNat) (readLane g b i) else (0, 0))) ∧
    (∃ c, exec (.vtag s d a fmt) st = .next ((t.setCx c).finish) ∧
      VectorResult { s := s, d := d, srcs := [a] } (tagOf fmt.toNat) b 0 t.cx c) := by
  refine ⟨fun hn => vcvt_traps h fmt k z (hg.trans (congrArg some hn)), fun hn => ?_, ?_⟩
  · have hlane : cvtLane (tagOf fmt.toNat) o = fun i => if i < g.lanes then convert g (tagOf fmt.toNat) (readLane g b i) else (0, 0) := by
      funext i
      rw [cvtLane, hsrc, hb]
    rw [← hlane]
    exact vcvt_lanes h fmt k z (by rw [hg]; simpa using hn)
  · simpa only [hb] using vtag_result h fmt

end

/-! ## VRQ (R118) -/

/-- The issue of VRQ: a, then oM, oM+1 and oM+2. -/
def rqIss (s : Bool) (d a : BitVec 6) (m : BitVec 3) : VIss :=
  { s := s, d := d, srcs := [a, BitVec.ofNat 6 (32 + m.toNat), BitVec.ofNat 6 (33 + m.toNat), BitVec.ofNat 6 (34 + m.toNat)] }
/-- A lane of VRQ from its four sources, which have eight lanes of INT32. -/
def rqLane (ty : Tag) (x m n o : VBits) (i : Nat) : Nat × FlagBits :=
  if i < 8 then requant ty (sgn 32 (laneOf 32 x i)) (sgn 32 (laneOf 32 m i)) (laneOf 32 n i % 64) (sgn 32 (laneOf 32 o i)) else (0, 0)
/-- The same lane from the list of the operands. -/
def rqLaneOf (ty : Tag) (os : List Opnd) : Nat → Nat × FlagBits :=
  rqLane ty ((os.getD 0 .zero).bits .int32) ((os.getD 1 .zero).bits .int32) ((os.getD 2 .zero).bits .int32) ((os.getD 3 .zero).bits .int32)
/-- VRQ passes its tag check where oM to oM+2 are INT32, and a is INT32 or has no tag. -/
theorem vrq_lanes {st t : State} {s z : Bool} {d a : BitVec 6} {tgt m k : BitVec 3} {x0 : Opnd} {x1 x2 x3 : VReg}
    (h : VectorTakes (rqIss s d a m) st t [x0, .reg x1, .reg x2, .reg x3]) (h0 : x0.tag? = some .int32 ∨ x0.tag? = none) (h1 : x1.tag = .int32)
    (h2 : x2.tag = .int32) (h3 : x3.tag = .int32) :
    GivesLanes (.vrq s d a tgt m k z) st t (rqIss s d a m) (if tgt = 0 then .int8 else .int4) k z
      (rqLane (if tgt = 0 then .int8 else .int4) (x0.bits .int32) x1.bits x2.bits x3.bits) := by
  have hsrcs : rqIss s d a m =
      { s := s, d := d, srcs := [a, BitVec.ofNat 6 (32 + m.toNat), BitVec.ofNat 6 (32 + m.toNat + 1), BitVec.ofNat 6 (32 + m.toNat + 2)] } := by
    rw [rqIss, show 33 + m.toNat = 32 + m.toNat + 1 by omega, show 34 + m.toNat = 32 + m.toNat + 2 by omega]
  have he : exec (.vrq s d a tgt m k z) st = .next (vecIssue
      { s := s, d := d, srcs := [a, BitVec.ofNat 6 (32 + m.toNat), BitVec.ofNat 6 (32 + m.toNat + 1), BitVec.ofNat 6 (32 + m.toNat + 2)] } st _
      fun c t os => applyLanes t (c.rk k.toNat) z (oldOf c d) (rqLaneOf t os)) := rfl
  rw [← hsrcs] at he
  have hscales : ([Opnd.reg x1, .reg x2, .reg x3].find? fun o => decide (o.tag? ≠ some Tag.int32)) = none := by simp [Opnd.tag?, h1, h2, h3]
  refine vecIssue_checked_lanes (os := [x0, .reg x1, .reg x2, .reg x3]) (op := rqLaneOf) h ?_ he
  simp only [List.getD_cons_zero, List.drop_succ_cons, List.drop_zero, hscales]
  rcases h0 with h0 | h0 <;> rw [h0]
  rfl

/-- Settles O28: VCVT's lanes by the type it reads its source under, VTAG's bits by the issue, VRQ's lanes by its own tag check. -/
theorem conversionsRetagAndRequantise : Obligations.ConversionsRetagAndRequantise := by
  unfold Obligations.ConversionsRetagAndRequantise
  intro st t s z d a fmt k m tgt os
  refine ⟨fun h => ⟨fun b g hos => ?_, fun v hos => ?_, fun hos => ?_⟩, fun _ ha rest =>
    decode_vtag_of_no_register ha (by rw [← b2n_eq, b2n]) rest,
    fun x0 x1 x2 x3 hos h0 htags _ _ => ?_⟩
  · rcases hos with ⟨x, rfl⟩ | ⟨x, rfl⟩
    · exact tagged_source h fmt rfl (fun _ => rfl) (fun _ => rfl) k z
    · exact tagged_source h fmt rfl (fun _ => rfl) (fun _ => rfl) k z
  · subst hos
    exact (cvtLane_bcast _ v ▸ vcvt_lanes h fmt k z nofun).result
  · subst hos
    exact (cvtLane_zero _ ▸ vcvt_lanes h fmt k z nofun).result
  · subst hos
    simp only [List.forall_mem_cons] at htags
    obtain ⟨h1, h2, h3, -⟩ := htags
    intro _ _ _ h
    exact (vrq_lanes h h0 h1 h2 h3).result

end Sys2Proof.Machine
end

section
/-! SUPPORT. The sums of a matrix job apart from the machine (R69 to R73, R122, R128, R129). -/

namespace Sys2Proof.Machine

/-! ## Elements of the engine's formats (R67 to R73, R122) -/

/-- The bits of an element of a floating-point format. -/
def floatBits (t : Tag) : Nat := if t = .tap6 then 6 else t.ebits

/-- A floating-point element as the decoder gives it: whether it is a NaN, a signalling one, and the exact value of any other. -/
abbrev Decodes (t : Tag) (b : Nat) : Prop :=
  (numOf t b).isNan = elemNan t b ∧ (numOf t b).isSig = elemSig t b ∧ (elemNan t b = false → (numOf t b).exact = some (elemExact t b))

theorem tap8_decodes : ∀ b < 256, Decodes .tap8 b := by decide +kernel
theorem tap6_decodes : ∀ b < 64, Decodes .tap6 b := by decide +kernel
theorem ieee_decodes {t : Tag} (hf : (t, layoutOf t) ∈ ieeeLayouts) (b : Nat) : Decodes t b := by
  generalize layoutOf t = f at hf
  obtain ⟨ht, h2, -, h7, -⟩ := ieeeLayouts_spec hf
  dsimp only at ht h2 h7
  obtain ⟨hnan, hsig, hexact⟩ := num_reads f (by omega) (by omega) b
  have hread : numOf t b = f.num b ∧ elemNan t b = ieeeNan f b ∧ elemSig t b = ieeeSig f b ∧ elemExact t b = exactOf f b := by
    cases t <;> cases ht <;> exact ⟨rfl, rfl, rfl, rfl⟩
  obtain ⟨h1, h2, h3, h4⟩ := hread
  exact ⟨by rw [h1, h2, hnan], by rw [h1, h3, hsig], by rw [h1, h2, h4]; exact hexact⟩
theorem float_decodes {t : Tag} (hi : t.isInt = false) (hn : t ≠ .none) {b : Nat} (hb : b < 2 ^ floatBits t) : Decodes t b := by
  cases t with
  | none => exact absurd rfl hn
  | tap8 => exact tap8_decodes b hb
  | tap6 => exact tap6_decodes b hb
  | fp64 | fp32 | fp16 | bf16 => 
    refine ieee_decodes ?_ b
    decide
  | _ => cases hi

/-! ## NaN elements (R69, R129) -/

theorem num_nan {f : Ieee} (heb : 1 ≤ f.eb) {b : Nat} (hn : ieeeNan f b = true) :
    f.num b = .nan (ieeeSign f b) ((ieeeFrac f b).testBit (f.fb - 1)) (ieeeFrac f b % 2 ^ (f.fb - 1)) := by
  obtain ⟨he, hz⟩ : ieeeExp f b = 2 ^ f.eb - 1 ∧ b % 2 ^ f.fb ≠ 0 := by
    simp only [ieeeNan, ieeeFin, ieeeFrac, Bool.and_eq_true] at hn
    exact ⟨by simpa using hn.1, of_decide_eq_true hn.2⟩
  rw [Ieee.num, ieeeExp_bits f heb, ← ieeeSign_bit]
  simp only [he, hz, if_true, if_false]
  rfl
theorem or_topBit {k x : Nat} (hx : x < 2 ^ (k + 1)) : x ||| 2 ^ k = 2 ^ k + x % 2 ^ k := by
  have hq : x / 2 ^ k < 2 := by
    rw [Nat.div_lt_iff_lt_mul (by positivity), ← Nat.pow_succ']
    exact hx
  have hb : ((decide (x / 2 ^ k = 1)).toNat) = x / 2 ^ k := by
    generalize x / 2 ^ k = q at hq
    interval_cases q <;> rfl
  have h := set_bit_around k 0 (x % 2 ^ k) (decide (x / 2 ^ k = 1)) (Nat.mod_lt _ (by positivity))
  rw [hb, Nat.mul_zero, Nat.zero_add, Nat.div_add_mod] at h
  simpa using h
theorem ieeeLayouts_narrow {t : Tag} {f : Ieee} (hf : (t, f) ∈ ieeeLayouts) (h64 : t ≠ .fp64) :
    layoutOf t = f ∧ t.isTap = false ∧ f.fb ≤ 23 := by
  have h : ∀ p ∈ ieeeLayouts, p.1 ≠ .fp64 → layoutOf p.1 = p.2 ∧ p.1.isTap = false ∧ p.2.fb ≤ 23 := by decide
  exact h (t, f) hf h64
/-- The NaN that the machine makes of a NaN element. -/
def groupNan (t : Tag) (x : Nat) : Nat := if t = .fp32 then (convert t .fp32 x).1 ||| 2 ^ 22 else (convert t .fp32 x).1
/-- A NaN of an IEEE format in FP32: its sign kept, its payload at the top. -/
theorem groupNan_ieee {t : Tag} {f : Ieee} (hf : (t, f) ∈ ieeeLayouts) (h64 : t ≠ .fp64) {b : Nat} (hb : b < 2 ^ t.ebits)
    (hn : ieeeNan f b = true) : groupNan t b = Ieee.nan ⟨8, 23⟩ (ieeeSign f b) (ieeeFrac f b % 2 ^ (f.fb - 1) * 2 ^ (23 - f.fb)) := by
  obtain ⟨ht, h2, -, h7, -⟩ := ieeeLayouts_spec hf
  dsimp only at ht h2 h7
  have hnum := num_nan (f := f) (by omega) hn
  by_cases h32 : t = .fp32
  · subst h32
    cases ht
    obtain ⟨neg, q, p, hx, hq⟩ := nan_quieted ⟨8, 23⟩ (by decide) (by decide) b hb hn
    rw [hnum, Num.nan.injEq] at hx
    obtain ⟨rfl, -, rfl⟩ := hx
    have hg : groupNan .fp32 b = b ||| 2 ^ 22 := rfl
    rw [hg, Nat.sub_self, Nat.pow_zero, Nat.mul_one]
    exact hq.symm
  · obtain ⟨-, -, h23⟩ := ieeeLayouts_narrow hf h64
    have hnumOf : numOf t b = f.num b := by rw [numOf, ht]
    rw [groupNan, if_neg h32, convert, if_neg h32, hnumOf, hnum]
    simp only [ht, show Tag.ieee .fp32 = some ⟨8, 23⟩ from rfl, if_pos h23, Nat.shiftLeft_eq]
theorem nanToFp32_ieee {t : Tag} {f : Ieee} (hf : (t, f) ∈ ieeeLayouts) (h64 : t ≠ .fp64) (b : Nat) :
    nanToFp32 t b = Ieee.nan ⟨8, 23⟩ (ieeeSign f b) (ieeeFrac f b % 2 ^ (f.fb - 1) * 2 ^ (23 - f.fb)) := by
  obtain ⟨ht, -, -, h7, -⟩ := ieeeLayouts_spec hf
  dsimp only at ht h7
  have hor : ieeeFrac f b ||| 2 ^ (f.fb - 1) = 2 ^ (f.fb - 1) + ieeeFrac f b % 2 ^ (f.fb - 1) := by
    refine or_topBit ?_
    rw [Nat.sub_add_cancel (by omega)]
    exact ieeeFrac_lt f b
  obtain ⟨hlay, htap, h23⟩ := ieeeLayouts_narrow hf h64
  have hpow : 2 ^ (f.fb - 1) * 2 ^ (23 - f.fb) = 2 ^ 22 := by rw [← Nat.pow_add]; congr 1; omega
  rw [nanToFp32, htap, hlay, hor, Nat.add_mul, hpow]
  cases ieeeSign f b <;> simp [Ieee.nan, Ieee.zero, Ieee.dnan, Ieee.inf] <;> omega
theorem groupNan_eq {t : Tag} (hi : t.isInt = false) (hn : t ≠ .none) (h64 : t ≠ .fp64) {b : Nat} (hb : b < 2 ^ floatBits t)
    (hnan : elemNan t b = true) : groupNan t b = nanToFp32 t b := by
  cases t with
  | none => exact absurd rfl hn
  | fp64 => exact absurd rfl h64
  | tap8 =>
    obtain rfl : b = 0x80 := by simpa [elemNan] using hnan
    decide +kernel
  | tap6 =>
    obtain rfl : b = 0x20 := by simpa [elemNan] using hnan
    decide +kernel
  | fp32 | fp16 | bf16 =>
    refine (groupNan_ieee (f := layoutOf _) ?_ h64 hb hnan).trans (nanToFp32_ieee ?_ h64 b).symm <;> decide
  | _ => cases hi

/-! ## Sums of exact values (R129) -/

/-- A number of the machine and what it stands for. -/
def StandsFor (c : Num) (e : Exact) : Prop := c.exact = some e

theorem stands_inf {c : Num} {e : Exact} (h : StandsFor c e) (n : Bool) : c = .inf n ↔ e = .inf n := by
  cases c <;> cases h <;> simp
theorem any_inf_iff {nums : List Num} {xs : List Exact} (h : List.Forall₂ StandsFor nums xs) (n : Bool) :
    nums.any (· = .inf n) = true ↔ .inf n ∈ xs := by
  induction h with
  | nil => simp
  | cons hc _ ih => rw [List.any_cons, Bool.or_eq_true, decide_eq_true_eq, stands_inf hc, ih, List.mem_cons, @eq_comm _ _ (Exact.inf n)]
theorem any_isNone_iff {ps : List (Option Num)} {qs : List (Option Exact)} (h : List.Forall₂ (Option.Rel StandsFor) ps qs) :
    ps.any Option.isNone = true ↔ none ∈ qs := by
  induction h with
  | nil => simp
  | cons hc _ ih => cases hc <;> simp [ih]
/-- The formed products with what they stand for. -/
theorem formed_stands {ps : List (Option Num)} {qs : List (Option Exact)} (h : List.Forall₂ (Option.Rel StandsFor) ps qs) :
    List.Forall₂ StandsFor (ps.filterMap id) (qs.filterMap id) :=
  List.rel_filterMap (fun _ _ h => h) h
theorem dyVal_nonpos {m : Nat} {e : Int} : dyVal true m e ≤ 0 := by
  have : (0 : ℚ) ≤ m * 2 ^ e := by positivity
  simpa [dyVal] using this
theorem sum_nonpos_of_neg {nums : List Num} {xs : List Exact} (h : List.Forall₂ StandsFor nums xs) (hneg : xs.all Exact.neg = true) :
    (xs.map Exact.val).sum ≤ 0 := by
  induction h with
  | nil => exact le_rfl
  | @cons c e nums xs hc _ ih =>
    rw [List.all_cons, Bool.and_eq_true] at hneg
    have he : e.val ≤ 0 := by
      cases c with
      | nan | tapNan => cases hc
      | inf n => cases hc; exact le_rfl
      | fin n m x =>
        cases hc
        obtain rfl : n = true := hneg.1
        exact dyVal_nonpos
    exact add_nonpos he (ih hneg.2)
/-- The sum that is rounded is the exact one, and a zero sum is negative only where every term is. -/
theorem sumFin_value {nums : List Num} {xs : List Exact} (h : List.Forall₂ StandsFor nums xs) (hfin : ∀ n, .inf n ∉ xs) :
    let r := sumFin nums
    dyVal r.1 r.2.1 r.2.2 = (xs.map Exact.val).sum ∧ ((xs.map Exact.val).sum = 0 → r.1 = xs.all Exact.neg) := by
  induction h with
  | nil => exact ⟨by simp [sumFin, dyVal], fun _ => rfl⟩
  | @cons c e nums xs hc hrest ih =>
    obtain ⟨hval, hsign⟩ := ih (fun n hn => hfin n (List.mem_cons_of_mem _ hn))
    cases c with
    | nan | tapNan => cases hc
    | inf n =>
      cases hc
      exact absurd List.mem_cons_self (hfin n)
    | fin n m x =>
      obtain rfl : Exact.fin n (dyVal n m x) = e := Option.some.inj hc
      obtain ⟨hadd, hzero⟩ := addExact_value n m x (sumFin nums).1 (sumFin nums).2.1 (sumFin nums).2.2
      rw [hval] at hadd hzero
      refine ⟨hadd, fun h0 => (hzero h0).trans ?_⟩
      have h0 : dyVal n m x + (xs.map Exact.val).sum = 0 := h0
      rw [List.all_cons]
      by_cases hs : (xs.map Exact.val).sum = 0
      · rw [hsign hs]
        rfl
      cases n with
      | false => rfl
      | true =>
        have hpos : 0 < (xs.map Exact.val).sum := lt_of_le_of_ne (by linarith [dyVal_nonpos (m := m) (e := x)]) (Ne.symm hs)
        have hr : (sumFin nums).1 = false := by
          by_contra hr
          rw [Bool.not_eq_false] at hr
          rw [hr] at hval
          exact absurd (hval ▸ dyVal_nonpos) (not_le.mpr hpos)
        have hx : xs.all Exact.neg = false := by
          by_contra hx
          exact absurd (sum_nonpos_of_neg hrest (by simpa using hx)) (not_le.mpr hpos)
        rw [hr, hx]
        rfl

/-! ## A group's sum (R129) -/

/-- The elements of the formed products, A before B. -/
def termElems (l : List Term) : List Nat := (l.filterMap id).flatMap (fun p => [p.1, p.2])
/-- The exact product of a term; +0 where it is not formed. -/
def termExact (t : Tag) : Term → Option Exact
  | none => some (.fin false 0)
  | some (a, b) => (elemExact t a).times (elemExact t b)

section
variable {t : Tag} {l : List Term}

theorem firstNan_eq (h : ∀ b ∈ termElems l, Decodes t b) : firstNan t l = (termElems l).find? (elemNan t) := by
  induction l with
  | nil => rfl
  | cons p l ih =>
    cases p with
    | none => exact ih h
    | some p =>
      obtain ⟨a, b⟩ := p
      have hl : termElems (some (a, b) :: l) = a :: b :: termElems l := rfl
      simp only [hl, List.forall_mem_cons] at h
      obtain ⟨⟨ha, -⟩, ⟨hb, -⟩, hrest⟩ := h
      rw [firstNan, ha, hb, ih hrest, hl]
      cases hna : elemNan t a <;> cases hnb : elemNan t b <;> simp [hna, hnb]
theorem anySig_eq (h : ∀ b ∈ termElems l, Decodes t b) : anySig t l = (termElems l).any (elemSig t) := by
  induction l with
  | nil => rfl
  | cons p l ih =>
    cases p with
    | none => exact ih h
    | some p =>
      obtain ⟨a, b⟩ := p
      have hl : termElems (some (a, b) :: l) = a :: b :: termElems l := rfl
      simp only [hl, List.forall_mem_cons] at h
      obtain ⟨⟨-, ha, -⟩, ⟨-, hb, -⟩, hrest⟩ := h
      have hs : anySig t (some (a, b) :: l) = ((numOf t a).isSig || (numOf t b).isSig || anySig t l) := rfl
      rw [hs, ha, hb, ih hrest, hl, List.any_cons, List.any_cons, Bool.or_assoc]
theorem prod_stands (h : ∀ b ∈ termElems l, Decodes t b) (hn : ∀ b ∈ termElems l, elemNan t b = false) :
    List.Forall₂ (Option.Rel StandsFor) (l.map (Term.prod t)) (l.map (termExact t)) := by
  induction l with
  | nil => exact .nil
  | cons p l ih =>
    cases p with
    | none =>
      refine .cons (.some ?_) (ih h hn)
      exact congrArg some (congrArg (Exact.fin false) (by simp))
    | some p =>
      obtain ⟨a, b⟩ := p
      have hl : termElems (some (a, b) :: l) = a :: b :: termElems l := rfl
      simp only [hl, List.forall_mem_cons] at h hn
      obtain ⟨⟨-, -, ha⟩, ⟨-, -, hb⟩, hrest⟩ := h
      obtain ⟨hna, hnb, hnrest⟩ := hn
      refine .cons ?_ (ih hrest hnrest)
      rw [Term.prod, termExact]
      obtain ⟨hm, ht⟩ | ⟨c, e, hm, ht, hc⟩ := mulNum_exact (ha hna) (hb hnb)
      · rw [hm, ht]
        exact .none
      · rw [hm, ht]
        exact .some hc

end

/-- The sum of a group's exact products: invalid, an infinity, or the exact sum rounded once (R129). -/
def ProductsRound (qs : List (Option Exact)) (r : Nat × FlagBits) : Prop :=
  let xs := qs.filterMap id
  if none ∈ qs ∨ (.inf true ∈ xs ∧ .inf false ∈ xs) then r = (0x7FC00000, 1)
  else if .inf true ∈ xs then r = (0xFF800000, 0)
  else if .inf false ∈ xs then r = (0x7F800000, 0)
  else RoundsTo ⟨8, 23⟩ ((xs.map Exact.val).sum : ℚ) (xs.all Exact.neg) r
theorem groupRounds_of_nan {t : Tag} {l : List Term} {x : Nat} {r : Nat × FlagBits} (h : (termElems l).find? (elemNan t) = some x) :
    GroupRounds t l r ↔ r = (nanToFp32 t x, if (termElems l).any (elemSig t) then 1 else 0) := by
  unfold termElems at h
  simp only [GroupRounds, h]
  rfl
theorem groupRounds_of_no_nan {t : Tag} {l : List Term} {r : Nat × FlagBits} (h : (termElems l).find? (elemNan t) = none) :
    GroupRounds t l r ↔ ProductsRound (l.map (termExact t)) r := by
  unfold termElems at h
  simp only [GroupRounds, h]
  rfl
/-- A group's sum is as R129 has it. -/
theorem groupSum_rounds {t : Tag} (hi : t.isInt = false) (hn : t ≠ .none) (h64 : t ≠ .fp64) {l : List Term}
    (hl : ∀ b ∈ termElems l, b < 2 ^ floatBits t) : GroupRounds t l (groupSum t l) := by
  have hdec : ∀ b ∈ termElems l, Decodes t b := fun b hb => float_decodes hi hn (hl b hb)
  have hfirst := firstNan_eq hdec
  cases hf : (termElems l).find? (elemNan t) with
  | some x =>
    have hx := groupNan_eq hi hn h64 (hl x (List.mem_of_find?_eq_some hf)) (by simpa using List.find?_some hf)
    have hr : groupSum t l = (groupNan t x, if anySig t l then fInvalid else 0) := by simp only [groupSum, hfirst.trans hf, groupNan]
    rw [groupRounds_of_nan hf, hr, hx, anySig_eq hdec]
    rfl
  | none =>
    have hst := prod_stands hdec (by simpa using hf)
    have hx := formed_stands hst
    rw [groupRounds_of_no_nan hf, ProductsRound]
    simp only [groupSum, hfirst.trans hf, Bool.or_eq_true, Bool.and_eq_true, any_isNone_iff hst, any_inf_iff hx]
    split
    next => rfl
    next =>
      split
      next => rfl
      next htrue =>
        split
        next => rfl
        next hfalse =>
          obtain ⟨hval, hsign⟩ := sumFin_value hx (fun n => by cases n <;> assumption)
          have h := roundIeee_exact (f := ⟨8, 23⟩) (by decide) (by decide) (sumFin ((l.map (Term.prod t)).filterMap id)).1
            (sumFin ((l.map (Term.prod t)).filterMap id)).2.1 (sumFin ((l.map (Term.prod t)).filterMap id)).2.2
          rw [hval] at h
          exact roundsTo_of_sign h fun h0 => hsign (Rat.cast_eq_zero.mp h0)

/-! ## Rounded patterns (R67, R69, R74) -/

section
variable {f : Ieee} (hfb : 1 ≤ f.fb) {r : Nat × FlagBits}
include hfb

theorem ieeeInfinity_lt (n : Bool) : ieeeInfinity f n + 2 ^ (f.fb - 1) < 2 ^ (f.eb + f.fb + 1) := by
  have hp : 2 ^ (f.eb + f.fb) = 2 ^ f.eb * 2 ^ f.fb := Nat.pow_add ..
  have hq : 2 ^ f.fb = 2 * 2 ^ (f.fb - 1) := by rw [← Nat.pow_succ']; congr 1; omega
  have hpos : 0 < 2 ^ (f.fb - 1) := by positivity
  have hm : (2 ^ f.eb - 1) * 2 ^ f.fb + 2 ^ f.fb = 2 ^ f.eb * 2 ^ f.fb := by
    rw [← Nat.succ_mul]; congr 1; have := Nat.two_pow_pos f.eb; omega
  rw [Nat.pow_succ]
  cases n <;> simp only [ieeeInfinity, if_true, if_false, Bool.false_eq_true] <;> omega
theorem roundsTo_lt {x : ℝ} {n : Bool} (h : RoundsTo f x n r) : r.1 < 2 ^ (f.eb + f.fb + 1) := by
  obtain ⟨hover, hunder, hin⟩ := h
  rcases le_or_gt ((2 - (2 : ℝ) ^ (-1 - (f.fb : Int))) * (2 : ℝ) ^ ieeeBias f) |x| with hx | hx
  · rcases le_abs'.mp hx with hx | hx
    · rw [hunder hx]
      exact (Nat.le_add_right ..).trans_lt (ieeeInfinity_lt hfb true)
    · rw [hover hx]
      exact (Nat.le_add_right ..).trans_lt (ieeeInfinity_lt hfb false)
  · exact (hin hx).1
theorem sumRounds_lt {p q : Option Exact} (h : SumRounds f p q r) : r.1 < 2 ^ (f.eb + f.fb + 1) := by
  have hinf (n : Bool) : ieeeInfinity f n < 2 ^ (f.eb + f.fb + 1) := (Nat.le_add_right ..).trans_lt (ieeeInfinity_lt hfb n)
  have hdef : ieeeDefault f < 2 ^ (f.eb + f.fb + 1) := ieeeInfinity_lt hfb false
  unfold SumRounds at h
  split at h
  · exact roundsTo_lt hfb h
  · rw [h]
    split
    · exact hinf _
    · exact hdef
  · rw [h]; exact hinf _
  · rw [h]; exact hinf _
  · rw [h]; exact hdef
theorem withNans_lt {ops : List Nat} (hops : ∀ x ∈ ops, x < 2 ^ (f.eb + f.fb + 1)) {bad : Bool} {rule : Prop}
    (h : WithNans f ops bad r rule) (hrule : rule → r.1 < 2 ^ (f.eb + f.fb + 1)) : r.1 < 2 ^ (f.eb + f.fb + 1) := by
  unfold WithNans at h
  split at h
  next x hx =>
    rw [h]
    exact Nat.or_lt_two_pow (hops x (List.mem_of_find?_eq_some hx)) (Nat.pow_lt_pow_right (by decide) (by omega))
  next => exact hrule h

end
theorem nanToFp32_lt {t : Tag} (hi : t.isInt = false) (hn : t ≠ .none) (h64 : t ≠ .fp64) (b : Nat) : nanToFp32 t b < 2 ^ 32 := by
  have hieee (hf : (t, layoutOf t) ∈ ieeeLayouts) : nanToFp32 t b < 2 ^ 32 := by
    obtain ⟨-, -, h23⟩ := ieeeLayouts_narrow hf h64
    obtain ⟨-, -, -, h7, -⟩ := ieeeLayouts_spec hf
    dsimp only at h7
    have hpow : 2 ^ ((layoutOf t).fb - 1) * 2 ^ (23 - (layoutOf t).fb) = 2 ^ 22 := by rw [← Nat.pow_add]; congr 1; omega
    have hp : ieeeFrac (layoutOf t) b % 2 ^ ((layoutOf t).fb - 1) * 2 ^ (23 - (layoutOf t).fb) < 2 ^ 22 :=
      hpow ▸ Nat.mul_lt_mul_of_pos_right (Nat.mod_lt _ (by positivity)) (by positivity)
    rw [nanToFp32_ieee hf h64]
    cases ieeeSign (layoutOf t) b <;> simp [Ieee.nan, Ieee.zero, Ieee.dnan, Ieee.inf] <;> omega
  cases t with
  | none => exact absurd rfl hn
  | fp64 => exact absurd rfl h64
  | tap8 | tap6 => exact (by decide : 0x7FC00000 < 2 ^ 32)
  | fp32 | fp16 | bf16 => exact hieee (by decide)
  | _ => cases hi
theorem groupRounds_lt {t : Tag} (hi : t.isInt = false) (hn : t ≠ .none) (h64 : t ≠ .fp64) {l : List Term} {r : Nat × FlagBits}
    (h : GroupRounds t l r) : r.1 < 2 ^ 32 := by
  cases hf : (termElems l).find? (elemNan t) with
  | some x =>
    rw [groupRounds_of_nan hf] at h
    rw [h]
    exact nanToFp32_lt hi hn h64 x
  | none =>
    rw [groupRounds_of_no_nan hf] at h
    unfold ProductsRound at h
    dsimp only at h
    split at h
    · rw [h]; decide
    · split at h
      · rw [h]; decide
      · split at h
        · rw [h]; decide
        · exact roundsTo_lt (f := ⟨8, 23⟩) (by decide) h

/-! ## The elements of C (R128) -/

/-- The states of a fold over the first numbers. -/
def foldUpTo {α : Type} (f : α → Nat → α) (x : α) (n : Nat) : α := (List.range n).foldl f x
theorem foldUpTo_succ {α : Type} (f : α → Nat → α) (x : α) (n : Nat) : foldUpTo f x (n + 1) = f (foldUpTo f x n) n := by
  rw [foldUpTo, List.range_succ, List.foldl_append]
  rfl
theorem foldUpTo_inv {α : Type} {f : α → Nat → α} {x : α} (P : α → Prop) (h0 : P x) {n : Nat} (hs : ∀ k < n, ∀ y, P y → P (f y k)) :
    ∀ k ≤ n, P (foldUpTo f x k) := by
  intro k hk
  induction k with
  | zero => exact h0
  | succ k ih =>
    rw [foldUpTo_succ]
    exact hs k hk _ (ih (by omega))
/-- A group of a row of terms. -/
theorem group_of_terms (term : Nat → Term) {g : Nat} (hg : g < 4) :
    (((List.range 32).map term).drop (8 * g)).take 8 = (List.range 8).map (fun k => term (8 * g + k)) := by
  refine List.ext_getElem (by simp; omega) fun i h1 h2 => ?_
  simp

/-- A step of the FP64 chain. -/
def chainStep (term : Nat → Term) (acc : Nat × FlagBits) (k : Nat) : Nat × FlagBits :=
  let r := match term k with | some (a, b) => fpFma ⟨11, 52⟩ false a b acc.1 | none => fpAdd ⟨11, 52⟩ acc.1 0
  (r.1, acc.2 ||| r.2)
/-- A group of an integer job, and of a floating-point one. -/
def intStep (t : Tag) (term : Nat → Term) (acc : Nat × FlagBits) (g : Nat) : Nat × FlagBits :=
  let r := satInt .int32 (intVal .int32 acc.1 + groupInt t ((List.range 8).map (fun k => term (8 * g + k))))
  (r.1, if r.2 then acc.2 ||| fSat else acc.2)
def floatStep (t : Tag) (term : Nat → Term) (acc : Nat × FlagBits) (g : Nat) : Nat × FlagBits :=
  let s := groupSum t ((List.range 8).map (fun k => term (8 * g + k)))
  let r := fpAdd ⟨8, 23⟩ acc.1 s.1
  (r.1, acc.2 ||| s.2 ||| r.2)

theorem mxElem_chain (old : Nat) (term : Nat → Term) :
    mxElem .fp64 old ((List.range 32).map term) = foldUpTo (chainStep term) (old, 0) 32 := by
  rw [mxElem, if_pos rfl, List.foldl_map]
  rfl
theorem mxElem_int {t : Tag} (hi : t.isInt = true) (old : Nat) (term : Nat → Term) :
    mxElem t old ((List.range 32).map term) = foldUpTo (intStep t term) (old, 0) 4 := by
  have h64 : t ≠ .fp64 := by rintro rfl; cases hi
  rw [mxElem, if_neg h64]
  simp only [hi, if_true]
  refine List.foldl_ext _ _ _ fun acc g hg => ?_
  rw [group_of_terms term (List.mem_range.mp hg)]
  rfl
theorem mxElem_float {t : Tag} (hi : t.isInt = false) (h64 : t ≠ .fp64) (old : Nat) (term : Nat → Term) :
    mxElem t old ((List.range 32).map term) = foldUpTo (floatStep t term) (old, 0) 4 := by
  rw [mxElem, if_neg h64]
  simp only [hi, Bool.false_eq_true, if_false]
  refine List.foldl_ext _ _ _ fun acc g hg => ?_
  rw [group_of_terms term (List.mem_range.mp hg)]
  rfl

/-- +0 beside another operand changes no NaN result (R69). -/
theorem withNans_zero {f : Ieee} (h0 : ieeeNan f 0 = false) {a : Nat} {r : Nat × FlagBits} {rule : Prop} :
    WithNans f [a, 0] false r rule ↔ WithNans f [a] false r rule := by
  have hs : ieeeSig f 0 = false := by rw [ieeeSig, h0]; rfl
  unfold WithNans
  cases h : ieeeNan f a <;> simp [h, h0, hs]
/-- A step of the FP64 chain, rounded once. -/
theorem chainStep_rounds {term : Nat → Term} {k : Nat} {acc : Nat × FlagBits} (ha : acc.1 < 2 ^ 64)
    (hk : ∀ x y, term k = some (x, y) → x < 2 ^ 64 ∧ y < 2 ^ 64) :
    (chainStep term acc k).1 < 2 ^ 64 ∧ ∃ r : Nat × FlagBits, chainStep term acc k = (r.1, acc.2 ||| r.2) ∧
      match term k with
      | some (x, y) => FusedRounds ⟨11, 52⟩ false [x, y, acc.1] x y acc.1 r
      | none => WithNans ⟨11, 52⟩ [acc.1] false r (SumRounds ⟨11, 52⟩ (some (exactOf ⟨11, 52⟩ acc.1)) (some (.fin false 0)) r) := by
  cases hp : term k with
  | none =>
    have h := fpAdd_rounds (f := ⟨11, 52⟩) (by decide) (by decide) ha (b := 0) (by decide)
    have h0 : exactOf ⟨11, 52⟩ 0 = .fin false 0 := by decide +kernel
    rw [withNans_zero (by decide +kernel), h0] at h
    refine ⟨?_, fpAdd ⟨11, 52⟩ acc.1 0, by simp only [chainStep, hp], h⟩
    simp only [chainStep, hp]
    exact withNans_lt (by decide) (by simpa using ha) h (sumRounds_lt (by decide))
  | some p =>
    obtain ⟨x, y⟩ := p
    obtain ⟨hx, hy⟩ := hk x y hp
    have hall : ∀ z ∈ [x, y, acc.1], z < 2 ^ 64 := by
      simp only [List.forall_mem_cons]
      exact ⟨hx, hy, ha, List.forall_mem_nil _⟩
    have h : FusedRounds ⟨11, 52⟩ false [x, y, acc.1] x y acc.1 (fpFma ⟨11, 52⟩ false x y acc.1) :=
      fpFused_rounds (f := ⟨11, 52⟩) (by decide) (by decide) false _ hall (by simp) (by simp) (by simp)
    refine ⟨?_, fpFma ⟨11, 52⟩ false x y acc.1, by simp only [chainStep, hp], h⟩
    simp only [chainStep, hp]
    exact withNans_lt (by decide) hall h (sumRounds_lt (by decide))
theorem sums_chain {old : Nat} (hold : old < 2 ^ 64) {term : Nat → Term} (hterm : ∀ k x y, term k = some (x, y) → x < 2 ^ 64 ∧ y < 2 ^ 64) :
    ElementSums .fp64 old term (foldUpTo (chainStep term) (old, 0) 32) := by
  have hlt := foldUpTo_inv (f := chainStep term) (x := (old, 0)) (fun a => a.1 < 2 ^ 64) hold (n := 32)
    fun k _ y hy => (chainStep_rounds hy (hterm k)).1
  refine ⟨foldUpTo (chainStep term) (old, 0), rfl, ?_⟩
  rw [if_pos rfl]
  refine ⟨rfl, fun k hk => ?_⟩
  rw [foldUpTo_succ]
  exact (chainStep_rounds (hlt k (by omega)) (hterm k)).2

theorem termElems_forall {P : Nat → Prop} {l : List Term} (h : ∀ x y, some (x, y) ∈ l → P x ∧ P y) : ∀ b ∈ termElems l, P b := by
  intro b hb
  obtain ⟨⟨x, y⟩, hp, hb⟩ := List.mem_flatMap.mp hb
  obtain ⟨hx, hy⟩ := h x y (by simpa using hp)
  rcases List.mem_pair.mp hb with rfl | rfl
  · exact hx
  · exact hy
/-- A group's sum added with one rounding. -/
theorem floatStep_rounds {t : Tag} (hi : t.isInt = false) (hn : t ≠ .none) (h64 : t ≠ .fp64) {term : Nat → Term}
    (hterm : ∀ k x y, term k = some (x, y) → x < 2 ^ floatBits t ∧ y < 2 ^ floatBits t) {acc : Nat × FlagBits} (ha : acc.1 < 2 ^ 32) (g : Nat) :
    (floatStep t term acc g).1 < 2 ^ 32 ∧ ∃ s r : Nat × FlagBits, GroupRounds t ((List.range 8).map (fun k => term (8 * g + k))) s ∧
      floatStep t term acc g = (r.1, acc.2 ||| s.2 ||| r.2) ∧
      WithNans ⟨8, 23⟩ [acc.1, s.1] false r (SumRounds ⟨8, 23⟩ (some (exactOf ⟨8, 23⟩ acc.1)) (some (exactOf ⟨8, 23⟩ s.1)) r) := by
  have hs := groupSum_rounds hi hn h64 (l := (List.range 8).map (fun k => term (8 * g + k))) (termElems_forall fun x y hxy => by
    obtain ⟨k, -, hk⟩ := List.mem_map.mp hxy
    exact hterm _ x y hk)
  have hlt := groupRounds_lt hi hn h64 hs
  have h := fpAdd_rounds (f := ⟨8, 23⟩) (by decide) (by decide) ha hlt
  have hall : ∀ z ∈ [acc.1, (groupSum t ((List.range 8).map (fun k => term (8 * g + k)))).1], z < 2 ^ 32 := by
    simp only [List.forall_mem_cons]
    exact ⟨ha, hlt, List.forall_mem_nil _⟩
  exact ⟨withNans_lt (by decide) hall h (sumRounds_lt (by decide)), _, _, hs, rfl, h⟩
theorem sums_float {t : Tag} (hi : t.isInt = false) (hn : t ≠ .none) (h64 : t ≠ .fp64) {old : Nat} (hold : old < 2 ^ 32) {term : Nat → Term}
    (hterm : ∀ k x y, term k = some (x, y) → x < 2 ^ floatBits t ∧ y < 2 ^ floatBits t) :
    ElementSums t old term (foldUpTo (floatStep t term) (old, 0) 4) := by
  have hlt := foldUpTo_inv (f := floatStep t term) (x := (old, 0)) (fun a => a.1 < 2 ^ 32) hold (n := 4)
    fun g _ y hy => (floatStep_rounds hi hn h64 hterm hy g).1
  refine ⟨foldUpTo (floatStep t term) (old, 0), rfl, ?_⟩
  rw [if_neg h64, if_neg (by simp [hi])]
  refine ⟨rfl, fun g hg => ?_⟩
  rw [foldUpTo_succ]
  exact (floatStep_rounds hi hn h64 hterm (hlt g (by omega)) g).2

/-- The formats of integers in the engine: those of A and B, and the accumulator (R123). -/
def engineInts : List Tag := [.int4, .int8, .uint8, .int32]
theorem intVal_eq_elemInt {t : Tag} (ht : t ∈ engineInts) (b : Nat) : intVal t b = elemInt t b := by
  revert b
  have hsgn (w : Nat) (hw : w ≠ 0) (b : Nat) : sgn w b =
      if b % 2 ^ w < 2 ^ (w - 1) then ((b % 2 ^ w : Nat) : Int) else ((b % 2 ^ w : Nat) : Int) - 2 ^ w := by
    simp only [sgn, if_neg hw]
    push_cast
    rfl
  simp only [engineInts, List.mem_cons, List.not_mem_nil, or_false] at ht
  rcases ht with rfl | rfl | rfl | rfl <;> intro b
  · exact (hsgn 4 (by decide) b).trans (by simp [elemInt])
  · exact (hsgn 8 (by decide) b).trans (by simp [elemInt])
  · simp [elemInt, intVal, Tag.signed, Tag.iw, Tag.ebits]
  · exact (hsgn 32 (by decide) b).trans (by simp [elemInt])
/-- An element of the machine and one of R122 that stand for the same: equal in value for an integer format, whose containers may differ (R72), and
the same pattern for another. -/
structure SameElem (t : Tag) (x y : Nat) : Prop where
  int : t.isInt = true → intVal t x = elemInt t y
  float : t.isInt = false → x = y ∧ y < 2 ^ floatBits t
/-- A term of the machine and one of R128. -/
def SameTerm (t : Tag) : Term → Option (Nat × Nat) → Prop := Option.Rel (fun p q => SameElem t p.1 q.1 ∧ SameElem t p.2 q.2)

/-- The product of two integer elements; 0 where it is not formed. -/
def intTerm (t : Tag) : Term → Int
  | some (a, b) => intVal t a * intVal t b
  | none => 0
theorem groupInt_eq_sum (t : Tag) (l : List Term) : groupInt t l = (l.map (intTerm t)).sum := by
  have h : ∀ (l : List Term) (acc : Int), l.foldl (fun acc p => match p with | some (a, b) => acc + intVal t a * intVal t b | none => acc) acc =
      acc + (l.map (intTerm t)).sum := by
    intro l
    induction l with
    | nil => intro acc; simp
    | cons p l ih =>
      intro acc
      rw [List.foldl_cons, ih, List.map_cons, List.sum_cons, ← add_assoc]
      cases p <;> simp [intTerm]
  exact (h l 0).trans (zero_add _)
theorem sat_int32 (v : Int) : satInt .int32 v =
    if 2 ^ 31 ≤ v then (0x7FFFFFFF, true) else if v < -2 ^ 31 then (0x80000000, true) else ((v % 2 ^ 32).toNat, false) := by
  have hmax : intMax .int32 = 2 ^ 31 - 1 := rfl
  have hmin : intMin .int32 = -2 ^ 31 := rfl
  have hgt : v > intMax .int32 ↔ 2 ^ 31 ≤ v := by rw [hmax]; omega
  rw [satInt]
  simp only [hgt, hmin]
  rfl
theorem intStep_saturates {t : Tag} {term : Nat → Term} {term' : Nat → Option (Nat × Nat)} (hi : t.isInt = true)
    (h : ∀ k, SameTerm t (term k) (term' k)) (acc : Nat × FlagBits) (g : Nat) :
    let v := elemInt .int32 acc.1 + (((List.range 8).map (fun k => term' (8 * g + k))).map
      (fun p => match p with | some (x, y) => elemInt t x * elemInt t y | none => 0)).sum
    intStep t term acc g = if 2 ^ 31 ≤ v then (0x7FFFFFFF, acc.2 ||| 32) else if v < -2 ^ 31 then (0x80000000, acc.2 ||| 32)
      else ((v % 2 ^ 32).toNat, acc.2) := by
  intro v
  have hv : intVal .int32 acc.1 + groupInt t ((List.range 8).map (fun k => term (8 * g + k))) = v := by
    rw [intVal_eq_elemInt (by decide), groupInt_eq_sum, List.map_map]
    simp only [v, List.map_map]
    refine congrArg (elemInt .int32 acc.1 + ·) (congrArg List.sum (List.map_congr_left fun k _ => ?_))
    have hk := h (8 * g + k)
    dsimp only [Function.comp]
    revert hk
    generalize term (8 * g + k) = p
    generalize term' (8 * g + k) = q
    rintro (⟨hx, hy⟩ | _)
    · exact congrArg₂ (· * ·) (hx.int hi) (hy.int hi)
    · rfl
  rw [intStep, hv, sat_int32]
  split
  · rfl
  · split <;> rfl
theorem sums_int {t : Tag} (hi : t.isInt = true) {term : Nat → Term} {term' : Nat → Option (Nat × Nat)} (h : ∀ k, SameTerm t (term k) (term' k))
    (old : Nat) : ElementSums t old term' (foldUpTo (intStep t term) (old, 0) 4) := by
  have h64 : t ≠ .fp64 := by rintro rfl; cases hi
  refine ⟨foldUpTo (intStep t term) (old, 0), rfl, ?_⟩
  rw [if_neg h64, if_pos hi]
  refine ⟨rfl, fun g _ => ?_⟩
  rw [foldUpTo_succ]
  exact intStep_saturates hi h _ g
theorem sameTerm_float {t : Tag} (hi : t.isInt = false) {p : Term} {q : Option (Nat × Nat)} (h : SameTerm t p q) :
    p = q ∧ ∀ x y, p = some (x, y) → x < 2 ^ floatBits t ∧ y < 2 ^ floatBits t := by
  rcases h with @⟨⟨a, b⟩, ⟨c, d⟩, hx, hy⟩ | _
  · obtain ⟨rfl, hxlt⟩ := hx.float hi
    obtain ⟨rfl, hylt⟩ := hy.float hi
    refine ⟨rfl, ?_⟩
    rintro x y ⟨⟩
    exact ⟨hxlt, hylt⟩
  · exact ⟨rfl, nofun⟩
/-- An element of C is as R128 has it. -/
theorem mxElem_sums {t acc : Tag} (ht : accTag t = some acc) {old : Nat} (hold : old < 2 ^ acc.ebits) {term : Nat → Term}
    {term' : Nat → Option (Nat × Nat)} (h : ∀ k, SameTerm t (term k) (term' k)) :
    ElementSums t old term' (mxElem t old ((List.range 32).map term)) := by
  cases hi : t.isInt with
  | true =>
    rw [mxElem_int hi]
    exact sums_int hi h old
  | false =>
    have hn : t ≠ .none := by rintro rfl; cases ht
    obtain rfl : term = term' := funext fun k => (sameTerm_float hi (h k)).1
    have hterm := fun k => (sameTerm_float hi (h k)).2
    by_cases h64 : t = .fp64
    · subst h64
      cases ht
      rw [mxElem_chain]
      exact sums_chain hold hterm
    · have hacc : acc.ebits = 32 := by cases t <;> cases ht <;> trivial
      rw [mxElem_float hi h64]
      exact sums_float hi hn h64 (hacc ▸ hold) hterm

end Sys2Proof.Machine
end

section
/-! SUPPORT. What a matrix job reads: elements of tiles and of weight-buffer records, and the check of a record (R72, R122, R124, R126, R127). -/

namespace Sys2Proof.Machine

/-! ## Elements of tiles and records (R72, R122, R126) -/

/-- A nibble, extended into its container and read again. -/
theorem sgn_container (v j : Nat) : sgn 4 (trunc 8 (sgn 4 (v >>> (4 * j)))) = sgn 4 (v / 2 ^ (4 * j) % 16) := by
  rw [sgn_trunc (by decide), sgn_eq_bmod, Int.bmod_bmod, ← sgn_eq_bmod, Nat.shiftRight_eq_div_pow]
  exact (sgn_mod 4 _).symm
/-- An element of a run is read as R122 has it. -/
theorem elemOf_same {t acc : Tag} (ht : accTag t = some acc) (m : List Host.Cell) (l e : Nat) : SameElem t (elemOf m l t e) (elemIn m l t e) := by
  have plain (ho : elemOf m l t e = elemIn m l t e) (hint : t.isInt = true → t ∈ engineInts) (hlt : elemIn m l t e < 2 ^ floatBits t) :
      SameElem t (elemOf m l t e) (elemIn m l t e) := by
    rw [ho]
    exact ⟨fun hi => intVal_eq_elemInt (hint hi) _, fun _ => ⟨rfl, hlt⟩⟩
  cases t with
  | int4 => 
    exact ⟨fun _ => (sgn_container ..).trans (intVal_eq_elemInt (t := .int4) (by decide) (elemIn m l .int4 e)), nofun⟩
  | tap6 =>
    refine plain ?_ (by decide) (Nat.mod_lt _ (by decide))
    exact congrArg (· % 64) (Nat.shiftRight_eq_div_pow ..)
  | fp64 | fp32 | fp16 | bf16 =>
    refine plain ?_ (by decide) (Memory.getN_lt ..)
    exact congrArg (fun x => Memory.getN m (l + x) _) (Nat.mul_comm ..)
  | tap8 | int8 | uint8 =>
    refine plain ?_ (by decide) (Memory.getN_lt ..)
    exact congrArg (fun x => Memory.getN m (l + x) _) (Nat.mul_one ..)
  | _ => cases ht
/-- A bit of a bitmap. -/
theorem bitmap_bit (m : List Host.Cell) (a i : Nat) : (Memory.get m a).getLsbD i = decide (Memory.getN m a 1 / 2 ^ i % 2 = 1) := by
  have h : Memory.getN m a 1 = (Memory.get m a).toNat := rfl
  rw [h, ← Nat.testBit_eq_decide_div_mod_eq, BitVec.testBit_toNat]
theorem onesBefore_eq (m : List Host.Cell) (l e : Nat) : onesBefore m l e = bitsBefore m l e := by
  induction e with
  | zero => rfl
  | succ e ih =>
    rw [onesBefore, bitsBefore, List.range_succ, List.filter_append, List.length_append, ← bitsBefore, ih, bitmap_bit, Nat.add_comm]
    refine congrArg (bitsBefore m l e + ·) ?_
    by_cases h : Memory.getN m (l + e / 8) 1 / 2 ^ (e % 8) % 2 = 1 <;> simp [h]
/-- The record of a job whose header stands at a location (R126). -/
def jobRecord (l : Nat) (bitmap : Bool) : Record := if bitmap then ⟨l + 8 + 128, some (l + 8)⟩ else ⟨l + 8, none⟩
theorem record_elem_same {t acc : Tag} (ht : accTag t = some acc) (m : List Host.Cell) (l : Nat) (bitmap : Bool) (e : Nat) :
    Option.Rel (SameElem t) ((jobRecord l bitmap).elem m t e) (recordElem m l bitmap t e) := by
  cases bitmap with
  | false => exact .some (elemOf_same ht ..)
  | true =>
    have hm : (jobRecord l true).elem m t e =
      if (Memory.get m (l + 8 + e / 8)).getLsbD (e % 8) then some (elemOf m (l + 136) t (onesBefore m (l + 8) e)) else none := rfl
    rw [hm, recordElem, if_neg (by decide : ¬true = false), bitmap_bit, onesBefore_eq]
    by_cases h : Memory.getN m (l + 8 + e / 8) 1 / 2 ^ (e % 8) % 2 = 1
    · simp only [h, decide_true, if_true]
      exact .some (elemOf_same ht ..)
    · simp only [h, decide_false, Bool.false_eq_true, if_false]
      exact .none
/-- Whether an element of A counts as absent under SPA (R127). -/
theorem isZero_same {t acc : Tag} (ht : accTag t = some acc) {x y : Nat} (h : SameElem t x y) : (numOf t x).isZero = elemZero t y := by
  cases hi : t.isInt with
  | true =>
    have hx : numOf t x = .fin (decide (intVal t x < 0)) (intVal t x).natAbs 0 := by cases t <;> cases hi <;> rfl
    rw [hx, elemZero, if_pos hi, ← h.int hi, Num.isZero]
    simp
  | false =>
    obtain ⟨rfl, hlt⟩ := h.float hi
    obtain ⟨hnan, -, hexact⟩ := float_decodes hi (by rintro rfl; cases ht) hlt
    rw [elemZero, if_neg (by simp [hi]), ← hnan]
    rw [← hnan] at hexact
    cases hx : numOf t x with
    | nan | tapNan => rfl
    | inf n =>
      rw [hx] at hexact
      rw [← Option.some.inj (hexact rfl)]
      rfl
    | fin n m e =>
      rw [hx] at hexact
      rw [← Option.some.inj (hexact rfl)]
      have h0 := dyVal_eq_zero n m e
      unfold dyVal at h0
      simp only [Num.isZero, Num.isNan, h0, Bool.not_false, Bool.true_and]

/-! ## The terms of a job (R124, R127) -/

/-- The elements of A and of B whose product is term `k` of element `i` of C (R122, R124). -/
def MxCard.indexA (d : MxCard) (i k : Nat) : Nat := if d.ta then 32 * k + i / 32 else 32 * (i / 32) + k
def MxCard.indexB (d : MxCard) (i k : Nat) : Nat := if d.tb then 32 * (i % 32) + k else 32 * k + i % 32

section
variable (s : State) (cl : ClusterId) (j : EJob) (d : MxCard) (acc : Tag) (p : MxPlace)

/-- Element `e` of A, and of B where it is present, as R122 and R126 have them. -/
def jobA (e : Nat) : Nat := elemIn s.mem (privLoc j.owner.core p.oa) p.ta e
def jobB (e : Nat) : Option Nat :=
  if d.bsrc then recordElem s.mem (wbufLoc cl d.wbo) p.bitmap p.ta e else some (elemIn s.mem (privLoc j.owner.core p.ob) p.ta e)
/-- The terms of element `i` of C as R124, R126 and R127 give them. -/
def jobTerm (i k : Nat) : Option (Nat × Nat) :=
  let a := jobA s j p (d.indexA i k)
  if d.spa = true ∧ elemZero p.ta a = true then none else (jobB s cl j d p (d.indexB i k)).map (fun b => (a, b))

theorem mxInput_a_same (ht : accTag p.ta = some acc) (i k : Nat) :
    let a := jobA s j p (d.indexA i k)
    ∃ x, SameElem p.ta x a ∧ (mxInput s cl j d acc p).a (i / 32) k = if d.spa = true ∧ elemZero p.ta a = true then none else some x := by
  intro a
  have ha := elemOf_same ht s.mem (privLoc j.owner.core p.oa) (d.indexA i k)
  refine ⟨_, ha, ?_⟩
  have hA : (mxInput s cl j d acc p).a (i / 32) k =
    if d.spa && (numOf p.ta (elemOf s.mem (privLoc j.owner.core p.oa) p.ta (d.indexA i k))).isZero then none
    else some (elemOf s.mem (privLoc j.owner.core p.oa) p.ta (d.indexA i k)) := rfl
  rw [hA, isZero_same ht ha]
  simp only [Bool.and_eq_true]
  rfl
theorem mxInput_b_same (ht : accTag p.ta = some acc) (i k : Nat) :
    Option.Rel (SameElem p.ta) ((mxInput s cl j d acc p).b k (i % 32)) (jobB s cl j d p (d.indexB i k)) := by
  simp only [mxInput, jobB]
  split
  · exact record_elem_same ht s.mem (wbufLoc cl d.wbo) p.bitmap _
  · exact .some (elemOf_same ht ..)
theorem mxInput_term_same (ht : accTag p.ta = some acc) (i k : Nat) :
    SameTerm p.ta ((mxInput s cl j d acc p).term (i / 32) (i % 32) k) (jobTerm s cl j d p i k) := by
  obtain ⟨x, ha, hA⟩ := mxInput_a_same s cl j d acc p ht i k
  have hb := mxInput_b_same s cl j d acc p ht i k
  rw [MxIn.term, jobTerm, hA]
  generalize (mxInput s cl j d acc p).b k (i % 32) = b at hb ⊢
  generalize jobB s cl j d p (d.indexB i k) = b' at hb ⊢
  by_cases habs : d.spa = true ∧ elemZero p.ta (jobA s j p (d.indexA i k)) = true
  · simp only [if_pos habs]
    exact .none
  · simp only [if_neg habs]
    cases hb with
    | none => exact .none
    | some hb => exact .some ⟨ha, hb⟩

/-- The old elements of C, +0 where the job does not accumulate (R128); free where they are poisoned. -/
theorem mxInput_old (hacc : acc = .fp32 ∨ acc = .fp64 ∨ acc = .int32) (i : Nat) :
    let l := privLoc j.owner.core p.oc
    let w := acc.ebits / 8
    let x := mxInput s cl j d acc p
    x.old i < 2 ^ acc.ebits ∧ (d.acc = false → x.old i = 0) ∧
      (d.acc = true → s.poisoned (l + i * w) w = false → x.old i = elemIn s.mem l acc i) := by
  intro l w x
  have hold : x.old i = if !d.acc then 0 else if s.poisoned (l + i * w) w then (Config.freeValue (s.fresh + i)).toNat % 2 ^ acc.ebits
      else elemIn s.mem l acc i := by
    rcases hacc with rfl | rfl | rfl <;> simp only [x, mxInput, elemOf, elemIn, Nat.mul_comm _ i] <;> rfl
  have hlt : elemIn s.mem l acc i < 2 ^ acc.ebits := by rcases hacc with rfl | rfl | rfl <;> exact Memory.getN_lt ..
  rw [hold]
  refine ⟨?_, fun h => by simp [h], fun h hp => by simp [h, hp]⟩
  split
  · positivity
  · split
    · exact Nat.mod_lt _ (by positivity)
    · exact hlt

/-- An element of Cnew with its exception bits. -/
def jobElem (i : Nat) : Nat × FlagBits :=
  mxElem p.ta ((mxInput s cl j d acc p).old i) ((List.range 32).map ((mxInput s cl j d acc p).term (i / 32) (i % 32)))
theorem jobElem_sums (ht : accTag p.ta = some acc) (hacc : acc = .fp32 ∨ acc = .fp64 ∨ acc = .int32) (i : Nat) :
    ElementSums p.ta ((mxInput s cl j d acc p).old i) (jobTerm s cl j d p i) (jobElem s cl j d acc p i) :=
  mxElem_sums ht (mxInput_old s cl j d acc p hacc i).1 (mxInput_term_same s cl j d acc p ht i)
theorem mxInput_result : (mxInput s cl j d acc p).result =
    ((List.range 1024).map (fun i => (jobElem s cl j d acc p i).1),
      ((List.range 1024).map (fun i => (jobElem s cl j d acc p i).2)).foldl (· ||| ·) 0) := by
  rw [MxIn.result, List.map_map, List.map_map]
  rfl
theorem mxInput_result_elems : (mxInput s cl j d acc p).result.1 = (List.range 1024).map (fun i => (jobElem s cl j d acc p i).1) := by
  rw [mxInput_result]
theorem mxInput_result_flags : (mxInput s cl j d acc p).result.2 =
    ((List.range 1024).map (fun i => (jobElem s cl j d acc p i).2)).foldl (· ||| ·) 0 := by
  rw [mxInput_result]
theorem mxInput_result_getD {i : Nat} (hi : i < 1024) : (mxInput s cl j d acc p).result.1.getD i 0 = (jobElem s cl j d acc p i).1 := by
  rw [mxInput_result_elems, getD_map_range _ hi]

end

/-! ## What the checks leave (R123, R126) -/

/-- The formats of A and B with their accumulators (R123). -/
theorem accTag_eq_some {t acc : Tag} : accTag t = some acc ↔ (t, acc) ∈ [(Tag.fp64, Tag.fp64), (.fp32, .fp32), (.fp16, .fp32), (.bf16, .fp32),
    (.tap8, .fp32), (.tap6, .fp32), (.int8, .int32), (.uint8, .int32), (.int4, .int32)] := by
  cases t <;> simp [accTag, eq_comm]
theorem mxCheck_tags {c : Ctxt} {d : MxCard} {acc : Tag} (h : mxCheck c d = .ok acc) : accTag (c.tile d.ha).tag = some acc ∧
    (d.bsrc = false → (c.tile d.hb).tag = (c.tile d.ha).tag) ∧ (d.acc = true → (c.tile d.hc).tag = acc) := by
  unfold mxCheck at h
  dsimp only at h
  split at h
  next => cases h
  next =>
    split at h
    next => cases h
    next acc' hacc =>
      split at h
      next => cases h
      next htags =>
        split at h
        next => cases h
        next =>
          split at h
          next => cases h
          next =>
            cases h
            exact ⟨hacc, by simpa using htags⟩
/-- The bytes of the elements of a record. -/
theorem packedBytes_eq (t : Tag) (n : Nat) : packedBytes t n =
    if t = .int4 then (n + 1) / 2 else if t = .tap6 then (6 * n + 7) / 8 else n * (t.ebits / 8) := by
  cases t <;> rfl
theorem bits_eq (v hi lo : Nat) : bits v hi lo = v / 2 ^ lo % 2 ^ (hi + 1 - lo) := by rw [bits, Nat.shiftRight_eq_div_pow]
theorem recordAt_isSome_map {m : List Host.Cell} {l wlen : Nat} {t : Tag} {b : Bool} :
    let h := Memory.getN m l 8
    let count := h / 2 ^ 21 % 2 ^ 11
    (recordAt m l wlen t).map (fun r => r.map.isSome) = some b ↔ h / 2 ^ 32 = 0 ∧ h / 2 ^ 6 % 2 ^ 15 = 0 ∧ h / 2 ^ 4 % 4 = (if b then 1 else 0) ∧
      h % 2 ^ 4 = t.code ∧ count = (if b then bitsBefore m (l + 8) 1024 else 1024) ∧
      wlen = (8 + (if b then 128 else 0) + packedBytes t count + 7) / 8 := by
  intro h count
  have hlt : h < 2 ^ 64 := Memory.getN_lt m l 8
  have htop : bits h 63 32 = h / 2 ^ 32 := by rw [bits_eq]; omega
  have hmid : bits h 20 6 = h / 2 ^ 6 % 2 ^ 15 := bits_eq ..
  have hmode : bits h 5 4 = h / 2 ^ 4 % 4 := bits_eq ..
  have htag : bits h 3 0 = h % 2 ^ 4 := by rw [bits_eq, Nat.pow_zero, Nat.div_one]
  have hcount : bits h 31 21 = count := bits_eq ..
  unfold recordAt
  simp only [show Memory.getN m l 8 = h from rfl, htop, hmid, hmode, htag, hcount, onesBefore_eq]
  generalize h / 2 ^ 4 % 4 = mode
  generalize bitsBefore m (l + 8) 1024 = ones
  by_cases h1 : mode = 1
  · cases b <;> simp [h1, and_assoc, @eq_comm _ wlen]
  · have h0 : mode ≤ 1 ↔ mode = 0 := by omega
    cases b <;> simp [h1, h0, and_assoc, @eq_comm _ wlen]
theorem recordStart_eq_some {s : State} {cl : ClusterId} {d : MxCard} {t : Tag} {b : Bool} (hd : d.bsrc = true) :
    let l := wbufLoc cl d.wbo
    let h := Memory.getN s.mem l 8
    let count := h / 2 ^ 21 % 2 ^ 11
    let size := if t = .int4 then (count + 1) / 2 else if t = .tap6 then (6 * count + 7) / 8 else count * (t.ebits / 8)
    recordStart s cl d t = some b ↔ h / 2 ^ 32 = 0 ∧ h / 2 ^ 6 % 2 ^ 15 = 0 ∧ h / 2 ^ 4 % 4 = (if b then 1 else 0) ∧ h % 2 ^ 4 = t.code ∧
      count = (if b then bitsBefore s.mem (l + 8) 1024 else 1024) ∧ d.wlen = (8 + (if b then 128 else 0) + size + 7) / 8 := by
  intro l h count size
  have hs : recordStart s cl d t = (recordAt s.mem l d.wlen t).map (fun r => r.map.isSome) := by simp only [recordStart, hd]; rfl
  have hr := recordAt_isSome_map (m := s.mem) (l := l) (wlen := d.wlen) (t := t) (b := b)
  dsimp only at hr
  rw [packedBytes_eq] at hr
  rw [hs]
  exact hr

end Sys2Proof.Machine
end

section
/-! SUPPORT. Matrix jobs from their start to their end (R120, R126, R128, R131, R132, R136). -/

namespace Sys2Proof.Machine

/-! ## What the end of a gang, a fold and a status leave -/

/-- What a map over a keyed list leaves of every value reads as before. -/
theorem kget_map_field {κ α β : Type} [DecidableEq κ] (l : List (κ × α)) (f : α → α) (F : α → β) (hf : ∀ x, F (f x) = F x) (k : κ) (d : α) :
    F (kget (l.map (fun p => (p.1, f p.2))) k d) = F (kget l k d) := by
  induction l with
  | nil => rfl
  | cons p r ih =>
    rw [List.map_cons, kget, kget]
    by_cases h : p.1 = k
    · simp only [h, if_true, hf]
    · simp only [h, if_false, ih]
theorem freeGang_slot (s : State) (g : Nat) (c : CtxId) : (freeGang s g).slot c = s.slot c :=
  kget_map_field s.cores (fun k => { k with stages := kdel k.stages g, markers := k.markers.filter (· ≠ g) }) (fun k => k.slots[c.who.val])
    (fun _ => rfl) c.core Core.reset
theorem freeGang_jobs (s : State) (g : Nat) (k : ClusterId) : ((freeGang s g).cluster k).jobs = (s.cluster k).jobs :=
  kget_map_field s.clusters (fun c => { c with pool := c.pool.filter (fun p => p.gang ≠ g), drafts := c.drafts.filter (fun d => d.gang ≠ g),
                                               conds := c.conds.filter (fun d => d.gang ≠ g), walk := kdel c.walk g })
    Cluster.jobs (fun _ => rfl) k Cluster.reset
/-- The end of a gang leaves memory, slots and jobs. -/
theorem settle_leaves (s : State) (g : Nat) :
    (s.settle g).mem = s.mem ∧ (∀ c, (s.settle g).slot c = s.slot c) ∧ ∀ k, ((s.settle g).cluster k).jobs = (s.cluster k).jobs := by
  unfold State.settle
  split
  · exact ⟨rfl, fun c => freeGang_slot _ g c, fun k => freeGang_jobs _ g k⟩
  · exact ⟨rfl, fun _ => rfl, fun _ => rfl⟩
theorem closeFold_slot_cx (s : State) (c : CtxId) (n : Nat) (es : List StoreElem) (d : CtxId) : ((closeFold s c n es).slot d).cx = (s.slot d).cx := by
  unfold closeFold State.modSlot
  by_cases h : d = c
  · subst h
    rw [State.slot_setSlot]
  · rw [State.slot_setSlot_ne _ _ _ _ h]
theorem setStatus_slot_cx (s : State) (j : EJob) (f : JobEntry → JobEntry) : ((setStatus s j f).slot j.owner).cx =
    { (s.slot j.owner).cx with jobs := (s.slot j.owner).cx.jobs.map (fun e => if e.uid = j.uid then f e else e) } := by
  rw [setStatus, slot_modTables, if_pos rfl]
/-- Every entry of the job takes its status. -/
theorem entry_setStatus {l : List JobEntry} {n : Nat} {f : JobEntry → JobEntry} {e : JobEntry}
    (he : e ∈ l.map (fun e => if e.uid = n then f e else e)) (hn : e.uid = n) : ∃ e', e = f e' := by
  obtain ⟨e', -, rfl⟩ := List.mem_map.mp he
  by_cases h : e'.uid = n
  · exact ⟨e', if_pos h⟩
  · rw [if_neg h] at hn
    exact absurd hn h

/-! ## The start of a job (R120, R126, R131) -/

section
variable {s : State} {cl : ClusterId} {n : Nat} {j : EJob} {id : DWord} {d : MxCard} {acc : Tag} {p : MxPlace}
  (hj : (s.cluster cl).job n = some j) (hkind : j.kind = .matrix id d acc p)

theorem job_uid {c : Cluster} {n : Nat} {j : EJob} (h : c.job n = some j) : j.uid = n := by simpa using List.find?_some h

/-- A job as it has started. -/
def EJob.started (j : EJob) (s : State) (cl : ClusterId) (id : DWord) (d : MxCard) (acc : Tag) (p : MxPlace) : EJob :=
  { j with running := true, bad := if recordPoison s cl d then 3 else if (recordStart s cl d p.ta).isNone then 4 else 0,
           kind := .matrix id d acc { p with bitmap := (recordStart s cl d p.ta).getD false } }
include hj hkind

theorem mxJobStart_starts (hrun : j.running = false) (hblocked : s.blocked cl j = false) (hdrafts : s.draftsFirst cl j = false)
    (hbusy : (s.cluster cl).mxBusy = false) : exec (.mxJobStart cl n) s =
      .next (setStatus (s.setJob cl (j.started s cl id d acc p)) j (fun e => { e with state := .running })) := by
  have hx : exec (.mxJobStart cl n) s = execMxJobStart cl n s := rfl
  rw [hx]
  simp only [execMxJobStart, hj, hkind, hrun, hblocked, hdrafts, hbusy, Bool.or_self, Bool.false_eq_true, if_false, EJob.started]
theorem mxJobStart_waits (h : s.blocked cl j = true ∨ s.draftsFirst cl j = true) : exec (.mxJobStart cl n) s = .next s := by
  have hx : exec (.mxJobStart cl n) s = execMxJobStart cl n s := rfl
  rw [hx]
  simp only [execMxJobStart, hj, hkind]
  exact congrArg _ (if_pos (by rcases h with h | h <;> simp [h]))
theorem mxJobComplete_waits (hrun : j.running = false) : exec (.mxJobComplete cl n) s = .next s := by
  have hx : exec (.mxJobComplete cl n) s = execMxJobComplete cl n s := rfl
  rw [hx]
  simp only [execMxJobComplete, hj, hkind, hrun, Bool.not_false, if_true]
theorem mxJobComplete_ends (hrun : j.running = true) : exec (.mxJobComplete cl n) s =
    .next ((if mxFault s cl j d p ≠ 0 then mxFail s cl j d (mxFault s cl j d p) else mxDone s cl j d acc p).settle j.gang) := by
  have hx : exec (.mxJobComplete cl n) s = execMxJobComplete cl n s := rfl
  rw [hx]
  simp only [execMxJobComplete, hj, hkind, hrun, Bool.not_true, Bool.false_eq_true, if_false]

end
/-- A draft the submitter made before it submitted the job, in what the job reads or writes. -/
theorem draftsFirst_of {s : State} {cl : ClusterId} {j : EJob} (h : ∃ d ∈ (s.cluster cl).drafts, ∃ q ∈ j.after, d.owner = q.1 ∧ d.n < q.2 ∧
    ∃ x ∈ d.elems, ∃ v ∈ spanRegions s j.owner x.addr x.size true, ∃ w ∈ j.foot, v.meets w = true) : s.draftsFirst cl j = true := by
  obtain ⟨d, hd, q, hq, hown, hn, x, hx, v, hv, w, hw, hm⟩ := h
  refine List.any_eq_true.mpr ⟨d, hd, Bool.and_eq_true_iff.mpr ⟨List.any_eq_true.mpr ⟨q, hq, by simp [hown, hn]⟩, ?_⟩⟩
  exact List.any_eq_true.mpr ⟨x, hx, List.any_eq_true.mpr ⟨v, hv, List.any_eq_true.mpr ⟨w, hw, hm⟩⟩⟩

/-! ## The end of a job (R132, R136) -/

/-- C written (R132). -/
def mxWritten (s : State) (j : EJob) (acc : Tag) (p : MxPlace) (r : List Nat) : State :=
  { writeElems s (privLoc j.owner.core p.oc) acc.mbytes r 0 with fresh := s.fresh + 1024 }
theorem mxWritten_frame (s : State) (j : EJob) (acc : Tag) (p : MxPlace) (r : List Nat) : mxWritten s j acc p r =
    { s with mem := (mxWritten s j acc p r).mem, poison := (mxWritten s j acc p r).poison, fresh := s.fresh + 1024 } := by
  rw [mxWritten, writeElems_frame]
theorem mxDone_eq (s : State) (cl : ClusterId) (j : EJob) (d : MxCard) (acc : Tag) (p : MxPlace) (hctr : d.ctr = 0) (harr : d.arrive = false) :
    let r := (mxInput s cl j d acc p).result
    ∃ es, mxDone s cl j d acc p = setStatus (closeFold (endTiles j true ((mxWritten s j acc p r.1).dropJob cl j.uid)) j.owner j.uid es) j
      (fun e => { e with state := .done, flags := r.2.setWidth 6 }) := by
  intro r
  refine ⟨r.1.mapIdx (fun e v => wholeElem (BitVec.ofNat 64 (p.oc + e * acc.mbytes)) acc.mbytes v), ?_⟩
  simp only [mxDone, engineCount, engineIncr, hctr, if_true, engineArrive, harr, Bool.false_eq_true, if_false]
  rfl
theorem mxFail_eq (s : State) (cl : ClusterId) (j : EJob) (d : MxCard) (k : Nat) (harr : d.arrive = false) : mxFail s cl j d k =
    closeFold (setStatus (endTiles j false (s.dropJob cl j.uid)) j
      (fun e => { e with state := .fault, kind := BitVec.ofNat 8 k })) j.owner j.uid [] := by
  simp only [mxFail, engineArrive, harr, Bool.false_eq_true, if_false]
/-- What an ended job leaves: memory as its write left it, and no job of its number. -/
theorem mxEnd_leaves {t u : State} {cl : ClusterId} {j : EJob} (w : Bool) (hu : u.clusters = (endTiles j w (t.dropJob cl j.uid)).clusters)
    (hm : u.mem = (endTiles j w (t.dropJob cl j.uid)).mem) (g : Nat) :
    (u.settle g).mem = t.mem ∧ ((u.settle g).cluster cl).job j.uid = none := by
  have hs := endTiles_entryStands j w (t.dropJob cl j.uid)
  obtain ⟨hmem, -, hjobs⟩ := settle_leaves u g
  refine ⟨hmem.trans (hm.trans hs.mem), ?_⟩
  rw [Cluster.job, hjobs, State.cluster_congr hu]
  exact hs.job_none (dropJob_job ..)

theorem Ctxt.tile_setTile (c : Ctxt) {h : Nat} (hh : h < 16) (v : Tile) : (c.setTile h v).tile h = v := by
  simp only [Ctxt.tile, Ctxt.setTile, dif_pos hh, Vector.getElem_set_self]
theorem Ctxt.tile_setTile_ne (c : Ctxt) {h k : Nat} (hne : k ≠ h) (v : Tile) : (c.setTile h v).tile k = c.tile k := by
  unfold Ctxt.tile Ctxt.setTile
  by_cases hh : h < 16 <;> by_cases hk : k < 16 <;> simp [hh, hk, Vector.getElem_set_ne _ _ (Ne.symm hne)]
/-- An allocated tile changed. -/
theorem tileOf_modTile (s : State) (c : CtxId) {h : Nat} (hh : h < 16) (f : Tile → Tile) (ha : (s.tileOf c h).alloc = true) :
    (s.modTile c h f).tileOf c h = f (s.tileOf c h) := by
  have ha : ((s.slot c).cx.tile h).alloc = true := ha
  rw [State.tileOf, State.modTile, slot_modTables, if_pos rfl]
  simp only [Ctxt.tile_setTile _ hh, ha, if_true]
  rfl
/-- The one tile that a job writes, which no other job names, is READY under the job's tag (R132). -/
theorem endTiles_ready {s : State} {j : EJob} {h k : Nat} (htiles : j.tiles = [(j.owner, h, true), (j.owner, k, false)]) (hh : h < 16)
    (ha : (s.tileOf j.owner h).alloc = true) (hnone : s.tileJobs j.owner h = []) :
    (endTiles j true s).tileOf j.owner h = { s.tileOf j.owner h with tag := j.writeTag, state := .ready } := by
  have hend : endTiles j true s = endWriter j true s j.owner h := by simp [endTiles, htiles]
  have hpass (f : Tile → Tile) (p : Tag × TileState) : passPrior (s.modTile j.owner h f) j.owner h p = s.modTile j.owner h f := by
    have hn : (s.modTile j.owner h f).tileJobs j.owner h = [] := hnone
    rw [passPrior, hn]
    rfl
  rw [hend, endWriter]
  simp only [hnone, List.any_nil, if_true, Bool.false_eq_true, if_false, hpass]
  exact tileOf_modTile s j.owner hh _ ha

section
variable {s : State} {cl : ClusterId} {j : EJob} {d : MxCard} {acc : Tag} {p : MxPlace} (hctr : d.ctr = 0) (harr : d.arrive = false) (g : Nat)
include hctr harr

/-- The whole of a job's end without fault, but for C's bytes. -/
theorem mxDone_ends :
    let r := (mxInput s cl j d acc p).result
    let u := (mxDone s cl j d acc p).settle g
    u.mem = (mxWritten s j acc p r.1).mem ∧ (u.cluster cl).job j.uid = none ∧
    (∀ e ∈ (u.slot j.owner).cx.jobs, e.uid = j.uid → e.state = .done ∧ e.flags = r.2.setWidth 6) ∧
    ∀ h k, j.tiles = [(j.owner, h, true), (j.owner, k, false)] → (s.tileOf j.owner h).alloc = true → (s.dropJob cl j.uid).tileJobs j.owner h = [] →
      h < 16 → ((u.slot j.owner).cx.tile h).state = .ready ∧ ((u.slot j.owner).cx.tile h).tag = j.writeTag := by
  intro r u
  obtain ⟨es, hdone⟩ := mxDone_eq s cl j d acc p hctr harr
  obtain ⟨hmem, hjob⟩ := mxEnd_leaves (t := mxWritten s j acc p r.1) (cl := cl) (j := j) (u := mxDone s cl j d acc p) true (by rw [hdone]; rfl)
    (by rw [hdone]; rfl) g
  have hslot : (u.slot j.owner).cx = ((mxDone s cl j d acc p).slot j.owner).cx := congrArg Slot.cx ((settle_leaves _ g).2.1 _)
  rw [hdone, setStatus_slot_cx, closeFold_slot_cx] at hslot
  refine ⟨hmem, hjob, fun e he hn => ?_, fun h k htiles ha hnone hh => ?_⟩
  · rw [hslot] at he
    obtain ⟨e', rfl⟩ := entry_setStatus he hn
    exact ⟨rfl, rfl⟩
  · have hX : (mxWritten s j acc p r.1).dropJob cl j.uid = { s.dropJob cl j.uid with
        mem := (mxWritten s j acc p r.1).mem, poison := (mxWritten s j acc p r.1).poison, fresh := s.fresh + 1024 } := by
      rw [mxWritten_frame]
      rfl
    have hready := endTiles_ready (s := (mxWritten s j acc p r.1).dropJob cl j.uid) htiles hh (by rw [hX]; exact ha) (by rw [hX]; exact hnone)
    rw [hslot]
    exact ⟨congrArg Tile.state hready, congrArg Tile.tag hready⟩
omit hctr in
/-- A job that met a fault before it wrote C. -/
theorem mxFail_ends (k : Nat) :
    let u := (mxFail s cl j d k).settle g
    u.mem = s.mem ∧ (u.cluster cl).job j.uid = none ∧
    ∀ e ∈ (u.slot j.owner).cx.jobs, e.uid = j.uid → e.state = .fault ∧ e.kind = BitVec.ofNat 8 k := by
  intro u
  have hfail := mxFail_eq s cl j d k harr
  obtain ⟨hmem, hjob⟩ := mxEnd_leaves (t := s) (cl := cl) (j := j) (u := mxFail s cl j d k) false (by rw [hfail]; rfl) (by rw [hfail]; rfl) g
  have hslot : (u.slot j.owner).cx = ((mxFail s cl j d k).slot j.owner).cx := congrArg Slot.cx ((settle_leaves _ g).2.1 _)
  rw [hfail, closeFold_slot_cx, setStatus_slot_cx] at hslot
  refine ⟨hmem, hjob, fun e he hn => ?_⟩
  rw [hslot] at he
  obtain ⟨e', rfl⟩ := entry_setStatus he hn
  exact ⟨rfl, rfl⟩

end

/-- C's bytes (R122, R132): its elements end to end, and no other byte. -/
theorem mxWritten_mem {s : State} (hw : Memory.wf s.mem = true) (j : EJob) {acc : Tag} (hacc : acc = .fp32 ∨ acc = .fp64 ∨ acc = .int32) (p : MxPlace)
    {r : List Nat} (hr : r.length = 1024) :
    let w := acc.ebits / 8
    let l := privLoc j.owner.core p.oc
    (∀ i < 1024, Memory.getN (mxWritten s j acc p r).mem (l + i * w) w = r.getD i 0 % 2 ^ (8 * w)) ∧
    ∀ a, a < l ∨ l + 1024 * w ≤ a → Memory.get (mxWritten s j acc p r).mem a = Memory.get s.mem a := by
  intro w l
  have hwidth : acc.mbytes = w := by rcases hacc with rfl | rfl | rfl <;> rfl
  have hmem : (mxWritten s j acc p r).mem = (writeElems s l w r 0).mem := by rw [mxWritten, hwidth]
  rw [hmem]
  refine ⟨fun i hi => ?_, fun a ha => get_writeElems_out l w r s 0 a hw ?_⟩
  · have h := getN_writeElems l w r s 0 i hw (hr ▸ hi)
    rwa [Nat.zero_add, show 256 = 2 ^ 8 from rfl, ← Nat.pow_mul] at h
  · rwa [hr, Nat.zero_add, Nat.zero_mul, Nat.add_zero]

/-- Settles O38: a job starts with its record checked, and ends with C's elements as R128 has them or, after a fault, with memory as it was. -/
theorem matrixJobsRun : Obligations.MatrixJobsRun := by
  unfold Obligations.MatrixJobsRun
  intro accumulators
  refine ⟨fun c d acc h => ?_, fun s cl d t b hd => recordStart_eq_some hd, fun s cl n j id d acc p hj hkind => ?_⟩
  · obtain ⟨hA, hB, hC⟩ := mxCheck_tags h
    exact ⟨accTag_eq_some.mp hA, hB, hC⟩
  obtain rfl := job_uid hj
  refine ⟨fun hrun hblocked hdrafts hbusy => ?_, fun hrun h => mxJobStart_waits hj hkind (.inr (draftsFirst_of h)),
    fun hrun hblocked => ⟨mxJobStart_waits hj hkind (.inl hblocked), mxJobComplete_waits hj hkind hrun⟩, fun hrun hctr harr hw hacc => ?_⟩
  · refine ⟨_, mxJobStart_starts hj hkind hrun hblocked hdrafts hbusy, rfl, ?_, fun e he hn => ?_⟩
    · exact job_setJob hj rfl
    · rw [setStatus_slot_cx] at he
      obtain ⟨e', rfl⟩ := entry_setStatus he hn
      rfl
  · intro w l r
    have hx := mxJobComplete_ends hj hkind hrun
    refine ⟨fun hk => ?_, fun k hk hfault => ?_⟩
    · rw [if_neg (not_not_intro hk)] at hx
      obtain ⟨hmem, hjob, hentries, htile⟩ := mxDone_ends (s := s) (cl := cl) (j := j) (acc := acc) (p := p) hctr harr j.gang
      obtain ⟨hbytes, hframe⟩ := mxWritten_mem hw j hacc p (r := r.1) (by rw [mxInput_result_elems]; simp)
      rw [← hmem] at hbytes hframe
      refine ⟨_, hx, hbytes, fun ht => ?_, hframe, hjob, hentries, fun htiles ha hnone hh => ?_⟩
      · have hta := accTag_eq_some.mpr ht
        refine ⟨(mxInput s cl j d acc p).old, jobElem s cl j d acc p, fun i _ => (mxInput_old s cl j d acc p hacc i).2,
          fun i hi => ⟨jobElem_sums s cl j d acc p hta hacc i, (hbytes i hi).trans (by rw [mxInput_result_getD _ _ _ _ _ _ hi])⟩,
          mxInput_result_flags s cl j d acc p⟩
      · obtain ⟨hstate, htag⟩ := htile _ _ htiles ha hnone hh
        exact ⟨hstate, htag.trans (by rw [EJob.writeTag, hkind])⟩
    · rw [hfault, if_pos hk] at hx
      exact ⟨_, hx, mxFail_ends harr j.gang k⟩
end Sys2Proof.Machine
end

section
/-! SUPPORT. MXSUB, MXPOLL and MXWAIT over the job table (R121, R124, R133 to R136). -/

namespace Sys2Proof.Machine

/-! ## A job accepted (R121, R133, R134) -/

theorem mxCardOf_hc_lt {ds : List Nat} {d : MxCard} (h : mxCardOf ds = some d) : d.hc < 16 := by
  unfold mxCardOf at h
  split at h
  next =>
    obtain ⟨-, h⟩ := Option.ite_none_right_eq_some.mp h
    cases h
    exact Nat.mod_lt _ (by decide)
  next => cases h
theorem mxCheck_alloc {c : Ctxt} {d : MxCard} {acc : Tag} (h : mxCheck c d = .ok acc) : (c.tile d.hc).alloc = true := by
  by_contra hc
  have herr : mxCheck c d = .error 0x092 := by
    unfold mxCheck
    simp only [Bool.not_eq_true] at hc
    simp [hc]
  rw [herr] at h
  cases h

/-- The job of an accepted card, and its entry in the job table. -/
def mxJob (t : State) (d : MxCard) (acc : Tag) : EJob :=
  let off := fun (h : Nat) => (t.cx.tile h).storage.toNat
  { newJob t t.me (.matrix t.cx.seq d acc ⟨(t.cx.tile d.ha).tag, off d.ha, off d.hb, off d.hc, false⟩) with
    after := if t.self.speculative then (t.self.uid, t.self.made) :: t.self.parents else [], foot := mxFoot t t.me d acc,
    priors := [t.prior t.me d.hc],
    tiles := [(t.me, d.hc, true), (t.me, d.ha, false)] ++ (if d.bsrc then [] else [(t.me, d.hb, false)]) }
def mxEntry (t : State) (ea : DWord) : JobEntry := ⟨t.cx.seq, t.fresh, 0, .queued, 0, ea⟩
/-- A job in its table and in the scheduler, before its C tile is changed. -/
def mxEntered (t : State) (ea : DWord) (d : MxCard) (acc : Tag) (l : List JobEntry) : State :=
  (t.setCx { t.cx with jobs := l ++ [mxEntry t ea], seq := t.cx.seq + 1 }).tick.acceptJob t.cur.cl (mxJob t d acc)
/-- A job accepted, before its id is returned. -/
def mxAccepted (t : State) (ea : DWord) (ds : List Nat) (d : MxCard) (acc : Tag) (l : List JobEntry) : State :=
  openFold (foldCard (acceptWriter (mxEntered t ea d acc l) t.me d.hc acc) t.me ea ds) t.me t.fresh

theorem mxAccept_eq (t : State) (rd : BitVec 5) (ea : DWord) (ds : List Nat) (d : MxCard) (acc : Tag) (l : List JobEntry) :
    mxAccept t rd ea ds d acc l =
      ((mxAccepted t ea ds d acc l).setCx ((mxAccepted t ea ds d acc l).cx.wa rd t.cx.seq)).finish := rfl
theorem openFold_frame (s : State) (c : CtxId) (n : Nat) :
    (openFold s c n).cx = s.cx ∧ openFold s c n = { s with cores := (openFold s c n).cores } := by
  unfold openFold
  split
  · exact ⟨modSlot_cx _ _ _ (fun _ => rfl), rfl⟩
  · exact ⟨rfl, rfl⟩

section
variable (t : State) (ea : DWord) (ds : List Nat) (d : MxCard) (acc : Tag) (l : List JobEntry)

theorem mxEntered_cx : (mxEntered t ea d acc l).cx = { t.cx with jobs := l ++ [mxEntry t ea], seq := t.cx.seq + 1 } := State.cx_setCx t _
theorem mxEntered_me : (mxEntered t ea d acc l).me = t.me := State.me_setCx t _
/-- C as its writer's acceptance leaves it (R133, R177). -/
def Tile.accepted (x : Tile) (acc : Tag) : Tile := if x.state = .draining then x else { x with tag := acc, state := .filling }
theorem mxAccepted_cx : (mxAccepted t ea ds d acc l).cx =
    (mxEntered t ea d acc l).cx.setTile d.hc (if (t.cx.tile d.hc).alloc then (t.cx.tile d.hc).accepted acc else t.cx.tile d.hc) := by
  rw [mxAccepted, (openFold_frame ..).1, (foldCard_frame ..).1, acceptWriter, State.modTile,
    ← mxEntered_me t ea d acc l, modTables_me_cx, mxEntered_cx]
  rfl
theorem mxAccepted_frame : (mxAccepted t ea ds d acc l).mem = t.mem ∧
    ((mxAccepted t ea ds d acc l).cluster t.cur.cl).jobs = (t.cluster t.cur.cl).jobs ++ [mxJob t d acc] := by
  have hframe : mxAccepted t ea ds d acc l = { mxEntered t ea d acc l with cores := (mxAccepted t ea ds d acc l).cores } := by
    rw [mxAccepted, (openFold_frame ..).2, foldCard, foldDigest_frame]
    rfl
  rw [hframe]
  refine ⟨rfl, ?_⟩
  have hc : (mxEntered t ea d acc l).cluster t.cur.cl = { t.cluster t.cur.cl with jobs := (t.cluster t.cur.cl).jobs ++ [mxJob t d acc] } := by
    rw [mxEntered, State.acceptJob, State.cluster_modCluster, if_pos rfl]
    rfl
  exact congrArg Cluster.jobs hc
/-- The context in which an accepted job's id is returned. -/
theorem mxAccepted_table : (mxAccepted t ea ds d acc l).cx.seq = t.cx.seq + 1 ∧ (mxAccepted t ea ds d acc l).cx.a = t.cx.a ∧
    (mxAccepted t ea ds d acc l).cx.pc = t.cx.pc ∧ (mxAccepted t ea ds d acc l).cx.jobs = l ++ [mxEntry t ea] := by
  rw [mxAccepted_cx, mxEntered_cx]
  unfold Ctxt.setTile
  split <;> exact ⟨rfl, rfl, rfl, rfl⟩
theorem mxAccepted_tile (hh : d.hc < 16) (ha : (t.cx.tile d.hc).alloc = true) :
    (mxAccepted t ea ds d acc l).cx.tile d.hc = (t.cx.tile d.hc).accepted acc ∧
      ∀ h, h ≠ d.hc → (mxAccepted t ea ds d acc l).cx.tile h = t.cx.tile h := by
  rw [mxAccepted_cx, mxEntered_cx, if_pos ha]
  exact ⟨Ctxt.tile_setTile _ hh _, fun h hne => Ctxt.tile_setTile_ne _ hne _⟩

end

/-! ## MXSUB (R134) -/

/-- What becomes of a card that has been read (R121, R134). -/
def mxSubmit (t : State) (rd : BitVec 5) (ea : DWord) (ds : List Nat) : State :=
  match mxCardOf ds with
  | none => t.raise (trapInfo 0x091)
  | some d => match mxCheck t.cx d with
    | .error e => t.raise (trapInfo e)
    | .ok acc =>
      if t.self.speculative && !mxFree t.me t.self (t.cx.tile d.hc) acc d then t.park .certain
      else if 16 ≤ (t.cluster t.cur.cl).mxCount then t.park .mxRoom
      else match jobRoom t.cx.jobs with
        | .full => t.raise (trapInfo 0x096)
        | .wait => t.park .mxEntry
        | .ok l => mxAccept t rd ea ds d acc l

section
variable {st t : State} {s : Bool} {rd rs1 : BitVec 5} {imm : BitVec 12} {ds : List Nat} {d : MxCard} {acc : Tag}

section
variable (h : Takes { s := s, a := [rs1] } st t)
include h

theorem mxsub_bad_address (ha : (form (t.cx.ra rs1 + imm.signExtend 64)).isPriv = false ∨ (t.cx.ra rs1 + imm.signExtend 64).toNat % 32 ≠ 0) :
    exec (.mxsub s rd rs1 imm) st = .next (t.raise (trapInfo 0x090)) := by
  have hx : exec (.mxsub s rd rs1 imm) st = execMxsub s rd rs1 imm st := rfl
  rw [hx, execMxsub, issue_takes h]
  exact congrArg _ (if_pos (by simpa using ha))
theorem mxsub_reads (hp : (form (t.cx.ra rs1 + imm.signExtend 64)).isPriv = true) (hal : (t.cx.ra rs1 + imm.signExtend 64).toNat % 32 = 0)
    (hrec : recordCheck t t.me (t.cx.ra rs1 + imm.signExtend 64) 32 32 = none)
    (hread : readDwords t t.me (t.cx.ra rs1 + imm.signExtend 64) 4 = .ok ds) :
    exec (.mxsub s rd rs1 imm) st = .next (mxSubmit t rd (t.cx.ra rs1 + imm.signExtend 64) ds) := by
  have hx : exec (.mxsub s rd rs1 imm) st = execMxsub s rd rs1 imm st := rfl
  rw [hx, execMxsub, issue_takes h]
  simp only [hp, hal, hrec, hread, Bool.not_true, Bool.false_or, ne_eq, not_true_eq_false, decide_false, Bool.false_eq_true, if_false]
  rfl

end
theorem mxSubmit_no_card (ea : DWord) (h : mxCardOf ds = none) : mxSubmit t rd ea ds = t.raise (trapInfo 0x091) := by
  simp only [mxSubmit, h]
theorem mxSubmit_refused (ea : DWord) {c : BitVec 9} (h : mxCardOf ds = some d) (hc : mxCheck t.cx d = .error c) :
    mxSubmit t rd ea ds = t.raise (trapInfo c) := by
  simp only [mxSubmit, h, hc]
theorem mxSubmit_accepts (ea : DWord) (h : mxCardOf ds = some d) (hc : mxCheck t.cx d = .ok acc) (hs : t.self.speculative = false)
    (hroom : (t.cluster t.cur.cl).mxCount < 16) (htable : t.cx.jobs.length < 16) :
    mxSubmit t rd ea ds = mxAccept t rd ea ds d acc t.cx.jobs := by
  have hj : jobRoom t.cx.jobs = .ok t.cx.jobs := if_pos htable
  simp only [mxSubmit, h, hc, hs, hj, Bool.false_and, Bool.false_eq_true, if_false, if_neg (Nat.not_le.mpr hroom)]

end

/-! ## MXPOLL and MXWAIT (R135, R136) -/

theorem badJob_iff (c : Ctxt) (id : DWord) : c.badJob id = true ↔ id = 0 ∨ c.seq.toNat ≤ id.toNat := by
  simp [Ctxt.badJob, BitVec.ult]
theorem mxStatus_some (e : JobEntry) : (mxStatus (some e)).toNat = e.kind.toNat * 2 ^ 24 + e.state.code * 2 ^ 8 + e.flags.toNat := by
  have hk := e.kind.isLt
  have hf := e.flags.isLt
  have hs : e.state.code < 4 := by cases e.state <;> decide
  rw [mxStatus, BitVec.toNat_ofNat]
  exact Nat.mod_eq_of_lt (by omega)
theorem ended_iff (x : JobState) : x.ended = true ↔ x = .done ∨ x = .fault := by cases x <;> decide
/-- The job table after an entry has been sampled: one that has ended is freed (R121). -/
def Ctxt.polled (c : Ctxt) (id : DWord) (e : JobEntry) : List JobEntry :=
  if e.state = .done ∨ e.state = .fault then c.jobs.filter (fun x => x.id ≠ id) else c.jobs

section
variable {st t : State} {s : Bool} {rd rs1 : BitVec 5} (h : Takes { s := s, long := true, a := [rs1] } st t)
include h

theorem mxpoll_never_issued (hid : t.cx.ra rs1 = 0 ∨ t.cx.seq.toNat ≤ (t.cx.ra rs1).toNat) :
    exec (.mxpoll s rd rs1) st = .next (t.raise (trapInfo 0x099)) := by
  have hx : exec (.mxpoll s rd rs1) st = execMxpoll s rd rs1 st := rfl
  rw [hx, execMxpoll, issue_takes h]
  exact congrArg _ (if_pos ((badJob_iff ..).mpr hid))
theorem mxpoll_freed (hid : ¬t.cx.badJob (t.cx.ra rs1) = true) (hjob : t.cx.job (t.cx.ra rs1) = none) :
    exec (.mxpoll s rd rs1) st = .next ((t.setCx (Waiting t.cx (.areg rd) (.scalar 0x600) 0 false)).finish) := by
  have hx : exec (.mxpoll s rd rs1) st = execMxpoll s rd rs1 st := rfl
  rw [hx, execMxpoll, issue_takes h]
  simp only [if_neg hid, hjob]
  rfl
theorem mxpoll_entry {e : JobEntry} (hid : ¬t.cx.badJob (t.cx.ra rs1) = true) (hjob : t.cx.job (t.cx.ra rs1) = some e) :
    exec (.mxpoll s rd rs1) st =
      .next ((t.setCx (Waiting { t.cx with jobs := t.cx.polled (t.cx.ra rs1) e } (.areg rd) (.scalar (mxStatus (some e))) 0 false)).finish) := by
  have hx : exec (.mxpoll s rd rs1) st = execMxpoll s rd rs1 st := rfl
  rw [hx, execMxpoll, issue_takes h]
  simp only [if_neg hid, hjob, ended_iff, Ctxt.polled]
  split <;> rfl

end
section
variable {st t : State} {s : Bool} {rs1 : BitVec 5} (h : Takes { s := s, a := [rs1] } st t)
include h

theorem mxwait_never_issued (hid : t.cx.ra rs1 = 0 ∨ t.cx.seq.toNat ≤ (t.cx.ra rs1).toNat) :
    exec (.mxwait s rs1) st = .next (t.raise (trapInfo 0x099)) := by
  have hx : exec (.mxwait s rs1) st = execMxwait s rs1 st := rfl
  rw [hx, execMxwait, issue_takes h]
  exact congrArg _ (if_pos ((badJob_iff ..).mpr hid))
theorem mxwait_freed (hid : ¬t.cx.badJob (t.cx.ra rs1) = true) (hjob : t.cx.job (t.cx.ra rs1) = none) :
    exec (.mxwait s rs1) st = .next t.finish := by
  have hx : exec (.mxwait s rs1) st = execMxwait s rs1 st := rfl
  rw [hx, execMxwait, issue_takes h]
  simp only [if_neg hid, hjob]
/-- What MXWAIT does at an entry in some state. -/
def mxWaited (t : State) (id : DWord) (e : JobEntry) : State :=
  match e.state with
  | .done => t.finish | .fault => t.raise (trapInfo 0x098 e.card) | .queued => t.park (.mxJob id) | .running => t.park (.mxJob id)
theorem mxwait_entry {e : JobEntry} (hid : ¬t.cx.badJob (t.cx.ra rs1) = true) (hjob : t.cx.job (t.cx.ra rs1) = some e) :
    exec (.mxwait s rs1) st = .next (mxWaited t (t.cx.ra rs1) e) := by
  have hx : exec (.mxwait s rs1) st = execMxwait s rs1 st := rfl
  rw [hx, execMxwait, issue_takes h]
  simp only [if_neg hid, hjob, mxWaited]
  cases e.state <;> rfl

end

/-- Settles O37: a card is accepted where its checks pass and there is room, and an id is sampled or waited for as its entry stands. -/
theorem matrixJobsAreSubmitted : Obligations.MatrixJobsAreSubmitted := by
  unfold Obligations.MatrixJobsAreSubmitted
  intro st t s rd rs1 imm ds d acc e ea id at_
  have hissued (h0 : id ≠ 0) (hlt : id.toNat < t.cx.seq.toNat) : ¬t.cx.badJob id = true := by
    rw [badJob_iff]
    exact not_or.mpr ⟨h0, Nat.not_le.mpr hlt⟩
  refine ⟨fun h => ⟨mxsub_bad_address h, fun hp hal hrec hread => ?_⟩,
    fun h => ⟨mxpoll_never_issued h, fun h0 hlt hjob => ?_, fun h0 hlt hjob => mxpoll_freed h (hissued h0 hlt) hjob⟩,
    fun h => ⟨mxwait_never_issued h, fun h0 hlt => ⟨mxwait_freed h (hissued h0 hlt), mxwait_entry h (hissued h0 hlt)⟩⟩⟩
  · rw [mxsub_reads h hp hal hrec hread]
    refine ⟨fun hd => by rw [mxSubmit_no_card _ hd], fun c hd hc => by rw [mxSubmit_refused _ hd hc], fun hd hc hs hroom htable => ?_⟩
    rw [mxSubmit_accepts _ hd hc hs hroom htable, mxAccept_eq]
    obtain ⟨hmem, hjobs⟩ := mxAccepted_frame t ea ds d acc t.cx.jobs
    obtain ⟨hseq, ha, hpc, htab⟩ := mxAccepted_table t ea ds d acc t.cx.jobs
    obtain ⟨htile, hothers⟩ := mxAccepted_tile t ea ds d acc t.cx.jobs (mxCardOf_hc_lt hd) (mxCheck_alloc hc)
    exact ⟨_, _, mxJob t d acc, rfl, Ctxt.wa_writesA .., hmem, hseq, ha, hpc, htab, hjobs, rfl, rfl, rfl, rfl, htile, fun k _ hk => hothers k hk⟩
  · exact ⟨_, _, mxpoll_entry h (hissued h0 hlt) hjob, mxStatus_some e, rfl⟩

end Sys2Proof.Machine
end
